-- ==== Sys2Proof/Word.lean ====
section
/-! DEFINITION. The word types of the HX940: 32-bit words, bytes, 64-bit virtual addresses and 7-bit operand codes (R6, R52). -/

namespace Sys2Proof

/-- A register or an instruction word: 32 bits (R9, R42). -/
abbrev Word := BitVec 32

/-- A byte; the byte order is little-endian throughout (R6). -/
abbrev Byte := BitVec 8

/-- A virtual address or a 64-bit state register (R13, R364). -/
abbrev Addr := BitVec 64

/-- An operand code of R52: v0 to v95, s0 to s29, z, q. -/
abbrev Reg := BitVec 7

end Sys2Proof
end

