-- ==== Sys2Proof/Config.lean ====
section
/-! DEFINITION. What an implementation fixes and what the manual leaves open. An opaque constant here is a free value:
nothing can be proved of it (log entries 3, 8, 11, 13, 89). -/

namespace Sys2Proof.Config

/-- Clocks an operation of open latency takes (log entry 3): loads, slices, homes, the fabric, the allocator, the bell unit. -/
opaque latency : Nat → Nat

/-- A byte the manual leaves open: a CACHE bay read through a window (R154), a lost tile of the self-check (R225 step 5) (log entry 13). -/
opaque freeByte : Nat → BitVec 8

/-- A byte that another package homes, by free-value number and address: that package's memory is no part of this machine (R366; log
entry 1). -/
opaque remoteByte : Nat → Nat → BitVec 8

/-- A byte at an address that no page maps, as instruction fetch and the agents of the package read it: the manual states none (log entries
7, 18). -/
opaque unmappedByte : Nat → BitVec 8

/-- The way whose line leaves a full set of a memory-side cache, by free-value number (log entry 89). -/
opaque memSideVictim : Nat → Nat

/-- Whether an optional act of the device happens, by free-value number (log entry 3). -/
opaque deviceChooses : Nat → Bool

/-- The SHA-512 digest of the signing key, fused into the package (R425). -/
opaque fusedKeyDigest : List (BitVec 8)

/-- The anti-rollback counter fused into the package (R425). -/
opaque fusedCounter : Nat

/-- Measured module power in W of the last 1 ms, by device time (R436 PWRSTAT). -/
opaque measuredPower : Nat → BitVec 12

/-- The hash of a region that chooses the path of its flow (R438 gives no function; log entry 120). -/
opaque pathHash : Nat → Nat

/-- Fraction bits carried by the evaluation of the functions of R134 (log entry 8). -/
def precision : Nat := 400

end Sys2Proof.Config
end

