-- ==== Sys2Proof/Syntax.lean ====
section
/-! DEFINITION. The abstract syntax: one constructor for each row of spec/opcode_table.json. A row with a word carries the fields of
that word (R56 to R65); a row that is a step of the device (spec/95) carries what the step acts on: a core (die, cluster and
logical core number as PLACE[13:5] lays them out, R100), a gang slot, a block key, a request. -/

namespace Sys2Proof

/-- A bell ring on its way to a board (R405, R406): sender class 0 own domain or a device agent, 1 another domain, 2 another
package, 3 the host; `back` names core, gang slot and result that receive the status. -/
structure Ring where
  cls : Nat
  sender : Nat
  device : Nat
  domain : Nat
  line : Nat
  value : Word
  back : Option (Nat × Nat × Nat)
  no : Nat
  deriving DecidableEq, Repr

/-- What a request refused by a home is, where it waits for its replay (R379). -/
inductive Parked where
  /-- a load, fill, atomic with return or counter read: gang slot and result number -/
  | pend (slot id : Nat)
  /-- a leat entry, by sequence number -/
  | leat (seq : Word)
  /-- a transfer unit of an engine work -/
  | xfer (work id : Nat)
  /-- the counter increment of a bulk record, by ticket -/
  | record (ticket : Nat)
  deriving DecidableEq, Repr

/-- What a request over the fabric carries of its requester (R440, R458): the device, and the tenant tag, domain and function there. -/
structure Tenant where
  device : Nat
  tag : Nat
  domain : Nat
  function : Nat
  deriving DecidableEq, Repr

/-- An atomic that another package asks a home to perform (R440, R449): operation, TY, operand and swap value. -/
structure RemoteOp where
  aop : BitVec 4
  ty : BitVec 5
  op : Nat
  swap : Nat
  deriving DecidableEq, Repr

/-- Who asks a home (R371, R440): a part of this package, a remote device, or the host. A core's request may stand at its port (R268), and the
CLEAN of a write that has left the package comes under its name (R441). -/
inductive Asker where
  | core (core : Nat) (what : Parked)
  | port (core : Nat) (what : Parked)
  | clean (core : Nat) (what : Parked)
  | remote (who : Tenant) (op : Option RemoteOp)
  | host (id : Nat)
  deriving DecidableEq, Repr

/-- A request at a home (R371, R377): the access code (0 load or fill, 1 leat entry, 2 atomic, 3 engine read, 4 engine write,
5 counter read), the address, whether it writes and whether it writes the whole line; `data` is what a remote write
carries; `reroutes` counts refusals with reroute (R367). -/
structure HomeReq where
  access : BitVec 4
  va : Nat
  write : Bool
  wide : Bool
  asker : Asker
  data : List (Nat × Byte)
  reroutes : Nat
  deriving DecidableEq, Repr

/-- A home command record as the homes read it (R373); `recAddr` is the address of the record, 0 for none. -/
structure HomeCmd where
  id : Nat
  op : BitVec 4
  size : BitVec 2
  cv : Bool
  va : Addr
  attr : Addr
  frame : Addr
  caddr : Addr
  cinc : Addr
  recAddr : Nat
  deriving DecidableEq, Repr

/-- A section of the firmware image (R425): 0 management controller, 1 logic die, 2 die firmware, 3 configuration image. -/
structure FwSection where
  kind : Nat
  body : List Byte
  signature : List Byte
  deriving DecidableEq, Repr

/-- The firmware and configuration image the host downloads (R425); the last four fields are what its configuration image sets. -/
structure FwImage where
  counter : Nat
  key : List Byte
  sections : List FwSection
  devnum : BitVec 20
  mxchk : BitVec 13
  harvest : List (Nat × Nat)
  trims : List (BitVec 32)
  deriving DecidableEq, Repr

/-- A write of the configuration mailbox (R426): what is set and its value. -/
inductive MailWrite where
  | queue (function queue : Nat) (base : Addr) (log die domain : Nat) (borrow : Bool)
  | clusterOwner (cluster function : Nat)
  | sliceLen (function clocks : Nat)
  | tenantTag (domain tag : Nat)
  | domainFunction (domain function : Nat)
  | hcmdq (v : Addr) | hfltq (v : Addr) | hsup (v : Word) | hostwin (v : Addr) | jrnlq (v : Addr) | errq (v : Addr)
  | route (device port : Nat) | noRoute (device port : Nat) | neighbour (port device : Nat)
  | fabricFunction (tag function : Nat)
  | pwrcap (w : Nat)
  deriving DecidableEq, Repr

/-- The host link's power states (R435). -/
inductive PowerState where
  | d0 | d3hot | d3cold
  deriving DecidableEq, Repr

/-- The instructions and steps of the HX940. The order is that of the opcode table, but that the steps no other step of the model
puts on the agenda stand last (a constructor with fields beyond the 245th cannot be built by compiled code). -/
inductive Instr where
  /-- NOP (R105): Occupies its slot and obeys its pace count with no other effect. -/
  | nop (tag : BitVec 25)
  /-- LIMM (R105): Sets L to the sign-extended 25-bit value. -/
  | limm (v : BitVec 25)
  /-- LIMH (R105): Sets L[31:7] to the 25-bit value and keeps L[6:0]. -/
  | limh (v : BitVec 25)
  /-- REP (R107): Arms the gang's REP state so that the next instruction of the party runs count times with stepped register fields. -/
  | rep (count : BitVec 6) (fd fa fb : Bool) (stride : BitVec 3)
  /-- REP_ITERATION (R34): One iteration of a REP target issues, with its flagged fields stepped and checked against their limits. -/
  | repIteration (w : Word)
  /-- MODE (R105): Checks and writes the GMODE fields selected by the write mask. -/
  | mode (mask : BitVec 6) (image : BitVec 15)
  /-- MROUTE (R106): Writes a route pattern of kind and parameter into route slot 1 to 3. -/
  | mroute (slot : BitVec 2) (kind : BitVec 3) (k : BitVec 5)
  /-- SETMARK (R36): Sets the restart mark, recipe address and control snapshot of a one-party gang. -/
  | setmark (off : BitVec 25)
  /-- TRAP (R118): Raises USERTRAP with the given code through the supervisor trap entry. -/
  | trap (code : BitVec 8)
  /-- BR (R110): Lane-level branch that moves the party or divides it and pushes a path entry. -/
  | br (n : Bool) (p : BitVec 3) (k : BitVec 21)
  /-- BRS (R18): Quad-level branch that may divide the executing party into two parties. -/
  | brs (n : Bool) (p : BitVec 3) (k : BitVec 21)
  /-- BRI (R112): Indirect branch to a 64-bit target from an s or v pair, dividing lanes by target. -/
  | bri (a : Reg)
  /-- CALL (R113): Writes the successor address into s22:s23 and branches. -/
  | call (k : BitVec 21)
  /-- RET (R113): Sets the PC to s22:s23. -/
  | ret
  /-- MARK (R114): Pushes a join entry with the rejoin PC and the active lanes as want mask. -/
  | mark (k : BitVec 21)
  /-- JOIN (R22): Adds the active lanes to the innermost join entry's got mask and resumes the next path or rejoin. -/
  | join
  /-- PART (R116): Makes each named quad of the executing party a party of its own. -/
  | part (m : BitVec 8)
  /-- REGANG (R19): Makes the party wait at the instruction until every named quad arrives or retires. -/
  | regang (m : BitVec 8)
  /-- REGANG_COMPLETION (R19): When the last named quad arrives or retires, the waiting quads are checked for shape and merged into one party or trapped. -/
  | regangCompletion (core slot : Nat) (mask : BitVec 8)
  /-- EXIT (R22): Removes the active lanes from every join entry, makes them helpers or retires their quads, and resumes. -/
  | exit
  /-- YIELD (R120): Parks the gang on a gate and resumes it at a continuation once the phase differs from its reference. -/
  | yield (gate : BitVec 8) (off : BitVec 17)
  /-- RDS (R102): Copies a state register into a register or pair. -/
  | rds (d : Reg) (k : BitVec 11)
  /-- WRS (R102): Writes a state register that has no behaviour of its own, after access and value checks. -/
  | wrs (a : Reg) (k : BitVec 11)
  /-- ADD (R126): Adds a and b per element under TY, wrapping, clamping or rounding. -/
  | add (d a : Reg) (ra : BitVec 2) (b : Reg) (rb : BitVec 2)
  /-- SUB (R126): Subtracts b from a per element under TY. -/
  | sub (d a : Reg) (ra : BitVec 2) (b : Reg) (rb : BitVec 2)
  /-- MUL (R126): Multiplies a and b per element under TY. -/
  | mul (d a : Reg) (ra : BitVec 2) (b : Reg) (rb : BitVec 2)
  /-- MULH (R126): Delivers the high half of the integer product of a and b. -/
  | mulh (d a : Reg) (ra : BitVec 2) (b : Reg) (rb : BitVec 2)
  /-- MAD (R127): Computes a times b plus d, fused, per element. -/
  | mad (d a : Reg) (ra : BitVec 2) (b : Reg) (rb : BitVec 2)
  /-- MSB (R127): Computes d minus a times b, fused, per element. -/
  | msb (d a : Reg) (ra : BitVec 2) (b : Reg) (rb : BitVec 2)
  /-- MIN (R126): Delivers the minimum of a and b per element. -/
  | min (d a : Reg) (ra : BitVec 2) (b : Reg) (rb : BitVec 2)
  /-- MAX (R126): Delivers the maximum of a and b per element. -/
  | max (d a : Reg) (ra : BitVec 2) (b : Reg) (rb : BitVec 2)
  /-- AND (R128): Bitwise AND of a and b. -/
  | and (d a : Reg) (ra : BitVec 2) (b : Reg) (rb : BitVec 2)
  /-- OR (R128): Bitwise OR of a and b. -/
  | or (d a : Reg) (ra : BitVec 2) (b : Reg) (rb : BitVec 2)
  /-- XOR (R128): Bitwise XOR of a and b. -/
  | xor (d a : Reg) (ra : BitVec 2) (b : Reg) (rb : BitVec 2)
  /-- ANDN (R128): Bitwise a AND NOT b. -/
  | andn (d a : Reg) (ra : BitVec 2) (b : Reg) (rb : BitVec 2)
  /-- SHL (R129): Shifts each element left by the count in b. -/
  | shl (d a : Reg) (ra : BitVec 2) (b : Reg) (rb : BitVec 2)
  /-- SHR (R129): Shifts each element right with zero fill. -/
  | shr (d a : Reg) (ra : BitVec 2) (b : Reg) (rb : BitVec 2)
  /-- SHA (R129): Shifts each element right with sign fill. -/
  | sha (d a : Reg) (ra : BitVec 2) (b : Reg) (rb : BitVec 2)
  /-- ROT (R129): Rotates each element left by the count modulo the width. -/
  | rot (d a : Reg) (ra : BitVec 2) (b : Reg) (rb : BitVec 2)
  /-- BFE (R130): Extracts a bit field of a described by b, sign- or zero-extended. -/
  | bfe (d a : Reg) (ra : BitVec 2) (b : Reg) (rb : BitVec 2)
  /-- BFI (R130): Inserts b into a copy of a at the field described by L. -/
  | bfi (d a : Reg) (ra : BitVec 2) (b : Reg) (rb : BitVec 2)
  /-- SEL (R131): Selects a or b per lane by the GP predicate used as selector. -/
  | sel (d a : Reg) (ra : BitVec 2) (b : Reg) (rb : BitVec 2)
  /-- CMP (R132): Compares a and b under a condition and writes a predicate. -/
  | cmp (c : BitVec 4) (p : BitVec 3) (a : Reg) (ra : BitVec 2) (b : Reg) (rb : BitVec 2)
  /-- MOV (R133): Copies a to d bit for bit. -/
  | mov (d a : Reg) (ra : BitVec 2)
  /-- NOT (R133): Delivers the bitwise complement of a. -/
  | not (d a : Reg) (ra : BitVec 2)
  /-- NEG (R133): Negates a as integer or inverts its float sign. -/
  | neg (d a : Reg) (ra : BitVec 2)
  /-- ABS (R133): Delivers the absolute value of a. -/
  | abs (d a : Reg) (ra : BitVec 2)
  /-- CLZ (R133): Counts leading zero bits of each element. -/
  | clz (d a : Reg) (ra : BitVec 2)
  /-- POPC (R133): Counts one bits of each element. -/
  | popc (d a : Reg) (ra : BitVec 2)
  /-- BREV (R133): Reverses the bits of each element. -/
  | brev (d a : Reg) (ra : BitVec 2)
  /-- RCP (R134): Delivers 1/x rounded once to nearest. -/
  | rcp (d a : Reg) (ra : BitVec 2)
  /-- RSQ (R134): Delivers 1/sqrt(x) rounded once to nearest. -/
  | rsq (d a : Reg) (ra : BitVec 2)
  /-- SQRT (R134): Delivers sqrt(x) rounded once under RM. -/
  | sqrt (d a : Reg) (ra : BitVec 2)
  /-- EXP2 (R134): Delivers 2^x rounded once to nearest. -/
  | exp2 (d a : Reg) (ra : BitVec 2)
  /-- LOG2 (R134): Delivers log2 x rounded once to nearest. -/
  | log2 (d a : Reg) (ra : BitVec 2)
  /-- SINT (R134): Delivers sin(2 pi x) rounded once to nearest. -/
  | sint (d a : Reg) (ra : BitVec 2)
  /-- COST (R134): Delivers cos(2 pi x) rounded once to nearest. -/
  | cost (d a : Reg) (ra : BitVec 2)
  /-- TANH (R134): Delivers tanh x rounded once to nearest. -/
  | tanh (d a : Reg) (ra : BitVec 2)
  /-- FLR (R135): Delivers the largest integral value not above a. -/
  | flr (d a : Reg) (ra : BitVec 2)
  /-- CEIL (R135): Delivers the smallest integral value not below a. -/
  | ceil (d a : Reg) (ra : BitVec 2)
  /-- TRNC (R135): Delivers the integral value toward zero. -/
  | trnc (d a : Reg) (ra : BitVec 2)
  /-- RINT (R135): Rounds a to an integral value under RM. -/
  | rint (d a : Reg) (ra : BitVec 2)
  /-- FRC (R135): Delivers a minus FLR(a), kept below 1.0. -/
  | frc (d a : Reg) (ra : BitVec 2)
  /-- FCLASS (R135): Delivers the one-hot class mask of a. -/
  | fclass (d a : Reg) (ra : BitVec 2)
  /-- RAND (R136): Steps each writing lane's generator and writes the stepped value. -/
  | rand (d : Reg) (ra : BitVec 2)
  /-- CVT (R137): Converts between formats as the conversion code names. -/
  | cvt (d a : Reg) (ra : BitVec 2) (code : BitVec 7)
  /-- MXQ (R138): Quantises one block of FP32 lane values to an MX format with its E8M0 scale. -/
  | mxq (d a : Reg) (ra : BitVec 2) (fmt : BitVec 7)
  /-- ABSD (R126): Delivers the absolute difference of a and b. -/
  | absd (d a : Reg) (ra : BitVec 2) (b : Reg) (rb : BitVec 2)
  /-- ADDI (R125): Adds an immediate to a. -/
  | addi (d a : Reg) (k : BitVec 11)
  /-- MULI (R125): Multiplies a by an immediate. -/
  | muli (d a : Reg) (k : BitVec 11)
  /-- ANDI (R128): Bitwise AND of a with an immediate. -/
  | andi (d a : Reg) (k : BitVec 11)
  /-- ORI (R128): Bitwise OR of a with an immediate. -/
  | ori (d a : Reg) (k : BitVec 11)
  /-- XORI (R128): Bitwise XOR of a with an immediate. -/
  | xori (d a : Reg) (k : BitVec 11)
  /-- SHLI (R129): Shifts a left by an immediate count. -/
  | shli (d a : Reg) (k : BitVec 11)
  /-- SHRI (R129): Shifts a right with zero fill by an immediate count. -/
  | shri (d a : Reg) (k : BitVec 11)
  /-- SHAI (R129): Shifts a right with sign fill by an immediate count. -/
  | shai (d a : Reg) (k : BitVec 11)
  /-- CMPI (R132): Compares a with an immediate and writes a predicate. -/
  | cmpi (c : BitVec 4) (p : BitVec 3) (a : Reg) (k : BitVec 11)
  /-- MINI (R125): Minimum of a and an immediate. -/
  | mini (d a : Reg) (k : BitVec 11)
  /-- MAXI (R125): Maximum of a and an immediate. -/
  | maxi (d a : Reg) (k : BitVec 11)
  /-- QSWH (R139): Each quad lane receives its horizontal neighbour's value. -/
  | qswh (d a : Reg) (ra : BitVec 2)
  /-- QSWV (R139): Each quad lane receives its vertical neighbour's value. -/
  | qswv (d a : Reg) (ra : BitVec 2)
  /-- QSWD (R139): Each quad lane receives its diagonal neighbour's value. -/
  | qswd (d a : Reg) (ra : BitVec 2)
  /-- QBC0 (R139): Broadcasts quad lane 0's value to its quad. -/
  | qbc0 (d a : Reg) (ra : BitVec 2)
  /-- QBC1 (R139): Broadcasts quad lane 1's value to its quad. -/
  | qbc1 (d a : Reg) (ra : BitVec 2)
  /-- QBC2 (R139): Broadcasts quad lane 2's value to its quad. -/
  | qbc2 (d a : Reg) (ra : BitVec 2)
  /-- QBC3 (R139): Broadcasts quad lane 3's value to its quad. -/
  | qbc3 (d a : Reg) (ra : BitVec 2)
  /-- QSUM (R139): Sums the four quad values in pairs. -/
  | qsum (d a : Reg) (ra : BitVec 2)
  /-- QMIN (R139): Delivers the minimum of the four quad values. -/
  | qmin (d a : Reg) (ra : BitVec 2)
  /-- QMAX (R139): Delivers the maximum of the four quad values. -/
  | qmax (d a : Reg) (ra : BitVec 2)
  /-- QDDX (R139): Delivers the horizontal difference within the quad. -/
  | qddx (d a : Reg) (ra : BitVec 2)
  /-- QDDY (R139): Delivers the vertical difference within the quad. -/
  | qddy (d a : Reg) (ra : BitVec 2)
  /-- LANE (R141): Writes each lane's number. -/
  | lane (d : Reg) (ra : BitVec 2)
  /-- QIDX (R141): Writes each lane's quad number. -/
  | qidx (d : Reg) (ra : BitVec 2)
  /-- BALLOT (R141): Delivers the mask of counted lanes whose vote is 1. -/
  | ballot (d a : Reg) (ra : BitVec 2)
  /-- VANY (R141): Delivers 1 if any counted lane votes 1. -/
  | vany (d a : Reg) (ra : BitVec 2)
  /-- VALL (R141): Delivers 1 if every counted lane votes 1. -/
  | vall (d a : Reg) (ra : BitVec 2)
  /-- GSUM (R142): Delivers the ascending left fold of ADD over the counted lanes. -/
  | gsum (d a : Reg) (ra : BitVec 2)
  /-- GMIN (R141): Delivers the fold of MIN over the counted lanes. -/
  | gmin (d a : Reg) (ra : BitVec 2)
  /-- GMAX (R141): Delivers the fold of MAX over the counted lanes. -/
  | gmax (d a : Reg) (ra : BitVec 2)
  /-- GSCAN (R141): Delivers each lane's inclusive prefix sum over counted lanes. -/
  | gscan (d a : Reg) (ra : BitVec 2)
  /-- GSCANX (R141): Delivers each lane's exclusive prefix sum over counted lanes. -/
  | gscanx (d a : Reg) (ra : BitVec 2)
  /-- ELECT (R141): Names the lowest counted lane. -/
  | elect (d : Reg) (ra : BitVec 2)
  /-- MATCH (R141): Delivers each lane the mask of counted lanes holding an equal value. -/
  | match (d a : Reg) (ra : BitVec 2)
  /-- POPM (R141): Counts voting lanes in total or below each lane. -/
  | popm (d a : Reg) (ra : BitVec 2)
  /-- SHFL (R143): Each writing lane reads a from the lane named by b modulo 32. -/
  | shfl (d a : Reg) (ra : BitVec 2) (b : Reg) (rb : BitVec 2)
  /-- MOVSV (R144): Copies one lane's value into a scalar register. -/
  | movsv (d a : Reg) (ra : BitVec 2) (b : Reg) (rb : BitVec 2)
  /-- LD (R183): Loads per lane from global memory through the core's own view. -/
  | ld (t a : Reg) (kind : BitVec 3) (k : BitVec 8)
  /-- ST (R184): Appends the writing lanes' bytes to the leat as store entries. -/
  | st (t a : Reg) (kind : BitVec 3) (k : BitVec 8)
  /-- LDS (R187): Loads per lane from block scratch. -/
  | lds (t a : Reg) (kind : BitVec 3) (k : BitVec 8)
  /-- STS (R187): Stores per lane into block scratch outside the gate area. -/
  | sts (t a : Reg) (kind : BitVec 3) (k : BitVec 8)
  /-- LDX (R190): Forks a direct copy from global memory into scratch, counted on a gate. -/
  | ldx (t a : Reg) (kind : BitVec 3) (k : BitVec 8)
  /-- LDW (R188): Loads through a window of the on-chip map. -/
  | ldw (t a : Reg) (kind : BitVec 3) (k : BitVec 8)
  /-- STW (R188): Stores through a window of the on-chip map. -/
  | stw (t a : Reg) (kind : BitVec 3) (k : BitVec 8)
  /-- CPL (R190): Forks a per-lane copy from source to destination address, counted on a gate. -/
  | cpl (t a : Reg) (kind : BitVec 3) (k : BitVec 8)
  /-- WINDOW_ACCESS_ARRIVAL (R160): A window access lands at its target core, or is held there until it may proceed. -/
  | windowAccessArrival (core id : Nat)
  /-- AT (R324): Performs one atomic per writing lane and returns the old values. -/
  | atom (d a : Reg) (scope : BitVec 3) (order : BitVec 2) (aop : BitVec 4)
  /-- RED (R324): Performs one atomic per writing lane without return. -/
  | red (d a : Reg) (scope : BitVec 3) (order : BitVec 2) (aop : BitVec 4)
  /-- KICK (R201): Copies bulk request records from scratch into the request queue and returns the first ticket. -/
  | kick (d a b : Reg)
  /-- BINIT (R197): Initialises a gate with an expected count. -/
  | binit (d a : Reg)
  /-- BARR (R197): Arrives at a gate as a core-scope release. -/
  | barr (d a : Reg)
  /-- BARW (R197): Arrives at a gate and waits for its phase to advance. -/
  | barw (d a : Reg)
  /-- BWAIT (R197): Parks the party until the gate's phase differs from its reference. -/
  | bwait (d a : Reg)
  /-- BEXP (R197): Adds expected bytes to a gate. -/
  | bexp (d a : Reg)
  /-- BTEST (R197): Tests without waiting whether the gate advanced past the recorded phase. -/
  | btest (d a : Reg)
  /-- BTILE (R197): Adds expected tile arrivals to a gate. -/
  | btile (d a : Reg)
  /-- BRD (R197): Reads the four words of a gate image. -/
  | brd (d a : Reg)
  /-- GATE_UPDATE (R195): All changes reaching one gate in one clock are applied together and the gate is tested for a phase advance. -/
  | gateUpdate (blk gate : Nat)
  /-- GATE_WAITER_WAKE (R195): A party parked on a gate becomes ready in the clock after the phase advances. -/
  | gateWaiterWake (blk gate : Nat)
  /-- CTRW (R200): Parks the party until a counter reaches a value, then acquires. -/
  | ctrw (d a : Reg)
  /-- CTRT (R200): Tests a counter against a value into a predicate. -/
  | ctrt (d a : Reg)
  /-- CTRRD (R200): Reads a counter with a device-scope acquire. -/
  | ctrrd (d a : Reg)
  /-- CTRW_WAKE (R200): A parked CTRW re-checks on a counter change and resumes when the value is reached. -/
  | ctrwWake (core slot lead : Nat)
  /-- REL (R318): Appends a release mark of its scope, or nothing, and completes in the background. -/
  | rel (scope : BitVec 3)
  /-- ACQ (R321): Waits for earlier reads and performs the cluster replay of its scope. -/
  | acq (scope : BitVec 3)
  /-- ACQL (R264): Acquires from one named leat, replaying it in-cluster or promoting it otherwise. -/
  | acql (a : Reg)
  /-- PROMOTION_COMPLETE (R265): A promoted leat's entries have drained and their stamps passed, so its marks count as device-scope releases. -/
  | promotionComplete (core id : Nat)
  /-- FNCR (R322): A release limited to a byte range of the gang's writes and the core's engine work. -/
  | fncr (scope : BitVec 3) (a b : Reg)
  /-- RELEASE_COMPLETION (R318): A release's covered entries are acknowledged and stamps passed, freeing the writes held behind it. -/
  | releaseCompletion (core id : Nat)
  /-- CWB (R329): Urges the drain of the core's leat entries in a range and waits for their acknowledgement. -/
  | cwb (d a : Reg)
  /-- CINV (R329): Invalidates the core's first-level copies of lines in a range. -/
  | cinv (d a : Reg)
  /-- CPREF (R329): Prefetches up to 8 KiB of lines into both cache levels. -/
  | cpref (d a : Reg)
  /-- CDISC (R330): Drops lines wholly inside a range from the core and slice without write-back. -/
  | cdisc (d a : Reg)
  /-- MXACQ (R234): Enters a single or pair request for matrix engine ownership and waits for the grant. -/
  | mxacq (prio : BitVec 2) (pair : Bool)
  /-- ENGINE_GRANT (R215): The arbiter grants a freed engine to the oldest request of the highest class. -/
  | engineGrant (core : Nat)
  /-- MMA (R239): Checks a format block and queues a matrix multiply-accumulate on the owned engine. -/
  | mma (d a b : Reg)
  /-- MMA_BEGIN (R222): A queued MMA begins computing once its predecessor ends. -/
  | mmaBegin (core ticket : Nat)
  /-- MMA_RETIRE (R222): An MMA retires, writing rows, applying the tree mask, clearing B marks and counting its tile arrival. -/
  | mmaRetire (core ticket : Nat)
  /-- BED_TILE_ARRIVAL (R226): A bed-core MMA's tile arrival reaches the runner gate over the bridge 6 clocks after retirement. -/
  | bedTileArrival (blk gate : Nat)
  /-- SCLD (R241): Copies scale columns from scratch into scale memory. -/
  | scld (d a b : Reg)
  /-- ACCZ (R243): Zeroes an accumulator tile. -/
  | accz (a : Reg)
  /-- ACCLD (R243): Loads an accumulator tile from scratch. -/
  | accld (d a : Reg)
  /-- ACCST (R243): Stores an accumulator tile to scratch. -/
  | accst (d a : Reg)
  /-- ACCRD (R243): Reads one row segment of a tile into lanes. -/
  | accrd (d a : Reg)
  /-- ACCWR (R243): Writes one row segment of a tile from lanes. -/
  | accwr (d a : Reg)
  /-- ROLE (R244): Writes the gang's role and gate base. -/
  | role (base : BitVec 8) (role : BitVec 4)
  /-- TTINIT (R246): Empties the selected tree and sets its base position. -/
  | ttinit (a : Reg)
  /-- TTADD (R246): Adds one node per writing lane with the given parents. -/
  | ttadd (d a : Reg)
  /-- TTANC (R246): Reads a node's ancestor mask. -/
  | ttanc (d a : Reg)
  /-- TTPOS (R246): Reads a node's position. -/
  | ttpos (d a : Reg)
  /-- TTPAR (R246): Reads a node's parent. -/
  | ttpar (d a : Reg)
  /-- TTSTOK (R246): Writes a node's token and state action. -/
  | ttstok (d a : Reg)
  /-- TTGTOK (R246): Reads a node's token. -/
  | ttgtok (d a : Reg)
  /-- TTSSC (R246): Writes a node's score and state action. -/
  | ttssc (d a : Reg)
  /-- TTGSC (R246): Reads a node's score. -/
  | ttgsc (d a : Reg)
  /-- TTPRUNE (R231): Keeps only the path from a chosen node to its root and renumbers it. -/
  | ttprune (d a : Reg)
  /-- TTCNT (R246): Reads the selected tree's node count. -/
  | ttcnt (d : Reg)
  /-- KVX (R396): Translates per lane a sequence and position into a KV block address with a presence probe. -/
  | kvx (d a : Reg)
  /-- KVAPP (R398): Grows a sequence to a target length, allocating blocks under quota. -/
  | kvapp (d a : Reg)
  /-- KVTRIM (R399): Shrinks a sequence to a target length, releasing blocks. -/
  | kvtrim (d a : Reg)
  /-- KVPARK (R400): Writes a resume record for the current sequence to the function's resume ring. -/
  | kvpark (a : Reg)
  /-- KVSEQ (R401): Selects, forks or clears the current KV sequence. -/
  | kvseq (d a : Reg)
  /-- KV_STALL_TIMEOUT (R397): A stall-mode KVX whose probe is still parked after KVTMO clocks traps KVTIMEOUT. -/
  | kvStallTimeout (core slot id : Nat)
  /-- RING (R410): Sends a bell ring to a target line and returns its status. -/
  | ring (d a b : Reg)
  /-- BMASK (R411): Swaps the domain's bell MASK. -/
  | bmask (d a : Reg)
  /-- BPEND (R411): Reads the domain's PEND bits. -/
  | bpend (d : Reg)
  /-- BTAKE (R411): Takes a bell line's payload and count and clears it. -/
  | btake (d a : Reg)
  /-- BHPC (R411): Sets or invalidates the bell handler PC. -/
  | bhpc (a : Reg)
  /-- BSELF (R411): Makes the gang the handler gang or resigns it. -/
  | bself (a : Reg)
  /-- BELL_RING_ARRIVAL (R404): A ring reaches the bell unit, is checked against rights and applied to its line, possibly writing a wake record. -/
  | bellRingArrival (r : Ring)
  /-- BELL_DELIVERY (R407): A deliverable line vectors the resident handler gang into its bell handler at a boundary. -/
  | bellDelivery (core slot : Nat)
  /-- WAITB_WAKE (R412): A WAITB park ends on a deliverable line or at the handler's BRET. -/
  | waitbWake (core slot lead : Nat)
  /-- KEYW (R331): Writes a key's rights in the domain's key table. -/
  | keyw (d a : Reg)
  /-- WAYM (R331): Writes a way class's fill mask and lease length. -/
  | waym (d a : Reg)
  /-- CLASS (R331): Maps a function to a way class. -/
  | klass (d a : Reg)
  /-- SPLIT (R331): Sets a function's bandwidth share. -/
  | split (d a : Reg)
  /-- PREQ_HOLD (R352): Pre-empts every resident block of a launch and places none until released. -/
  | preqHold (d a : Reg)
  /-- FREEZE (R331): Pauses or resumes a target core's request engine between transfer units. -/
  | freeze (d a : Reg)
  /-- WINGR (R332): Writes a window grant entry of the domain. -/
  | wingr (d a : Reg)
  /-- JRNL (R431): Acknowledges journal entries below a given index. -/
  | jrnl (d a : Reg)
  /-- RDP (R99): Reads a privileged state register. -/
  | rdp (d : Reg) (k : BitVec 11)
  /-- WRP (R99): Writes a privileged state register that has no behaviour of its own. -/
  | wrp (a : Reg) (k : BitVec 11)
  /-- FIXED_RESULT_LANDING (R48): A fixed-latency result lands in its destination at its landing clock. -/
  | fixedResultLanding (core slot id : Nat)
  /-- VARIABLE_RETURN_LANDING (R153): A load, atomic or other variable-latency return lands in the next clock with free write slots. -/
  | variableReturnLanding (core slot id : Nat)
  /-- BLOCK_SHARED_VISIBILITY (R31): A block-shared register write becomes visible in the other quarters or the other core of a pair. -/
  | blockSharedVisibility (blk id : Nat)
  /-- LEAT_ENTRY_SEAL (R168): A leat entry seals 96 clocks after its append. -/
  | leatEntrySeal (core : Nat) (seq : Word)
  /-- TAIL_BROADCAST_ARRIVAL (R257): A published tail reaches every core of the cluster 8 clocks after it advances. -/
  | tailBroadcastArrival (core : Nat) (tail : Word)
  /-- LEAT_DRAIN_START (R255): A sealed entry starts to drain on its 1,024-clock timer or an urging event, in SEQ order. -/
  | leatDrainStart (core : Nat)
  /-- LEAT_DRAIN_ACK (R167): A slice's acknowledgement removes the entry from the ring and clears its filter entries. -/
  | leatDrainAck (core : Nat) (seq : Word) (stamp : Nat)
  /-- BULK_RECORD_SERVICE (R205): A bulk request record enters service, is checked and moves its transfer units. -/
  | bulkRecordService (core : Nat)
  /-- TRANSFER_UNIT_LANDING (R190): An engine transfer unit lands and its bytes are subtracted from its gate. -/
  | transferUnitLanding (core work unit : Nat)
  /-- BULK_RECORD_COMPLETION (R206): A record completes, counting owed bytes on its gate and reporting its status. -/
  | bulkRecordCompletion (core ticket : Nat)
  /-- RECORD_COUNTER_INCREMENT (R206): Once a record's writes are visible, CINC is added at CADDR by a release atomic. -/
  | recordCounterIncrement (core ticket : Nat)
  /-- PORT_BUCKET_REFILL (R267): At each 1,024-clock boundary the port bucket level rises by PORTFILL up to PORTCAP. -/
  | portBucketRefill (core : Nat)
  /-- PORT_REQUEST_DEPART (R267): A waiting request leaves the core's port once the bucket covers its cost. -/
  | portRequestDepart (core : Nat)
  /-- SLICE_FILL (R276): A slice serves a first-level miss, allocating a way by class on a miss. -/
  | sliceFill (core slot pend line : Nat) (granted : Bool)
  /-- SLICE_ENTRY_APPLY (R284): A slice applies a drained entry's bytes and acknowledges it with a stamp. -/
  | sliceEntryApply (core : Nat) (seq : Word)
  /-- SLICE_MISS_MERGE (R285): A home fetch for a slice line that a write or atomic allocated merges and the write is acknowledged. -/
  | sliceMissMerge (core : Nat) (seq : Word)
  /-- INVALIDATION_ACK (R282): A sharer's invalidation acknowledgement returns to the slice. -/
  | invalidationAck (die line core : Nat)
  /-- SLICE_ATOMIC (R291): A cluster-or-wider atomic reaches a slice, updates contention and is performed there or grants line ownership. -/
  | sliceAtomic (core slot pend : Nat) (granted : Bool)
  /-- DISTRIBUTOR_POLL (R336): The distributor reads every queue at least once per 65,536 clocks. -/
  | distributorPoll (die : Nat)
  /-- DEPENDENCE_TEST (R339): Every 1,024 clocks the distributor tests accepted launches' counter waits. -/
  | dependenceTest (die : Nat)
  /-- PLACEMENT_STEP (R297): At most every 16 clocks the distributor places a block or span on chosen cores. -/
  | placementStep (die : Nat)
  /-- LAUNCH_COMPLETION (R342): Once a launch's writes and engine work are visible, its counter is incremented and its journal entry shows done or failed. -/
  | launchCompletion (idx : Nat)
  /-- PREEMPT_TRAP (R350): Each gang of a pre-empted block takes PREEMPT at its next boundary. -/
  | preemptTrap (core slot : Nat)
  /-- TRAP_ENTRY (R343): A trap waits for pending writes, saves X registers, holds the user state and enters TRAPVEC or kills the block. -/
  | trapEntry (core slot : Nat)
  /-- REFUSAL_TRAP (R185): A final refusal's trap is taken at the gang's next boundary after the landing. -/
  | refusalTrap (core slot : Nat)
  /-- DELAYED_TRAP (R344): A delayed trap held during trap handler context is taken at the first user boundary after ERET. -/
  | delayedTrap (core slot : Nat)
  /-- BLOCK_RESTORE (R355): A pre-empted block's records are reloaded and its gangs enter RESTVEC. -/
  | blockRestore (blk : Nat)
  /-- HOME_REQUEST (R371): A home checks a request against graticule, page, key, tenant and rights and accepts or refuses it. -/
  | homeRequest (r : HomeReq)
  /-- RESUME_MESSAGE (R378): A resume message reaches a recorded core or device, which replays its parked requests. -/
  | resumeMessage (core va size : Nat)
  /-- REFUSAL_REPLAY_TIMER (R379): A parked request replays 65,536 clocks after it parked, and every 65,536 thereafter. -/
  | refusalReplayTimer (core : Nat) (what : Parked)
  /-- REROUTE_REPLAY (R367): A request refused with reroute replays 64 clocks later by the current graticule. -/
  | rerouteReplay (core : Nat) (what : Parked)
  /-- HOST_HOLD_TIMEOUT (R383): A host request held for 2^20 clocks returns poisoned data or is dropped. -/
  | hostHoldTimeout (id : Nat)
  /-- TICKET_HANDOVER (R445): A holder revokes its ticket, drains and recalls the region, waits out leases and acknowledges. -/
  | ticketHandover (device region : Nat)
  /-- FABRIC_TIMEOUT (R452): A fabric message undelivered after FABTMO fails its request. -/
  | fabricTimeout (core : Nat) (what : Parked)
  /-- ILLEGAL_INSTRUCTION (R67): Issue of a word that is no valid instruction traps ILLEGAL precisely with its cause. -/
  | illegalInstruction (cause : BitVec 4) (op : BitVec 7)
  /-- MARK_SETTLE (R173): A mark set by SETMARK settles 96 clocks after it was set and becomes the gang's settled mark. -/
  | markSettle (core slot setAt : Nat)
  /-- ACC_TRANSFER_COMPLETE (R243): An ACCLD, ACCST or SCLD transfer finishes moving its words and its party becomes ready again. -/
  | accTransferComplete (core slot lead : Nat)
  /-- SYSTEM_SUBOP_COMPLETE (R331): A KEYW, WAYM, CLASS or WINGR sub-op completes once every core or both dies' class tables hold the new entry. -/
  | systemSubopComplete (core slot lead : Nat)
  /-- HOME_COMMAND_COMPLETE (R373): A home command finishes in every home concerned, writes STATUS and makes its counter increment. -/
  | homeCommandComplete (id : Nat)
  /-- RESUME_RING_ROOM (R400): Room frees in a function's resume ring and a waiting KVPARK writes its record. -/
  | resumeRingRoom (function : Nat)
  /-- ECC_UNCORRECTABLE (R175): A gang consumes an uncorrectable pond, accumulator, scale or tree error and its block rolls back or is killed. -/
  | eccUncorrectable (core slot store offset : Nat)
  /-- PREEMPTION_REQUEST (R349): A placeable block waiting 2,048 clocks makes the distributor pre-empt lower-priority blocks. -/
  | preemptionRequest (die idx : Nat)
  /-- SLICE_TIME_END (R349): A function's host-set slice ends and its blocks are pre-empted for waiting work. -/
  | sliceTimeEnd (function : Nat)
  /-- JOURNAL_WALK (R432): When a reset die is ready, firmware returns replayable launches to accepted and fails the others. -/
  | journalWalk (die : Nat)
  /-- TICKET_REQUEST (R444): A ticket home decides a remote read or write, granting, handing over or revoking tickets. -/
  | ticketRequest (device region : Nat) (write : Bool)
  /-- TICKET_HOLDER_LOST (R453): A ticket home with no hand-over acknowledgement within FABTMO drops the ticket or poisons the region. -/
  | ticketHolderLost (device region : Nat)
  /-- DIE_RESET (R432): An uncontainable fault resets a die, killing its blocks and losing its leats and slice lines. -/
  | dieReset (die cause : Nat)
  /-- FABRIC_ACK_ARRIVAL (R441): An APPLIED or CLEAN acknowledgement of a remote write reaches the requester. -/
  | fabricAckArrival (core : Nat) (seq : Word) (clean : Bool)
  /-- WAITB (R412): Parks the party until a deliverable bell exists or, for the handler gang, until a delivery's BRET. -/
  | waitb
  /-- BRET (R413): Leaves the bell handler, restoring the saved mode, REP, routes and quad state. -/
  | bret
  /-- MXREL (R235): Gives up the gang's engines or withdraws its request. -/
  | mxrel
  /-- MXWAIT (R236): Parks the party until its MMAs and marked B ranges retire and its scale and tile moves complete. -/
  | mxwait
  /-- ERET (R346): Leaves trap handler context and restores the held user state. -/
  | eret
  /-- HOME_BELL (R372): A ring of the home bell makes the homes read new home commands. -/
  | homeBell
  /-- SHARE_PERIOD_BOUNDARY (R387): At each period boundary homes publish service and PORTFILL is recomputed per function. -/
  | sharePeriodBoundary
  /-- KV_ALLOCATOR_REQUEST (R395): A KV sub-op or KVX table read reaches the package's KV allocator and is performed in arrival order. -/
  | kvAllocatorRequest
  /-- DISTRIBUTOR_BELL (R336): A ring of the distributor's bell makes it read the ringing function's queues and test waits. -/
  | distributorBell (die function : Nat)
  /-- OWNERSHIP_REQUEST (R286): A slice takes line ownership through the memory-side cache, which revokes the other die's copy. -/
  | ownershipRequest (die line : Nat)
  /-- JSDEPTH_WRITE (R104): A write of JSDEPTH truncates or extends the party's join stacks and closes the mark. -/
  | jsdepthWrite (v : Word)
  /-- JOIN_STACK_ENTRY_WRITE (R104): A write of JSKIND, JSPC, JSA or JSB changes the entries of the party's stacks and closes the mark. -/
  | joinStackEntryWrite (k : BitVec 11) (v : Addr)
  /-- MARK_REGISTER_WRITE (R460): A write of MARKPC, RECIPE or MARKV stores its value where allowed and closes the mark. -/
  | markRegisterWrite (k : BitVec 11) (v : Addr)
  /-- RNG_WRITE (R103): A write of RNG sets each lane's generator, with 0 replaced by 1. -/
  | rngWrite (a : Reg)
  /-- HOST_BELL_WRITE (R405): A host write to BAR 2 rings a line of a domain. -/
  | hostBellWrite (function offset size : Nat) (v : Word)
  /-- PREQ_SAVED (R353): Writes the gang's context record and, for the leader, the block record, and frees the gang's slot. -/
  | preqSaved (d a : Reg)
  /-- PREQ_WAITSAVE (R352): Parks the leader until every other gang has saved and the block's engine work has landed. -/
  | preqWaitsave (d a : Reg)
  /-- PREQ_RESTORED (R352): The leader releases the gangs parked in WAITREST. -/
  | preqRestored (d a : Reg)
  /-- PREQ_WAITREST (R352): Parks a non-leader until RESTORED. -/
  | preqWaitrest (d a : Reg)
  /-- PREQ_KILL (R352): Kills every resident block of a launch and fails it as ABORTED. -/
  | preqKill (d a : Reg)
  /-- PREQ_RELEASE (R352): Ends a HOLD on a launch. -/
  | preqRelease (d a : Reg)
  /-- HALT_WRITE (R177): A write of HALT stops or resumes issue in all quarters of the core. -/
  | haltWrite (core : Nat) (v : Word)
  /-- RQERR_WRITE (R208): A write of zero clears the request engine error status. -/
  | rqerrWrite (v : Word)
  /-- PORTCAP_WRITE (R269): A write of PORTCAP sets the bucket depth and lowers the level to it. -/
  | portcapWrite (v : Word)
  /-- L2_COUNTER_CLEAR (R280): A write of zero clears the selected class's FILL, HIT or HITX counter. -/
  | l2CounterClear (k : BitVec 11) (v : Word)
  /-- KVPFREE_WRITE (R415): A write of KVPFREE sets a pool's free count after blocks are added to its stack. -/
  | kvpfreeWrite (v : Word)
  /-- SCHEDULER_TURN_END (R150): A holder's turn ends after 8 issues, a TE bundle or not being ready, and the next gang is chosen. -/
  | schedulerTurnEnd (core quarter : Nat)
  /-- LEAT_COMPACTION (R169): The device merges two eligible unsealed entries of one line and gang. -/
  | leatCompaction (core : Nat) (seqA seqB : Word)
  /-- REPLAY_CURSOR_LIMIT (R461): Before a cursor falls 2^31 − 2^12 behind its tail, the core invalidates leased lines and advances the cursor. -/
  | replayCursorLimit (core source : Nat)
  /-- STRIKE_REPORT (R174): A soft-error strike report for a quarter rolls back or kills the blocks with gangs there. -/
  | strikeReport (core quarter : Nat)
  /-- BAY_CONVERSION (R157): The distributor converts one free bay to another kind, invalidating a CACHE bay first. -/
  | bayConversion (core bay kind : Nat)
  /-- CLUSTER_LINK_FAILURE (R271): A cluster network link fails after 16 retries and the cluster goes down. -/
  | clusterLinkFailure (cluster : Nat)
  /-- DIRTY_WRITEBACK (R285): A dirty slice line is written back to its home when it leaves. -/
  | dirtyWriteback (die line : Nat)
  /-- LEASE_EXPIRY (R283): A leased first-level copy becomes invalid when device time reaches its lease end. -/
  | leaseExpiry (core line : Nat)
  /-- LINE_OWNERSHIP_RECALL (R292): A slice recalls line ownership from a core, which returns the line. -/
  | lineOwnershipRecall (die line : Nat)
  /-- CLUSTER_RECLAIM (R359): An owner with an unplaceable ready block reclaims a lent cluster by pre-empting borrowers. -/
  | clusterReclaim (die cluster : Nat)
  /-- FAULT_RING_ROOM (R377): A fault record held while the ring was full is written once room frees. -/
  | faultRingRoom
  /-- MAP (R374): Maps a page with its attribute word and frame and resumes it. -/
  | map (c : HomeCmd)
  /-- UNMAP (R374): Removes a page mapping through a page change. -/
  | unmap (c : HomeCmd)
  /-- SETATTR (R374): Writes a page's attribute word, through a page change where required. -/
  | setattr (c : HomeCmd)
  /-- MOVE (R374): Copies a page to another tier and frame through a page change. -/
  | move (c : HomeCmd)
  /-- RESUME (R374): Sends resume messages for a page. -/
  | resume (c : HomeCmd)
  /-- GRAT (R374): Installs a graticule entry in every copy in the package. -/
  | grat (c : HomeCmd)
  /-- QUERY (R374): Writes a page's attribute word and frame back into the command record. -/
  | query (c : HomeCmd)
  /-- REFUSE (R374): Marks an unmapped page so its requests are refused PROTECT, and resumes it. -/
  | refuse (c : HomeCmd)
  /-- HOST_MEM_ACCESS (R383): A host CXL.mem access is translated and performed as a request for its mapped VA, flipping bias if needed. -/
  | hostMemAccess (offset : Nat) (write : Bool) (data : List Byte) (id : Nat)
  /-- HOST_SNOOP (R384): A host snoop of a host-tier line recalls it from both dies before the home answers. -/
  | hostSnoop (line : Nat)
  /-- FIRMWARE_DOWNLOAD (R425): The host downloads the signed image, whose sections are checked before they run. -/
  | firmwareDownload (img : FwImage)
  /-- CONFIG_MAILBOX_WRITE (R426): A host write to the configuration mailbox sets function configuration or is refused. -/
  | configMailboxWrite (m : MailWrite)
  /-- FUNCTION_READY (R427): A die, stack, host link or fabric port reports ready and its waiting work proceeds. -/
  | functionReady (bit : Nat)
  /-- CLUSTER_BRING_UP (R434): Firmware tests a downed cluster and sets its CLUMAP bit. -/
  | clusterBringUp (cluster : Nat)
  /-- THROTTLE_CHANGE (R435): The module changes its throttle level to hold power and temperature. -/
  | throttleChange (level : BitVec 4) (power thermal : Bool)
  /-- THERMAL_TRIP (R435): Overtemperature or coolant out of range resets every die and powers the module down. -/
  | thermalTrip
  /-- FLIT_RESEND (R439): A fabric flit whose CRC fails is resent from the retry buffer. -/
  | flitResend (port : Nat)
  /-- LINK_RETRAIN (R439): After 16 failed resends a link retrains at fewer lanes or goes down. -/
  | linkRetrain (port lanes : Nat)
  /-- TICKET_EVICTION (R442): A package hands back its least recently used ticket to make room. -/
  | ticketEviction
  /-- TICKET_HOME_UNREACHABLE (R453): A package unable to reach a ticket home for FABTMO discards its tickets and their lines. -/
  | ticketHomeUnreachable (device : Nat)
  /-- FIRST_LEVEL_COPY_DEPARTURE (R154): The device silently drops a valid first-level cache copy to make room or of its own choice. -/
  | firstLevelCopyDeparture (core line : Nat)
  /-- WAKE_QUEUE_ROOM (R408): Room frees in the wake queue and a held wake record is appended. -/
  | wakeQueueRoom
  /-- BRING_UP (R461): At power-up or reset the package clears its state, sets bays to CACHE and starts its counters at their bring-up values. -/
  | bringUp
  /-- POWER_STATE_CHANGE (R435): The host link moves between D0, D3hot with memory in self-refresh, and D3cold with all state lost. -/
  | powerStateChange (st : PowerState)
  deriving DecidableEq, Repr

end Sys2Proof
end

