-- ==== Sys2Proof/Machine/State.lean ====
section
/-! DEFINITION. The state of one HX940 package, as plain data, and its value after reset. Numbers of clocks, indexes and
addresses used as keys are natural numbers; register contents are bit vectors. A sparse store is a list of (key, value) pairs,
keys rising, no value zero, and an unlisted key holds zero (log entry 5); memory is such a list of bytes (Host.Cell). -/

namespace Sys2Proof.Machine

open Sys2Proof

/-- Bytes by address: keys strictly rising, no zero byte listed (log entry 5). -/
abbrev Cells := List Host.Cell

/-- 32-bit words by key, in the same form. -/
abbrev Words := List (Nat × Word)

/-! ### Gang -/

/-- A join stack entry of one quad (R21): `mask` is the want mask of a join entry or the taken mask of a path entry. -/
structure JEntry where
  path : Bool
  pc : Addr
  mask : BitVec 4
  got : BitVec 4
  deriving DecidableEq, Repr

/-- What a gate wait compares with (R120, R197): nothing before it has reached its gate, then a phase; `freed` once an advance has made its
party ready (R195). -/
inductive GateRef where
  | onWay
  | waits (phase : Bool)
  | freed (phase : Bool)
  deriving DecidableEq, Repr

/-- What a party waits for (R149): `hold` is an operation whose completion makes the party ready again; with `again` its PC is still at
the instruction, which runs again after a pre-emption (R264, R321, R329). A CTRW has not reached its counter yet (`seen` none), waits for a
change of it (false), or has been reached by a change (true) (R200, R327). -/
inductive Park where
  | none
  | regang (mask : BitVec 8)
  | yield (gate : Nat) (ref : GateRef) (cont : Addr)
  | bwait (gate : Nat) (ref : GateRef) (dst : Reg)
  | ctrw (addr value : Nat) (seen : Option Bool) (stay : Bool)
  | waitb (delivered : Bool)
  | mxacq
  | hold (again : Bool)
  deriving DecidableEq, Repr

/-- State of a quad (R13). `last` is the clock of the party's last issue (R45), `wake` the first clock it may issue again. -/
structure Quad where
  present : Bool := false
  pc : Addr := 0
  active : BitVec 4 := 0
  helper : BitVec 4 := 0
  party : BitVec 3 := 0
  retired : Bool := false
  stack : List JEntry := []
  park : Park := .none
  last : Option Nat := none
  wake : Nat := 0
  deriving DecidableEq, Repr

/-- A restart mark with its snapshot (R36, R173); `no` counts the gang's SETMARKs and tells the marks of one epoch apart (R193). -/
structure Mark where
  no : Nat
  pc : Addr
  recipe : Addr
  setAt : Nat
  seq : Word
  quads : List Quad
  gmode : BitVec 15
  routes : BitVec 24
  deriving DecidableEq, Repr

/-- Where a result goes: vector register n of a lane, a scalar code s0 to s29, or predicate n of a lane. -/
inductive Dst where
  | v (n lane : Nat)
  | s (n : Nat)
  | p (n lane : Nat)
  deriving DecidableEq, Repr

/-- One register write of a result. -/
structure RegWrite where
  dst : Dst
  val : Word
  deriving DecidableEq, Repr

/-- A fixed-latency result that lands at `clock` (R48); `regs` are the operand codes it writes (predicate n as 128 + n). -/
structure Inflight where
  id : Nat
  clock : Nat
  regs : List Nat
  writes : List RegWrite
  deriving DecidableEq, Repr

/-- One lane of a load: its address, whether it is a helper, the bytes once returned, and a final refusal's code. -/
structure LoadLane where
  lane : Nat
  addr : Nat
  helper : Bool
  got : Option (List Byte)
  refused : Option Nat
  deriving DecidableEq, Repr

/-- One lane of an atomic: its address, operand values (operand, or compare and swap), and the old value once performed. -/
structure AtomLane where
  lane : Nat
  addr : Nat
  op : Nat
  swap : Nat
  old : Option Nat
  refused : Option Nat
  deriving DecidableEq, Repr

/-- A trap waiting for its entry (R343): code, XINFO, XPC, trapping party, XVA where the trap gives one. -/
structure Trap where
  code : BitVec 8
  info : Word
  pc : Addr
  lead : Nat
  xva : Option Addr
  deriving DecidableEq, Repr

/-- What an outstanding variable-latency operation will deliver (R50, R153). -/
inductive PendBody where
  /-- the register writes are known and land later -/
  | value (ws : List RegWrite)
  /-- a load (R183, R187) of access kind `kind` into T; leat entries of its core from `seq` on were appended after it -/
  | load (kind : BitVec 3) (t : Reg) (seq : Word) (lanes : List LoadLane)
  /-- an LDS of a bed-core gang whose lanes in the gate area read the gate once they have come over the bridge (R212) -/
  | bridge (kind : BitVec 3) (t : Reg) (lanes : List LoadLane)
  /-- a window load (R188) -/
  | window (kind : BitVec 3) (t : Reg) (lanes : List LoadLane)
  /-- the result of an atomic that the core holds in its list (R324) -/
  | atomic
  /-- CTRT (predicate) and CTRRD (register pair) reads of a counter (R200) -/
  | counter (addr : Nat) (test : Option (Nat × Nat × BitVec 32)) (d : Reg)
  /-- a gate read on its way to the gate: the result of BRD (R197) -/
  | gate
  /-- a BTEST on its way to the gate (R197) -/
  | test
  /-- the result of a BTEST that observed an advance: a CORE acquire, complete once the earlier reads have returned (R198, R304) -/
  | observed (ws : List RegWrite)
  /-- the ticket of a KICK whose records are still to be copied (R201) -/
  | ticket
  /-- a KV sub-op at the allocator (R395) -/
  | kv
  /-- the status of a RING on its way (R410) -/
  | bell
  /-- a stall-mode or precise KVX whose probes are out (R396): lanes hold sequence and position as one number until the tables are
  read, then the address; out of range is refused 99, a malformed descriptor 98 -/
  | kvx (d : Reg) (stall : Bool) (issued : Nat) (lanes : List LoadLane)
  /-- as `value`, with a trap that is due once the writes have landed (R185, R398, R416) -/
  | trap (ws : List RegWrite) (t : Trap)
  deriving DecidableEq, Repr

/-- An outstanding variable-latency operation of a gang. -/
structure Pend where
  id : Nat
  lead : Nat
  regs : List Nat
  super : Bool
  body : PendBody
  deriving DecidableEq, Repr

/-- Trap save registers and supervisor scratch (R101, R357, R390). -/
structure XRegs where
  xpc : Addr := 0
  xcode : BitVec 8 := 0
  xinfo : Word := 0
  xrep : Word := 0
  xmode : BitVec 15 := 0
  xroute : BitVec 24 := 0
  xva : Addr := 0
  ctxptr : Addr := 0
  sscr0 : Word := 0
  sscr1 : Word := 0
  sscr2 : Word := 0
  sscr3 : Word := 0
  deriving DecidableEq, Repr

/-- Bell save registers (R407, R414). -/
structure BellSave where
  pc : Addr := 0
  mode : BitVec 15 := 0
  rep : Word := 0
  route : BitVec 24 := 0
  deriving DecidableEq, Repr

/-- KV registers of a gang (R414). -/
structure KvRegs where
  rm : Word := 0
  st : Word := 0
  curs : Word := 0
  curh : Word := 0
  curt : Word := 0
  deriving DecidableEq, Repr

/-- Pre-emption state of a gang (R352, R357): `saving` is 1 from its PREEMPT to SAVED, `restored` is set by the leader's RESTORED, and a gang that is `restoring` in user mode issues nothing before (R355); with `engine` a resumed gang is not ready until its engine is granted (R215). -/
structure Pre where
  pending : Bool := false
  leader : Bool := false
  restoring : Bool := false
  restored : Bool := false
  waitsaved : Bool := false
  saving : Nat := 0
  engine : Bool := false
  deriving DecidableEq, Repr

/-- State of a gang (R9, R29, R101, R414): registers, mode, mark, results outstanding, trap and bell contexts; `copied` holds the bytes
its copies have counted on gates, by the count of SETMARKs `marks` at their issue (R193); `bellOk` is false from a BRET to the next issue (R413), `bellWait` holds issue while
a delivery waits for the gang's landings (R407). A gang with `rolling` or `redo` issues nothing: it goes back to that mark (R39), or its save or
restore handler starts again (R357), once its copies and MMAs have landed. `entrySeq` is LEATSEQ at the entry of its trap handler. -/
structure Gang where
  launch : Nat := 0
  blk : Nat := 0
  number : Nat := 0
  lanes : Nat := 0
  nquads : Nat := 0
  allot : Nat := 8
  regKiB : Nat := 0
  vregs : Words := []
  preds : Words := []
  rngs : Words := []
  sregs : Words := []
  lit : Word := 0
  gmode : BitVec 15 := 0x1C#15
  routes : BitVec 24 := 0
  rep : Word := 0
  repLead : Nat := 0
  quads : List Quad := []
  markpc : Addr := 0
  recipe : Addr := 0
  mark : Option Mark := none
  settled : Option Mark := none
  epoch : BitVec 4 := 0
  eccOnce : Bool := false
  xr : XRegs := {}
  super : Bool := false
  held : Option (List Quad) := none
  heldLead : Nat := 0
  bellHeld : Option (List Quad) := none
  bellLead : Nat := 0
  bs : BellSave := {}
  bellOk : Bool := true
  bellWait : Bool := false
  yarr : Word := 0
  role : Word := 0
  tsel : Word := 0
  kv : KvRegs := {}
  blsel : Word := 0
  inflight : List Inflight := []
  pend : List Pend := []
  trap : Option Trap := none
  late : List (Trap × Bool) := []
  marks : Nat := 0
  copied : List (Nat × Nat × Nat) := []
  pre : Pre := {}
  rolling : Option Mark := none
  redo : Bool := false
  entrySeq : Word := 0
  deriving DecidableEq, Repr

/-! ### Block -/

/-- A gate (R194). -/
structure Gate where
  remb : BitVec 48 := 0
  rema : BitVec 16 := 0
  expect : BitVec 8 := 0
  phase : Bool := false
  init : Bool := false
  adv : Word := 0
  deriving DecidableEq, Repr

/-- A change or read on its way to a gate (R195, R197). -/
inductive GateChange where
  | binit (n : BitVec 8) (issued : Nat)
  | bexp (bytes : Word)
  | btile (t : Word)
  | arrive
  | tile
  | land (bytes : Nat)
  | addBack (bytes : Nat)
  | wait (lead : Nat)
  | test (pend : Nat) (d : Reg) (mask : BitVec 32)
  | read (pend : Nat) (d : Reg) (mask : BitVec 32)
  deriving DecidableEq, Repr

/-- A gate change with the clock it reaches its gate and the gang that sent it (slot 64 for an engine); `after` names the window
writes and register writes an arrival waits for (R33, R189). -/
structure GateIn where
  clock : Nat
  gate : Nat
  core : Nat
  slot : Nat
  after : List Nat
  chg : GateChange
  deriving DecidableEq, Repr

/-- A landed write of a block-shared register that some quarter does not see yet (R31, R32): part 0 runner, 1 bed. -/
structure ShWrite where
  id : Nat
  reg : Nat
  val : Word
  landed : Nat
  part : Nat
  quarter : Nat
  deriving DecidableEq, Repr

/-- A gang kept while its block is pre-empted (R353 to R356): its state and the address of its context record. -/
structure Saved where
  gang : Gang
  ctx : Addr
  crc : Word
  engine : Option (Bool × Nat)
  handler : Bool
  deriving DecidableEq, Repr

/-- A node of a tree (R227). -/
structure Node where
  parent : Nat
  token : Word
  score : Word
  state : Nat
  depth : Nat
  mask : Addr
  deriving DecidableEq, Repr

/-- A tree: its base position and nodes; the count is the number of nodes. -/
structure Tree where
  base : Word := 0
  nodes : List Node := []
  deriving DecidableEq, Repr

/-- A block (R4): scratch parts, gates, block-shared registers, and its place (R155, R186, R211, R212); `slots` are the gang slots that
name its scratch parts in the on-chip map (R158, R212), `trees` the tree file of each of its cores while it is pre-empted (R354). -/
structure Block where
  key : Nat
  launch : Nat
  bid : Nat
  core : Nat
  pair : Bool
  domain : Nat
  prio : Nat
  placedAt : Nat
  ngates : Nat
  slots : Nat × Nat
  scrSize : Nat
  scrKiB : Nat × Nat
  scr : Cells
  scrB : Cells
  gates : List Gate
  gateIn : List GateIn
  shared : Words
  shWrites : List ShWrite
  trees : List (List Tree)
  saved : List Saved
  resident : Bool
  deriving DecidableEq, Repr

/-! ### Core -/

/-- A leat entry (R165). A release mark has no bytes and `relm` its scope. `pos` is its first granule in the ring; `sent` says its
drain has left the core, `applied` that its slice or home has applied it; `parked` holds the refusal code while parked; `slot` follows its gang
(Core.reslot), `gang` is the slot that appended it. -/
structure LeatEntry where
  seq : Word
  line : Nat
  bytes : List (Nat × Byte)
  relm : Option (BitVec 3)
  atom : Bool
  sealed : Bool
  sealAt : Nat
  parked : Option Nat
  epoch : BitVec 4
  slot : Nat
  blk : Nat
  launch : Nat
  super : Bool
  pos : Nat
  urged : Bool
  sent : Bool
  applied : Bool
  gang : Nat
  deriving DecidableEq, Repr

/-- An entry of a core's leat that has been acknowledged and whose stamp lies ahead (R265, R288). -/
structure Unpassed where
  core : Nat
  entry : LeatEntry
  stamp : Nat
  deriving DecidableEq, Repr

/-- A first-level copy of a line (R281): treatment 0 tracked, 1 leased; `owned` under line ownership (R292), where `raw` holds the
line without the bytes of leat entries that no slice has applied. -/
structure L1Line where
  line : Nat
  data : Cells
  treat : Nat
  leaseEnd : Nat
  owned : Bool
  raw : Cells
  deriving DecidableEq, Repr

/-- A replay filter entry: line, source core, SEQ (R258). -/
structure FilterEntry where
  line : Nat
  src : Nat
  seq : Word
  deriving DecidableEq, Repr

/-- An incomplete release (R318, R322): the entries it still waits for, those and other writes whose CLEAN it awaits (R316), the works and
atomics, reads, window writes and tile moves before it, the largest stamp seen, the clock its mark was published (CLUSTER scope), and the clock
at which the host has acknowledged what is written back to it (SYSTEM scope). -/
structure Release where
  id : Nat
  slot : Nat
  blk : Nat
  scope : BitVec 3
  seq : Option Word
  fence : Bool
  entries : List (Nat × Word)
  cleans : List (Nat × Parked)
  works : List Nat
  reads : List Nat
  wins : List Nat
  moves : List Nat
  stamp : Nat
  published : Option Nat
  host : Option Nat
  deriving DecidableEq, Repr

/-- A write held behind the releases its gang issued before it (R319, R409). -/
structure HeldOp where
  slot : Nat
  blk : Nat
  rels : List Nat
  ev : Instr
  deriving DecidableEq, Repr

/-- Entries that a party waits for: a promotion of another core's leat (R265; `kind` 0, with the largest stamp), a CWB (R329; 1).
`upto` names the leat and SEQ promoted, `lines` the lines of entries that found no room in the filter (R261). -/
structure Promo where
  id : Nat
  kind : Nat
  entries : List (Nat × Word)
  stamp : Nat
  slot : Nat
  lead : Nat
  upto : Option (Nat × Word)
  lines : List Nat
  deriving DecidableEq, Repr

/-- An atomic under way (R324): operation, type, scope, order, width in bytes, with return, and its lanes. At CORE scope `fills` holds
the lines it reads, once asked for; `stamp` is the largest stamp of its writes; `told` says that its lanes are performed and its result
is on its way, `acqLeft` that its acquire half has still to complete; `need` are the granules that the leat keeps free for it (R171) and
`waiting` counts its writes whose invalidations are out (R281). `slot` follows its gang (Core.reslot), `key` is the slot that it issued from, which
its requests carry with `id`. A counter read is held here too, for its acquire (R200). -/
structure AtomOp where
  id : Nat
  slot : Nat
  blk : Nat
  lead : Nat
  super : Bool
  aop : BitVec 4
  ty : BitVec 5
  scope : BitVec 3
  order : BitVec 2
  w : Nat
  ret : Bool
  d : Reg
  lanes : List AtomLane
  asked : Bool
  fills : List (Nat × Cells)
  stamp : Nat
  told : Bool
  acqLeft : Bool
  launch : Nat
  epoch : BitVec 4
  need : Nat
  waiting : Nat
  key : Nat
  deriving DecidableEq, Repr

/-- A window access under way (R188, R189): a write carries its bytes, a read the result it belongs to. -/
structure WinAcc where
  id : Nat
  slot : Nat
  blk : Nat
  super : Bool
  phys : Bool
  domain : Nat
  addr : Nat
  size : Nat
  write : Option (List Byte)
  pend : Nat
  lane : Nat
  deriving DecidableEq, Repr

/-- Where an engine reads or writes: an offset in a scratch part of a block, or a virtual address (window sheet included). -/
inductive Loc where
  | scratch (blk part off : Nat)
  | mem (va : Nat)
  deriving DecidableEq, Repr

/-- The progress of a transfer unit (R190): waiting for its fork edge, past the port, parked by a refusal, written while its invalidations
are out (R281), written with a stamp, landed, or refused for good. -/
inductive XState where
  | queued
  | sent
  | parked (code : Nat)
  | telling
  | written (stamp : Nat)
  | landed
  | refused (code access va : Nat)
  deriving DecidableEq, Repr

/-- A transfer unit. It writes the fold of its sources, zeros when it has none (R203); `red` is ROP and RTY of the fold, and of the
combination with the destination when `atDst` holds (R204). `own` says that a global source is read through the own view (R167). `parts` are the
merged lanes of LDX and CPL, as offsets from the source and the destination with their bytes (R190); a unit of a record is one piece. It reads
`ahead` bytes of its last source word for the next unit, which `held` them (R308), and `acked` names what other packages have accepted of it. -/
structure XUnit where
  id : Nat
  srcs : List Loc
  dst : Loc
  len : Nat
  red : Option (Nat × Nat)
  atDst : Bool
  own : Bool
  st : XState
  parts : List (Nat × Nat × Nat)
  ahead : Nat
  held : List Byte
  acked : List Nat
  deriving DecidableEq, Repr

/-- An engine work (R298): one LDX or CPL, or one bulk record. It begins once the leat entries in `after` have drained and the atomics in
`atoms`, the window writes and the releases before it are complete (R191, R313, R319). -/
structure Work where
  id : Nat
  slot : Nat
  blk : Nat
  super : Bool
  gate : Option Nat
  rticket : Option Word
  after : List (Nat × Word)
  afterStamp : Nat
  atoms : List Nat
  wins : List Nat
  rels : List Nat
  mark : Nat
  units : List XUnit
  launch : Nat
  deriving DecidableEq, Repr

/-- A bulk request record in the queue (R201, R202), its words, its status once it has stopped or finished, and the bytes that have
landed. While `waits` holds, it has still to be copied out of the scratch at `addr`, and `ask` names the result of its KICK. `inc` is its counter
increment: none before it is asked for, 0 on its way, or the code of its final refusal. -/
structure BulkRec where
  ticket : Word
  work : Nat
  slot : Nat
  blk : Nat
  part : Nat
  super : Bool
  words : List Word
  status : Option Nat
  started : Bool
  counted : Nat
  afterEntries : List (Nat × Word)
  afterStamp : Nat
  atoms : List Nat
  wins : List Nat
  rels : List Nat
  abroad : Bool
  addr : Nat
  waits : Bool
  ask : Option Nat
  inc : Option Nat
  deriving DecidableEq, Repr

/-- An accepted MMA (R222, R239), in the list of its issuing core: format block words, tile gate, the B ranges as (slot, base, registers),
the releases before it (R319), the first clock it may begin, whether it is checked (R225), its phase (0 queued, 1 running, 2 ended), the
clock it ends, its passes, the A bytes and B registers as they stood at its begin (R218, R219), the registers of B gangs that have ended
and, once it has ended, those of all, and the tree's masks read at issue (R230). -/
structure Mma where
  ticket : Word
  slot : Nat
  blk : Nat
  fb : List Word
  gate : Option Nat
  bgangs : List (Nat × Nat × Nat)
  rels : List Nat
  ready : Nat
  checked : Bool
  phase : Nat
  fin : Nat
  passes : Nat
  aRows : Cells × Cells
  bRegs : List (Nat × Words)
  kept : List (Nat × Words)
  tree : Option (List Addr)
  deriving DecidableEq, Repr

/-- A transfer of ACCLD or ACCST under way, or of SCLD (R241, R243): its party, whether it stores, quarter, tile slot, 64-bit, scratch
offset; `first` numbers the choices of when each word moves; 0 bytes for SCLD, whose columns have moved; the clock it ends, open for SCLD, and the gang's
context at its start (`Gang.context`). -/
structure AccMove where
  slot : Nat
  blk : Nat
  lead : Nat
  store : Bool
  quarter : Nat
  tile : Nat
  size : Nat
  sa : Nat
  first : Nat
  fin : Nat
  ctx : Nat
  deriving DecidableEq, Repr

/-- A quarter scheduler (R150) with the clock of its last issue; the clock in which results last landed in the quarter with the write slots they took
(R152), and the return that found no room and holds back the others (R153). The pointer's first value is the model's (log entry 6). -/
structure Sched where
  holder : Option Nat := none
  count : Nat := 0
  ptr : Nat := 0
  served : BitVec 16 := 0
  ended : Bool := false
  issued : Option Nat := none
  slotsAt : Nat := 0
  slots : Nat := 0
  back : Option Nat := none
  deriving DecidableEq, Repr

/-- The port bucket and the requests waiting at it with their costs (R267, R269). -/
structure Port where
  fill : Nat := 4096
  cap : Nat := 8192
  level : Nat := 8192
  wait : Nat := 0
  queue : List (Nat × Instr) := []
  deriving DecidableEq, Repr

/-- A request for an engine (R214): gang's core and slot, pair, priority; plus 4 once a pair request holds both engines (R215). -/
structure MxReq where
  core : Nat
  slot : Nat
  pair : Bool
  prio : Nat
  deriving DecidableEq, Repr

/-- An engine's owner (R214): the gang, the mode and class of its request, and whether it has given the engine up (R235). -/
structure Owner where
  core : Nat
  slot : Nat
  pair : Bool
  prio : Nat
  released : Bool
  deriving DecidableEq, Repr

/-- A parked request of a core, with the clock of its replay where nothing resumes it before (R379). -/
structure MissReq where
  req : HomeReq
  due : Nat
  deriving DecidableEq, Repr

/-- State of a core (R148, R154, R164). `hosting` once a block's domain has been loaded into it (R163). `missBuf` holds its parked requests (R379), and
`rerouted` counts the refusals with reroute of its entries and units (R367) and `counted` names the lookups that have counted (R279). `unpassed` are its own entries, and those it has replayed, that are
acknowledged before device time has passed their stamps (R288); `fullAt` names the leats, with a SEQ, whose entries up to there found the filter full
and are being promoted (R261). -/
structure Core where
  baymap : Addr := 0xFAAAAAAAAAAAAAAA#64
  hosting : Bool := false
  domain : Nat := 0
  function : Nat := 0
  keys : List (Nat × BitVec 2) := []
  grants : List Word := [0, 0, 0, 0]
  halted : Bool := false
  frozen : Bool := false
  strikes : Word := 0
  missBuf : List MissReq := []
  rerouted : List (Parked × Nat) := []
  counted : List (Parked × Nat) := []
  leat : List LeatEntry := []
  leatEnd : Nat := 0
  leatSeq : Word := 1
  pubTail : Word := 0
  pubClock : Nat := 0
  tailSeen : Words := []
  trail : List (Nat × Word) := []
  trailFloor : Word := 0
  cursors : Words := []
  filter : List FilterEntry := []
  unpassed : List Unpassed := []
  fullAt : List (Nat × Word) := []
  l1 : List L1Line := []
  rels : List Release := []
  heldOps : List HeldOp := []
  promos : List Promo := []
  wins : List WinAcc := []
  recs : List BulkRec := []
  rqtick : Word := 0
  rqerr : Word := 0
  atoms : List AtomOp := []
  works : List Work := []
  mmas : List Mma := []
  mxtick : Word := 0
  mxcount : Word := 0
  mxchk : BitVec 13 := 64
  owner : Option Owner := none
  mxq : List MxReq := []
  moves : List AccMove := []
  acc : Words := []
  accBad : List (Nat × Nat) := []
  scale : Cells := []
  trees : List Tree := [{}, {}, {}, {}]
  sched : List Sched := [{}, {}, {}, {}]
  port : Port := {}
  l2sel : Word := 0
  grsel : Word := 0
  kvfsel : Word := 0
  brsel : Word := 0
  fpsel : Word := 0
  pins : List (Nat × Nat × Nat) := []
  gangs : List (Nat × Gang) := []
  deriving DecidableEq, Repr

/-! ### Second-level cache, homes, fabric -/

/-- A write at a slice that waits for invalidation acknowledgements before it is acknowledged (R282). -/
structure SliceWait where
  core : Nat
  what : Parked
  acks : List Nat
  deriving DecidableEq, Repr

/-- A second-level line (R273 to R292): `hz` lease horizon, `owned` by this die (R286), `coreOwner` under line ownership, `cont`
the contention count with the last atomic's core and clock (R291), `used` orders recency (R276). -/
structure L2Line where
  line : Nat
  way : Nat
  data : Cells
  dirty : Bool
  treat : Nat
  sharers : List Nat
  hz : Nat
  cls : Nat
  owned : Bool
  coreOwner : Option Nat
  cont : Nat
  lastAt : Option (Nat × Nat)
  used : Nat
  waits : List SliceWait
  deriving DecidableEq, Repr

/-- Where a request of a core stands: on its way to a slice, arrived there, or its line asked of the home, with the fill mask of its class as the
fetch began (R276, R278). -/
inductive ReqState where
  | onWay
  | arrived
  | fetching (mask : BitVec 16)
  deriving DecidableEq, Repr

/-- A request of a core to the slices, with the way class it carries (R275); those at the slices stand in their order of arrival (R284). A
request of a transfer unit names no line. -/
structure SliceReq where
  core : Nat
  what : Parked
  line : Nat
  cls : Nat
  st : ReqState
  deriving DecidableEq, Repr

/-- A new entry of a table that several holders keep (R275, R331, R332): a class's fill mask and lease length, a function's class, a domain's
rights for a key, a window grant of a domain. -/
inductive TableEntry where
  | mask (cls : Nat) (mask : BitVec 16) (lease : Nat)
  | ofFunction (function cls : Nat)
  | rights (domain key val : Nat)
  | grant (domain index : Nat) (val : Word)
  deriving DecidableEq, Repr

/-- A KEYW, WAYM, CLASS or WINGR that is not complete (R278, R331, R332): its party, whether that party still waits for it, and the entry. -/
structure TableChange where
  core : Nat
  slot : Nat
  blk : Nat
  lead : Nat
  waits : Bool
  entry : TableEntry
  deriving DecidableEq, Repr

/-- A slice (R273): its lines, the evicted horizon of each set (R283), and FILL, HIT, HITX by class (R279). -/
structure Slice where
  lines : List L2Line := []
  evicted : List (Nat × Nat) := []
  fill : Words := []
  hit : Words := []
  hitx : Words := []
  uses : Nat := 0
  deriving DecidableEq, Repr

/-- A line in a stack's memory-side cache (R381): the line address its slices know, its physical tag (home and home-local address, or host
physical address), and the record of which die's second-level cache holds it. Its bytes are those of its home (log entry 89). -/
structure MemLine where
  stack : Nat
  line : Nat
  tag : Nat
  dies : BitVec 2
  deriving DecidableEq, Repr

/-- A way class (R275): fill mask and lease length. -/
structure WayClass where
  mask : BitVec 16 := 0xFFFF
  lease : Nat := 2048
  deriving DecidableEq, Repr

/-- A mapped page (R369, R370): offset address with sheet and no key, size code, attribute word without C, D and MOV; C and D by
home; `mov` while a page change runs (R375), true once its step 5 has begun. -/
structure Page where
  va : Nat
  size : Nat
  attr : Addr
  frame : Nat
  cHomes : BitVec 64
  dHomes : BitVec 64
  mov : Option Bool
  deriving DecidableEq, Repr

/-- A park-table entry of a home (R378) with the address of its fault record, 0 for none. -/
structure ParkEntry where
  home : Nat
  va : Nat
  size : Nat
  cores : List Nat
  devices : List Nat
  overflow : Bool
  recAddr : Nat
  listed : Bool
  deriving DecidableEq, Repr

/-- A home command in the queue (R372, R375): whether it has begun, the step of its page change, its outcome, the leat entries that must
drain before the page's lines are recalled, and the lease horizon of those lines. -/
structure CmdRun where
  cmd : HomeCmd
  step : Nat := 0
  status : Nat := 0
  begun : Bool := false
  waits : List (Nat × Word) := []
  hz : Nat := 0
  deriving DecidableEq, Repr

/-- A region in the ticket directory (R442, R444): the WRITE holder or READ holders, who asked and when, the holders whose revocation is
under way and since when, whether this package is giving the region up before its first grant, the clock at which the lease horizons
of the region have passed, the requests that wait their turn in order of arrival, and the writes of other devices whose CLEAN is owed (R441). -/
structure Ticket where
  region : Nat
  writer : Option Nat := none
  readers : List Nat := []
  asked : List (Nat × Nat) := []
  revoking : List (Nat × Nat) := []
  closing : Bool := false
  closed : Nat := 0
  queue : List HomeReq := []
  owed : List (Nat × Nat) := []
  deriving DecidableEq, Repr

/-- A write that has been applied and whose CLEAN is still to come (R441, R446): what wrote, its gang, the bytes, and whether this package homes
them. -/
structure CleanDue where
  core : Nat
  what : Parked
  slot : Nat
  blk : Nat
  bytes : List Nat
  own : Bool
  deriving DecidableEq, Repr

/-- What this package says to another (R441, R444, R445, R448, R451): data served, an atomic's old value, APPLIED (and CLEAN with it), CLEAN, a
refusal, a ticket granted or revoked or handed back, a resume, or the increment of a completion
counter (R342). -/
inductive FabSay where
  | data (bytes : List Byte)
  | value (old : Nat)
  | applied (clean : Bool)
  | clean
  | refused (code : Nat) (reroute : Bool)
  | ticket (write : Bool)
  | revoke
  | handedBack
  | resume (size : Nat)
  | increment (by' : Nat)
  deriving DecidableEq, Repr

/-- A message this package has sent to a device, about an address. -/
structure FabOut where
  dev : Nat
  va : Nat
  say : FabSay
  deriving DecidableEq, Repr

/-- A ticket this package holds for a region of another package (R442), with the treatment of its pages and, while it is being handed
back, the clock at which its leases have passed (R445). -/
structure HeldTicket where
  region : Nat
  write : Bool
  treat : Nat
  used : Nat
  leaving : Option Nat
  deriving DecidableEq, Repr

/-- A fabric port (R437, R439). -/
structure FabPort where
  lanes : Nat := 0
  up : Bool := false
  neighbour : Nat := 0
  retry : Word := 0
  fails : Nat := 0
  deriving DecidableEq, Repr

/-- A request for another package that is not yet answered (R440, R452), with its tenant tag and, once it has left, its port; a ring has no
address and access 15. -/
structure FabMsg where
  core : Nat
  what : Parked
  sent : Nat
  dev : Nat
  access : Nat
  va : Nat
  tag : Nat
  port : Option Nat
  deriving DecidableEq, Repr

/-- A host access held at a home (R383). -/
structure HostHeld where
  id : Nat
  offset : Nat
  write : Bool
  data : List Byte
  since : Nat
  deriving DecidableEq, Repr

/-! ### Tenancy, KV, bells, launches -/

/-- A protection domain's store (R332, R343, R357, R370, R415). -/
structure Domain where
  trapvec : Addr := 0
  restvec : Addr := 0
  keys : List (Nat × BitVec 2) := []
  grants : List Word := [0, 0, 0, 0]
  board : Addr := 0
  tag : Nat := 0
  function : Nat := 0
  deriving DecidableEq, Repr

/-- A function's configuration (R386, R392, R415): share, the one that SPLIT has written for the next period (R331),
effective share and halving of the period (R387), slice length and the slices that run (R349), KV registers, quotas by
tier. -/
structure Func where
  share : Nat := 0
  shareNext : Option Nat := none
  eff : Nat := 0
  halved : Bool := false
  sliceLen : Nat := 0
  sliceEnds : List (Nat × Nat) := []
  kvmode : Word := 0
  kvbell : Word := 0
  kvkey : Word := 0
  stab : Addr := 0
  scnt : Word := 0
  res : Addr := 0
  q : Words := []
  b : Words := []
  u : Words := []
  reclaimed : List (Nat × Nat) := []
  deriving DecidableEq, Repr

/-- A KV pool (R391). -/
structure Pool where
  reg : Addr := 0
  stk : Addr := 0
  free : Word := 0
  low : Word := 0
  deriving DecidableEq, Repr

/-- A request at the KV allocator (R395): sub-op code, gang with its block and function, result, operands; `started` once it waits for page
changes, whose commands `changes` names (R391). -/
structure KvReq where
  core : Nat
  slot : Nat
  blk : Nat
  function : Nat
  pend : Nat
  lead : Nat
  op : Nat
  d : Reg
  seqIdx : Word
  dv : Word
  dv1 : Word
  started : Bool
  changes : List Nat
  deriving DecidableEq, Repr

/-- A resume record that waits for room in its function's ring (R400): its words, the gang whose KVRM it takes at the write, and the party that
a KVPARK holds until then. -/
structure ResumeWait where
  function : Nat
  words : List Word
  core : Nat
  slot : Nat
  blk : Nat
  lead : Option Nat
  deriving DecidableEq, Repr

/-- A bell line (R403). -/
structure BellLine where
  payload : Word := 0
  count : BitVec 16 := 0
  mode : BitVec 2 := 0
  wake : Bool := false
  out : Bool := false
  deriving DecidableEq, Repr

/-- A bell board (R403); `hres` says that the handler gang is resident (R408). -/
structure Board where
  pend : Addr := 0
  mask : Addr := 0
  hpc : Addr := 0
  hgang : Word := 0
  hres : Bool := true
  refused : Word := 0
  lines : List (Nat × BellLine) := []
  deriving DecidableEq, Repr

/-- A bell rights entry (R406) with the rings it accepted in this period. -/
structure Rights where
  lo : Addr := 0
  hi : Addr := 0
  used : Nat := 0
  deriving DecidableEq, Repr

/-- A launch queue descriptor (R335) and the head the distributor has reached. -/
structure Queue where
  function : Nat
  queue : Nat
  base : Nat
  log : Nat
  die : Nat
  domain : Nat
  borrow : Bool
  head : Nat
  deriving DecidableEq, Repr

/-- A launch and its journal entry (R337, R428): state 1 accepted, 2 placed, 3 done, 4 failed; with the function's cluster owners, tenant tag
and slice length as they were at acceptance (R426), and the clock at which the host acknowledges its completion (R342). -/
structure Launch where
  idx : Nat
  function : Nat
  die : Nat
  queue : Nat
  domain : Nat
  borrow : Bool
  record : List Word
  state : Nat
  status : Nat
  replays : Nat
  xcode : Word
  xinfo : Word
  badBlock : Word
  xva : Addr
  blocksDone : Nat
  changed : Nat
  nextBlock : Nat
  waitsHold : Bool
  waitSince : Option Nat
  onHold : Bool
  resume : List Nat
  closing : Bool
  stamp : Nat
  owners : List (Nat × Nat)
  tag : Nat
  slice : Nat
  host : Option Nat := none
  deriving DecidableEq, Repr

/-- A die's distributor (R297): rotating cluster, clock of the last placement step, queue turn (R340),
and whether the journal is to be walked after a reset of the die (R432). -/
structure Dist where
  rot : Nat := 0
  lastStep : Option Nat := none
  rr : Nat := 0
  walk : Bool := false
  deriving DecidableEq, Repr

/-- Package registers (R390, R415, R435, R436, R454). -/
structure PkgRegs where
  devnum : BitVec 20 := 0
  hcmdq : Addr := 0
  hfltq : Addr := 0
  hsup : Word := 0
  hostwin : Addr := 0
  hflips : Word := 0
  jrnlq : Addr := 0
  jrnltail : Word := 0
  jrnlack : Word := 0
  ready : Addr := 0
  errq : Addr := 0
  clumap : Word := 0
  down : Word := 0
  pwrcap : Word := 3200
  throttle : BitVec 4 := 0
  powerLimited : Bool := false
  thermalLimited : Bool := false
  dstate : PowerState := .d0
  wakeq : Addr := 0
  brtotal : Word := 0
  fabtmo : Word := 16384
  tkquiet : Word := 64
  lastFaultRing : Option Nat := none
  lastErrRing : Option Nat := none
  clusterOwner : List (Nat × Nat) := []
  routes : List (Nat × Nat) := []
  fabFunction : List (Nat × Nat) := []
  mailRefused : Bool := false
  deriving DecidableEq, Repr

/-- The firmware image as checked (R425): counter, sections that passed, the failing section reported, and the harvest
map (by cluster its disabled pair, R210) and trims of its configuration image. -/
structure Firmware where
  counter : Nat := 0
  passed : List Nat := []
  failing : Option Nat := none
  harvest : List (Nat × Nat) := []
  trims : List Word := []
  deriving DecidableEq, Repr

/-- Of the present period (R387 to R389): service charged by (home, function), functions that have sent requests, and the clocks in which a function
had a request waiting at a home. -/
structure ShareUse where
  charged : List (Nat × Nat) := []
  active : List Nat := []
  waited : List (Nat × Nat) := []
  deriving DecidableEq, Repr

/-- A request that waits at a home (R388): its function, its charge, the step that goes on once it is served, and its queue entry: reserved (true), of
the pool (false), or none while it waits at the home's input. -/
structure HomeJob where
  home : Nat
  function : Nat
  bytes : Nat
  ev : Instr
  entry : Option Bool
  deriving DecidableEq, Repr

/-- A home's server (R388): the byte-time, 640 to a clock, at which it is free; the function whose turn it is, and the functions' deficits. -/
structure HomeServer where
  free : Nat := 0
  turn : Nat := 127
  deficit : List (Nat × Nat) := []
  deriving DecidableEq, Repr

/-- The executing party: core, gang slot, party identifier. -/
structure Cur where
  core : Nat
  slot : Nat
  lead : Nat
  deriving DecidableEq, Repr

/-- The package (log entries 1 to 3). `agenda` holds the timed steps of the device and the acts of the outside world, each with its
clock; `cur` is the party that executes; `fresh` numbers the free values. -/
structure State where
  now : Nat
  turn : Nat
  cur : Option Cur
  fresh : Nat
  agenda : List (Nat × Instr)
  dram : Cells
  hostMem : Cells
  cores : List (Nat × Core)
  blocks : List Block
  launches : List Launch
  queues : List Queue
  dist : List Dist
  slices : List (Nat × Slice)
  sliceReqs : List SliceReq
  memCache : List MemLine
  classOf : List (Nat × Nat)
  classes : List WayClass
  tables : List TableChange
  graticule : List (Nat × Addr)
  pages : List Page
  refuseMarks : List (Nat × Nat)
  parks : List ParkEntry
  poison : List Nat
  faultHeld : List (List Word)
  cmds : List CmdRun
  tickets : List Ticket
  heldTickets : List HeldTicket
  remoteParks : List (Nat × List Nat)
  ports : List FabPort
  fabric : List FabMsg
  flows : List (Nat × Nat)
  unreached : List Nat
  cleanDue : List CleanDue
  fabOut : List FabOut
  hostLanes : Nat
  hostHeld : List HostHeld
  domains : List (Nat × Domain)
  funcs : List (Nat × Func)
  pools : List Pool
  refs : List (Nat × Nat)
  kvq : List KvReq
  kvWait : List ResumeWait
  boards : List (Nat × Board)
  rights : List (Nat × Rights)
  wakeHeld : List (List Word)
  share : ShareUse
  homeJobs : List HomeJob
  homeServers : List (Nat × HomeServer)
  served : List Instr
  fw : Firmware
  pr : PkgRegs
  deriving DecidableEq, Repr

/-- What stops the machine. -/
inductive Fault where
  /-- Raised by every instruction's meaning when no resident party is executing (`cur` names none): there is nothing that could
  issue the word. Safe: no step of the device issues a word without a party (log entry 16). -/
  | noParty
  deriving DecidableEq, Repr

/-- What has no meaning. -/
inductive Refusal where
  /-- The instruction's arm of exec has no meaning yet. Safe. -/
  | notModelled (mnemonic : String)
  deriving DecidableEq, Repr

/-- The package right after bring-up (R14, R154, R156, R275, R386, R461): no block resident, every core at bring-up. -/
def State.reset : State where
  now := 0
  turn := 0
  cur := none
  fresh := 0
  agenda := []
  dram := []
  hostMem := []
  cores := []
  blocks := []
  launches := []
  queues := []
  dist := [{}, {}]
  slices := []
  sliceReqs := []
  memCache := []
  classOf := []
  classes := List.replicate 16 {}
  tables := []
  graticule := []
  pages := []
  refuseMarks := []
  parks := []
  poison := []
  faultHeld := []
  cmds := []
  tickets := []
  heldTickets := []
  remoteParks := []
  ports := List.replicate 36 {}
  fabric := []
  flows := []
  unreached := []
  cleanDue := []
  fabOut := []
  hostLanes := 16
  hostHeld := []
  domains := []
  funcs := [(0, { share := 1024, eff := 1024 })]
  pools := [{}, {}, {}]
  refs := []
  kvq := []
  kvWait := []
  boards := []
  rights := []
  wakeHeld := []
  share := {}
  homeJobs := []
  homeServers := []
  served := []
  fw := {}
  pr := {}

end Sys2Proof.Machine
end

