-- ==== Sys2Proof/Machine/Store.lean ====
section
/-! DEFINITION. Sparse stores in canonical form (keys rising, no zero listed), keyed lists, bytes and fields of words. -/

namespace Sys2Proof.Machine

open Sys2Proof

/-! ### Sparse stores -/

/-- The value at a key; an unlisted key holds zero (log entry 5). -/
def Sp.get {w : Nat} : List (Nat × BitVec w) → Nat → BitVec w
  | [], _ => 0
  | (a, v) :: m, k => if a = k then v else Sp.get m k

/-- The store without a key. -/
def Sp.del {w : Nat} (m : List (Nat × BitVec w)) (k : Nat) : List (Nat × BitVec w) := m.filter fun e => e.1 != k

/-- The store with an entry at a key that it does not hold. -/
def Sp.ins {w : Nat} : List (Nat × BitVec w) → Nat → BitVec w → List (Nat × BitVec w)
  | [], k, v => [(k, v)]
  | (a, u) :: m, k, v => if k < a then (k, v) :: (a, u) :: m else (a, u) :: Sp.ins m k v

/-- Writing a value: zero removes the entry. -/
def Sp.set {w : Nat} (m : List (Nat × BitVec w)) (k : Nat) (v : BitVec w) : List (Nat × BitVec w) :=
  if v = 0 then Sp.del m k else Sp.ins (Sp.del m k) k v

/-- Several writes in order. -/
def Sp.setAll {w : Nat} (m : List (Nat × BitVec w)) (ws : List (Nat × BitVec w)) : List (Nat × BitVec w) :=
  ws.foldl (fun m p => Sp.set m p.1 p.2) m

/-- The canonical form: keys strictly rising, above `lo` if given, and no zero value. -/
def Sp.wfFrom {w : Nat} : Option Nat → List (Nat × BitVec w) → Bool
  | _, [] => true
  | lo, (a, v) :: m => (match lo with | none => true | some l => decide (l < a)) && decide (v ≠ 0) && Sp.wfFrom (some a) m

def Sp.wf {w : Nat} (m : List (Nat × BitVec w)) : Bool := Sp.wfFrom none m

/-- Keep the keys that satisfy a condition. -/
def Sp.keep {w : Nat} (p : Nat → Bool) (m : List (Nat × BitVec w)) : List (Nat × BitVec w) := m.filter fun e => p e.1

/-- Memory in canonical form. -/
abbrev Memory.wf (m : Cells) : Bool := Sp.wf m

/-! ### Keyed lists -/

/-- The entry of a keyed list. -/
def Kv.get? {α : Type} : List (Nat × α) → Nat → Option α
  | [], _ => none
  | (a, v) :: m, k => if a = k then some v else Kv.get? m k

/-- Writing an entry, keys rising. -/
def Kv.put {α : Type} : List (Nat × α) → Nat → α → List (Nat × α)
  | [], k, v => [(k, v)]
  | (a, u) :: m, k, v =>
    if k < a then (k, v) :: (a, u) :: m else if k = a then (k, v) :: m else (a, u) :: Kv.put m k v

/-- Removing an entry. -/
def Kv.del {α : Type} (m : List (Nat × α)) (k : Nat) : List (Nat × α) := m.filter fun e => e.1 != k

/-- Replace the first element that satisfies a condition. -/
def replaceFirst {α : Type} (p : α → Bool) (f : α → α) : List α → List α
  | [] => []
  | x :: xs => if p x then f x :: xs else x :: replaceFirst p f xs

/-- Change one element of a list by index. -/
def setAt {α : Type} (l : List α) (n : Nat) (f : α → α) : List α := l.modify n f

/-! ### Fields and bytes -/

/-- A field of a natural number. -/
def fld (v hi lo : Nat) : Nat := (v >>> lo) % 2 ^ (hi + 1 - lo)

/-- Whether a field of a word is zero. -/
def zeroBits {w : Nat} (v : BitVec w) (hi lo : Nat) : Bool := fld v.toNat hi lo == 0

def word (n : Nat) : Word := BitVec.ofNat 32 n
def addr64 (n : Nat) : Addr := BitVec.ofNat 64 n

/-- The n bytes of a number, lowest first (R6). -/
def toBytes (n v : Nat) : List Byte := (List.range n).map fun k => BitVec.ofNat 8 (v >>> (8 * k))

/-- The number that bytes stand for, lowest first (R6). -/
def ofBytes : List Byte → Nat
  | [] => 0
  | b :: bs => b.toNat + 256 * ofBytes bs

/-- Sign extension of the low w bits of a number, as an integer. -/
def sext (w v : Nat) : Int :=
  let u := v % 2 ^ w
  if 2 ^ w ≤ 2 * u then (u : Int) - (2 ^ w : Nat) else u

/-- The low w bits of an integer. -/
def wrap (w : Nat) (x : Int) : Nat := (x % ((2 ^ w : Nat) : Int)).toNat

/-- A lane mask from a condition. -/
def maskOf (p : Nat → Bool) : BitVec 32 :=
  (List.range 32).foldl (fun m k => if p k then m ||| (1#32 <<< k) else m) 0

/-- The lanes of a mask, ascending. -/
def lanesOf (m : BitVec 32) : List Nat := (List.range 32).filter fun k => m.getLsbD k

/-- The largest index of a condition below n, for the highest-numbered lane. -/
def lastOf (l : List Nat) : Option Nat := l.getLast?

/-- Bytes of a line in a store keyed by offset in the line. -/
def lineBytes (c : Cells) (off n : Nat) : List Byte := (List.range n).map fun k => Sp.get c (off + k)

/-- Write bytes into a store from an address. -/
def putBytes (c : Cells) (a : Nat) (bs : List Byte) : Cells :=
  (bs.zipIdx).foldl (fun c p => Sp.set c (a + p.2) p.1) c

/-- The difference of two sequence numbers, and the order of R461. -/
def seqLe (s t : Word) : Bool := decide ((t - s).toNat < 2 ^ 31)

end Sys2Proof.Machine
end

