-- ==== Sys2Proof/Machine/Float.lean ====
section
/-! DEFINITION. Number formats and rounding (R73 to R87, R134): exact values, rounding once under RM with SAT and FZ, the
stochastic-rounding generator, the narrow formats, block scales, and the functions of R134 to `Config.precision` bits. -/

namespace Sys2Proof.Machine

open Sys2Proof

/-- A format with sign, exponent and mantissa (R73): mantissa bits, bias, code of max, whether max is followed by infinity. -/
structure Fmt where
  width : Nat
  mant : Nat
  bias : Nat
  maxCode : Nat
  ieee : Bool
  nan : Nat
  deriving DecidableEq, Repr

def fp64 : Fmt := ⟨64, 52, 1023, 0x7FEFFFFFFFFFFFFF, true, 0x7FF8000000000000⟩
def fp32 : Fmt := ⟨32, 23, 127, 0x7F7FFFFF, true, 0x7FC00000⟩
def fp16 : Fmt := ⟨16, 10, 15, 0x7BFF, true, 0x7E00⟩
def bf16 : Fmt := ⟨16, 7, 127, 0x7F7F, true, 0x7FC0⟩
def e4m3 : Fmt := ⟨8, 3, 7, 0x7E, false, 0x7F⟩
def e5m2 : Fmt := ⟨8, 2, 15, 0x7B, false, 0x7F⟩
def e2m1 : Fmt := ⟨4, 1, 1, 7, false, 0⟩

/-- A value: NaN, an infinity, or (−1)^neg · m · 2^e. -/
inductive FVal where
  | nan
  | inf (neg : Bool)
  | fin (neg : Bool) (m : Nat) (e : Int)
  deriving DecidableEq, Repr

/-- A magnitude before rounding: m · 2^e, or, when `more`, a value strictly between it and (m + 1) · 2^e. -/
structure Mag where
  m : Nat
  e : Int
  more : Bool
  deriving DecidableEq, Repr

/-- What GMODE says of rounding, and the generator's value (R77 to R79). -/
structure Rnd where
  rm : Nat
  sat : Bool
  fz : Bool
  g : Nat
  deriving DecidableEq, Repr

/-- Round to nearest, ties to even, subnormals honoured. -/
def rne : Rnd := ⟨0, false, false, 0⟩

/-- The code without its sign bit. -/
def Fmt.mag (f : Fmt) (c : Nat) : Nat := c % 2 ^ (f.width - 1)
def Fmt.neg (f : Fmt) (c : Nat) : Bool := c.testBit (f.width - 1)
def Fmt.sign (f : Fmt) (neg : Bool) (c : Nat) : Nat := if neg then c + 2 ^ (f.width - 1) else c

/-- The exponent of the unit in the last place of a subnormal. -/
def Fmt.emin (f : Fmt) : Int := 1 - (f.bias : Int) - (f.mant : Int)

/-- The value of a code (R73): E5M2 takes its infinity codes as input; E4M3 and E2M1 have none. -/
def Fmt.value (f : Fmt) (c : Nat) : FVal :=
  let a := f.mag c
  let n := f.neg c
  if f.width = 4 then
    (if a / 2 = 0 then .fin n (a % 2) f.emin else .fin n (2 + a % 2) (f.emin + (a / 2 : Nat) - 1))
  else if f.width = 8 && f.mant = 3 then
    (if a = 0x7F then .nan else
     if a / 8 = 0 then .fin n (a % 8) f.emin else .fin n (8 + a % 8) (f.emin + (a / 8 : Nat) - 1))
  else
    let ex := a / 2 ^ f.mant
    let fr := a % 2 ^ f.mant
    if ex = 2 ^ (f.width - 1 - f.mant) - 1 then (if fr = 0 then .inf n else .nan)
    else if ex = 0 then .fin n fr f.emin
    else .fin n (2 ^ f.mant + fr) (f.emin + (ex : Nat) - 1)

/-- A subnormal code. -/
def Fmt.subnormal (f : Fmt) (c : Nat) : Bool := decide (f.mag c ≠ 0) && decide (f.mag c < 2 ^ f.mant)

/-- An input under FZ (R76). -/
def Fmt.input (f : Fmt) (fz : Bool) (c : Nat) : FVal :=
  if fz && f.subnormal c then .fin (f.neg c) 0 0 else f.value c

/-- Whether a magnitude between a (the quotient q with remainder r of s, and more) rounds up to b (R77). `odd` is bit 0 of a's code. -/
def roundsUp (k : Rnd) (neg : Bool) (odd : Bool) (r s : Nat) (more : Bool) : Bool :=
  if r = 0 ∧ more = false then false
  else match k.rm with
    | 0 => decide (s < 2 * r) || (decide (2 * r = s) && (more || odd))
    | 1 => false
    | 2 => neg
    | 3 => !neg
    | 4 => decide (s ≤ 2 * r)
    | _ => decide (2 ^ 32 ≤ 2 ^ 32 * r / s + k.g)

/-- An overflow of an IEEE format whose exact value is at or beyond b (R78). -/
def overflowUp (k : Rnd) (neg : Bool) : Bool :=
  match k.rm with
  | 0 => true | 1 => false | 2 => neg | 3 => !neg | 4 => true | _ => true

/-- Round a magnitude into a format (R77, R78), giving the code; FZ flushes a subnormal result of an IEEE format (R76). -/
def Fmt.round (f : Fmt) (k : Rnd) (neg : Bool) (v : Mag) : Nat :=
  let inf := f.maxCode + 1
  let beyond (up : Bool) : Nat := f.sign neg (if f.ieee && !k.sat && up then inf else f.maxCode)
  if v.m = 0 ∧ v.more = false then f.sign neg 0
  else
    let top : Int := (Nat.log2 v.m : Int) + v.e
    let u : Int := max (if v.m = 0 then f.emin else top - (f.mant : Int)) f.emin
    let sh := (u - v.e).toNat
    let m := v.m * 2 ^ (v.e - u).toNat
    let q := m / 2 ^ sh
    let r := m % 2 ^ sh
    let code (n : Nat) : Nat := (u - f.emin).toNat * 2 ^ f.mant + n
    if f.maxCode < code q then beyond (overflowUp k neg)
    else
      let c := code (if roundsUp k neg (decide (code q % 2 = 1)) r (2 ^ sh) v.more then q + 1 else q)
      if f.maxCode < c then beyond true
      else if k.fz && f.ieee && decide (c < 2 ^ f.mant) then f.sign neg 0
      else f.sign neg c

/-- Deliver a value: canonical NaN, an exact infinity, or a rounded number. Narrow formats turn infinities into max (R78, R81). -/
def Fmt.deliver (f : Fmt) (k : Rnd) : FVal → Nat
  | .nan => f.nan
  | .inf neg => f.sign neg (if f.ieee then f.maxCode + 1 else f.maxCode)
  | .fin neg m e => f.round k neg ⟨m, e, false⟩

/-! ### The generator (R79) -/

/-- A step of the stochastic-rounding generator. -/
def genStep (g : Word) : Word :=
  let g := g ^^^ (g <<< 13)
  let g := g ^^^ (g >>> 17)
  g ^^^ (g <<< 5)

/-- The seed of a lane's generator. -/
def genSeed (seed : Word) (block gang lane : Nat) : Word :=
  let g := seed ^^^ word ((2048 * block + 32 * gang + lane) * 0x9E3779B9)
  if g = 0 then 1 else g

/-! ### Arithmetic on exact values -/

/-- A signed significand at an exponent. -/
def scaleTo (neg : Bool) (m : Nat) (e d : Int) : Int := (if neg then -(m : Int) else m) * ((2 ^ (e - d).toNat : Nat) : Int)

/-- Exact sum (R127): an exact zero of operands of opposite signs is +0, or −0 under RDN. -/
def FVal.add (rm : Nat) : FVal → FVal → FVal
  | .nan, _ => .nan
  | _, .nan => .nan
  | .inf a, .inf b => if a == b then .inf a else .nan
  | .inf a, _ => .inf a
  | _, .inf b => .inf b
  | .fin na ma ea, .fin nb mb eb =>
    let d := min ea eb
    let t := scaleTo na ma ea d + scaleTo nb mb eb d
    if t = 0 then .fin (if na == nb then na else decide (rm = 2)) 0 0
    else .fin (decide (t < 0)) t.natAbs d

def FVal.negate : FVal → FVal
  | .nan => .nan
  | .inf n => .inf !n
  | .fin n m e => .fin (!n) m e

/-- Exact product (R90: zero times infinity is NaN). -/
def FVal.mul : FVal → FVal → FVal
  | .nan, _ => .nan
  | _, .nan => .nan
  | .inf a, .inf b => .inf (a != b)
  | .inf a, .fin b m _ => if m = 0 then .nan else .inf (a != b)
  | .fin a m _, .inf b => if m = 0 then .nan else .inf (a != b)
  | .fin a ma ea, .fin b mb eb => .fin (a != b) (ma * mb) (ea + eb)

def FVal.abs : FVal → FVal
  | .nan => .nan
  | .inf _ => .inf false
  | .fin _ m e => .fin false m e

/-- Order of two values that are not NaN: whether the first is below the second. −0 and +0 are equal. -/
def FVal.lt : FVal → FVal → Bool
  | .nan, _ => false
  | _, .nan => false
  | .inf a, .inf b => a && !b
  | .inf a, _ => a
  | _, .inf b => !b
  | .fin na ma ea, .fin nb mb eb =>
    let d := min ea eb
    decide (scaleTo na ma ea d < scaleTo nb mb eb d)

def FVal.isNan : FVal → Bool
  | .nan => true
  | _ => false

def FVal.isZero : FVal → Bool
  | .fin _ 0 _ => true
  | _ => false

def FVal.isNeg : FVal → Bool
  | .nan => false
  | .inf n => n
  | .fin n _ _ => n

/-- The 2019 minimum, −0 below +0 (R75). -/
def FVal.min (a b : FVal) : FVal :=
  if a.isNan || b.isNan then .nan
  else if a.lt b then a else if b.lt a then b else if a.isNeg then a else b

def FVal.max (a b : FVal) : FVal :=
  if a.isNan || b.isNan then .nan
  else if a.lt b then b else if b.lt a then a else if a.isNeg then b else a

/-- Round an exact value to an integer under RM (R77), giving sign and magnitude. -/
def roundInt (k : Rnd) (neg : Bool) (m : Nat) (e : Int) : Nat :=
  if 0 ≤ e then m * 2 ^ e.toNat
  else
    let s := 2 ^ (-e).toNat
    let q := m / s
    if roundsUp k neg (decide (q % 2 = 1)) (m % s) s false then q + 1 else q

/-- An integral value of a float (R135). A result of zero keeps the sign of the source. -/
def FVal.integral (k : Rnd) : FVal → FVal
  | .fin n m e => .fin n (roundInt k n m e) 0
  | v => v

/-- The integer an exact value rounds to, clamped to a range; NaN gives 0 (R82). -/
def FVal.toInt (k : Rnd) (lo hi : Int) : FVal → Int
  | .nan => 0
  | .inf n => if n then lo else hi
  | .fin n m e =>
    let r : Int := roundInt k n m e
    let v := if n then -r else r
    Max.max lo (Min.min hi v)

/-- The class mask of a code (R135). -/
def Fmt.fclass (f : Fmt) (c : Nat) : Nat :=
  let n := f.neg c
  match f.value c with
  | .inf _ => if n then 2 ^ 0 else 2 ^ 7
  | .nan => if c.testBit (f.mant - 1) then 2 ^ 9 else 2 ^ 8
  | .fin _ m _ =>
    if m = 0 then (if n then 2 ^ 3 else 2 ^ 4)
    else if f.subnormal c then (if n then 2 ^ 2 else 2 ^ 5)
    else (if n then 2 ^ 1 else 2 ^ 6)

/-! ### TF8 (R83, R84) -/

/-- The magnitude of a TF8 code's low seven bits, in units of 2^-11. -/
def tf8Mag (m : Nat) : Nat :=
  if 0x40 ≤ m then 2 ^ (15 + m / 16 % 4) * (16 + m % 16)
  else if 0x20 ≤ m then 2 ^ (12 + m / 8 % 4) * (8 + m % 8)
  else if 0x10 ≤ m then 2 ^ (9 + m / 4 % 4) * (4 + m % 4)
  else if 0x08 ≤ m then 2 ^ (6 + m / 2 % 4) * (2 + m % 2)
  else if 0x04 ≤ m then 2 ^ (3 + m % 4)
  else if 0x02 ≤ m then 2 ^ (1 + m % 2)
  else m

def tf8Value (c : Nat) : FVal :=
  if c % 128 = 0 then (if c / 128 % 2 = 1 then .nan else .fin false 0 0)
  else .fin (decide (c / 128 % 2 = 1)) (tf8Mag (c % 128)) (-11)

/-- Round an exact magnitude m · 2^e into TF8 (R84). -/
def tf8Round (k : Rnd) (neg : Bool) (m : Nat) (e : Int) : Nat :=
  let d : Int := min e (-11)
  let v := m * 2 ^ (e - d).toNat
  let val (c : Nat) : Nat := tf8Mag c * 2 ^ (-11 - d).toNat
  let a := ((List.range 128).filter fun c => decide (val c ≤ v)).getLast?.getD 0
  let c := if a = 127 then 127
           else if roundsUp k neg (decide (a % 2 = 1)) (v - val a) (val (a + 1) - val a) false then a + 1 else a
  if c = 0 then 0 else if neg then c + 128 else c

/-- An exact value into TF8 (R81). -/
def tf8Deliver (k : Rnd) : FVal → Nat
  | .nan => 0x80
  | .inf n => if n then 0xFF else 0x7F
  | .fin n m e => if m = 0 then 0 else tf8Round k n m e

/-! ### Block scales (R85 to R87) -/

/-- floor(log2) of a nonzero magnitude m · 2^e. -/
def log2Floor (m : Nat) (e : Int) : Int := (Nat.log2 m : Int) + e

/-- The largest floor(log2 |v|) of a list of values; none when every value is zero. -/
def maxLog2 (vs : List FVal) : Option Int :=
  vs.foldl (fun b v => match v with
    | .fin _ m e => if m = 0 then b else some (match b with | none => log2Floor m e | some x => Max.max x (log2Floor m e))
    | _ => b) none

/-- The scale of a block by the OCP rule (R86). -/
def blockScale (emax : Nat) (vs : List FVal) : Nat :=
  if vs.any fun v => match v with | .fin .. => false | _ => true then 255
  else match maxLog2 vs with
    | none => 0
    | some x => (min (max (x - (emax : Int) + 127) 0) 254).toNat

/-- emax of an element format (R88). -/
def emaxOf (fmt : Nat) : Nat :=
  match fmt with
  | 0x04 => 8 | 0x05 => 15 | 0x06 => 11 | 0x16 => 11 | 0x09 => 2 | 0x19 => 2 | _ => 0

/-- An exact value into a narrow element format (R81, R87). -/
def narrowDeliver (fmt : Nat) (k : Rnd) (v : FVal) : Nat :=
  match fmt with
  | 0x04 => e4m3.deliver k v
  | 0x05 => e5m2.deliver k v
  | 0x06 => tf8Deliver k v
  | 0x16 => tf8Deliver k v
  | _ => match v with
    | .nan => 0
    | v => e2m1.deliver k v

/-- One element of a block under its scale (R87). -/
def quantise (fmt scale : Nat) (k : Rnd) (v : FVal) : Nat :=
  if scale = 255 then (if fmt = 0x07 then 0 else narrowDeliver fmt k .nan)
  else match v with
    | .fin n m e =>
      let e := e - ((scale : Int) - 127)
      if fmt = 0x07 then
        let r := Nat.min 127 (roundInt k n m (e + 6))
        if n then (256 - r) % 256 else r
      else narrowDeliver fmt k (.fin n m e)
    | v => narrowDeliver fmt k v

/-! ### The functions of R134 -/

/-- Integer square root, one bit a step. -/
def isqrtFrom : Nat → Nat → Nat → Nat
  | 0, _, r => r
  | k + 1, n, r => if (r + 2 ^ k) * (r + 2 ^ k) ≤ n then isqrtFrom k n (r + 2 ^ k) else isqrtFrom k n r

def isqrt (n : Nat) : Nat := isqrtFrom (Nat.log2 n / 2 + 1) n 0

/-- The fixed-point one. -/
def fxOne : Nat := 2 ^ Config.precision

/-- Σ over k of (−1)^k-signed or plain terms x^(2k+1)/(2k+1): `sgn` false adds all (atanh), true alternates (atan); x = 1/n. -/
def atanSum (n : Nat) (alt : Bool) : Nat → Nat → Nat → Int → Int
  | 0, _, _, acc => acc
  | f + 1, k, t, acc =>
    let term : Int := (t / (2 * k + 1) : Nat)
    atanSum n alt f (k + 1) (t / (n * n)) (if alt && k % 2 == 1 then acc - term else acc + term)

/-- ln 2 = 2 atanh(1/3). -/
def ln2Fx : Nat := (2 * atanSum 3 false 140 0 (fxOne / 3) 0).toNat

/-- π = 16 atan(1/5) − 4 atan(1/239). -/
def piFx : Nat := (16 * atanSum 5 true 100 0 (fxOne / 5) 0 - 4 * atanSum 239 true 40 0 (fxOne / 239) 0).toNat

/-- Taylor sum of x^k/k! from a term, k rising by `stepK`, alternating when asked. -/
def taylor (xp : Nat) (stepK : Nat) (alt : Bool) : Nat → Nat → Nat → Bool → Int → Int
  | 0, _, _, _, acc => acc
  | f + 1, k, t, neg, acc =>
    let nt := t * xp / fxOne
    let nt := if stepK = 1 then nt / (k + 1) else nt / ((k + 1) * (k + 2))
    taylor xp stepK alt f (k + stepK) nt (alt && !neg) (if neg then acc - t else acc + t)

/-- e^x for a fixed-point 0 ≤ x < 2. -/
def expFx (x : Nat) : Nat := (taylor x 1 false 120 0 fxOne false 0).toNat

/-- sin and cos of a fixed-point 0 ≤ x ≤ π/4. -/
def sinFx (x : Nat) : Nat := (taylor (x * x / fxOne) 2 true 60 1 x false 0).toNat
def cosFx (x : Nat) : Nat := (taylor (x * x / fxOne) 2 true 60 0 fxOne false 0).toNat

/-- The fixed-point value of m · 2^e, when e is not too small. -/
def fxOf (m : Nat) (e : Int) : Nat :=
  let k := e + (Config.precision : Int)
  if 0 ≤ k then m * 2 ^ k.toNat else m / 2 ^ (-k).toNat

/-- A fixed-point approximation as a magnitude that is not exact. -/
def approx (v : Nat) : Mag := ⟨v, -(Config.precision : Int), true⟩

/-- What a function of R134 gives: a special value, or a sign and magnitude to be rounded once. -/
inductive FnRes where
  | special (v : FVal)
  | mag (neg : Bool) (v : Mag)
  deriving DecidableEq, Repr

/-- 1/x. -/
def fnRcp : FVal → FnRes
  | .nan => .special .nan
  | .inf n => .special (.fin n 0 0)
  | .fin n m e =>
    if m = 0 then .special (.inf n)
    else
      let k := Nat.log2 m + Config.precision
      .mag n ⟨2 ^ k / m, -(k : Int) - e, decide (2 ^ k % m ≠ 0)⟩

/-- √x as a magnitude, with e made even. -/
def sqrtMag (m : Nat) (e : Int) : Mag :=
  let sh := 2 * Config.precision
  let odd := e % 2 ≠ 0
  let m := if odd then 2 * m else m
  let e := if odd then e - 1 else e
  let big := m * 2 ^ sh
  let r := isqrt big
  ⟨r, e / 2 - (Config.precision : Int), decide (r * r ≠ big)⟩

def fnSqrt : FVal → FnRes
  | .nan => .special .nan
  | .inf n => .special (if n then .nan else .inf false)
  | .fin n m e => if m = 0 then .special (.fin n 0 0) else if n then .special .nan else .mag false (sqrtMag m e)

/-- 1/√x. -/
def fnRsq : FVal → FnRes
  | .nan => .special .nan
  | .inf n => .special (if n then .nan else .fin false 0 0)
  | .fin n m e =>
    if m = 0 then .special (.inf n) else if n then .special .nan
    else
      -- 1/√(m·2^e) = √(2^(2k)/m) · 2^(−k) · 2^(−e/2), with e even
      let odd := e % 2 ≠ 0
      let m := if odd then 2 * m else m
      let e := if odd then e - 1 else e
      let k := Nat.log2 m + Config.precision
      let q := 2 ^ (2 * k) / m
      let r := isqrt q
      .mag false ⟨r, -(k : Int) - e / 2, decide (r * r * m ≠ 2 ^ (2 * k))⟩

/-- 2^x. -/
def fnExp2 : FVal → FnRes
  | .nan => .special .nan
  | .inf n => .special (if n then .fin false 0 0 else .inf false)
  | .fin n m e =>
    if m = 0 then .mag false ⟨1, 0, false⟩
    else if 0 ≤ e then
      let x := Nat.min (m * 2 ^ (Int.toNat (min e 20))) 100000
      .mag false ⟨1, if n then -(x : Int) else x, false⟩
    else
      let s := 2 ^ (-e).toNat
      let ip := Nat.min (m / s) 100000
      let fr := m % s
      if fr = 0 then .mag false ⟨1, if n then -(ip : Int) else ip, false⟩
      else
        -- x = ip + fr/s, or −x = (−ip − 1) + (s − fr)/s
        let i : Int := if n then -(ip : Int) - 1 else ip
        let f := if n then s - fr else fr
        let v := expFx (f * ln2Fx / s)
        .mag false ⟨v, i - (Config.precision : Int), true⟩

/-- The bits of log2 y for 1 ≤ y < 2, by squaring. -/
def log2Bits : Nat → Nat → Nat → Nat
  | 0, _, acc => acc
  | f + 1, y, acc =>
    let y := y * y / fxOne
    if 2 * fxOne ≤ y then log2Bits f (y / 2) (2 * acc + 1) else log2Bits f y (2 * acc)

/-- log2 x: the exponent plus 160 bits of the logarithm of the significand. -/
def fnLog2 : FVal → FnRes
  | .nan => .special .nan
  | .inf n => .special (if n then .nan else .inf false)
  | .fin n m e =>
    if m = 0 then .special (.inf true) else if n then .special .nan
    else
      let l := Nat.log2 m
      let x : Int := (l : Int) + e
      if m = 2 ^ l then .special (.fin (decide (x < 0)) x.natAbs 0)
      else
        let fr := log2Bits 160 (m * fxOne / 2 ^ l) 0
        let t : Int := x * ((2 ^ 160 : Nat) : Int) + fr
        if 0 ≤ t then .mag false ⟨t.toNat, -160, true⟩ else .mag true ⟨(-t - 1).toNat, -160, true⟩

/-- sin(2π t) for t = r/s of one turn: octant by octant; exact at multiples of a quarter turn. -/
def sinTurn (r s : Nat) : FnRes :=
  let q := 4 * r / s
  let f := 4 * r % s            -- quarter turn fraction f/s
  if f = 0 then .special (match q with | 1 => .fin false 1 0 | 3 => .fin true 1 0 | _ => .fin false 0 0)
  else
    let f := if q % 2 = 1 then s - f else f
    -- sin(π/2 · f/s)
    let v := if 2 * f ≤ s then sinFx (piFx * f / (2 * s)) else cosFx (piFx * (s - f) / (2 * s))
    .mag (decide (2 ≤ q)) (approx v)

def fnSin : FVal → FnRes
  | .fin n m e =>
    if m = 0 then .special (.fin n 0 0)
    else if 0 ≤ e then .special (.fin false 0 0)
    else
      let s := 2 ^ (-e).toNat
      match sinTurn (m % s) s with
      | .mag g v => .mag (g != n) v
      | .special (.fin g k x) => .special (.fin (if k = 0 then false else g != n) k x)
      | r => r
  | _ => .special .nan

def fnCos : FVal → FnRes
  | .fin _ m e =>
    if m = 0 then .special (.fin false 1 0)
    else if 0 ≤ e then .special (.fin false 1 0)
    else
      let s := 2 ^ (-e).toNat
      -- cos t = sin(t + a quarter turn)
      sinTurn ((4 * (m % s) + s) % (4 * s)) (4 * s)
  | _ => .special .nan

/-- tanh x = (E − 1)/(E + 1), E = e^2x. -/
def fnTanh : FVal → FnRes
  | .nan => .special .nan
  | .inf n => .special (.fin n 1 0)
  | .fin n m e =>
    if m = 0 then .special (.fin n 0 0)
    else if 64 * fxOne ≤ fxOf m (min e 300) then .mag n ⟨2 ^ 200 - 1, -200, true⟩
    else
      let x := fxOf m e                           -- below 64
      let y := expFx (2 * x / 64)                 -- e^(2x/64), 2x/64 < 2
      let e2 := (List.range 6).foldl (fun y _ => y * y / fxOne) y
      .mag n (approx ((e2 - fxOne) * fxOne / (e2 + fxOne)))

/-- Round a function's result once. -/
def Fmt.fnDeliver (f : Fmt) (k : Rnd) : FnRes → Nat
  | .special v => f.deliver k v
  | .mag n v => f.round k n v

end Sys2Proof.Machine
end

