-- ==== Sys2Proof/Machine/OperandTable.lean ====
section
/-! DEFINITION. What the words of the instruction set say of their operands: register kinds, spans, routes (R52 to R55, R59, R179,
R180, R196, R199, R245, R323, R395, R410, R411), and the numbers, widths and access codes of the state registers (R98 to R101,
R164, R208, R247, R414, R269, R280, R357, R390, R415, R436, R454). -/

namespace Sys2Proof.Machine

open Sys2Proof

/-- The kinds of operand of R52. -/
inductive Kind where
  | v | s | z | q
  deriving DecidableEq, Repr

/-- How many registers an operand spans: a fixed number, one or a pair by TY (R123), or an atomic's D (R323). -/
inductive Span where
  | n (k : Nat)
  | ty
  | atom (aop : BitVec 4)
  deriving DecidableEq, Repr

/-- An operand of an instruction: its field as XINFO numbers it (0 D or T, 1 A, 2 B, 3 the implicit D of MAD and MSB), its register
code, the kinds accepted, its span, whether it is read and written, its route code, and whether it may carry one. -/
structure Opnd where
  field : Nat
  reg : Reg
  kinds : List Kind
  span : Span
  read : Bool
  write : Bool
  route : BitVec 2
  routed : Bool
  deriving DecidableEq, Repr

/-- The kind of an operand code (R52). -/
def kindOf (r : Reg) : Kind :=
  if r.toNat < 0x60 then .v else if r.toNat < 0x7E then .s else if r.toNat = 0x7E then .z else .q

def vszq : List Kind := [.v, .s, .z, .q]
def vsz : List Kind := [.v, .s, .z]
def szq : List Kind := [.s, .z, .q]
def vz : List Kind := [.v, .z]
def sz : List Kind := [.s, .z]

/-- F64, I64 and N64 (R74). -/
def wideTy (ty : BitVec 5) : Bool := ty.toNat = 0x09 || ty.toNat = 0x0A || ty.toNat = 0x0B

/-- The float types (R124). -/
def floatTy (ty : BitVec 5) : Bool := ty.toNat = 0x02 || ty.toNat = 0x05 || ty.toNat = 0x06 || ty.toNat = 0x09

/-- The unsigned integer types (R74). -/
def unsignedTy (ty : BitVec 5) : Bool :=
  ty.toNat = 0x01 || ty.toNat = 0x04 || ty.toNat = 0x08 || ty.toNat = 0x0B

/-- The number of registers a span names under TY (R123, R323). -/
def Span.count (ty : BitVec 5) : Span → Nat
  | .n k => k
  | .ty => if wideTy ty then 2 else 1
  | .atom aop => if aop.toNat = 8 then 1 else (if wideTy ty then 2 else 1) * (if aop.toNat = 7 then 2 else 1)

/-- The registers a conversion reads and writes (R65): source and destination spans. -/
def cvtSpan (code : BitVec 7) : Nat × Nat :=
  match code.toNat with
  | 0x04 => (1, 2) | 0x05 => (2, 1) | 0x0A => (2, 2) | 0x0B => (2, 2)
  | 0x0C => (2, 1) | 0x0D => (1, 2) | 0x0E => (2, 1) | 0x0F => (1, 2)
  | 0x10 => (4, 1) | 0x11 => (1, 4) | 0x12 => (4, 1) | 0x13 => (1, 4) | 0x14 => (4, 1) | 0x15 => (1, 4)
  | 0x16 => (8, 1) | 0x17 => (1, 8) | 0x18 => (4, 1) | 0x19 => (1, 4) | 0x1A => (8, 1) | 0x1B => (1, 8)
  | _ => (1, 1)

/-- Bytes of an M-form access (R56, R180). -/
def kindSize (kind : BitVec 3) : Nat :=
  match kind.toNat with
  | 0 => 1 | 1 => 1 | 2 => 2 | 3 => 2 | 4 => 4 | 5 => 8 | _ => 16

/-- Registers of an M-form access (R180). -/
def kindRegs (kind : BitVec 3) : Nat :=
  match kind.toNat with
  | 5 => 2 | 6 => 4 | _ => 1

/-! ### State registers -/

/-- Access codes of R100. -/
inductive Access where
  | rw | r | rsw | s
  deriving DecidableEq, Repr

/-- A state register: number, 64 bits or 32, access. -/
structure RegInfo where
  num : Nat
  wide : Bool
  acc : Access
  deriving DecidableEq, Repr

/-- A run of n registers from a number, `step` apart. -/
def regRun (num n step : Nat) (wide : Bool) (acc : Access) : List RegInfo :=
  (List.range n).map fun k => ⟨num + step * k, wide, acc⟩

/-- The state registers of RDS and WRS (R98, R100, R101, R164, R208, R247, R414). -/
def stateRegs : List RegInfo :=
  [⟨0x000, false, .rw⟩, ⟨0x001, false, .rw⟩, ⟨0x002, false, .rw⟩, ⟨0x003, false, .rsw⟩,
   ⟨0x008, true, .rsw⟩, ⟨0x00A, true, .rsw⟩, ⟨0x00C, false, .rsw⟩, ⟨0x010, false, .rw⟩]
  ++ regRun 0x018 8 1 false .rw ++ regRun 0x020 8 2 true .rw ++ regRun 0x030 8 1 false .rw ++ regRun 0x038 8 1 false .rw
  ++ [⟨0x040, false, .r⟩, ⟨0x041, false, .r⟩, ⟨0x042, false, .r⟩, ⟨0x044, false, .rw⟩, ⟨0x045, false, .rw⟩,
      ⟨0x046, false, .rw⟩, ⟨0x048, false, .r⟩, ⟨0x049, false, .r⟩, ⟨0x04A, false, .r⟩, ⟨0x04C, true, .r⟩]
  ++ [⟨0x080, false, .r⟩, ⟨0x081, false, .r⟩, ⟨0x082, true, .r⟩, ⟨0x084, false, .r⟩, ⟨0x085, false, .r⟩, ⟨0x086, false, .r⟩,
      ⟨0x088, false, .s⟩, ⟨0x08A, false, .r⟩, ⟨0x08C, false, .r⟩, ⟨0x08D, false, .r⟩]
  ++ regRun 0x090 16 1 false .r ++ regRun 0x0A0 4 1 false .r
  ++ [⟨0x0C0, false, .r⟩, ⟨0x0C1, false, .r⟩, ⟨0x0C2, false, .rw⟩, ⟨0x0C3, false, .r⟩, ⟨0x0C4, false, .r⟩]
  ++ [⟨0x100, false, .r⟩, ⟨0x101, false, .r⟩, ⟨0x102, false, .r⟩, ⟨0x103, false, .r⟩, ⟨0x104, false, .r⟩, ⟨0x105, false, .r⟩,
      ⟨0x106, false, .rw⟩, ⟨0x107, false, .r⟩]
  ++ [⟨0x180, false, .rw⟩, ⟨0x181, false, .r⟩, ⟨0x182, false, .r⟩, ⟨0x183, false, .r⟩, ⟨0x184, false, .r⟩, ⟨0x188, false, .rw⟩,
      ⟨0x189, false, .rw⟩, ⟨0x18A, true, .r⟩, ⟨0x18C, false, .r⟩, ⟨0x18D, false, .r⟩, ⟨0x18E, true, .rw⟩, ⟨0x190, false, .rw⟩,
      ⟨0x191, false, .rw⟩, ⟨0x192, false, .rw⟩, ⟨0x193, false, .r⟩]
  ++ [⟨0x400, true, .s⟩, ⟨0x402, false, .s⟩, ⟨0x403, false, .s⟩, ⟨0x404, false, .s⟩, ⟨0x405, false, .s⟩, ⟨0x406, false, .s⟩]

/-- The privileged state of RDP and WRP (R99, R269, R280, R357, R390, R415, R436, R454). -/
def privRegs : List RegInfo :=
  [⟨0x060, false, .r⟩, ⟨0x061, false, .s⟩, ⟨0x062, false, .r⟩, ⟨0x063, false, .r⟩,
   ⟨0x068, false, .s⟩, ⟨0x069, false, .r⟩, ⟨0x06A, false, .s⟩, ⟨0x06B, false, .s⟩, ⟨0x06C, false, .s⟩, ⟨0x06D, false, .r⟩,
   ⟨0x06E, false, .r⟩, ⟨0x070, true, .s⟩, ⟨0x072, true, .s⟩, ⟨0x074, true, .s⟩, ⟨0x076, false, .s⟩, ⟨0x077, false, .s⟩,
   ⟨0x078, false, .s⟩, ⟨0x079, false, .s⟩, ⟨0x07A, false, .r⟩, ⟨0x07B, false, .r⟩]
  ++ [⟨0x080, true, .s⟩, ⟨0x082, false, .r⟩, ⟨0x083, false, .s⟩, ⟨0x084, true, .r⟩, ⟨0x086, true, .r⟩, ⟨0x088, true, .r⟩,
      ⟨0x08A, false, .r⟩, ⟨0x08B, false, .r⟩, ⟨0x08C, true, .r⟩, ⟨0x08E, false, .r⟩]
  ++ [⟨0x090, false, .s⟩, ⟨0x091, false, .s⟩, ⟨0x092, false, .s⟩, ⟨0x093, false, .s⟩, ⟨0x094, true, .s⟩, ⟨0x096, false, .s⟩,
      ⟨0x097, false, .s⟩, ⟨0x098, false, .s⟩, ⟨0x099, false, .r⟩, ⟨0x09A, true, .s⟩, ⟨0x09C, true, .s⟩, ⟨0x09E, true, .s⟩,
      ⟨0x0A0, false, .s⟩, ⟨0x0A1, false, .s⟩, ⟨0x0A2, false, .s⟩, ⟨0x0A4, true, .s⟩, ⟨0x0A6, true, .s⟩, ⟨0x0A8, true, .s⟩,
      ⟨0x0AA, true, .s⟩, ⟨0x0AC, false, .r⟩]
  ++ [⟨0x0B0, true, .r⟩, ⟨0x0B2, false, .r⟩, ⟨0x0B3, false, .r⟩, ⟨0x0B4, true, .r⟩, ⟨0x0B6, true, .r⟩, ⟨0x0B8, false, .r⟩,
      ⟨0x0B9, false, .s⟩, ⟨0x0BA, false, .r⟩]
  ++ [⟨0x0C0, false, .s⟩, ⟨0x0C1, false, .r⟩, ⟨0x0C2, false, .r⟩, ⟨0x0C3, false, .s⟩, ⟨0x0C4, false, .s⟩, ⟨0x0C5, false, .r⟩,
      ⟨0x0C6, false, .r⟩]

def stateReg? (k : BitVec 11) : Option RegInfo := stateRegs.find? (·.num == k.toNat)
def privReg? (k : BitVec 11) : Option RegInfo := privRegs.find? (·.num == k.toNat)
def wideReg (k : BitVec 11) : Bool := (stateReg? k).elim false (·.wide)
def widePriv (k : BitVec 11) : Bool := (privReg? k).elim false (·.wide)

/-- PRED and RNG hold one value per lane (R100). -/
def laneReg (k : BitVec 11) : Bool := k.toNat = 0x044 || k.toNat = 0x045

/-! ### Operands -/

/-- The register operands of an instruction. A destination that must be v may be z, whose write is discarded (R52; log entry 95). -/
def opnds : Instr → List Opnd
  | .bri a => [⟨1, a, [.v, .s], .n 2, true, false, 0, false⟩]
  | .rds d k => [⟨0, d, if laneReg k then vz else vsz, .n (if wideReg k then 2 else 1), false, true, 0, false⟩]
  | .wrs a k => [⟨1, a, if laneReg k then vszq else szq, .n (if wideReg k then 2 else 1), true, false, 0, false⟩]
  | .add d a ra b rb => [⟨0, d, vsz, .ty, false, true, 0, false⟩, ⟨1, a, vszq, .ty, true, false, ra, true⟩, ⟨2, b, vszq, .ty, true, false, rb, true⟩]
  | .sub d a ra b rb => [⟨0, d, vsz, .ty, false, true, 0, false⟩, ⟨1, a, vszq, .ty, true, false, ra, true⟩, ⟨2, b, vszq, .ty, true, false, rb, true⟩]
  | .mul d a ra b rb => [⟨0, d, vsz, .ty, false, true, 0, false⟩, ⟨1, a, vszq, .ty, true, false, ra, true⟩, ⟨2, b, vszq, .ty, true, false, rb, true⟩]
  | .mulh d a ra b rb => [⟨0, d, vsz, .ty, false, true, 0, false⟩, ⟨1, a, vszq, .ty, true, false, ra, true⟩, ⟨2, b, vszq, .ty, true, false, rb, true⟩]
  | .mad d a ra b rb => [⟨3, d, vsz, .ty, true, true, 0, false⟩, ⟨1, a, vszq, .ty, true, false, ra, true⟩, ⟨2, b, vszq, .ty, true, false, rb, true⟩]
  | .msb d a ra b rb => [⟨3, d, vsz, .ty, true, true, 0, false⟩, ⟨1, a, vszq, .ty, true, false, ra, true⟩, ⟨2, b, vszq, .ty, true, false, rb, true⟩]
  | .min d a ra b rb => [⟨0, d, vsz, .ty, false, true, 0, false⟩, ⟨1, a, vszq, .ty, true, false, ra, true⟩, ⟨2, b, vszq, .ty, true, false, rb, true⟩]
  | .max d a ra b rb => [⟨0, d, vsz, .ty, false, true, 0, false⟩, ⟨1, a, vszq, .ty, true, false, ra, true⟩, ⟨2, b, vszq, .ty, true, false, rb, true⟩]
  | .and d a ra b rb => [⟨0, d, vsz, .ty, false, true, 0, false⟩, ⟨1, a, vszq, .ty, true, false, ra, true⟩, ⟨2, b, vszq, .ty, true, false, rb, true⟩]
  | .or d a ra b rb => [⟨0, d, vsz, .ty, false, true, 0, false⟩, ⟨1, a, vszq, .ty, true, false, ra, true⟩, ⟨2, b, vszq, .ty, true, false, rb, true⟩]
  | .xor d a ra b rb => [⟨0, d, vsz, .ty, false, true, 0, false⟩, ⟨1, a, vszq, .ty, true, false, ra, true⟩, ⟨2, b, vszq, .ty, true, false, rb, true⟩]
  | .andn d a ra b rb => [⟨0, d, vsz, .ty, false, true, 0, false⟩, ⟨1, a, vszq, .ty, true, false, ra, true⟩, ⟨2, b, vszq, .ty, true, false, rb, true⟩]
  | .shl d a ra b rb => [⟨0, d, vsz, .ty, false, true, 0, false⟩, ⟨1, a, vszq, .ty, true, false, ra, true⟩, ⟨2, b, vszq, .ty, true, false, rb, true⟩]
  | .shr d a ra b rb => [⟨0, d, vsz, .ty, false, true, 0, false⟩, ⟨1, a, vszq, .ty, true, false, ra, true⟩, ⟨2, b, vszq, .ty, true, false, rb, true⟩]
  | .sha d a ra b rb => [⟨0, d, vsz, .ty, false, true, 0, false⟩, ⟨1, a, vszq, .ty, true, false, ra, true⟩, ⟨2, b, vszq, .ty, true, false, rb, true⟩]
  | .rot d a ra b rb => [⟨0, d, vsz, .ty, false, true, 0, false⟩, ⟨1, a, vszq, .ty, true, false, ra, true⟩, ⟨2, b, vszq, .ty, true, false, rb, true⟩]
  | .bfe d a ra b rb => [⟨0, d, vsz, .ty, false, true, 0, false⟩, ⟨1, a, vszq, .ty, true, false, ra, true⟩, ⟨2, b, vszq, .n 1, true, false, rb, true⟩]
  | .bfi d a ra b rb => [⟨0, d, vsz, .ty, false, true, 0, false⟩, ⟨1, a, vszq, .ty, true, false, ra, true⟩, ⟨2, b, vszq, .ty, true, false, rb, true⟩]
  | .sel d a ra b rb => [⟨0, d, vsz, .ty, false, true, 0, false⟩, ⟨1, a, vszq, .ty, true, false, ra, true⟩, ⟨2, b, vszq, .ty, true, false, rb, true⟩]
  | .cmp _ _ a ra b rb => [⟨1, a, vszq, .ty, true, false, ra, true⟩, ⟨2, b, vszq, .ty, true, false, rb, true⟩]
  | .mov d a ra => [⟨0, d, vsz, .ty, false, true, 0, false⟩, ⟨1, a, vszq, .ty, true, false, ra, true⟩]
  | .not d a ra => [⟨0, d, vsz, .ty, false, true, 0, false⟩, ⟨1, a, vszq, .ty, true, false, ra, true⟩]
  | .neg d a ra => [⟨0, d, vsz, .ty, false, true, 0, false⟩, ⟨1, a, vszq, .ty, true, false, ra, true⟩]
  | .abs d a ra => [⟨0, d, vsz, .ty, false, true, 0, false⟩, ⟨1, a, vszq, .ty, true, false, ra, true⟩]
  | .clz d a ra => [⟨0, d, vsz, .ty, false, true, 0, false⟩, ⟨1, a, vszq, .ty, true, false, ra, true⟩]
  | .popc d a ra => [⟨0, d, vsz, .ty, false, true, 0, false⟩, ⟨1, a, vszq, .ty, true, false, ra, true⟩]
  | .brev d a ra => [⟨0, d, vsz, .ty, false, true, 0, false⟩, ⟨1, a, vszq, .ty, true, false, ra, true⟩]
  | .rcp d a ra => [⟨0, d, vsz, .ty, false, true, 0, false⟩, ⟨1, a, vszq, .ty, true, false, ra, true⟩]
  | .rsq d a ra => [⟨0, d, vsz, .ty, false, true, 0, false⟩, ⟨1, a, vszq, .ty, true, false, ra, true⟩]
  | .sqrt d a ra => [⟨0, d, vsz, .ty, false, true, 0, false⟩, ⟨1, a, vszq, .ty, true, false, ra, true⟩]
  | .exp2 d a ra => [⟨0, d, vsz, .ty, false, true, 0, false⟩, ⟨1, a, vszq, .ty, true, false, ra, true⟩]
  | .log2 d a ra => [⟨0, d, vsz, .ty, false, true, 0, false⟩, ⟨1, a, vszq, .ty, true, false, ra, true⟩]
  | .sint d a ra => [⟨0, d, vsz, .ty, false, true, 0, false⟩, ⟨1, a, vszq, .ty, true, false, ra, true⟩]
  | .cost d a ra => [⟨0, d, vsz, .ty, false, true, 0, false⟩, ⟨1, a, vszq, .ty, true, false, ra, true⟩]
  | .tanh d a ra => [⟨0, d, vsz, .ty, false, true, 0, false⟩, ⟨1, a, vszq, .ty, true, false, ra, true⟩]
  | .flr d a ra => [⟨0, d, vsz, .ty, false, true, 0, false⟩, ⟨1, a, vszq, .ty, true, false, ra, true⟩]
  | .ceil d a ra => [⟨0, d, vsz, .ty, false, true, 0, false⟩, ⟨1, a, vszq, .ty, true, false, ra, true⟩]
  | .trnc d a ra => [⟨0, d, vsz, .ty, false, true, 0, false⟩, ⟨1, a, vszq, .ty, true, false, ra, true⟩]
  | .rint d a ra => [⟨0, d, vsz, .ty, false, true, 0, false⟩, ⟨1, a, vszq, .ty, true, false, ra, true⟩]
  | .frc d a ra => [⟨0, d, vsz, .ty, false, true, 0, false⟩, ⟨1, a, vszq, .ty, true, false, ra, true⟩]
  | .fclass d a ra => [⟨0, d, vsz, .ty, false, true, 0, false⟩, ⟨1, a, vszq, .ty, true, false, ra, true⟩]
  | .rand d ra => [⟨0, d, vz, .n 1, false, true, ra, false⟩]
  | .cvt d a ra code => [⟨0, d, vsz, .n (cvtSpan code).2, false, true, 0, false⟩, ⟨1, a, vszq, .n (cvtSpan code).1, true, false, ra, true⟩]
  | .mxq d a ra _ => [⟨0, d, [.v], .n 2, false, true, 0, false⟩, ⟨1, a, vszq, .n 1, true, false, ra, true⟩]
  | .absd d a ra b rb => [⟨0, d, vsz, .ty, false, true, 0, false⟩, ⟨1, a, vszq, .ty, true, false, ra, true⟩, ⟨2, b, vszq, .ty, true, false, rb, true⟩]
  | .addi d a _ => [⟨0, d, vsz, .ty, false, true, 0, false⟩, ⟨1, a, vszq, .ty, true, false, 0, false⟩]
  | .muli d a _ => [⟨0, d, vsz, .ty, false, true, 0, false⟩, ⟨1, a, vszq, .ty, true, false, 0, false⟩]
  | .andi d a _ => [⟨0, d, vsz, .ty, false, true, 0, false⟩, ⟨1, a, vszq, .ty, true, false, 0, false⟩]
  | .ori d a _ => [⟨0, d, vsz, .ty, false, true, 0, false⟩, ⟨1, a, vszq, .ty, true, false, 0, false⟩]
  | .xori d a _ => [⟨0, d, vsz, .ty, false, true, 0, false⟩, ⟨1, a, vszq, .ty, true, false, 0, false⟩]
  | .shli d a _ => [⟨0, d, vsz, .ty, false, true, 0, false⟩, ⟨1, a, vszq, .ty, true, false, 0, false⟩]
  | .shri d a _ => [⟨0, d, vsz, .ty, false, true, 0, false⟩, ⟨1, a, vszq, .ty, true, false, 0, false⟩]
  | .shai d a _ => [⟨0, d, vsz, .ty, false, true, 0, false⟩, ⟨1, a, vszq, .ty, true, false, 0, false⟩]
  | .cmpi _ _ a _ => [⟨1, a, vszq, .ty, true, false, 0, false⟩]
  | .mini d a _ => [⟨0, d, vsz, .ty, false, true, 0, false⟩, ⟨1, a, vszq, .ty, true, false, 0, false⟩]
  | .maxi d a _ => [⟨0, d, vsz, .ty, false, true, 0, false⟩, ⟨1, a, vszq, .ty, true, false, 0, false⟩]
  | .qswh d a ra => [⟨0, d, vz, .ty, false, true, 0, false⟩, ⟨1, a, vszq, .ty, true, false, ra, true⟩]
  | .qswv d a ra => [⟨0, d, vz, .ty, false, true, 0, false⟩, ⟨1, a, vszq, .ty, true, false, ra, true⟩]
  | .qswd d a ra => [⟨0, d, vz, .ty, false, true, 0, false⟩, ⟨1, a, vszq, .ty, true, false, ra, true⟩]
  | .qbc0 d a ra => [⟨0, d, vz, .ty, false, true, 0, false⟩, ⟨1, a, vszq, .ty, true, false, ra, true⟩]
  | .qbc1 d a ra => [⟨0, d, vz, .ty, false, true, 0, false⟩, ⟨1, a, vszq, .ty, true, false, ra, true⟩]
  | .qbc2 d a ra => [⟨0, d, vz, .ty, false, true, 0, false⟩, ⟨1, a, vszq, .ty, true, false, ra, true⟩]
  | .qbc3 d a ra => [⟨0, d, vz, .ty, false, true, 0, false⟩, ⟨1, a, vszq, .ty, true, false, ra, true⟩]
  | .qsum d a ra => [⟨0, d, vz, .ty, false, true, 0, false⟩, ⟨1, a, vszq, .ty, true, false, ra, true⟩]
  | .qmin d a ra => [⟨0, d, vz, .ty, false, true, 0, false⟩, ⟨1, a, vszq, .ty, true, false, ra, true⟩]
  | .qmax d a ra => [⟨0, d, vz, .ty, false, true, 0, false⟩, ⟨1, a, vszq, .ty, true, false, ra, true⟩]
  | .qddx d a ra => [⟨0, d, vz, .ty, false, true, 0, false⟩, ⟨1, a, vszq, .ty, true, false, ra, true⟩]
  | .qddy d a ra => [⟨0, d, vz, .ty, false, true, 0, false⟩, ⟨1, a, vszq, .ty, true, false, ra, true⟩]
  | .lane d ra => [⟨0, d, vz, .n 1, false, true, ra, false⟩]
  | .qidx d ra => [⟨0, d, vz, .n 1, false, true, ra, false⟩]
  | .ballot d a ra => [⟨0, d, vsz, .n 1, false, true, 0, false⟩, ⟨1, a, vszq, .ty, true, false, ra, true⟩]
  | .vany d a ra => [⟨0, d, vsz, .n 1, false, true, 0, false⟩, ⟨1, a, vszq, .ty, true, false, ra, true⟩]
  | .vall d a ra => [⟨0, d, vsz, .n 1, false, true, 0, false⟩, ⟨1, a, vszq, .ty, true, false, ra, true⟩]
  | .gsum d a ra => [⟨0, d, vsz, .ty, false, true, 0, false⟩, ⟨1, a, vszq, .ty, true, false, ra, true⟩]
  | .gmin d a ra => [⟨0, d, vsz, .ty, false, true, 0, false⟩, ⟨1, a, vszq, .ty, true, false, ra, true⟩]
  | .gmax d a ra => [⟨0, d, vsz, .ty, false, true, 0, false⟩, ⟨1, a, vszq, .ty, true, false, ra, true⟩]
  | .gscan d a ra => [⟨0, d, vz, .ty, false, true, 0, false⟩, ⟨1, a, vszq, .ty, true, false, ra, true⟩]
  | .gscanx d a ra => [⟨0, d, vz, .ty, false, true, 0, false⟩, ⟨1, a, vszq, .ty, true, false, ra, true⟩]
  | .elect d ra => [⟨0, d, vsz, .n 1, false, true, ra, false⟩]
  | .match d a ra => [⟨0, d, vz, .ty, false, true, 0, false⟩, ⟨1, a, vszq, .ty, true, false, ra, true⟩]
  | .popm d a ra => [⟨0, d, vsz, .ty, false, true, 0, false⟩, ⟨1, a, vszq, .ty, true, false, ra, true⟩]
  | .shfl d a ra b rb => [⟨0, d, vz, .ty, false, true, 0, false⟩, ⟨1, a, vszq, .ty, true, false, ra, true⟩, ⟨2, b, vszq, .n 1, true, false, rb, true⟩]
  | .movsv d a ra b rb => [⟨0, d, sz, .ty, false, true, 0, false⟩, ⟨1, a, [.v], .ty, true, false, ra, true⟩, ⟨2, b, szq, .n 1, true, false, rb, true⟩]
  | .ld t a kind _ => [⟨0, t, vz, .n (kindRegs kind), false, true, 0, false⟩, ⟨1, a, [.v, .s], .n 2, true, false, 0, false⟩]
  | .st t a kind _ => [⟨0, t, vszq, .n (kindRegs kind), true, false, 0, false⟩, ⟨1, a, [.v, .s], .n 2, true, false, 0, false⟩]
  | .lds t a kind _ => [⟨0, t, vz, .n (kindRegs kind), false, true, 0, false⟩, ⟨1, a, [.v, .s], .n 1, true, false, 0, false⟩]
  | .sts t a kind _ => [⟨0, t, vszq, .n (kindRegs kind), true, false, 0, false⟩, ⟨1, a, [.v, .s], .n 1, true, false, 0, false⟩]
  | .ldx t a _ _ => [⟨0, t, [.v, .s], .n 1, true, false, 0, false⟩, ⟨1, a, [.v, .s], .n 2, true, false, 0, false⟩]
  | .ldw t a kind _ => [⟨0, t, vz, .n (kindRegs kind), false, true, 0, false⟩, ⟨1, a, [.v, .s], .n 2, true, false, 0, false⟩]
  | .stw t a kind _ => [⟨0, t, vszq, .n (kindRegs kind), true, false, 0, false⟩, ⟨1, a, [.v, .s], .n 2, true, false, 0, false⟩]
  | .cpl t a _ _ => [⟨0, t, [.v, .s], .n 2, true, false, 0, false⟩, ⟨1, a, [.v, .s], .n 2, true, false, 0, false⟩]
  | .atom d a _ _ aop => [⟨0, d, vz, .atom aop, true, true, 0, false⟩, ⟨1, a, [.v, .s], .n 2, true, false, 0, false⟩]
  | .red d a _ _ aop => [⟨0, d, vszq, .atom aop, true, false, 0, false⟩, ⟨1, a, [.v, .s], .n 2, true, false, 0, false⟩]
  | .kick d a b => [⟨0, d, sz, .n 1, false, true, 0, false⟩, ⟨1, a, szq, .n 1, true, false, 0, false⟩, ⟨2, b, szq, .n 1, true, false, 0, false⟩]
  | .binit d a => [⟨0, d, szq, .n 1, true, false, 0, false⟩, ⟨1, a, szq, .n 1, true, false, 0, false⟩]
  | .barr d a => [⟨0, d, szq, .n 1, true, false, 0, false⟩, ⟨1, a, szq, .n 1, true, false, 0, false⟩]
  | .barw d a => [⟨0, d, szq, .n 1, true, false, 0, false⟩, ⟨1, a, szq, .n 1, true, false, 0, false⟩]
  | .bwait d a => [⟨0, d, sz, .n 1, false, true, 0, false⟩, ⟨1, a, szq, .n 1, true, false, 0, false⟩]
  | .bexp d a => [⟨0, d, szq, .n 1, true, false, 0, false⟩, ⟨1, a, szq, .n 1, true, false, 0, false⟩]
  | .btest d a => [⟨0, d, vsz, .n 1, false, true, 0, false⟩, ⟨1, a, szq, .n 1, true, false, 0, false⟩]
  | .btile d a => [⟨0, d, szq, .n 1, true, false, 0, false⟩, ⟨1, a, szq, .n 1, true, false, 0, false⟩]
  | .brd d a => [⟨0, d, vsz, .n 4, false, true, 0, false⟩, ⟨1, a, szq, .n 1, true, false, 0, false⟩]
  | .ctrw d a => [⟨0, d, [.s], .n 2, true, false, 0, false⟩, ⟨1, a, [.s], .n 2, true, false, 0, false⟩]
  | .ctrt _ a => [⟨1, a, [.s], .n 4, true, false, 0, false⟩]
  | .ctrrd d a => [⟨0, d, sz, .n 2, false, true, 0, false⟩, ⟨1, a, [.s], .n 2, true, false, 0, false⟩]
  | .acql a => [⟨1, a, [.s], .n 1, true, false, 0, false⟩]
  | .fncr _ a b => [⟨1, a, [.s], .n 2, true, false, 0, false⟩, ⟨2, b, sz, .n 2, true, false, 0, false⟩]
  | .cwb d a => [⟨0, d, sz, .n 2, true, false, 0, false⟩, ⟨1, a, sz, .n 2, true, false, 0, false⟩]
  | .cinv d a => [⟨0, d, sz, .n 2, true, false, 0, false⟩, ⟨1, a, sz, .n 2, true, false, 0, false⟩]
  | .cpref d a => [⟨0, d, sz, .n 2, true, false, 0, false⟩, ⟨1, a, sz, .n 2, true, false, 0, false⟩]
  | .cdisc d a => [⟨0, d, sz, .n 2, true, false, 0, false⟩, ⟨1, a, sz, .n 2, true, false, 0, false⟩]
  | .mma d a b => [⟨0, d, sz, .n 1, false, true, 0, false⟩, ⟨1, a, szq, .n 1, true, false, 0, false⟩, ⟨2, b, szq, .n 1, true, false, 0, false⟩]
  | .scld d a b => [⟨0, d, szq, .n 1, true, false, 0, false⟩, ⟨1, a, szq, .n 1, true, false, 0, false⟩, ⟨2, b, szq, .n 1, true, false, 0, false⟩]
  | .accz a => [⟨1, a, szq, .n 1, true, false, 0, false⟩]
  | .accld d a => [⟨0, d, szq, .n 1, true, false, 0, false⟩, ⟨1, a, szq, .n 1, true, false, 0, false⟩]
  | .accst d a => [⟨0, d, szq, .n 1, true, false, 0, false⟩, ⟨1, a, szq, .n 1, true, false, 0, false⟩]
  | .accrd d a => [⟨0, d, vz, .n 1, false, true, 0, false⟩, ⟨1, a, szq, .n 1, true, false, 0, false⟩]
  | .accwr d a => [⟨0, d, vszq, .n 1, true, false, 0, false⟩, ⟨1, a, szq, .n 1, true, false, 0, false⟩]
  | .ttinit a => [⟨1, a, szq, .n 1, true, false, 0, false⟩]
  | .ttadd d a => [⟨0, d, vz, .n 1, false, true, 0, false⟩, ⟨1, a, vszq, .n 1, true, false, 0, false⟩]
  | .ttanc d a => [⟨0, d, vsz, .n 2, false, true, 0, false⟩, ⟨1, a, vszq, .n 1, true, false, 0, false⟩]
  | .ttpos d a => [⟨0, d, vsz, .n 1, false, true, 0, false⟩, ⟨1, a, vszq, .n 1, true, false, 0, false⟩]
  | .ttpar d a => [⟨0, d, vsz, .n 1, false, true, 0, false⟩, ⟨1, a, vszq, .n 1, true, false, 0, false⟩]
  | .ttstok d a => [⟨0, d, vszq, .n 1, true, false, 0, false⟩, ⟨1, a, vszq, .n 1, true, false, 0, false⟩]
  | .ttgtok d a => [⟨0, d, vsz, .n 1, false, true, 0, false⟩, ⟨1, a, vszq, .n 1, true, false, 0, false⟩]
  | .ttssc d a => [⟨0, d, vszq, .n 1, true, false, 0, false⟩, ⟨1, a, vszq, .n 1, true, false, 0, false⟩]
  | .ttgsc d a => [⟨0, d, vsz, .n 1, false, true, 0, false⟩, ⟨1, a, vszq, .n 1, true, false, 0, false⟩]
  | .ttprune d a => [⟨0, d, vz, .n 1, false, true, 0, false⟩, ⟨1, a, szq, .n 1, true, false, 0, false⟩]
  | .ttcnt d => [⟨0, d, vsz, .n 1, false, true, 0, false⟩]
  | .kvx d a => [⟨0, d, vz, .n 2, false, true, 0, false⟩, ⟨1, a, [.v, .s], .n 2, true, false, 0, false⟩]
  | .kvapp d a => [⟨0, d, [.s], .n 1, true, true, 0, false⟩, ⟨1, a, szq, .n 1, true, false, 0, false⟩]
  | .kvtrim d a => [⟨0, d, [.s], .n 1, true, true, 0, false⟩, ⟨1, a, szq, .n 1, true, false, 0, false⟩]
  | .kvpark a => [⟨1, a, szq, .n 1, true, false, 0, false⟩]
  | .kvseq d a => [⟨0, d, [.s], .n 2, true, true, 0, false⟩, ⟨1, a, szq, .n 1, true, false, 0, false⟩]
  | .ring d a b => [⟨0, d, sz, .n 1, false, true, 0, false⟩, ⟨1, a, [.s], .n 2, true, false, 0, false⟩, ⟨2, b, szq, .n 1, true, false, 0, false⟩]
  | .bmask d a => [⟨0, d, sz, .n 2, false, true, 0, false⟩, ⟨1, a, sz, .n 2, true, false, 0, false⟩]
  | .bpend d => [⟨0, d, [.s], .n 2, false, true, 0, false⟩]
  | .btake d a => [⟨0, d, sz, .n 2, false, true, 0, false⟩, ⟨1, a, szq, .n 1, true, false, 0, false⟩]
  | .bhpc a => [⟨1, a, sz, .n 2, true, false, 0, false⟩]
  | .bself a => [⟨1, a, szq, .n 1, true, false, 0, false⟩]
  | .keyw d a => [⟨0, d, szq, .n 1, true, false, 0, false⟩, ⟨1, a, szq, .n 1, true, false, 0, false⟩]
  | .waym d a => [⟨0, d, szq, .n 1, true, false, 0, false⟩, ⟨1, a, szq, .n 1, true, false, 0, false⟩]
  | .klass d a => [⟨0, d, szq, .n 1, true, false, 0, false⟩, ⟨1, a, szq, .n 1, true, false, 0, false⟩]
  | .split d a => [⟨0, d, szq, .n 1, true, false, 0, false⟩, ⟨1, a, szq, .n 1, true, false, 0, false⟩]
  | .preqHold d a => [⟨0, d, szq, .n 1, true, false, 0, false⟩, ⟨1, a, szq, .n 1, true, false, 0, false⟩]
  | .preqSaved d a => [⟨0, d, szq, .n 1, true, false, 0, false⟩, ⟨1, a, szq, .n 1, true, false, 0, false⟩]
  | .preqWaitsave d a => [⟨0, d, szq, .n 1, true, false, 0, false⟩, ⟨1, a, szq, .n 1, true, false, 0, false⟩]
  | .preqRestored d a => [⟨0, d, szq, .n 1, true, false, 0, false⟩, ⟨1, a, szq, .n 1, true, false, 0, false⟩]
  | .preqWaitrest d a => [⟨0, d, szq, .n 1, true, false, 0, false⟩, ⟨1, a, szq, .n 1, true, false, 0, false⟩]
  | .preqKill d a => [⟨0, d, szq, .n 1, true, false, 0, false⟩, ⟨1, a, szq, .n 1, true, false, 0, false⟩]
  | .preqRelease d a => [⟨0, d, szq, .n 1, true, false, 0, false⟩, ⟨1, a, szq, .n 1, true, false, 0, false⟩]
  | .freeze d a => [⟨0, d, szq, .n 1, true, false, 0, false⟩, ⟨1, a, szq, .n 1, true, false, 0, false⟩]
  | .wingr d a => [⟨0, d, szq, .n 1, true, false, 0, false⟩, ⟨1, a, szq, .n 1, true, false, 0, false⟩]
  | .jrnl d a => [⟨0, d, szq, .n 1, true, false, 0, false⟩, ⟨1, a, szq, .n 1, true, false, 0, false⟩]
  | .rdp d k => [⟨0, d, vsz, .n (if widePriv k then 2 else 1), false, true, 0, false⟩]
  | .wrp a k => [⟨1, a, szq, .n (if widePriv k then 2 else 1), true, false, 0, false⟩]
  | _ => []

/-- Element formats MXQ accepts (R88, R138). -/
def mxqFormat (fmt : BitVec 7) : Bool :=
  fmt.toNat = 0x04 || fmt.toNat = 0x05 || fmt.toNat = 0x06 || fmt.toNat = 0x07 || fmt.toNat = 0x09 || fmt.toNat = 0x16
    || fmt.toNat = 0x19

/-- The instructions that may have an s destination with a v source (R54). -/
def sFromV : Instr → Bool
  | .ballot .. => true | .vany .. => true | .vall .. => true | .gsum .. => true | .gmin .. => true | .gmax .. => true
  | .popm .. => true | .elect .. => true | .movsv .. => true
  | _ => false

/-- Cause 6 where a condition holds. -/
def when (b : Bool) (c : Nat) : List Nat := if b then [c] else []

/-- An image whose TY or RM is undefined (R58). -/
def badTy (ty : BitVec 5) : Bool := decide (0x0C ≤ ty.toNat)
def badRm (rm : BitVec 3) : Bool := decide (6 ≤ rm.toNat)

/-- A route pattern that cannot be set (R55, R106). -/
def badRoute (kind : BitVec 3) (k : BitVec 5) : Bool := decide (4 ≤ kind.toNat) || (kind.toNat == 3 && decide (5 < k.toNat))

/-- The causes of R67 that field values give: conditions, codes and numbers out of range (R56 to R60, R64, R65, R98, R102, R180). -/
def fieldCauses : Instr → List Nat
  | .mode mask image => when ((mask.getLsbD 5 && badTy (image.extractLsb' 10 5)) || (mask.getLsbD 4 && badRm (image.extractLsb' 7 3))) 6
  | .mroute slot kind k => when (slot.toNat == 0 || badRoute kind k) 6
  | .cmp c _ _ _ _ _ => when (decide (0xE ≤ c.toNat)) 1
  | .cmpi c _ _ _ => when (decide (0xE ≤ c.toNat)) 1
  | .cvt _ _ _ code => when (decide (0x1C ≤ code.toNat)) 1
  | .mxq _ _ _ fmt => when (!mxqFormat fmt) 1
  | .atom _ _ scope _ aop => when (decide (9 ≤ aop.toNat)) 1 ++ when (decide (6 ≤ scope.toNat)) 6
  | .red _ _ scope _ aop => when (decide (9 ≤ aop.toNat)) 1 ++ when (decide (6 ≤ scope.toNat)) 6
  | .rel scope => when (decide (6 ≤ scope.toNat)) 6
  | .acq scope => when (decide (6 ≤ scope.toNat)) 6
  | .fncr scope _ _ => when (decide (6 ≤ scope.toNat)) 6
  | .role _ role => when (decide (4 ≤ role.toNat)) 6
  | .ld _ _ kind _ => when (kind.toNat == 7) 6
  | .lds _ _ kind _ => when (kind.toNat == 7) 6
  | .st _ _ kind _ => when (kind.toNat == 7 || kind.toNat == 1 || kind.toNat == 3) 6
  | .sts _ _ kind _ => when (kind.toNat == 7 || kind.toNat == 1 || kind.toNat == 3) 6
  | .ldw _ _ kind _ => when (kind.toNat == 7 || decide (kind.toNat < 4)) 6
  | .stw _ _ kind _ => when (kind.toNat == 7 || decide (kind.toNat < 4)) 6
  | .ldx _ _ kind _ => when (kind.toNat == 7 || decide (kind.toNat < 4)) 6
  | .cpl _ _ kind _ => when (kind.toNat == 7 || decide (kind.toNat < 4)) 6
  | .ctrt d _ => when (decide (8 ≤ d.toNat)) 2
  | .rds _ k => when (stateReg? k).isNone 6
  | .wrs _ k => match stateReg? k with | none => [6] | some r => when (r.acc == .r) 7
  | .rdp _ k => when (privReg? k).isNone 6
  | .wrp _ k => match privReg? k with | none => [6] | some r => when (r.acc == .r) 7
  | _ => []

/-- The causes of one operand under TY (R52 to R55): its kind, q for a pair or group, alignment and bank, its route. -/
def Opnd.causes (ty : BitVec 5) (o : Opnd) : List Nat :=
  let n := o.span.count ty
  let k := kindOf o.reg
  when (!o.kinds.contains k) 3
  ++ when (k == .q && decide (1 < n)) 3
  ++ when (decide (1 < n) && (k == .v || k == .s)
        && (o.reg.toNat % n != 0 || (k == .s && decide (0x7D < o.reg.toNat + n - 1)) || (k == .v && decide (0x5F < o.reg.toNat + n - 1)))) 4
  ++ when (o.route.toNat != 0 && (!o.routed || k != .v)) 5

/-- An s destination with a v source (R54). -/
def sDestVSource (i : Instr) : Bool :=
  !sFromV i && (opnds i).any (fun o => o.write && kindOf o.reg == .s)
    && (opnds i).any (fun o => o.read && (o.field == 1 || o.field == 2) && kindOf o.reg == .v)

/-- The ILLEGAL causes that the word gives under TY. -/
def wordCauses (ty : BitVec 5) (i : Instr) : List Nat :=
  fieldCauses i ++ (opnds i).flatMap (Opnd.causes ty) ++ when (sDestVSource i) 3

/-- The TY values an instruction accepts (R124). -/
def acceptsTy (ty : BitVec 5) : Instr → Bool
  | .mulh .. => !floatTy ty
  | .bfe .. => decide (ty.toNat ≤ 2) || wideTy ty
  | .bfi .. => decide (ty.toNat ≤ 2) || wideTy ty
  | .rcp .. => floatTy ty && !wideTy ty
  | .rsq .. => floatTy ty && !wideTy ty
  | .sqrt .. => floatTy ty && !wideTy ty
  | .exp2 .. => floatTy ty && !wideTy ty
  | .log2 .. => floatTy ty && !wideTy ty
  | .sint .. => floatTy ty && !wideTy ty
  | .cost .. => floatTy ty && !wideTy ty
  | .tanh .. => floatTy ty && !wideTy ty
  | .flr .. => floatTy ty
  | .ceil .. => floatTy ty
  | .trnc .. => floatTy ty
  | .rint .. => floatTy ty
  | .frc .. => floatTy ty
  | .fclass .. => floatTy ty
  | _ => true

/-- LDX and CPL name no gate in supervisor mode (R345). -/
def supervisorGate : Instr → Bool
  | .ldx _ _ _ k => k.toNat != 0
  | .cpl _ _ _ k => k.toNat != 0
  | _ => false

/-- Every ILLEGAL cause of an instruction under TY, in supervisor mode or not, outside REP (R67). -/
def illegalCauses (ty : BitVec 5) (sup : Bool) (i : Instr) : List Nat :=
  wordCauses ty i ++ when (sup && supervisorGate i) 2 ++ when (!acceptsTy ty i) 7

/-- The lowest of some causes (R67). -/
def lowest : List Nat → Option Nat
  | [] => none
  | c :: cs => some (cs.foldl Nat.min c)

/-- Privileged instructions, and reads and writes of supervisor registers (R62, R100). -/
def privileged : Instr → Bool
  | .keyw .. => true | .waym .. => true | .klass .. => true | .split .. => true | .freeze .. => true | .wingr .. => true
  | .jrnl .. => true | .preqHold .. => true | .preqSaved .. => true | .preqWaitsave .. => true | .preqRestored .. => true
  | .preqWaitrest .. => true | .preqKill .. => true | .preqRelease .. => true
  | .eret => true | .rdp .. => true | .wrp .. => true
  | .rds _ k => (stateReg? k).elim false (·.acc == .s)
  | .wrs _ k => (stateReg? k).elim false (fun r => r.acc == .s || r.acc == .rsw)
  | _ => false

/-- The major opcodes that are privileged whatever their fields hold: SYS, ERET, RDP, WRP (R62). -/
def privilegedOp (op : Nat) : Bool := decide (0x70 ≤ op) && decide (op ≤ 0x73)

/-- The operand codes an operand names under TY: every register of a span, none for z and q. -/
def Opnd.codes (ty : BitVec 5) (o : Opnd) : List Nat :=
  match kindOf o.reg with
  | .v => (List.range (o.span.count ty)).map (o.reg.toNat + ·)
  | .s => (List.range (o.span.count ty)).map (o.reg.toNat + ·)
  | _ => []

/-- The predicate keys an instruction reads and writes beside its guard; predicate n is 128 + n. -/
def predReads : Instr → List Nat
  | .br _ p _ => if p.toNat = 7 then [] else [128 + p.toNat]
  | .brs _ p _ => if p.toNat = 7 then [] else [128 + p.toNat]
  | .rds _ k => if k.toNat = 0x044 then (List.range 7).map (128 + ·) else []
  | .ret => [0x76, 0x77]
  | _ => []

def predWrites : Instr → List Nat
  | .cmp _ p _ _ _ _ => [128 + p.toNat]
  | .cmpi _ p _ _ => [128 + p.toNat]
  | .ctrt d _ => [128 + d.toNat % 8]
  | .kvx .. => [134]
  | .wrs _ k => if k.toNat = 0x044 then (List.range 7).map (128 + ·) else []
  | .call _ => [0x76, 0x77]
  | _ => []

/-- The registers an instruction reads, by code (R49, R50). CALL and RET name s22:s23 (R113). -/
def readCodes (ty : BitVec 5) (i : Instr) : List Nat :=
  (opnds i).flatMap (fun o => if o.read then o.codes ty else []) ++ predReads i

/-- The registers an instruction writes, by code. -/
def writeCodes (ty : BitVec 5) (i : Instr) : List Nat :=
  (opnds i).flatMap (fun o => if o.write then o.codes ty else []) ++ predWrites i

/-- The fixed latencies of R48, R102 and R123; none for the instructions whose result has variable latency. -/
def latencyOf (ty : BitVec 5) : Instr → Nat
  | .rcp .. => 12 | .rsq .. => 12 | .sqrt .. => 12 | .exp2 .. => 12 | .log2 .. => 12 | .sint .. => 12 | .cost .. => 12
  | .tanh .. => 12 | .flr .. => 12 | .ceil .. => 12 | .trnc .. => 12 | .rint .. => 12 | .frc .. => 12 | .fclass .. => 12
  | .rand .. => 12
  | .cvt _ _ _ code => if code.toNat = 4 || code.toNat = 5 || code.toNat = 0xA || code.toNat = 0xB then 8 else 4
  | .mxq .. => 4
  | .lane .. => 6 | .qidx .. => 6 | .elect .. => 6
  | .ballot .. => if wideTy ty then 8 else 6
  | .vany .. => if wideTy ty then 8 else 6
  | .vall .. => if wideTy ty then 8 else 6
  | .gsum .. => if wideTy ty then 8 else 6
  | .gmin .. => if wideTy ty then 8 else 6
  | .gmax .. => if wideTy ty then 8 else 6
  | .gscan .. => if wideTy ty then 8 else 6
  | .gscanx .. => if wideTy ty then 8 else 6
  | .match .. => if wideTy ty then 8 else 6
  | .popm .. => if wideTy ty then 8 else 6
  | .shfl .. => if wideTy ty then 8 else 6
  | .movsv .. => if wideTy ty then 8 else 6
  | .rds .. => 4
  | _ => if wideTy ty then 8 else 4

end Sys2Proof.Machine
end

