-- ==== Sys2Proof/WellFormed.lean ====
section
/-! DEFINITION. Which terms of Instr are well formed: those whose fields no rule of R52 to R67 refuses, whatever the state. -/

namespace Sys2Proof

open Sys2Proof.Machine

/-- The lowest ILLEGAL cause that an instruction's own fields give, with every TY-dependent span read as one register. -/
def Instr.staticCause (i : Instr) : Option Nat := lowest (wordCauses 0 i)

/-- No field of the instruction is refused. -/
def Instr.WellFormed (i : Instr) : Bool := i.staticCause.isNone

end Sys2Proof
end

