-- ==== Sys2Proof/Decode.lean ====
section
/-! DEFINITION. Decoding and encoding of instruction words (R56 to R67). Decoding separates the fields, checks the opcode, the
sub-op, the reserved and the fixed fields, and rejects by cause; what the word says wrongly of a register, a route or a field's
range is found by the instruction itself when it issues (illegalCauses), so that the lowest cause is reported (R67). -/

namespace Sys2Proof

open Sys2Proof.Machine (when lowest)

/-- What a word decodes to: an instruction, or a rejection with its cause and major opcode; `near` is the instruction whose fixed
fields the word breaks, with every cause it breaks them by. -/
inductive Decoded where
  | ok (i : Instr)
  | bad (cause : Nat) (near : Option Instr)
  deriving DecidableEq, Repr

/-- The fields of a word (R56). -/
structure Fields where
  k25 : BitVec 25
  d : Reg
  a : Reg
  ra : BitVec 2
  b : Reg
  rb : BitVec 2
  k11 : BitVec 11
  kind : BitVec 3
  k8 : BitVec 8
  order : BitVec 2
  aop : BitVec 4
  deriving DecidableEq, Repr

def fieldsOf (w : Word) : Fields where
  k25 := w.extractLsb' 0 25
  d := w.extractLsb' 18 7
  a := w.extractLsb' 11 7
  ra := w.extractLsb' 9 2
  b := w.extractLsb' 2 7
  rb := w.extractLsb' 0 2
  k11 := w.extractLsb' 0 11
  kind := w.extractLsb' 8 3
  k8 := w.extractLsb' 0 8
  order := w.extractLsb' 6 2
  aop := w.extractLsb' 2 4

/-- The major opcode of a word. -/
def opcodeOf (w : Word) : BitVec 7 := w.extractLsb' 25 7

/-- An instruction unless a fixed or reserved field is wrong. -/
def fixed (causes : List Nat) (i : Instr) : Decoded :=
  match lowest causes with
  | none => .ok i
  | some c => .bad c (some i)

/-- A one-bit field. -/
def bit (b : Bool) : BitVec 1 := BitVec.ofBool b

/-- The sub-ops of UN (R63). -/
def unSub (f : Fields) : Option Decoded :=
  match f.b.toNat with
  | 0x00 => some (fixed (when (f.rb != 0) 2) (.mov f.d f.a f.ra))
  | 0x01 => some (fixed (when (f.rb != 0) 2) (.not f.d f.a f.ra))
  | 0x02 => some (fixed (when (f.rb != 0) 2) (.neg f.d f.a f.ra))
  | 0x03 => some (fixed (when (f.rb != 0) 2) (.abs f.d f.a f.ra))
  | 0x04 => some (fixed (when (f.rb != 0) 2) (.clz f.d f.a f.ra))
  | 0x05 => some (fixed (when (f.rb != 0) 2) (.popc f.d f.a f.ra))
  | 0x06 => some (fixed (when (f.rb != 0) 2) (.brev f.d f.a f.ra))
  | 0x10 => some (fixed (when (f.rb != 0) 2) (.rcp f.d f.a f.ra))
  | 0x11 => some (fixed (when (f.rb != 0) 2) (.rsq f.d f.a f.ra))
  | 0x12 => some (fixed (when (f.rb != 0) 2) (.sqrt f.d f.a f.ra))
  | 0x13 => some (fixed (when (f.rb != 0) 2) (.exp2 f.d f.a f.ra))
  | 0x14 => some (fixed (when (f.rb != 0) 2) (.log2 f.d f.a f.ra))
  | 0x15 => some (fixed (when (f.rb != 0) 2) (.sint f.d f.a f.ra))
  | 0x16 => some (fixed (when (f.rb != 0) 2) (.cost f.d f.a f.ra))
  | 0x17 => some (fixed (when (f.rb != 0) 2) (.tanh f.d f.a f.ra))
  | 0x18 => some (fixed (when (f.rb != 0) 2) (.flr f.d f.a f.ra))
  | 0x19 => some (fixed (when (f.rb != 0) 2) (.ceil f.d f.a f.ra))
  | 0x1A => some (fixed (when (f.rb != 0) 2) (.trnc f.d f.a f.ra))
  | 0x1B => some (fixed (when (f.rb != 0) 2) (.rint f.d f.a f.ra))
  | 0x1C => some (fixed (when (f.rb != 0) 2) (.frc f.d f.a f.ra))
  | 0x1D => some (fixed (when (f.rb != 0) 2) (.fclass f.d f.a f.ra))
  | 0x1E => some (fixed (when (f.rb != 0) 2 ++ when (f.a != 0x7E#7) 2) (.rand f.d f.ra))
  | _ => none

/-- The sub-ops of QX (R63). -/
def qxSub (f : Fields) : Option Decoded :=
  match f.b.toNat with
  | 0x00 => some (fixed (when (f.rb != 0) 2) (.qswh f.d f.a f.ra))
  | 0x01 => some (fixed (when (f.rb != 0) 2) (.qswv f.d f.a f.ra))
  | 0x02 => some (fixed (when (f.rb != 0) 2) (.qswd f.d f.a f.ra))
  | 0x03 => some (fixed (when (f.rb != 0) 2) (.qbc0 f.d f.a f.ra))
  | 0x04 => some (fixed (when (f.rb != 0) 2) (.qbc1 f.d f.a f.ra))
  | 0x05 => some (fixed (when (f.rb != 0) 2) (.qbc2 f.d f.a f.ra))
  | 0x06 => some (fixed (when (f.rb != 0) 2) (.qbc3 f.d f.a f.ra))
  | 0x07 => some (fixed (when (f.rb != 0) 2) (.qsum f.d f.a f.ra))
  | 0x08 => some (fixed (when (f.rb != 0) 2) (.qmin f.d f.a f.ra))
  | 0x09 => some (fixed (when (f.rb != 0) 2) (.qmax f.d f.a f.ra))
  | 0x0A => some (fixed (when (f.rb != 0) 2) (.qddx f.d f.a f.ra))
  | 0x0B => some (fixed (when (f.rb != 0) 2) (.qddy f.d f.a f.ra))
  | _ => none

/-- The sub-ops of GX (R63). -/
def gxSub (f : Fields) : Option Decoded :=
  match f.b.toNat with
  | 0x00 => some (fixed (when (f.rb != 0) 2 ++ when (f.a != 0x7E#7) 2) (.lane f.d f.ra))
  | 0x01 => some (fixed (when (f.rb != 0) 2 ++ when (f.a != 0x7E#7) 2) (.qidx f.d f.ra))
  | 0x02 => some (fixed (when (f.rb != 0) 2) (.ballot f.d f.a f.ra))
  | 0x03 => some (fixed (when (f.rb != 0) 2) (.vany f.d f.a f.ra))
  | 0x04 => some (fixed (when (f.rb != 0) 2) (.vall f.d f.a f.ra))
  | 0x05 => some (fixed (when (f.rb != 0) 2) (.gsum f.d f.a f.ra))
  | 0x06 => some (fixed (when (f.rb != 0) 2) (.gmin f.d f.a f.ra))
  | 0x07 => some (fixed (when (f.rb != 0) 2) (.gmax f.d f.a f.ra))
  | 0x08 => some (fixed (when (f.rb != 0) 2) (.gscan f.d f.a f.ra))
  | 0x09 => some (fixed (when (f.rb != 0) 2) (.gscanx f.d f.a f.ra))
  | 0x0A => some (fixed (when (f.rb != 0) 2 ++ when (f.a != 0x7E#7) 2) (.elect f.d f.ra))
  | 0x0B => some (fixed (when (f.rb != 0) 2) (.match f.d f.a f.ra))
  | 0x0C => some (fixed (when (f.rb != 0) 2) (.popm f.d f.a f.ra))
  | _ => none

/-- The sub-ops of BAR (R63). -/
def barSub (f : Fields) : Option Decoded :=
  match f.b.toNat with
  | 0x00 => some (fixed (when (f.rb != 0) 2 ++ when (f.ra != 0) 5) (.binit f.d f.a))
  | 0x01 => some (fixed (when (f.rb != 0) 2 ++ when (f.ra != 0) 5) (.barr f.d f.a))
  | 0x02 => some (fixed (when (f.rb != 0) 2 ++ when (f.ra != 0) 5) (.barw f.d f.a))
  | 0x03 => some (fixed (when (f.rb != 0) 2 ++ when (f.ra != 0) 5) (.bwait f.d f.a))
  | 0x04 => some (fixed (when (f.rb != 0) 2 ++ when (f.ra != 0) 5) (.bexp f.d f.a))
  | 0x05 => some (fixed (when (f.rb != 0) 2 ++ when (f.ra != 0) 5) (.btest f.d f.a))
  | 0x06 => some (fixed (when (f.rb != 0) 2 ++ when (f.ra != 0) 5) (.btile f.d f.a))
  | 0x07 => some (fixed (when (f.rb != 0) 2 ++ when (f.ra != 0) 5) (.brd f.d f.a))
  | _ => none

/-- The sub-ops of CTR (R63). -/
def ctrSub (f : Fields) : Option Decoded :=
  match f.b.toNat with
  | 0x00 => some (fixed (when (f.rb != 0) 2 ++ when (f.ra != 0) 5) (.ctrw f.d f.a))
  | 0x01 => some (fixed (when (f.rb != 0) 2 ++ when (f.ra != 0) 5) (.ctrt f.d f.a))
  | 0x02 => some (fixed (when (f.rb != 0) 2 ++ when (f.ra != 0) 5) (.ctrrd f.d f.a))
  | _ => none

/-- The sub-ops of CFL (R63). -/
def cflSub (f : Fields) : Option Decoded :=
  match f.b.toNat with
  | 0x00 => some (fixed (when (f.rb != 0) 2 ++ when (f.ra != 0) 5) (.cwb f.d f.a))
  | 0x01 => some (fixed (when (f.rb != 0) 2 ++ when (f.ra != 0) 5) (.cinv f.d f.a))
  | 0x02 => some (fixed (when (f.rb != 0) 2 ++ when (f.ra != 0) 5) (.cpref f.d f.a))
  | 0x03 => some (fixed (when (f.rb != 0) 2 ++ when (f.ra != 0) 5) (.cdisc f.d f.a))
  | _ => none

/-- The sub-ops of ACC (R63). -/
def accSub (f : Fields) : Option Decoded :=
  match f.b.toNat with
  | 0x00 => some (fixed (when (f.rb != 0) 2 ++ when (f.ra != 0) 5 ++ when (f.d != 0x7E#7) 3) (.accz f.a))
  | 0x01 => some (fixed (when (f.rb != 0) 2 ++ when (f.ra != 0) 5) (.accld f.d f.a))
  | 0x02 => some (fixed (when (f.rb != 0) 2 ++ when (f.ra != 0) 5) (.accst f.d f.a))
  | 0x03 => some (fixed (when (f.rb != 0) 2 ++ when (f.ra != 0) 5) (.accrd f.d f.a))
  | 0x04 => some (fixed (when (f.rb != 0) 2 ++ when (f.ra != 0) 5) (.accwr f.d f.a))
  | _ => none

/-- The sub-ops of TT (R63). -/
def ttSub (f : Fields) : Option Decoded :=
  match f.b.toNat with
  | 0x00 => some (fixed (when (f.rb != 0) 2 ++ when (f.ra != 0) 5 ++ when (f.d != 0x7E#7) 3) (.ttinit f.a))
  | 0x01 => some (fixed (when (f.rb != 0) 2 ++ when (f.ra != 0) 5) (.ttadd f.d f.a))
  | 0x02 => some (fixed (when (f.rb != 0) 2 ++ when (f.ra != 0) 5) (.ttanc f.d f.a))
  | 0x03 => some (fixed (when (f.rb != 0) 2 ++ when (f.ra != 0) 5) (.ttpos f.d f.a))
  | 0x04 => some (fixed (when (f.rb != 0) 2 ++ when (f.ra != 0) 5) (.ttpar f.d f.a))
  | 0x05 => some (fixed (when (f.rb != 0) 2 ++ when (f.ra != 0) 5) (.ttstok f.d f.a))
  | 0x06 => some (fixed (when (f.rb != 0) 2 ++ when (f.ra != 0) 5) (.ttgtok f.d f.a))
  | 0x07 => some (fixed (when (f.rb != 0) 2 ++ when (f.ra != 0) 5) (.ttssc f.d f.a))
  | 0x08 => some (fixed (when (f.rb != 0) 2 ++ when (f.ra != 0) 5) (.ttgsc f.d f.a))
  | 0x09 => some (fixed (when (f.rb != 0) 2 ++ when (f.ra != 0) 5) (.ttprune f.d f.a))
  | 0x0A => some (fixed (when (f.rb != 0) 2 ++ when (f.ra != 0) 5 ++ when (f.a != 0x7E#7) 3) (.ttcnt f.d))
  | _ => none

/-- The sub-ops of KV (R63). -/
def kvSub (f : Fields) : Option Decoded :=
  match f.b.toNat with
  | 0x00 => some (fixed (when (f.rb != 0) 2 ++ when (f.ra != 0) 5) (.kvx f.d f.a))
  | 0x01 => some (fixed (when (f.rb != 0) 2 ++ when (f.ra != 0) 5) (.kvapp f.d f.a))
  | 0x02 => some (fixed (when (f.rb != 0) 2 ++ when (f.ra != 0) 5) (.kvtrim f.d f.a))
  | 0x03 => some (fixed (when (f.rb != 0) 2 ++ when (f.ra != 0) 5 ++ when (f.d != 0x7E#7) 3) (.kvpark f.a))
  | 0x04 => some (fixed (when (f.rb != 0) 2 ++ when (f.ra != 0) 5) (.kvseq f.d f.a))
  | _ => none

/-- The sub-ops of BELL (R63). -/
def bellSub (f : Fields) : Option Decoded :=
  match f.b.toNat with
  | 0x00 => some (fixed (when (f.rb != 0) 2 ++ when (f.ra != 0) 5) (.bmask f.d f.a))
  | 0x01 => some (fixed (when (f.rb != 0) 2 ++ when (f.ra != 0) 5 ++ when (f.a != 0x7E#7) 3) (.bpend f.d))
  | 0x02 => some (fixed (when (f.rb != 0) 2 ++ when (f.ra != 0) 5) (.btake f.d f.a))
  | 0x03 => some (fixed (when (f.rb != 0) 2 ++ when (f.ra != 0) 5 ++ when (f.d != 0x7E#7) 3) (.bhpc f.a))
  | 0x04 => some (fixed (when (f.rb != 0) 2 ++ when (f.ra != 0) 5 ++ when (f.d != 0x7E#7) 3) (.bself f.a))
  | _ => none

/-- The sub-ops of SYS (R63). -/
def sysSub (f : Fields) : Option Decoded :=
  match f.b.toNat with
  | 0x00 => some (fixed (when (f.rb != 0) 2 ++ when (f.ra != 0) 5) (.keyw f.d f.a))
  | 0x01 => some (fixed (when (f.rb != 0) 2 ++ when (f.ra != 0) 5) (.waym f.d f.a))
  | 0x02 => some (fixed (when (f.rb != 0) 2 ++ when (f.ra != 0) 5) (.klass f.d f.a))
  | 0x03 => some (fixed (when (f.rb != 0) 2 ++ when (f.ra != 0) 5) (.split f.d f.a))
  | 0x04 => some (fixed (when (f.rb != 0) 2 ++ when (f.ra != 0) 5) (.preqHold f.d f.a))
  | 0x05 => some (fixed (when (f.rb != 0) 2 ++ when (f.ra != 0) 5) (.freeze f.d f.a))
  | 0x06 => some (fixed (when (f.rb != 0) 2 ++ when (f.ra != 0) 5) (.wingr f.d f.a))
  | 0x07 => some (fixed (when (f.rb != 0) 2 ++ when (f.ra != 0) 5) (.jrnl f.d f.a))
  | _ => none

/-- Decoding of an instruction word (R56, R57, R59, R61, R63). The PREQ rows share one word and decode to PREQ_HOLD, whose action is
the value of A at run time (log entry 9). -/
def decode (w : Word) : Decoded :=
  let f := fieldsOf w
  match (opcodeOf w).toNat with
  | 0x00 => fixed [] (.nop f.k25)
  | 0x01 => fixed [] (.limm f.k25)
  | 0x02 => fixed [] (.limh f.k25)
  | 0x03 => fixed (when (f.k25.extractLsb' 0 13 != 0) 2) (.rep (f.k25.extractLsb' 19 6) (f.k25.getLsbD 18) (f.k25.getLsbD 17) (f.k25.getLsbD 16) (f.k25.extractLsb' 13 3))
  | 0x04 => fixed (when (f.k25.extractLsb' 15 4 != 0) 2) (.mode (f.k25.extractLsb' 19 6) (f.k25.extractLsb' 0 15))
  | 0x05 => fixed (when (f.k25.extractLsb' 0 15 != 0) 2) (.mroute (f.k25.extractLsb' 23 2) (f.k25.extractLsb' 20 3) (f.k25.extractLsb' 15 5))
  | 0x06 => fixed [] (.setmark f.k25)
  | 0x07 => fixed (when (f.k25.extractLsb' 8 17 != 0) 2) (.trap (f.k25.extractLsb' 0 8))
  | 0x08 => fixed [] (.br (f.k25.getLsbD 24) (f.k25.extractLsb' 21 3) (f.k25.extractLsb' 0 21))
  | 0x09 => fixed [] (.brs (f.k25.getLsbD 24) (f.k25.extractLsb' 21 3) (f.k25.extractLsb' 0 21))
  | 0x0A => fixed (when (f.d != 0x7E#7) 2 ++ when (f.b != 0x7E#7) 2 ++ when (f.ra != 0) 5 ++ when (f.rb != 0) 5) (.bri f.a)
  | 0x0B => fixed (when (f.k25.extractLsb' 21 4 != 7) 2) (.call (f.k25.extractLsb' 0 21))
  | 0x0C => fixed (when (f.k25 != 0) 2) .ret
  | 0x0D => fixed (when (f.k25.extractLsb' 21 4 != 7) 2) (.mark (f.k25.extractLsb' 0 21))
  | 0x0E => fixed (when (f.k25 != 0) 2) .join
  | 0x0F => fixed (when (f.k25.extractLsb' 8 17 != 0) 2) (.part (f.k25.extractLsb' 0 8))
  | 0x10 => fixed (when (f.k25.extractLsb' 8 17 != 0) 2) (.regang (f.k25.extractLsb' 0 8))
  | 0x11 => fixed (when (f.k25 != 0) 2) .exit
  | 0x12 => fixed [] (.yield (f.k25.extractLsb' 17 8) (f.k25.extractLsb' 0 17))
  | 0x13 => fixed (when (f.k25 != 0) 2) .waitb
  | 0x14 => fixed (when (f.k25 != 0) 2) .bret
  | 0x15 => fixed (when (f.a != 0x7E#7) 2) (.rds f.d f.k11)
  | 0x16 => fixed (when (f.d != 0x7E#7) 2) (.wrs f.a f.k11)
  | 0x18 => fixed [] (.add f.d f.a f.ra f.b f.rb)
  | 0x19 => fixed [] (.sub f.d f.a f.ra f.b f.rb)
  | 0x1A => fixed [] (.mul f.d f.a f.ra f.b f.rb)
  | 0x1B => fixed [] (.mulh f.d f.a f.ra f.b f.rb)
  | 0x1C => fixed [] (.mad f.d f.a f.ra f.b f.rb)
  | 0x1D => fixed [] (.msb f.d f.a f.ra f.b f.rb)
  | 0x1E => fixed [] (.min f.d f.a f.ra f.b f.rb)
  | 0x1F => fixed [] (.max f.d f.a f.ra f.b f.rb)
  | 0x20 => fixed [] (.and f.d f.a f.ra f.b f.rb)
  | 0x21 => fixed [] (.or f.d f.a f.ra f.b f.rb)
  | 0x22 => fixed [] (.xor f.d f.a f.ra f.b f.rb)
  | 0x23 => fixed [] (.andn f.d f.a f.ra f.b f.rb)
  | 0x24 => fixed [] (.shl f.d f.a f.ra f.b f.rb)
  | 0x25 => fixed [] (.shr f.d f.a f.ra f.b f.rb)
  | 0x26 => fixed [] (.sha f.d f.a f.ra f.b f.rb)
  | 0x27 => fixed [] (.rot f.d f.a f.ra f.b f.rb)
  | 0x28 => fixed [] (.bfe f.d f.a f.ra f.b f.rb)
  | 0x29 => fixed [] (.bfi f.d f.a f.ra f.b f.rb)
  | 0x2A => fixed [] (.sel f.d f.a f.ra f.b f.rb)
  | 0x2B => fixed [] (.cmp (f.d.extractLsb' 3 4) (f.d.extractLsb' 0 3) f.a f.ra f.b f.rb)
  | 0x2C => (unSub f).getD (.bad 1 none)
  | 0x2D => fixed (when (f.rb != 0) 5) (.cvt f.d f.a f.ra f.b)
  | 0x2E => fixed (when (f.rb != 0) 5) (.mxq f.d f.a f.ra f.b)
  | 0x2F => fixed [] (.absd f.d f.a f.ra f.b f.rb)
  | 0x30 => fixed [] (.addi f.d f.a f.k11)
  | 0x31 => fixed [] (.muli f.d f.a f.k11)
  | 0x32 => fixed [] (.andi f.d f.a f.k11)
  | 0x33 => fixed [] (.ori f.d f.a f.k11)
  | 0x34 => fixed [] (.xori f.d f.a f.k11)
  | 0x35 => fixed [] (.shli f.d f.a f.k11)
  | 0x36 => fixed [] (.shri f.d f.a f.k11)
  | 0x37 => fixed [] (.shai f.d f.a f.k11)
  | 0x38 => fixed [] (.cmpi (f.d.extractLsb' 3 4) (f.d.extractLsb' 0 3) f.a f.k11)
  | 0x39 => fixed [] (.mini f.d f.a f.k11)
  | 0x3A => fixed [] (.maxi f.d f.a f.k11)
  | 0x40 => (qxSub f).getD (.bad 1 none)
  | 0x41 => (gxSub f).getD (.bad 1 none)
  | 0x42 => fixed [] (.shfl f.d f.a f.ra f.b f.rb)
  | 0x43 => fixed [] (.movsv f.d f.a f.ra f.b f.rb)
  | 0x48 => fixed [] (.ld f.d f.a f.kind f.k8)
  | 0x49 => fixed [] (.st f.d f.a f.kind f.k8)
  | 0x4A => fixed [] (.lds f.d f.a f.kind f.k8)
  | 0x4B => fixed [] (.sts f.d f.a f.kind f.k8)
  | 0x4C => fixed [] (.ldx f.d f.a f.kind f.k8)
  | 0x4D => fixed [] (.ldw f.d f.a f.kind f.k8)
  | 0x4E => fixed [] (.stw f.d f.a f.kind f.k8)
  | 0x4F => fixed [] (.cpl f.d f.a f.kind f.k8)
  | 0x50 => fixed (when (f.rb != 0) 2) (.atom f.d f.a f.kind f.order f.aop)
  | 0x51 => fixed (when (f.rb != 0) 2) (.red f.d f.a f.kind f.order f.aop)
  | 0x53 => fixed (when (f.ra != 0) 5 ++ when (f.rb != 0) 5) (.kick f.d f.a f.b)
  | 0x54 => (barSub f).getD (.bad 1 none)
  | 0x55 => (ctrSub f).getD (.bad 1 none)
  | 0x56 => fixed (when (f.k25.extractLsb' 3 22 != 0) 2) (.rel (f.k25.extractLsb' 0 3))
  | 0x57 => fixed (when (f.k25.extractLsb' 3 22 != 0) 2) (.acq (f.k25.extractLsb' 0 3))
  | 0x58 => fixed (when (f.d != 0x7E#7) 2 ++ when (f.b != 0x7E#7) 2 ++ when (f.ra != 0) 5 ++ when (f.rb != 0) 5) (.acql f.a)
  | 0x59 => fixed (when (f.d.extractLsb' 3 4 != 0) 2 ++ when (f.ra != 0) 5 ++ when (f.rb != 0) 5) (.fncr (f.d.extractLsb' 0 3) f.a f.b)
  | 0x5A => (cflSub f).getD (.bad 1 none)
  | 0x60 => fixed (when (f.k25.extractLsb' 3 22 != 0) 2) (.mxacq (f.k25.extractLsb' 1 2) (f.k25.getLsbD 0))
  | 0x61 => fixed (when (f.k25 != 0) 2) .mxrel
  | 0x62 => fixed (when (f.ra != 0) 5 ++ when (f.rb != 0) 5) (.mma f.d f.a f.b)
  | 0x63 => fixed (when (f.ra != 0) 5 ++ when (f.rb != 0) 5) (.scld f.d f.a f.b)
  | 0x64 => (accSub f).getD (.bad 1 none)
  | 0x65 => fixed (when (f.k25 != 0) 2) .mxwait
  | 0x66 => fixed (when (f.k25.extractLsb' 12 13 != 0) 2) (.role (f.k25.extractLsb' 4 8) (f.k25.extractLsb' 0 4))
  | 0x68 => (ttSub f).getD (.bad 1 none)
  | 0x69 => (kvSub f).getD (.bad 1 none)
  | 0x6A => fixed (when (f.ra != 0) 5 ++ when (f.rb != 0) 5) (.ring f.d f.a f.b)
  | 0x6B => (bellSub f).getD (.bad 1 none)
  | 0x70 => (sysSub f).getD (.bad 1 none)
  | 0x71 => fixed (when (f.k25 != 0) 2) .eret
  | 0x72 => fixed (when (f.a != 0x7E#7) 2) (.rdp f.d f.k11)
  | 0x73 => fixed (when (f.d != 0x7E#7) 2) (.wrp f.a f.k11)
  | _ => .bad 0 none

/-- The word of an instruction (R56 to R65); a step of the device has no word and gives the word of a NOP. -/
def encode : Instr → Word
  | .nop tag => 0x00#7 ++ tag
  | .limm v => 0x01#7 ++ v
  | .limh v => 0x02#7 ++ v
  | .rep count fd fa fb stride => 0x03#7 ++ count ++ bit fd ++ bit fa ++ bit fb ++ stride ++ 0#13
  | .mode mask image => 0x04#7 ++ mask ++ 0#4 ++ image
  | .mroute slot kind k => 0x05#7 ++ slot ++ kind ++ k ++ 0#15
  | .setmark off => 0x06#7 ++ off
  | .trap code => 0x07#7 ++ 0#17 ++ code
  | .br n p k => 0x08#7 ++ bit n ++ p ++ k
  | .brs n p k => 0x09#7 ++ bit n ++ p ++ k
  | .bri a => 0x0A#7 ++ 0x7E#7 ++ a ++ 0#2 ++ 0x7E#7 ++ 0#2
  | .call k => 0x0B#7 ++ 7#4 ++ k
  | .ret => 0x0C#7 ++ 0#25
  | .mark k => 0x0D#7 ++ 7#4 ++ k
  | .join => 0x0E#7 ++ 0#25
  | .part m => 0x0F#7 ++ 0#17 ++ m
  | .regang m => 0x10#7 ++ 0#17 ++ m
  | .exit => 0x11#7 ++ 0#25
  | .yield gate off => 0x12#7 ++ gate ++ off
  | .waitb => 0x13#7 ++ 0#25
  | .bret => 0x14#7 ++ 0#25
  | .rds d k => 0x15#7 ++ d ++ 0x7E#7 ++ k
  | .wrs a k => 0x16#7 ++ 0x7E#7 ++ a ++ k
  | .add d a ra b rb => 0x18#7 ++ d ++ a ++ ra ++ b ++ rb
  | .sub d a ra b rb => 0x19#7 ++ d ++ a ++ ra ++ b ++ rb
  | .mul d a ra b rb => 0x1A#7 ++ d ++ a ++ ra ++ b ++ rb
  | .mulh d a ra b rb => 0x1B#7 ++ d ++ a ++ ra ++ b ++ rb
  | .mad d a ra b rb => 0x1C#7 ++ d ++ a ++ ra ++ b ++ rb
  | .msb d a ra b rb => 0x1D#7 ++ d ++ a ++ ra ++ b ++ rb
  | .min d a ra b rb => 0x1E#7 ++ d ++ a ++ ra ++ b ++ rb
  | .max d a ra b rb => 0x1F#7 ++ d ++ a ++ ra ++ b ++ rb
  | .and d a ra b rb => 0x20#7 ++ d ++ a ++ ra ++ b ++ rb
  | .or d a ra b rb => 0x21#7 ++ d ++ a ++ ra ++ b ++ rb
  | .xor d a ra b rb => 0x22#7 ++ d ++ a ++ ra ++ b ++ rb
  | .andn d a ra b rb => 0x23#7 ++ d ++ a ++ ra ++ b ++ rb
  | .shl d a ra b rb => 0x24#7 ++ d ++ a ++ ra ++ b ++ rb
  | .shr d a ra b rb => 0x25#7 ++ d ++ a ++ ra ++ b ++ rb
  | .sha d a ra b rb => 0x26#7 ++ d ++ a ++ ra ++ b ++ rb
  | .rot d a ra b rb => 0x27#7 ++ d ++ a ++ ra ++ b ++ rb
  | .bfe d a ra b rb => 0x28#7 ++ d ++ a ++ ra ++ b ++ rb
  | .bfi d a ra b rb => 0x29#7 ++ d ++ a ++ ra ++ b ++ rb
  | .sel d a ra b rb => 0x2A#7 ++ d ++ a ++ ra ++ b ++ rb
  | .cmp c p a ra b rb => 0x2B#7 ++ c ++ p ++ a ++ ra ++ b ++ rb
  | .mov d a ra => 0x2C#7 ++ d ++ a ++ ra ++ 0x00#7 ++ 0#2
  | .not d a ra => 0x2C#7 ++ d ++ a ++ ra ++ 0x01#7 ++ 0#2
  | .neg d a ra => 0x2C#7 ++ d ++ a ++ ra ++ 0x02#7 ++ 0#2
  | .abs d a ra => 0x2C#7 ++ d ++ a ++ ra ++ 0x03#7 ++ 0#2
  | .clz d a ra => 0x2C#7 ++ d ++ a ++ ra ++ 0x04#7 ++ 0#2
  | .popc d a ra => 0x2C#7 ++ d ++ a ++ ra ++ 0x05#7 ++ 0#2
  | .brev d a ra => 0x2C#7 ++ d ++ a ++ ra ++ 0x06#7 ++ 0#2
  | .rcp d a ra => 0x2C#7 ++ d ++ a ++ ra ++ 0x10#7 ++ 0#2
  | .rsq d a ra => 0x2C#7 ++ d ++ a ++ ra ++ 0x11#7 ++ 0#2
  | .sqrt d a ra => 0x2C#7 ++ d ++ a ++ ra ++ 0x12#7 ++ 0#2
  | .exp2 d a ra => 0x2C#7 ++ d ++ a ++ ra ++ 0x13#7 ++ 0#2
  | .log2 d a ra => 0x2C#7 ++ d ++ a ++ ra ++ 0x14#7 ++ 0#2
  | .sint d a ra => 0x2C#7 ++ d ++ a ++ ra ++ 0x15#7 ++ 0#2
  | .cost d a ra => 0x2C#7 ++ d ++ a ++ ra ++ 0x16#7 ++ 0#2
  | .tanh d a ra => 0x2C#7 ++ d ++ a ++ ra ++ 0x17#7 ++ 0#2
  | .flr d a ra => 0x2C#7 ++ d ++ a ++ ra ++ 0x18#7 ++ 0#2
  | .ceil d a ra => 0x2C#7 ++ d ++ a ++ ra ++ 0x19#7 ++ 0#2
  | .trnc d a ra => 0x2C#7 ++ d ++ a ++ ra ++ 0x1A#7 ++ 0#2
  | .rint d a ra => 0x2C#7 ++ d ++ a ++ ra ++ 0x1B#7 ++ 0#2
  | .frc d a ra => 0x2C#7 ++ d ++ a ++ ra ++ 0x1C#7 ++ 0#2
  | .fclass d a ra => 0x2C#7 ++ d ++ a ++ ra ++ 0x1D#7 ++ 0#2
  | .rand d ra => 0x2C#7 ++ d ++ 0x7E#7 ++ ra ++ 0x1E#7 ++ 0#2
  | .cvt d a ra code => 0x2D#7 ++ d ++ a ++ ra ++ code ++ 0#2
  | .mxq d a ra fmt => 0x2E#7 ++ d ++ a ++ ra ++ fmt ++ 0#2
  | .absd d a ra b rb => 0x2F#7 ++ d ++ a ++ ra ++ b ++ rb
  | .addi d a k => 0x30#7 ++ d ++ a ++ k
  | .muli d a k => 0x31#7 ++ d ++ a ++ k
  | .andi d a k => 0x32#7 ++ d ++ a ++ k
  | .ori d a k => 0x33#7 ++ d ++ a ++ k
  | .xori d a k => 0x34#7 ++ d ++ a ++ k
  | .shli d a k => 0x35#7 ++ d ++ a ++ k
  | .shri d a k => 0x36#7 ++ d ++ a ++ k
  | .shai d a k => 0x37#7 ++ d ++ a ++ k
  | .cmpi c p a k => 0x38#7 ++ c ++ p ++ a ++ k
  | .mini d a k => 0x39#7 ++ d ++ a ++ k
  | .maxi d a k => 0x3A#7 ++ d ++ a ++ k
  | .qswh d a ra => 0x40#7 ++ d ++ a ++ ra ++ 0x00#7 ++ 0#2
  | .qswv d a ra => 0x40#7 ++ d ++ a ++ ra ++ 0x01#7 ++ 0#2
  | .qswd d a ra => 0x40#7 ++ d ++ a ++ ra ++ 0x02#7 ++ 0#2
  | .qbc0 d a ra => 0x40#7 ++ d ++ a ++ ra ++ 0x03#7 ++ 0#2
  | .qbc1 d a ra => 0x40#7 ++ d ++ a ++ ra ++ 0x04#7 ++ 0#2
  | .qbc2 d a ra => 0x40#7 ++ d ++ a ++ ra ++ 0x05#7 ++ 0#2
  | .qbc3 d a ra => 0x40#7 ++ d ++ a ++ ra ++ 0x06#7 ++ 0#2
  | .qsum d a ra => 0x40#7 ++ d ++ a ++ ra ++ 0x07#7 ++ 0#2
  | .qmin d a ra => 0x40#7 ++ d ++ a ++ ra ++ 0x08#7 ++ 0#2
  | .qmax d a ra => 0x40#7 ++ d ++ a ++ ra ++ 0x09#7 ++ 0#2
  | .qddx d a ra => 0x40#7 ++ d ++ a ++ ra ++ 0x0A#7 ++ 0#2
  | .qddy d a ra => 0x40#7 ++ d ++ a ++ ra ++ 0x0B#7 ++ 0#2
  | .lane d ra => 0x41#7 ++ d ++ 0x7E#7 ++ ra ++ 0x00#7 ++ 0#2
  | .qidx d ra => 0x41#7 ++ d ++ 0x7E#7 ++ ra ++ 0x01#7 ++ 0#2
  | .ballot d a ra => 0x41#7 ++ d ++ a ++ ra ++ 0x02#7 ++ 0#2
  | .vany d a ra => 0x41#7 ++ d ++ a ++ ra ++ 0x03#7 ++ 0#2
  | .vall d a ra => 0x41#7 ++ d ++ a ++ ra ++ 0x04#7 ++ 0#2
  | .gsum d a ra => 0x41#7 ++ d ++ a ++ ra ++ 0x05#7 ++ 0#2
  | .gmin d a ra => 0x41#7 ++ d ++ a ++ ra ++ 0x06#7 ++ 0#2
  | .gmax d a ra => 0x41#7 ++ d ++ a ++ ra ++ 0x07#7 ++ 0#2
  | .gscan d a ra => 0x41#7 ++ d ++ a ++ ra ++ 0x08#7 ++ 0#2
  | .gscanx d a ra => 0x41#7 ++ d ++ a ++ ra ++ 0x09#7 ++ 0#2
  | .elect d ra => 0x41#7 ++ d ++ 0x7E#7 ++ ra ++ 0x0A#7 ++ 0#2
  | .match d a ra => 0x41#7 ++ d ++ a ++ ra ++ 0x0B#7 ++ 0#2
  | .popm d a ra => 0x41#7 ++ d ++ a ++ ra ++ 0x0C#7 ++ 0#2
  | .shfl d a ra b rb => 0x42#7 ++ d ++ a ++ ra ++ b ++ rb
  | .movsv d a ra b rb => 0x43#7 ++ d ++ a ++ ra ++ b ++ rb
  | .ld t a kind k => 0x48#7 ++ t ++ a ++ kind ++ k
  | .st t a kind k => 0x49#7 ++ t ++ a ++ kind ++ k
  | .lds t a kind k => 0x4A#7 ++ t ++ a ++ kind ++ k
  | .sts t a kind k => 0x4B#7 ++ t ++ a ++ kind ++ k
  | .ldx t a kind k => 0x4C#7 ++ t ++ a ++ kind ++ k
  | .ldw t a kind k => 0x4D#7 ++ t ++ a ++ kind ++ k
  | .stw t a kind k => 0x4E#7 ++ t ++ a ++ kind ++ k
  | .cpl t a kind k => 0x4F#7 ++ t ++ a ++ kind ++ k
  | .atom d a scope order aop => 0x50#7 ++ d ++ a ++ scope ++ order ++ aop ++ 0#2
  | .red d a scope order aop => 0x51#7 ++ d ++ a ++ scope ++ order ++ aop ++ 0#2
  | .kick d a b => 0x53#7 ++ d ++ a ++ 0#2 ++ b ++ 0#2
  | .binit d a => 0x54#7 ++ d ++ a ++ 0#2 ++ 0x00#7 ++ 0#2
  | .barr d a => 0x54#7 ++ d ++ a ++ 0#2 ++ 0x01#7 ++ 0#2
  | .barw d a => 0x54#7 ++ d ++ a ++ 0#2 ++ 0x02#7 ++ 0#2
  | .bwait d a => 0x54#7 ++ d ++ a ++ 0#2 ++ 0x03#7 ++ 0#2
  | .bexp d a => 0x54#7 ++ d ++ a ++ 0#2 ++ 0x04#7 ++ 0#2
  | .btest d a => 0x54#7 ++ d ++ a ++ 0#2 ++ 0x05#7 ++ 0#2
  | .btile d a => 0x54#7 ++ d ++ a ++ 0#2 ++ 0x06#7 ++ 0#2
  | .brd d a => 0x54#7 ++ d ++ a ++ 0#2 ++ 0x07#7 ++ 0#2
  | .ctrw d a => 0x55#7 ++ d ++ a ++ 0#2 ++ 0x00#7 ++ 0#2
  | .ctrt d a => 0x55#7 ++ d ++ a ++ 0#2 ++ 0x01#7 ++ 0#2
  | .ctrrd d a => 0x55#7 ++ d ++ a ++ 0#2 ++ 0x02#7 ++ 0#2
  | .rel scope => 0x56#7 ++ 0#22 ++ scope
  | .acq scope => 0x57#7 ++ 0#22 ++ scope
  | .acql a => 0x58#7 ++ 0x7E#7 ++ a ++ 0#2 ++ 0x7E#7 ++ 0#2
  | .fncr scope a b => 0x59#7 ++ 0#4 ++ scope ++ a ++ 0#2 ++ b ++ 0#2
  | .cwb d a => 0x5A#7 ++ d ++ a ++ 0#2 ++ 0x00#7 ++ 0#2
  | .cinv d a => 0x5A#7 ++ d ++ a ++ 0#2 ++ 0x01#7 ++ 0#2
  | .cpref d a => 0x5A#7 ++ d ++ a ++ 0#2 ++ 0x02#7 ++ 0#2
  | .cdisc d a => 0x5A#7 ++ d ++ a ++ 0#2 ++ 0x03#7 ++ 0#2
  | .mxacq prio pair => 0x60#7 ++ 0#22 ++ prio ++ bit pair
  | .mxrel => 0x61#7 ++ 0#25
  | .mma d a b => 0x62#7 ++ d ++ a ++ 0#2 ++ b ++ 0#2
  | .scld d a b => 0x63#7 ++ d ++ a ++ 0#2 ++ b ++ 0#2
  | .accz a => 0x64#7 ++ 0x7E#7 ++ a ++ 0#2 ++ 0x00#7 ++ 0#2
  | .accld d a => 0x64#7 ++ d ++ a ++ 0#2 ++ 0x01#7 ++ 0#2
  | .accst d a => 0x64#7 ++ d ++ a ++ 0#2 ++ 0x02#7 ++ 0#2
  | .accrd d a => 0x64#7 ++ d ++ a ++ 0#2 ++ 0x03#7 ++ 0#2
  | .accwr d a => 0x64#7 ++ d ++ a ++ 0#2 ++ 0x04#7 ++ 0#2
  | .mxwait => 0x65#7 ++ 0#25
  | .role base role => 0x66#7 ++ 0#13 ++ base ++ role
  | .ttinit a => 0x68#7 ++ 0x7E#7 ++ a ++ 0#2 ++ 0x00#7 ++ 0#2
  | .ttadd d a => 0x68#7 ++ d ++ a ++ 0#2 ++ 0x01#7 ++ 0#2
  | .ttanc d a => 0x68#7 ++ d ++ a ++ 0#2 ++ 0x02#7 ++ 0#2
  | .ttpos d a => 0x68#7 ++ d ++ a ++ 0#2 ++ 0x03#7 ++ 0#2
  | .ttpar d a => 0x68#7 ++ d ++ a ++ 0#2 ++ 0x04#7 ++ 0#2
  | .ttstok d a => 0x68#7 ++ d ++ a ++ 0#2 ++ 0x05#7 ++ 0#2
  | .ttgtok d a => 0x68#7 ++ d ++ a ++ 0#2 ++ 0x06#7 ++ 0#2
  | .ttssc d a => 0x68#7 ++ d ++ a ++ 0#2 ++ 0x07#7 ++ 0#2
  | .ttgsc d a => 0x68#7 ++ d ++ a ++ 0#2 ++ 0x08#7 ++ 0#2
  | .ttprune d a => 0x68#7 ++ d ++ a ++ 0#2 ++ 0x09#7 ++ 0#2
  | .ttcnt d => 0x68#7 ++ d ++ 0x7E#7 ++ 0#2 ++ 0x0A#7 ++ 0#2
  | .kvx d a => 0x69#7 ++ d ++ a ++ 0#2 ++ 0x00#7 ++ 0#2
  | .kvapp d a => 0x69#7 ++ d ++ a ++ 0#2 ++ 0x01#7 ++ 0#2
  | .kvtrim d a => 0x69#7 ++ d ++ a ++ 0#2 ++ 0x02#7 ++ 0#2
  | .kvpark a => 0x69#7 ++ 0x7E#7 ++ a ++ 0#2 ++ 0x03#7 ++ 0#2
  | .kvseq d a => 0x69#7 ++ d ++ a ++ 0#2 ++ 0x04#7 ++ 0#2
  | .ring d a b => 0x6A#7 ++ d ++ a ++ 0#2 ++ b ++ 0#2
  | .bmask d a => 0x6B#7 ++ d ++ a ++ 0#2 ++ 0x00#7 ++ 0#2
  | .bpend d => 0x6B#7 ++ d ++ 0x7E#7 ++ 0#2 ++ 0x01#7 ++ 0#2
  | .btake d a => 0x6B#7 ++ d ++ a ++ 0#2 ++ 0x02#7 ++ 0#2
  | .bhpc a => 0x6B#7 ++ 0x7E#7 ++ a ++ 0#2 ++ 0x03#7 ++ 0#2
  | .bself a => 0x6B#7 ++ 0x7E#7 ++ a ++ 0#2 ++ 0x04#7 ++ 0#2
  | .keyw d a => 0x70#7 ++ d ++ a ++ 0#2 ++ 0x00#7 ++ 0#2
  | .waym d a => 0x70#7 ++ d ++ a ++ 0#2 ++ 0x01#7 ++ 0#2
  | .klass d a => 0x70#7 ++ d ++ a ++ 0#2 ++ 0x02#7 ++ 0#2
  | .split d a => 0x70#7 ++ d ++ a ++ 0#2 ++ 0x03#7 ++ 0#2
  | .preqHold d a => 0x70#7 ++ d ++ a ++ 0#2 ++ 0x04#7 ++ 0#2
  | .preqSaved d a => 0x70#7 ++ d ++ a ++ 0#2 ++ 0x04#7 ++ 0#2
  | .preqWaitsave d a => 0x70#7 ++ d ++ a ++ 0#2 ++ 0x04#7 ++ 0#2
  | .preqRestored d a => 0x70#7 ++ d ++ a ++ 0#2 ++ 0x04#7 ++ 0#2
  | .preqWaitrest d a => 0x70#7 ++ d ++ a ++ 0#2 ++ 0x04#7 ++ 0#2
  | .preqKill d a => 0x70#7 ++ d ++ a ++ 0#2 ++ 0x04#7 ++ 0#2
  | .preqRelease d a => 0x70#7 ++ d ++ a ++ 0#2 ++ 0x04#7 ++ 0#2
  | .freeze d a => 0x70#7 ++ d ++ a ++ 0#2 ++ 0x05#7 ++ 0#2
  | .wingr d a => 0x70#7 ++ d ++ a ++ 0#2 ++ 0x06#7 ++ 0#2
  | .jrnl d a => 0x70#7 ++ d ++ a ++ 0#2 ++ 0x07#7 ++ 0#2
  | .eret => 0x71#7 ++ 0#25
  | .rdp d k => 0x72#7 ++ d ++ 0x7E#7 ++ k
  | .wrp a k => 0x73#7 ++ 0x7E#7 ++ a ++ k
  | _ => 0

/-- The instructions that have a word of their own: every row with an encoding, PREQ once (R352). -/
def hasWord : Instr → Bool
  | .nop .. => true
  | .limm .. => true
  | .limh .. => true
  | .rep .. => true
  | .mode .. => true
  | .mroute .. => true
  | .setmark .. => true
  | .trap .. => true
  | .br .. => true
  | .brs .. => true
  | .bri .. => true
  | .call .. => true
  | .ret .. => true
  | .mark .. => true
  | .join .. => true
  | .part .. => true
  | .regang .. => true
  | .exit .. => true
  | .yield .. => true
  | .waitb .. => true
  | .bret .. => true
  | .rds .. => true
  | .wrs .. => true
  | .add .. => true
  | .sub .. => true
  | .mul .. => true
  | .mulh .. => true
  | .mad .. => true
  | .msb .. => true
  | .min .. => true
  | .max .. => true
  | .and .. => true
  | .or .. => true
  | .xor .. => true
  | .andn .. => true
  | .shl .. => true
  | .shr .. => true
  | .sha .. => true
  | .rot .. => true
  | .bfe .. => true
  | .bfi .. => true
  | .sel .. => true
  | .cmp .. => true
  | .mov .. => true
  | .not .. => true
  | .neg .. => true
  | .abs .. => true
  | .clz .. => true
  | .popc .. => true
  | .brev .. => true
  | .rcp .. => true
  | .rsq .. => true
  | .sqrt .. => true
  | .exp2 .. => true
  | .log2 .. => true
  | .sint .. => true
  | .cost .. => true
  | .tanh .. => true
  | .flr .. => true
  | .ceil .. => true
  | .trnc .. => true
  | .rint .. => true
  | .frc .. => true
  | .fclass .. => true
  | .rand .. => true
  | .cvt .. => true
  | .mxq .. => true
  | .absd .. => true
  | .addi .. => true
  | .muli .. => true
  | .andi .. => true
  | .ori .. => true
  | .xori .. => true
  | .shli .. => true
  | .shri .. => true
  | .shai .. => true
  | .cmpi .. => true
  | .mini .. => true
  | .maxi .. => true
  | .qswh .. => true
  | .qswv .. => true
  | .qswd .. => true
  | .qbc0 .. => true
  | .qbc1 .. => true
  | .qbc2 .. => true
  | .qbc3 .. => true
  | .qsum .. => true
  | .qmin .. => true
  | .qmax .. => true
  | .qddx .. => true
  | .qddy .. => true
  | .lane .. => true
  | .qidx .. => true
  | .ballot .. => true
  | .vany .. => true
  | .vall .. => true
  | .gsum .. => true
  | .gmin .. => true
  | .gmax .. => true
  | .gscan .. => true
  | .gscanx .. => true
  | .elect .. => true
  | .match .. => true
  | .popm .. => true
  | .shfl .. => true
  | .movsv .. => true
  | .ld .. => true
  | .st .. => true
  | .lds .. => true
  | .sts .. => true
  | .ldx .. => true
  | .ldw .. => true
  | .stw .. => true
  | .cpl .. => true
  | .atom .. => true
  | .red .. => true
  | .kick .. => true
  | .binit .. => true
  | .barr .. => true
  | .barw .. => true
  | .bwait .. => true
  | .bexp .. => true
  | .btest .. => true
  | .btile .. => true
  | .brd .. => true
  | .ctrw .. => true
  | .ctrt .. => true
  | .ctrrd .. => true
  | .rel .. => true
  | .acq .. => true
  | .acql .. => true
  | .fncr .. => true
  | .cwb .. => true
  | .cinv .. => true
  | .cpref .. => true
  | .cdisc .. => true
  | .mxacq .. => true
  | .mxrel .. => true
  | .mma .. => true
  | .scld .. => true
  | .accz .. => true
  | .accld .. => true
  | .accst .. => true
  | .accrd .. => true
  | .accwr .. => true
  | .mxwait .. => true
  | .role .. => true
  | .ttinit .. => true
  | .ttadd .. => true
  | .ttanc .. => true
  | .ttpos .. => true
  | .ttpar .. => true
  | .ttstok .. => true
  | .ttgtok .. => true
  | .ttssc .. => true
  | .ttgsc .. => true
  | .ttprune .. => true
  | .ttcnt .. => true
  | .kvx .. => true
  | .kvapp .. => true
  | .kvtrim .. => true
  | .kvpark .. => true
  | .kvseq .. => true
  | .ring .. => true
  | .bmask .. => true
  | .bpend .. => true
  | .btake .. => true
  | .bhpc .. => true
  | .bself .. => true
  | .keyw .. => true
  | .waym .. => true
  | .klass .. => true
  | .split .. => true
  | .preqHold .. => true
  | .freeze .. => true
  | .wingr .. => true
  | .jrnl .. => true
  | .eret .. => true
  | .rdp .. => true
  | .wrp .. => true
  | _ => false

/-- The opcode of an instruction, as XINFO[31:25] reports it (R67). -/
def opcode (i : Instr) : BitVec 7 := opcodeOf (encode i)

/-- The instruction this decoder reads from a word of `nbits` bits (every row with an encoding has 32). -/
def decodeTableWord (nbits w : Nat) : Option Instr :=
  if nbits = 32 then
    match decode (BitVec.ofNat 32 w) with
    | .ok i => some i
    | .bad _ _ => none
  else none

end Sys2Proof
end

