-- ==== Sys2Proof/Machine/Ops.lean ====
section
/-! DEFINITION. The operations every meaning shares: cores, gangs, blocks, the executing party and its lanes, the agenda, the end
of an instruction, results that land later, taking a trap, leaving a handler, and the kill of a block. -/

namespace Sys2Proof.Machine

open Sys2Proof

abbrev Result := Host.Outcome State Fault Refusal

/-! ### Cores, gangs, blocks -/

/-- A core; one not listed is as bring-up left it (R154, R461). -/
def State.coreAt (s : State) (k : Nat) : Core := (Kv.get? s.cores k).getD {}

def State.modCore (s : State) (k : Nat) (f : Core → Core) : State := { s with cores := Kv.put s.cores k (f (s.coreAt k)) }

def Core.gangAt (c : Core) (slot : Nat) : Option Gang := Kv.get? c.gangs slot

def State.gangAt (s : State) (core slot : Nat) : Option Gang := (s.coreAt core).gangAt slot

/-- Change a gang, if the slot holds one. -/
def State.modGang (s : State) (core slot : Nat) (f : Gang → Gang) : State :=
  match s.gangAt core slot with
  | none => s
  | some g => s.modCore core fun c => { c with gangs := Kv.put c.gangs slot (f g) }

def State.blockAt (s : State) (key : Nat) : Option Block := s.blocks.find? (·.key == key)

def State.modBlock (s : State) (key : Nat) (f : Block → Block) : State :=
  { s with blocks := replaceFirst (·.key == key) f s.blocks }

def State.domainAt (s : State) (d : Nat) : Domain := (Kv.get? s.domains d).getD {}

def State.funcAt (s : State) (f : Nat) : Func := (Kv.get? s.funcs f).getD {}

/-- The tenant tag that a gang's requests carry over the fabric (R370): its domain's, as it was when its launch was accepted (R426). -/
def State.tagOf (s : State) (g : Gang) : Nat := (s.launches.find? (·.idx == g.launch)).elim 0 (·.tag)

/-- The part of a block that a core holds: 1 for the bed core of a twin block (R210, R212). -/
def Block.partOf (b : Block) (core : Nat) : Nat := if b.pair then core % 2 else 0

/-- The core of a block's part. -/
def Block.coreOf (b : Block) (part : Nat) : Nat := if b.pair then b.core / 2 * 2 + part else b.core

/-- The die and cluster of a core, numbered as PLACE[13:5] lays them out (R100). -/
def dieOf (core : Nat) : Nat := core / 256
def clusterOf (core : Nat) : Nat := core / 16

/-- The quarter of a gang slot (R148). -/
def quarterOf (slot : Nat) : Nat := slot / 16

/-- The gangs of a block with their cores and slots. -/
def State.gangsOf (s : State) (key : Nat) : List (Nat × Nat × Gang) :=
  s.cores.flatMap fun (k, c) => (c.gangs.filter (·.2.blk == key)).map fun (slot, g) => (k, slot, g)

/-! ### Mode fields (R58) -/

def tyOf (gmode : BitVec 15) : BitVec 5 := gmode.extractLsb' 10 5
def rmOf (gmode : BitVec 15) : BitVec 3 := gmode.extractLsb' 7 3
def satOf (gmode : BitVec 15) : Bool := gmode.getLsbD 6
def gpInv (gmode : BitVec 15) : Bool := gmode.getLsbD 5
def gpPred (gmode : BitVec 15) : Nat := (gmode.extractLsb' 2 3).toNat
def fzOf (gmode : BitVec 15) : Bool := gmode.getLsbD 1
def chkOf (gmode : BitVec 15) : Bool := gmode.getLsbD 0

/-- GMODE at launch and on entry to a handler (R14, R101). -/
def launchMode : BitVec 15 := 0x1C#15

/-! ### The executing party -/

/-- The executing party with its gang. -/
structure Party where
  core : Nat
  slot : Nat
  lead : Nat
  g : Gang

def State.partyOf (s : State) (c : Cur) : Option Party := (s.gangAt c.core c.slot).map fun g => ⟨c.core, c.slot, c.lead, g⟩

def State.party? (s : State) : Option Party := s.cur.bind s.partyOf

/-- A quad of a gang; beyond the list it is absent (R12). -/
def Gang.quad (g : Gang) (q : Nat) : Quad := g.quads.getD q {}

/-- A present quad that is not retired. -/
def Gang.unretired (g : Gang) (q : Nat) : Bool := (g.quad q).present && !(g.quad q).retired

/-- The quads of the party named by its lowest quad (R17). -/
def Gang.members (g : Gang) (lead : Nat) : List Nat :=
  (List.range 8).filter fun q => g.unretired q && (g.quad q).party.toNat == lead

/-- Change every quad by index. -/
def Gang.mapQuads (g : Gang) (f : Nat → Quad → Quad) : Gang := { g with quads := g.quads.mapIdx f }

/-- Change the quads of a party. -/
def Gang.mapParty (g : Gang) (lead : Nat) (f : Quad → Quad) : Gang :=
  let ms := g.members lead
  g.mapQuads fun q d => if ms.contains q then f d else d

/-- The leads of the parties present. -/
def Gang.leads (g : Gang) : List Nat := (List.range 8).filter fun q => g.unretired q && (g.quad q).party.toNat == q

/-- A 32-lane mask from a 4-bit mask of each quad (bit 4q + j is lane j of quad q). -/
def quadMask (qs : List Nat) (f : Nat → BitVec 4) : BitVec 32 := maskOf fun l => qs.contains (l / 4) && (f (l / 4)).getLsbD (l % 4)

/-- The part of a lane mask that belongs to a quad. -/
def quadBits (m : BitVec 32) (q : Nat) : BitVec 4 := m.extractLsb' (4 * q) 4

/-- Active lanes of a party. -/
def Gang.act (g : Gang) (lead : Nat) : BitVec 32 := quadMask (g.members lead) fun q => (g.quad q).active

/-- Helper lanes of the party's quads that have an active lane (R15). -/
def Gang.helpers (g : Gang) (lead : Nat) : BitVec 32 :=
  quadMask (g.members lead) fun q => if (g.quad q).active = 0 then 0 else (g.quad q).helper

/-- A predicate of every lane; p7 reads 1 (R10). -/
def Gang.pred (g : Gang) (n : Nat) : BitVec 32 := if n = 7 then BitVec.allOnes 32 else Sp.get g.preds n

/-- The lanes whose guard passes (R58). -/
def Gang.guard (g : Gang) : BitVec 32 :=
  if gpInv g.gmode then ~~~ g.pred (gpPred g.gmode) else g.pred (gpPred g.gmode)

/-- The writing lanes: active lanes that pass the guard (R54, R182). -/
def Party.writing (p : Party) : BitVec 32 := p.g.act p.lead &&& p.g.guard

/-- The helper lanes that execute and pass the guard (R15). -/
def Party.helping (p : Party) : BitVec 32 := p.g.helpers p.lead &&& p.g.guard

/-- The lanes that execute a guarded instruction. -/
def Party.executing (p : Party) : BitVec 32 := p.writing ||| p.helping

def Party.ty (p : Party) : BitVec 5 := tyOf p.g.gmode

/-- The PC of the party. -/
def Party.pc (p : Party) : Addr := (p.g.quad p.lead).pc

/-- The block of the executing party. -/
def State.blockOf (s : State) (p : Party) : Option Block := s.blockAt p.g.blk

/-! ### The program counter (R42) -/

/-- The slot of an address within its bundle. -/
def slotOf (a : Addr) : Nat := a.toNat / 4 % 8

/-- An address that no instruction can have: a pace word, or bits [1:0] nonzero (R43). -/
def badPc (a : Addr) : Bool := slotOf a == 0 || a.toNat % 4 != 0

/-- The successor of an instruction: + 4, or + 8 from slot 7. -/
def succPc (a : Addr) : Addr := if slotOf a = 7 then a + 8 else a + 4

/-- The slot before an address: the REP prefix of a target (R35). -/
def predPc (a : Addr) : Addr := if slotOf a = 1 then a - 8 else a - 4

/-- A branch target: the word's own address + 4 times a signed word offset. -/
def offsetPc {w : Nat} (a : Addr) (k : BitVec w) : Addr := a + (k.signExtend 64) * 4

/-! ### REP state (R34, R100) -/

def repArmed (rep : Word) : Bool := rep.getLsbD 31
def repIndex (rep : Word) : Nat := fld rep.toNat 17 12
def repCount (rep : Word) : Nat := fld rep.toNat 5 0
def repStride (rep : Word) : Nat := fld rep.toNat 11 9 + 1
def repFlagD (rep : Word) : Bool := rep.getLsbD 8
def repFlagA (rep : Word) : Bool := rep.getLsbD 7
def repFlagB (rep : Word) : Bool := rep.getLsbD 6

/-- The REP image with another index. -/
def repWith (rep : Word) (i : Nat) : Word := word ((rep.toNat - fld rep.toNat 17 12 * 2 ^ 12) + i % 64 * 2 ^ 12)

/-- REP is disarmed: the other fields stay (R34). -/
def repOff (rep : Word) : Word := rep &&& 0x7FFFFFFF#32

/-- Whether the party is inside a REP sequence. -/
def Party.inRep (p : Party) : Bool := repArmed p.g.rep && p.g.repLead == p.lead

/-! ### Agenda -/

/-- Put a timed step of the device at a clock (log entry 2). -/
def State.at (s : State) (clock : Nat) (e : Instr) : State := { s with agenda := s.agenda ++ [(clock, e)] }

/-- A step of the device after an open latency: at least one clock later (log entry 3). -/
def State.later (s : State) (e : Instr) : State :=
  { s with agenda := s.agenda ++ [(s.now + 1 + Config.latency s.fresh, e)], fresh := s.fresh + 1 }

/-- A fresh number, for free values and for naming operations. -/
def State.bump (s : State) : State := { s with fresh := s.fresh + 1 }

/-! ### The end of an instruction -/

/-- The party stands at a PC and has issued in this clock. -/
def State.goto (s : State) (p : Party) (pc : Addr) : State :=
  s.modGang p.core p.slot fun g => g.mapParty p.lead fun q => { q with pc := pc, last := some s.now }

/-- The end of a REP iteration (R34): the next index, or disarmed and past the target. -/
def State.nextIteration (s : State) (p : Party) : State :=
  s.modGang p.core p.slot fun g =>
    let i := repIndex g.rep + 1
    if i < repCount g.rep then { g.mapParty p.lead fun q => { q with last := some s.now } with rep := repWith g.rep i }
    else { g.mapParty p.lead fun q => { q with pc := succPc p.pc, last := some s.now } with rep := repOff (repWith g.rep i) }

/-- The instruction has issued: the party stands at the successor, or at the next iteration. -/
def State.advance (s : State) (p : Party) : State :=
  if p.inRep then s.nextIteration p else s.goto p (succPc p.pc)

/-- The party is not ready in this clock; its instruction has had no effect (R149). -/
def State.stall (s : State) (p : Party) : State :=
  s.modGang p.core p.slot fun g => g.mapParty p.lead fun q => { q with wake := s.now + 1 }

/-- Park the party. -/
def State.park (s : State) (p : Party) (w : Park) : State :=
  s.modGang p.core p.slot fun g => g.mapParty p.lead fun q => { q with park := w }

/-- Close both marks (R38, R173). -/
def State.closeMark (s : State) (p : Party) : State :=
  s.modGang p.core p.slot fun g => { g with mark := none, settled := none, eccOnce := false }

/-! ### Registers -/

/-- The value of a block-shared register as a quarter of a part sees it (R31, R32). -/
def sharedSeen (b : Block) (now part quarter reg : Nat) : Word :=
  let seen := b.shWrites.filter fun w => w.reg == reg &&
    decide (w.landed + (if w.part = part then (if w.quarter = quarter then 0 else 2) else 6) ≤ now)
  match seen.getLast? with
  | some w => w.val
  | none => Sp.get b.shared reg

/-- The place of a block-shared write in the order of R31 and R32: landing clock, part, quarter. -/
def shBefore (x y : ShWrite) : Bool :=
  decide (x.landed < y.landed) || (x.landed == y.landed &&
    (decide (x.part < y.part) || (x.part == y.part && decide (x.quarter ≤ y.quarter))))

def insertShared (w : ShWrite) : List ShWrite → List ShWrite
  | [] => [w]
  | x :: xs => if shBefore x w then x :: insertShared w xs else w :: x :: xs

/-- A write of a block-shared register, part of the result `id`, that lands at a clock, from a core and quarter. -/
def State.landSharedAt (s : State) (id clock key core quarter reg : Nat) (v : Word) : State :=
  match s.blockAt key with
  | none => s
  | some b =>
    (s.modBlock key fun b => { b with shWrites := insertShared ⟨id, reg, v, clock, b.partOf core, quarter⟩ b.shWrites }).at
      (clock + if b.pair then 6 else 2) (.blockSharedVisibility key id)

/-- When a gang ends, the results it has issued to block-shared registers still land at their clocks (R31). -/
def State.landAfterEnd (s : State) (core slot : Nat) (g : Gang) : State :=
  let late (id : Nat) : Option Nat := (s.agenda.find? fun e => e.2 == .variableReturnLanding core slot id).map (·.1)
  let known := g.pend.filterMap fun d => match d.body, late d.id with | .value ws, some t => some (d.id, t, ws) | _, _ => none
  ((g.inflight.map fun f => (f.id, f.clock, f.writes)) ++ known).foldl (fun s e => e.2.2.foldl (fun s w =>
    match w.dst with
    | .s n => if n < 24 then s else s.landSharedAt e.1 e.2.1 g.blk core (quarterOf slot) n w.val
    | _ => s) s) s

/-- A scalar register by its number 0 to 29, as the gang reads it now. -/
def State.scalar (s : State) (core slot : Nat) (g : Gang) (n : Nat) : Word :=
  if n < 24 then Sp.get g.sregs n
  else match s.blockAt g.blk with
    | none => 0
    | some b => sharedSeen b s.now (b.partOf core) (quarterOf slot) n

/-- A vector register of a lane. -/
def Gang.vreg (g : Gang) (n lane : Nat) : Word := Sp.get g.vregs (32 * n + lane)

/-- Whether a lane belongs to a present quad (R12). -/
def Gang.hasLane (g : Gang) (lane : Nat) : Bool := (g.quad (lane / 4)).present

/-- Write one register of a gang now, as part of the result `id`. -/
def State.writeReg (s : State) (core slot id : Nat) (w : RegWrite) : State :=
  match w.dst with
  | .v n lane => s.modGang core slot fun g => if g.hasLane lane then { g with vregs := Sp.set g.vregs (32 * n + lane) w.val } else g
  | .s n =>
    if n < 24 then s.modGang core slot fun g => { g with sregs := Sp.set g.sregs n w.val }
    else match s.gangAt core slot with
      | none => s
      | some g => s.landSharedAt id s.now g.blk core (quarterOf slot) n w.val
  | .p n lane => s.modGang core slot fun g =>
      if n < 7 && g.hasLane lane then
        let m := Sp.get g.preds n
        { g with preds := Sp.set g.preds n (if w.val = 0 then m &&& ~~~ (1#32 <<< lane) else m ||| (1#32 <<< lane)) }
      else g

def State.writeRegs (s : State) (core slot id : Nat) (ws : List RegWrite) : State := ws.foldl (fun s w => s.writeReg core slot id w) s

/-- The operand codes a list of writes names (predicate n as 128 + n). -/
def codesOf (ws : List RegWrite) : List Nat :=
  (ws.map fun w => match w.dst with | .v n _ => n | .s n => 0x60 + n | .p n _ => 128 + n).dedup

/-- A fixed-latency result lands lat clocks after issue (R48). -/
def State.fixedResult (s : State) (p : Party) (lat : Nat) (ws : List RegWrite) : State :=
  if ws.isEmpty then s else
  let s' := s.modGang p.core p.slot fun g =>
    { g with inflight := g.inflight ++ [⟨s.fresh, s.now + lat, codesOf ws, ws⟩] }
  (s'.at (s.now + lat) (.fixedResultLanding p.core p.slot s.fresh)).bump

/-- Record an outstanding variable-latency operation; its number is s.fresh (R50). -/
def State.addPend (s : State) (p : Party) (regs : List Nat) (body : PendBody) : State :=
  (s.modGang p.core p.slot fun g => { g with pend := g.pend ++ [⟨s.fresh, p.lead, regs, g.super, body⟩] }).bump

/-- A variable-latency result whose value is known (R50, R153; log entries 3 and 10). -/
def State.variableResult (s : State) (p : Party) (ws : List RegWrite) : State :=
  if ws.isEmpty then s else
  (s.addPend p (codesOf ws) (.value ws)).later (.variableReturnLanding p.core p.slot s.fresh)

/-- The write slots that a result takes: one for each vector register and predicate (R152). -/
def writeSlots (regs : List Nat) : Nat := (regs.filter fun r => decide (r < 0x60) || decide (128 ≤ r)).length

/-- The write slots of a quarter that this clock's landings take: those taken already and those of fixed-latency results still to land in it. -/
def Core.slotsTaken (c : Core) (now q : Nat) : Nat :=
  let h := c.sched.getD q {}
  (if h.slotsAt = now then h.slots else 0)
    + ((c.gangs.filter fun g => quarterOf g.1 == q).flatMap fun g => (g.2.inflight.filter (·.clock == now)).map fun f => writeSlots f.regs).sum

/-- A result takes write slots of a quarter in this clock. -/
def State.takeSlots (s : State) (core q n : Nat) : State :=
  s.modCore core fun c => { c with sched := setAt c.sched q fun h =>
    { h with slotsAt := s.now, slots := (if h.slotsAt = s.now then h.slots else 0) + n } }

/-- Whether a variable-latency return may land in this clock: it has room among the 16 slots and no other return holds the path (R153). -/
def Core.returnMay (c : Core) (now q id n : Nat) : Bool :=
  n == 0 || ((c.sched.getD q {}).back.all (· == id) && decide (c.slotsTaken now q + n ≤ 16))

/-- A return without room holds the quarter's return path until it lands in the next clock that has room (R153). -/
def State.holdReturn (s : State) (core slot id : Nat) : State :=
  (s.modCore core fun c => { c with sched := setAt c.sched (quarterOf slot) fun h => { h with back := some (h.back.getD id) } }).at
    (s.now + 1) (.variableReturnLanding core slot id)

/-- No register write of the gang is in flight (R51, R343). -/
def Gang.quiet (g : Gang) : Bool := g.inflight.isEmpty && g.pend.all (·.regs.isEmpty)

/-! ### Killing a block -/

/-- The first kill of a launch is recorded and nothing more of it is placed (R348). -/
def State.failLaunch (s : State) (idx bid status code info : Nat) : State :=
  { s with launches := replaceFirst (·.idx == idx) (fun l =>
      if l.state = 4 then l
      else { l with state := 4, status := status, xcode := word code, xinfo := word info, badBlock := word bid, changed := s.now,
                    resume := [] }) s.launches }

/-- BHGANG of a gang (R403). -/
def hgangOf (core slot : Nat) : Word := word (2 ^ 31 + core * 2 ^ 21 + slot)

/-- The MMAs of a core once a gang leaves: they keep the registers of its marked B ranges (R218). -/
def Core.keepB (c : Core) (slot blk : Nat) : List Mma :=
  match c.gangAt slot with
  | none => c.mmas
  | some g => c.mmas.map fun m =>
      if m.blk = blk ∧ m.phase < 2 ∧ m.bgangs.any (fun b => b.1 == slot) = true then { m with kept := m.kept ++ [(slot, g.vregs)] } else m

/-- A gang that ends stops being the handler gang (R408). -/
def State.dropHandler (s : State) (core slot : Nat) : State :=
  { s with boards := s.boards.map fun b => if b.2.hgang = hgangOf core slot ∧ b.2.hres = true then (b.1, { b.2 with hgang := 0 }) else b }

/-- The handler gang of a domain that is saved with its block ends with it (R408, R422). -/
def State.dropSavedHandler (s : State) (key : Nat) : State :=
  match s.blockAt key with
  | none => s
  | some b =>
    if b.saved.any (·.handler) then
      { s with boards := s.boards.map fun x => if x.1 = b.domain ∧ x.2.hres = false then (x.1, { x.2 with hgang := 0, hres := true }) else x }
    else s

/-- A gang gives up its engines and withdraws its request (R215, R235). -/
def State.leaveEngines (s : State) (core slot : Nat) : State :=
  let own (o : Owner) : Owner := if o.core = core ∧ o.slot = slot then { o with released := true } else o
  let part (s : State) (k : Nat) : State := s.modCore k fun c =>
    { c with owner := c.owner.map own, mxq := c.mxq.filter fun r => !(r.core == core && r.slot == slot) }
  (part (part s (core / 2 * 2)) (core / 2 * 2 + 1)).at s.now (.engineGrant (core / 2 * 2))

/-- Look again at what the leat may send. -/
def State.drain (s : State) (core : Nat) : State := s.at s.now (.leatDrainStart core)

/-- What may go on when an entry, a work or a read of a core has ended. -/
def State.wake (s : State) (core : Nat) : State :=
  let c := s.coreAt core
  let s := c.rels.foldl (fun s r => s.at s.now (.releaseCompletion core r.id)) s
  let s := s.cores.foldl (fun s k => k.2.promos.foldl (fun s p => s.at s.now (.promotionComplete k.1 p.id)) s) s
  let s := c.works.foldl (fun s w => w.units.foldl (fun s u => if u.st = .queued then s.at s.now (.transferUnitLanding core w.id u.id) else s) s) s
  let s := if c.recs.isEmpty then s else s.at s.now (.bulkRecordService core)
  if c.leat.isEmpty then s else s.drain core

/-- What a core still has under way for a gang of a block goes by another slot number: 64 and its number while it stands in none, so that it
keeps its releases wherever it is placed again and no other gang takes them over (R320). -/
def Core.reslot (c : Core) (blk a b : Nat) : Core :=
  let f (x y : Nat) : Nat := if y = blk ∧ x = a then b else x
  { c with rels := c.rels.map fun r => { r with slot := f r.slot r.blk }
           heldOps := c.heldOps.map fun r => { r with slot := f r.slot r.blk }
           atoms := c.atoms.map fun r => { r with slot := f r.slot r.blk }
           wins := c.wins.map fun r => { r with slot := f r.slot r.blk }
           works := c.works.map fun r => { r with slot := f r.slot r.blk }
           recs := c.recs.map fun r => { r with slot := f r.slot r.blk }
           leat := c.leat.map fun r => { r with slot := f r.slot r.blk } }

/-- A gang leaves its slot: what it has not read yet holds no release back any more (R320), and its MMAs keep its B registers (R218). -/
def State.freeSlot (s : State) (core slot : Nat) (blk : Nat) : State :=
  let ids := (s.gangAt core slot).elim [] fun g => g.pend.map (·.id)
  let number := (s.gangAt core slot).elim slot (·.number)
  (s.modCore core fun c =>
    { (c.reslot blk slot (64 + number)) with
             gangs := Kv.del c.gangs slot
             mmas := c.keepB slot blk
             rels := (c.reslot blk slot (64 + number)).rels.map fun r => { r with reads := r.reads.filter fun i => !ids.contains i } }).wake core

/-- The first-level copies of some lines once entries have been taken back: an owned line holds what its slice knows and the entries that
are left, any other copy goes (R167, R292). -/
def Core.revert (c : Core) (lines : List Nat) : List L1Line :=
  c.l1.filterMap fun l =>
    if !lines.contains l.line then some l
    else if l.owned then some { l with data := (c.leat.filter fun e => e.line == l.line && !e.applied).foldl (fun d e => Sp.setAll d e.bytes) l.raw }
    else none

/-- Discard leat entries of a core (R174, R320): what waits for them goes on, and the releases of discarded marks count as complete. -/
def State.discard (s : State) (core : Nat) (p : LeatEntry → Bool) : State :=
  let dead := (s.coreAt core).leat.filter p
  if dead.isEmpty then s
  else
    let gone (k : Nat) (q : Word) : Bool := k == core && dead.any (·.seq == q)
    let note (l : List (Nat × Word)) : List (Nat × Word) := l.filter fun e => !gone e.1 e.2
    let noteP (l : List (Nat × Parked)) : List (Nat × Parked) := l.filter fun e => match e.2 with | .leat q => !gone e.1 q | _ => true
    let lines := (dead.filter (·.relm.isNone)).map (·.line)
    let rel (k : Nat) (r : Release) : Release :=
      if r.seq.elim false fun q => !r.fence && gone k q then
        { r with scope := 0, entries := [], cleans := [], works := [], reads := [], wins := [], moves := [], stamp := 0, slot := 64 }
      else { r with entries := note r.entries, cleans := noteP r.cleans }
    let upd (k : Nat) (c : Core) : Core :=
      { c with rels := c.rels.map (rel k), promos := c.promos.map fun r => { r with entries := note r.entries }
               works := c.works.map fun w => { w with after := note w.after }
               recs := c.recs.map fun b => { b with afterEntries := note b.afterEntries }
               filter := c.filter.filter fun f => !gone f.src f.seq }
    let s : State := { s with cores := s.cores.map fun k => (k.1, upd k.1 k.2) }
    let s := s.modCore core fun c => { c with leat := c.leat.filter fun e => !p e }
    let s := s.modCore core fun c => { c with l1 := c.revert lines }
    let lost (a : AtomOp) : Bool := a.fills.any fun f => lines.contains f.1
    let again := (s.coreAt core).atoms.filter lost
    let s := s.modCore core fun c => { c with atoms := c.atoms.map fun a => if lost a then { a with asked := false, fills := [] } else a }
    (again.foldl (fun s a => s.at s.now (.sliceAtomic core a.key a.id false)) s).wake core

/-- Remove a block and its gangs: the unsealed leat entries of all it ever ran, its core-scope atomics still to be performed and its requests to the
KV allocator are discarded (R174, R270, R420), and its engine claims pass on (R215, R348). -/
def State.dropBlock (s : State) (key : Nat) : State :=
  let dead := s.gangsOf key
  let s := dead.foldl (fun s (k, slot, _) => s.modCore k fun c =>
    { c with moves := c.moves.filter (fun m => !(m.slot == slot && m.blk == key))
             promos := c.promos.filter (fun r => r.slot != slot) }) s
  let s := dead.foldl (fun s (k, slot, _) => s.freeSlot k slot key) s
  let s : State := { s with cores := s.cores.map fun k => (k.1, { k.2 with
    atoms := (k.2.atoms.filter fun a => !(a.blk == key && a.scope == 0 && !a.told)).map fun a => if a.blk = key then { a with acqLeft := false } else a }) }
  let s := (s.cores.map (·.1)).foldl (fun s k => s.discard k fun e => e.blk == key && !e.sealed) s
  let s := dead.foldl (fun s (k, slot, _) => (s.dropHandler k slot).leaveEngines k slot) s
  let s := s.dropSavedHandler key
  { s with blocks := s.blocks.filter (·.key != key), kvq := s.kvq.filter (·.blk != key) }

/-- The blocks of the same span, without the block itself (R270); a span's blocks have one launch and one quotient of their numbers. -/
def State.spanOf (s : State) (b : Block) : List Block :=
  let n := match s.launches.find? (·.idx == b.launch) with
    | some l => Nat.max 1 (fld ((l.record.getD 1 0).toNat) 15 11)
    | none => 1
  s.blocks.filter fun c => c.launch == b.launch && c.key != b.key && c.bid / n == b.bid / n

/-- The kill of a block with a code and XINFO: its launch fails and its span is lost (R270, R348). `status` is 4, 5 or 6. -/
def State.killBlock (s : State) (key status code info : Nat) : State :=
  match s.blockAt key with
  | none => s
  | some b =>
    let mates := s.spanOf b
    let s := (s.failLaunch b.launch b.bid status code info).dropBlock key
    let s := mates.foldl (fun s m => s.dropBlock m.key) s
    s.at s.now (.launchCompletion b.launch)

/-! ### Traps -/

/-- Trap codes of R347. -/
def xIllegal : Nat := 0x01
def xStallShort : Nat := 0x02
def xPaceTarget : Nat := 0x03
def xPrivileged : Nat := 0x04
def xUserTrap : Nat := 0x05
def xPreempt : Nat := 0x08
def xResume : Nat := 0x09
def xRegRange : Nat := 0x10
def xJoinOver : Nat := 0x11
def xJoinUnder : Nat := 0x12
def xJoinLost : Nat := 0x13
def xRegangMask : Nat := 0x14
def xRegangShape : Nat := 0x15
def xMarkParty : Nat := 0x16
def xKeyViol : Nat := 0x20
def xWindow : Nat := 0x21
def xSoftErr : Nat := 0x28
def xEccUncor : Nat := 0x29
def xSpanLost : Nat := 0x2A
def xClusterDown : Nat := 0x2B
def xKilled : Nat := 0x2C
def xNested : Nat := 0x2D
def xCtxBad : Nat := 0x2E
def xDieReset : Nat := 0x2F
def xMisalign : Nat := 0x30
def xGateNum : Nat := 0x31
def xScrRange : Nat := 0x32
def xBarCount : Nat := 0x33
def xBulkArg : Nat := 0x34
def xRangeArg : Nat := 0x35
def xSysArg : Nat := 0x36
def xSysDeny : Nat := 0x37
def xMxOwn : Nat := 0x38
def xMxFmt : Nat := 0x39
def xMxArg : Nat := 0x3A
def xTreeArg : Nat := 0x3B
def xLeatName : Nat := 0x3C
def xProtect : Nat := 0x40
def xPoison : Nat := 0x41
def xQuota : Nat := 0x42
def xKvTimeout : Nat := 0x44
def xKvArg : Nat := 0x45
def xKvRange : Nat := 0x46
def xBellArg : Nat := 0x47
def xFabDown : Nat := 0x48

/-- The quads of a gang in a handler: one party of every present, unretired quad, every live and helper lane active, an empty
stack (R343, R407). Every lane of such a quad is live or a helper (R13). -/
def handlerQuads (g : Gang) (pc : Addr) (now : Nat) : List Quad :=
  let lead := ((List.range 8).find? g.unretired).getD 0
  g.quads.mapIdx fun q d =>
    if g.unretired q then
      { d with pc := pc, active := 0xF, helper := 0, party := BitVec.ofNat 3 lead, stack := [], park := .none, last := some now, wake := now + 1 }
    else d

/-- A vector register such as TRAPVEC: the PC it names, when valid (R357). -/
def vectorPc (v : Addr) : Option Addr := if v.getLsbD 0 then some (v &&& ~~~ 3#64) else none

/-- The trap vector of a gang's domain. -/
def State.trapVec (s : State) (g : Gang) : Addr :=
  match s.blockAt g.blk with
  | none => 0
  | some b => (s.domainAt b.domain).trapvec

/-- What the parties wait for that will run their instruction again is given up (R264, R329, R350, R397, R400). -/
def State.dropWaits (s : State) (core slot : Nat) : State :=
  match s.gangAt core slot with
  | none => s
  | some g =>
    let again (lead : Nat) : Bool := (g.quad lead).park == .hold true
    let stalled (d : Pend) : Bool := match d.body with | .kvx _ stall _ _ => stall && again d.lead | _ => false
    let s := s.modGang core slot fun g => { g with pend := g.pend.filter fun d => !stalled d }
    let s := s.modCore core fun c => { c with promos := c.promos.filter fun r => !(r.slot == slot && again r.lead) }
    { s with tables := s.tables.map fun t => if t.core = core ∧ t.slot = slot ∧ again t.lead = true then { t with waits := false } else t
             kvWait := s.kvWait.filter fun w => !(w.core == core && w.slot == slot && w.lead.any again)
             kvq := s.kvq.filter fun r => !(r.op == 3 && r.core == core && r.slot == slot && again r.lead) }

/-- A final refusal among the delayed traps: PROTECT, POISON, QUOTA and FABDOWN have a "more" bit (R380, R452), KVRANGE has none. -/
def finalRefusal (t : Trap) : Bool := t.code == 0x40 || t.code == 0x41 || t.code == 0x42 || t.code == 0x48

/-- The trap that became due first, once another has: its "more" bit is set where it has one (R344, R380). -/
def Trap.more (first : Trap) : Trap := if finalRefusal first then { first with info := first.info ||| 32 } else first

/-- Of several held traps the first one stands and the others are not taken (R344). -/
def heldTraps : List (Trap × Bool) → List (Trap × Bool)
  | x :: _ :: _ => [(x.1.more, x.2)]
  | l => l

/-- Enter the trap handler (R101, R343): the saved registers, REP disarmed, the launch mode and routes, the user state held aside,
supervisor mode, the PC at TRAPVEC. An invalid TRAPVEC kills the block with the trap's own code. -/
def State.enterTrap (s : State) (core slot : Nat) (t : Trap) : State :=
  match s.gangAt core slot with
  | none => s
  | some g =>
    match vectorPc (s.trapVec g) with
    | none => s.killBlock g.blk 4 t.code.toNat t.info.toNat
    | some pc =>
      let s := (s.dropWaits core slot).modGang core slot fun g =>
        { g with
          xr := { g.xr with xpc := t.pc, xcode := t.code, xinfo := t.info, xrep := g.rep, xmode := g.gmode, xroute := g.routes
                            xva := t.xva.getD g.xr.xva }
          rep := repOff g.rep, gmode := launchMode, routes := 0
          held := some g.quads, heldLead := t.lead, super := true, trap := none, bellWait := false, entrySeq := (s.coreAt core).leatSeq
          late := heldTraps g.late
          pre := if t.code.toNat = xPreempt then { g.pre with pending := false, saving := 1 } else g.pre
          quads := handlerQuads g pc s.now }
      if badPc pc then s.killBlock g.blk 4 xNested (pc.toNat % 2 ^ 32) else s

/-- Take a trap: the entry waits until every register write of the gang has landed (R51, R343); in handler context the block is
killed with NESTED. -/
def State.takeTrap (s : State) (core slot : Nat) (t : Trap) : State :=
  match s.gangAt core slot with
  | none => s
  | some g =>
    if g.rolling.isSome || g.redo then s
    else if g.super then s.killBlock g.blk 4 xNested t.info.toNat
    else if g.quiet then s.enterTrap core slot t
    else s.modGang core slot fun g => { g with trap := some t }

/-- The PC that a trap of the executing party saves: the instruction, or the REP prefix under REP (R35, R41). -/
def Party.trapPc (p : Party) : Addr := if p.inRep then predPc p.pc else p.pc

/-- The gang is in its PREEMPT handler, or in its RESUME handler (R352). -/
def Gang.inSave (g : Gang) : Bool := g.super && g.pre.saving == 1
def Gang.inRestore (g : Gang) : Bool := g.super && g.pre.restoring

/-- A precise trap of the executing party (R41): nothing of the instruction takes effect. -/
def State.raise (s : State) (p : Party) (code info : Nat) : State :=
  s.takeTrap p.core p.slot ⟨BitVec.ofNat 8 code, word info, p.trapPc, p.lead, none⟩

/-- After a landing: a waiting trap enters once the gang is quiet. -/
def State.settleTrap (s : State) (core slot : Nat) : State :=
  match s.gangAt core slot with
  | none => s
  | some g =>
    if !g.quiet then s
    else if g.trap.isSome then s.at s.now (.trapEntry core slot)
    else if g.bellWait then s.at s.now (.bellDelivery core slot) else s

/-- What a gang in user mode that has left its RESUME handler waits for: the leader's RESTORED (R355). -/
def Gang.awaitsRestore (g : Gang) : Bool := !g.super && g.pre.restoring

/-- A delayed trap (R185, R344): one that the running handler caused kills the block with NESTED, another is held while the gang is in a handler,
else due at the next boundary, where a further final refusal only shows in the "more" bit of the first (R380). The flag says whether supervisor
mode caused it. -/
def State.delayTrap (s : State) (core slot : Nat) (t : Trap) (bySuper : Bool) : State :=
  match s.gangAt core slot with
  | none => s
  | some g =>
    let joins (x : Trap) : Bool := finalRefusal x && finalRefusal t
    if g.super && bySuper then s.killBlock g.blk 4 xNested t.info.toNat
    else if g.super then s.modGang core slot fun g => { g with late := heldTraps (g.late ++ [(t, bySuper)]) }
    else if g.trap.elim false joins then s.modGang core slot fun g => { g with trap := g.trap.map (·.more) }
    else if g.late.any (fun x => joins x.1) then
      s.modGang core slot fun g => { g with late := replaceFirst (fun x => finalRefusal x.1) (fun x => (x.1.more, x.2)) g.late }
    else (s.modGang core slot fun g => { g with late := g.late ++ [(t, bySuper)] }).at s.now (.refusalTrap core slot)

/-- The PC a boundary trap or bell saves: the REP prefix while a REP sequence runs, else the PC of the party holding the lowest
unretired quad; with the party's lead (R35, R343, R407). -/
def Gang.boundaryPc (g : Gang) : Addr × Nat :=
  if repArmed g.rep then (predPc (g.quad g.repLead).pc, g.repLead)
  else
    let q := ((List.range 8).find? g.unretired).getD 0
    ((g.quad (g.quad q).party.toNat).pc, (g.quad q).party.toNat)

/-- Resume held quads (R346, R413): the party that was struck stands at pc, or at the target of its REP; the first
instruction of every party counts its pace from here (R51). -/
def resumeQuads (held : List Quad) (lead : Nat) (pc : Addr) (rep : Word) (now : Nat) : List Quad :=
  let target := if repArmed rep then succPc pc else pc
  held.map fun q =>
    let q := if q.park = .hold true then { q with park := .none } else q
    if q.present && !q.retired && q.party.toNat == lead then { q with pc := target, last := some now, wake := now + 1 }
    else { q with last := some now, wake := now + 1 }

/-- Parked parties park again: what each waits for is looked at anew (R121, R346). -/
def State.repark (s : State) (core slot : Nat) : State :=
  match s.gangAt core slot with
  | none => s
  | some g => g.leads.foldl (fun s lead =>
      match (g.quad lead).park with
      | .regang m => s.at s.now (.regangCompletion core slot m)
      | .yield gate _ _ => s.at s.now (.gateWaiterWake g.blk gate)
      | .bwait gate _ _ => s.at s.now (.gateWaiterWake g.blk gate)
      | .ctrw _ _ _ _ => s.at s.now (.ctrwWake core slot lead)
      | .waitb _ => s.at s.now (.waitbWake core slot lead)
      | .mxacq => s.at s.now (.engineGrant (core / 2 * 2))
      | _ => s) s

/-- The mark of a restored gang counts as set now (R173), and its entries since then are those appended on this core (log entry 97). -/
def State.resetMark (s : State) (core slot : Nat) : State :=
  match (s.gangAt core slot).bind (·.mark) with
  | none => s
  | some m => (s.modGang core slot fun g =>
      { g with mark := some { m with setAt := s.now, seq := (s.coreAt core).leatSeq }, settled := none }).at (s.now + 96) (.markSettle core slot s.now)

/-- Pre-emption state once a gang leaves its handler (R346): one that was not saved is no saving gang any more, and one that leaves its RESUME handler
before RESTORED still waits for it (R355). -/
def Pre.left (p : Pre) : Pre :=
  { p with restoring := p.restoring && !p.restored, restored := false, saving := 0, waitsaved := false }

/-- Leave handler context (R346). A restored PC at a pace word traps there, with XPC holding it (R43; log entry 114). -/
def State.leaveTrap (s : State) (core slot : Nat) : State :=
  match s.gangAt core slot with
  | none => s
  | some g =>
    match g.held with
    | none => s
    | some held =>
      let qs := resumeQuads held g.heldLead g.xr.xpc g.xr.xrep s.now
      let s := s.modGang core slot fun g =>
        { g with rep := g.xr.xrep, repLead := g.heldLead, gmode := g.xr.xmode, routes := g.xr.xroute
                 held := none, super := false, quads := qs, pre := g.pre.left }
      let s := if g.pre.restoring then s.resetMark core slot else s
      let s := s.repark core slot
      let s := if g.late.isEmpty then s else s.at s.now (.delayedTrap core slot)
      let s := (if g.pre.pending then s.at s.now (.preemptTrap core slot) else s).at s.now (.bellDelivery core slot)
      if badPc g.xr.xpc then s.takeTrap core slot ⟨0x03, g.xr.xpc.extractLsb' 0 32, g.xr.xpc, g.heldLead, none⟩ else s

/-! ### Before an instruction's own effect (R68) -/

/-- REGRANGE among some operands: the first field, in order of number, that names a register at or above the allotment (R11). -/
def regRangeOf (p : Party) (os : List Opnd) : Option Nat :=
  let bad := os.find? fun o => kindOf o.reg == .v && decide (p.g.allot < o.reg.toNat + o.span.count p.ty)
  bad.map fun o => o.reg.toNat + (o.field % 3) * 256

/-- REGRANGE of an instruction. -/
def regRange (p : Party) (i : Instr) : Option Nat := regRangeOf p (opnds i)

/-- The clock at which the last fixed-latency write of a register lands, when later than now. -/
def Gang.landsAt (g : Gang) (now code : Nat) : Option Nat :=
  g.inflight.foldl (fun m f => if f.regs.contains code && decide (now < f.clock) then some (Nat.max (m.getD 0) f.clock) else m) none

/-- The shortfall of an operand: how long after now its registers' fixed-latency writes land. -/
def shortOf (p : Party) (now : Nat) (codes : List Nat) : Nat :=
  codes.foldl (fun m c => match p.g.landsAt now c with | some t => Nat.max m (t - now) | none => m) 0

/-- STALLSHORT among some operands (R49): the first short source in field order, the implicit D of MAD and MSB (field 3) last, then the
destination; CALL and RET name s22:s23 (R113; log entry 26). -/
def stallShortOf (p : Party) (now : Nat) (i : Instr) (ops : List Opnd) : Option Nat :=
  let rd := ops.filter (·.read)
  let os := rd.filter (·.field != 3) ++ rd.filter (·.field == 3) ++ ops.filter (!·.read)
  let cand := os.map (fun o => (o.reg.toNat, o.field, shortOf p now (o.codes p.ty)))
    ++ (match i with
        | .call _ => [(0x76, 0, shortOf p now [0x76, 0x77])]
        | .ret => [(0x76, 1, shortOf p now [0x76, 0x77])]
        | _ => [])
  (cand.find? fun c => decide (0 < c.2.2)).map fun c => c.1 + c.2.1 * 256 + Nat.min 15 c.2.2 * 4096

/-- STALLSHORT of an instruction. -/
def stallShort (p : Party) (now : Nat) (i : Instr) : Option Nat := stallShortOf p now i (opnds i)

/-- The traps that come before an instruction's own: PRIVILEGED, ILLEGAL, REGRANGE, STALLSHORT, with XINFO (R62, R67, R68). `os` are the operands
with the registers they turn out to name, `more` the ILLEGAL causes that these give, and `values` those that the values of the operands give,
where these lie within the allotment. XINFO of PRIVILEGED is 0 (log entry 113). -/
def preTrapWith (now : Nat) (p : Party) (i : Instr) (os : List Opnd) (more values : List Nat) : Option (Nat × Nat) :=
  if privileged i && !p.g.super then some (xPrivileged, 0)
  else
    let range := regRangeOf p os
    match lowest (illegalCauses p.ty p.g.super i ++ more ++ (if range.isSome then [] else values)) with
    | some c => some (xIllegal, c + (opcode i).toNat * 2 ^ 25)
    | none =>
      match range with
      | some x => some (xRegRange, x)
      | none =>
        if chkOf p.g.gmode then (stallShortOf p now i os).map fun x => (xStallShort, x) else none

/-- The trap before the own ones of an instruction whose operand values give no ILLEGAL. XINFO of PRIVILEGED is 0 (log entry 113). -/
def preTrap (now : Nat) (p : Party) (i : Instr) : Option (Nat × Nat) :=
  if privileged i && !p.g.super then some (xPrivileged, 0)
  else match lowest (illegalCauses p.ty p.g.super i) with
    | some c => some (xIllegal, c + (opcode i).toNat * 2 ^ 25)
    | none =>
      match regRange p i with
      | some x => some (xRegRange, x)
      | none =>
        if chkOf p.g.gmode then (stallShort p now i).map fun x => (xStallShort, x) else none

/-- ILLEGAL with a cause, for a check that only the instruction's chapter makes. -/
def State.illegal (s : State) (p : Party) (i : Instr) (cause : Nat) : State :=
  s.raise p xIllegal (cause + (opcode i).toNat * 2 ^ 25)

/-- Whether an instruction obeys the guard GMODE.GP: all but those of R94 and the returns from handlers. -/
def guarded : Instr → Bool
  | .nop _ => false | .limm _ => false | .limh _ => false | .rep .. => false | .mode .. => false | .mroute .. => false
  | .setmark _ => false | .trap _ => false | .br .. => false | .brs .. => false | .bri _ => false | .call _ => false | .ret => false
  | .mark _ => false | .join => false | .part _ => false | .regang _ => false | .exit => false | .yield .. => false
  | .eret => false | .bret => false | .waitb => false
  | _ => true

/-- The scoreboard of R50: a register the instruction reads or writes, its guard included, has a pending variable-latency write. -/
def scoreboard (p : Party) (i : Instr) : Bool :=
  let codes := readCodes p.ty i ++ writeCodes p.ty i ++ (if guarded i then [128 + gpPred p.g.gmode] else [])
  p.g.pend.all fun d => d.regs.all fun r => !codes.contains r

/-- A register of a gang lies in a marked B range (R218). -/
def Core.marked (c : Core) (slot blk reg : Nat) : Bool :=
  c.mmas.any fun m => m.blk == blk && m.bgangs.any fun b => b.1 == slot && decide (b.2.1 ≤ reg) && decide (reg < b.2.1 + b.2.2)

/-- The events that an acquire orders after itself (R298, R304), with the releases, arrivals and fork edges that would pass them on (R302). -/
def memoryEvent : Instr → Bool
  | .ld .. => true | .st .. => true | .lds .. => true | .sts .. => true | .ldx .. => true | .ldw .. => true | .stw .. => true | .cpl .. => true
  | .kick .. => true | .atom .. => true | .red .. => true | .ctrw .. => true | .ctrt .. => true | .ctrrd .. => true
  | .scld .. => true | .accld .. => true | .accst .. => true | .mma .. => true | .barr .. => true | .barw .. => true | .rel .. => true
  | .fncr .. => true
  | _ => false

/-- A party has observed what it waited for, and its acquire is not complete (R192, R304). -/
def Park.acquiring : Park → Bool
  | .yield _ (.freed _) _ => true
  | .bwait _ (.freed _) _ => true
  | .ctrw _ _ (some true) _ => true
  | _ => false

/-- A result whose read is an acquire that is not complete (R300): a counter read, a BTEST that may observe or has observed an advance. -/
def Pend.acquiring (d : Pend) : Bool :=
  match d.body with
  | .test => true
  | .observed _ => true
  | .counter .. => true
  | _ => false

/-- An acquire of the gang, by any of its parties, is not complete (R298, R304; log entry 115). -/
def Core.acquiring (c : Core) (slot : Nat) (g : Gang) : Bool :=
  g.pend.any (·.acquiring) || g.quads.any (·.park.acquiring) || c.promos.any (fun r => r.kind == 0 && r.slot == slot)
    || c.atoms.any fun a => a.acqLeft && a.slot == slot && a.blk == g.blk

/-- An instruction is held back while it writes a register of a marked B range (R218), or while it would pass an acquire of its gang (R304). -/
def heldBack (c : Core) (p : Party) (i : Instr) : Bool :=
  (!c.mmas.isEmpty && (writeCodes p.ty i).any fun r => decide (r < 96) && c.marked p.slot p.g.blk r)
    || (memoryEvent i && c.acquiring p.slot p.g)

/-- Run an instruction's own effect for the executing party: not while the scoreboard, a B mark or an acquire of its gang holds it (R50,
R218, R304), and after the traps that come
before it. -/
def State.issue (s : State) (i : Instr) (f : Party → State) : Result :=
  match s.party? with
  | none => .fault .noParty
  | some p =>
    if !scoreboard p i || heldBack (s.coreAt p.core) p i then .next (s.stall p)
    else match preTrap s.now p i with
      | some t => .next (s.raise p t.1 t.2)
      | none => .next (f p)

/-- As `issue`, for an instruction whose operand values can make it ILLEGAL, with the causes they give (R68, R103). -/
def State.issueChecked (s : State) (i : Instr) (causes : Party → List Nat) (f : Party → State) : Result :=
  match s.party? with
  | none => .fault .noParty
  | some p =>
    if !scoreboard p i || heldBack (s.coreAt p.core) p i then .next (s.stall p)
    else match preTrapWith s.now p i (opnds i) [] (causes p) with
      | some t => .next (s.raise p t.1 t.2)
      | none => .next (f p)

/-- As `issue`, for an instruction that has nothing more to check: its effect, then the party advances. -/
def State.issueSimple (s : State) (i : Instr) (f : Party → State → State) : Result :=
  s.issue i fun p => (f p s).advance p

end Sys2Proof.Machine
end

