-- ==== Sys2Proof/Machine/Operands.lean ====
section
/-! DEFINITION. Reading operands in every form (R52 to R55), routes, elements of packed registers (R66, R74), immediates (R125),
and delivering results to v, s and z destinations with the generator stepped where the rules say (R54, R79). -/

namespace Sys2Proof.Machine

open Sys2Proof

/-! ### Routes and register values -/

/-- The lane a pattern names (R55): kind and parameter. -/
def patternLane (kind k lane : Nat) : Nat :=
  match kind with
  | 0 => (lane + k) % 32
  | 1 => k % 32
  | 2 => (lane ^^^ k) % 32
  | _ => (lane ^^^ (2 ^ k - 1)) % 32

/-- The lane a route code reads for a lane. -/
def Gang.routeLane (g : Gang) (code : BitVec 2) (lane : Nat) : Nat :=
  if code = 0 then lane
  else
    let pat := fld g.routes.toNat (8 * code.toNat - 1) (8 * (code.toNat - 1))
    patternLane (pat / 32) (pat % 32) lane

/-- The n registers from an operand code as one number, for a lane already routed (R6, R54). z reads zero, q reads L, and a register of an
absent lane reads zero (R12). -/
def State.regValue (s : State) (p : Party) (r : Reg) (n lane : Nat) : Nat :=
  let one (k : Nat) : Nat :=
    match kindOf r with
    | .v => if p.g.hasLane lane then (p.g.vreg (r.toNat + k) lane).toNat else 0
    | .s => (s.scalar p.core p.slot p.g (r.toNat - 0x60 + k)).toNat
    | .z => 0
    | .q => p.g.lit.toNat
  (List.range n).foldl (fun v k => v + one k * 2 ^ (32 * k)) 0

/-- An operand with its route (R55). -/
def State.opValue (s : State) (p : Party) (r : Reg) (route : BitVec 2) (n lane : Nat) : Nat :=
  s.regValue p r n (if kindOf r = .v then p.g.routeLane route lane else lane)

/-- A uniform operand: s, z or q. -/
def State.uniform (s : State) (p : Party) (r : Reg) (n : Nat) : Nat := s.regValue p r n 0

/-! ### Elements (R74) -/

/-- Bits of an element under TY. -/
def elemWidth (ty : BitVec 5) : Nat :=
  match ty.toNat with
  | 3 => 16 | 4 => 16 | 5 => 16 | 6 => 16 | 7 => 8 | 8 => 8 | 9 => 64 | 10 => 64 | 11 => 64 | _ => 32

/-- Bits of an operand under TY: 64 for a pair. -/
def opWidth (ty : BitVec 5) : Nat := if wideTy ty then 64 else 32

/-- The float format of a float TY. -/
def floatFmt (ty : BitVec 5) : Fmt :=
  match ty.toNat with
  | 5 => fp16 | 6 => bf16 | 9 => fp64 | _ => fp32

/-- The elements of an operand, element 0 first. -/
def elems (ty : BitVec 5) (v : Nat) : List Nat :=
  let w := elemWidth ty
  (List.range (opWidth ty / w)).map fun k => v / 2 ^ (w * k) % 2 ^ w

/-- The operand of a list of elements. -/
def joinElems (w : Nat) : List Nat → Nat
  | [] => 0
  | e :: es => e % 2 ^ w + 2 ^ w * joinElems w es

/-- One element read as an integer, signed under I types (R126). -/
def intElem (ty : BitVec 5) (e : Nat) : Int := if unsignedTy ty then (e : Int) else sext (elemWidth ty) e

/-- Wrap or clamp an exact integer to w bits (R80). -/
def deliverInt (w : Nat) (uns sat : Bool) (x : Int) : Nat :=
  if sat then
    let lo : Int := if uns then 0 else -((2 ^ (w - 1) : Nat) : Int)
    let hi : Int := if uns then ((2 ^ w : Nat) : Int) - 1 else ((2 ^ (w - 1) : Nat) : Int) - 1
    wrap w (max lo (min hi x))
  else wrap w x

/-- The b operand of an I-form immediate (R125). `arith` says that a float TY converts the integer. -/
def immediate (ty : BitVec 5) (arith : Bool) (k : BitVec 11) : Nat :=
  let w := elemWidth ty
  let x := k.toInt
  let e := if arith && floatTy ty then (floatFmt ty).deliver rne (.fin (decide (x < 0)) x.natAbs 0) else wrap w x
  joinElems w (List.replicate (opWidth ty / w) e)

/-! ### Delivering results -/

/-- GMODE as the rounding of one element, with the generator's value after its step. -/
def rndOf (gmode : BitVec 15) (g : Word) : Rnd := ⟨(rmOf gmode).toNat, satOf gmode, fzOf gmode, g.toNat⟩

/-- A computation that threads the lane's generator. -/
abbrev Gen (α : Type) := Word → α × Word

/-- One rounded element: under RSR the generator steps once and its new value is used (R79). -/
def rounded (gmode : BitVec 15) (f : Rnd → Nat) : Gen Nat := fun g =>
  if (rmOf gmode).toNat = 5 then (f (rndOf gmode (genStep g)), genStep g) else (f (rndOf gmode g), g)

/-- Compute elements in ascending order, threading the generator. -/
def mapGen {α : Type} (f : α → Gen Nat) : List α → Gen (List Nat)
  | [], g => ([], g)
  | x :: xs, g =>
    let r := f x g
    let rs := mapGen f xs r.2
    (r.1 :: rs.1, rs.2)

/-- The register writes of an n-register value into a destination, for a lane. -/
def destWrites (d : Reg) (n lane v : Nat) : List RegWrite :=
  match kindOf d with
  | .v => (List.range n).map fun k => ⟨.v (d.toNat + k) lane, word (v / 2 ^ (32 * k))⟩
  | .s => (List.range n).map fun k => ⟨.s (d.toNat - 0x60 + k), word (v / 2 ^ (32 * k))⟩
  | _ => []

/-- The lanes that compute a result: every executing lane, or for an s destination the lowest writing lane (R54). -/
def Party.computing (p : Party) (d : Reg) : List Nat :=
  if kindOf d = .s then (lanesOf p.writing).take 1 else lanesOf p.executing

/-- The generator of a lane. -/
def Gang.rng (g : Gang) (lane : Nat) : Word := Sp.get g.rngs lane

/-- Compute per lane, step the generators, and deliver with a fixed latency; the party then advances (R54, R79, R123). -/
def State.perLane (s : State) (p : Party) (lat : Nat) (d : Reg) (n : Nat) (f : Nat → Gen Nat) : State :=
  let rs := (p.computing d).map fun l => (l, f l (p.g.rng l))
  let s := s.fixedResult p lat (rs.flatMap fun r => destWrites d n r.1 r.2.1)
  let stepped := rs.filter fun r => r.2.2 != p.g.rng r.1
  let s := s.modGang p.core p.slot fun g => { g with rngs := Sp.setAll g.rngs (stepped.map fun r => (r.1, r.2.2)) }
  s.advance p

/-- A computation that steps no generator. -/
def pureGen (v : Nat) : Gen Nat := fun g => (v, g)

/-- Deliver one predicate per executing lane with a fixed latency (R132); p7 is discarded. -/
def State.perLanePred (s : State) (p : Party) (lat n : Nat) (f : Nat → Bool) : State :=
  let ws := if n = 7 then [] else (lanesOf p.executing).map fun l => (⟨.p n l, if f l then 1 else 0⟩ : RegWrite)
  (s.fixedResult p lat ws).advance p

/-- The lowest writing lane, and whether there is one: an instruction that executes once per issue does so then (R54, R196). -/
def Party.once (p : Party) : Bool := p.writing != 0

/-- Register writes of a uniform n-register value: once for s, in every executing lane for v (R102). -/
def Party.uniformWrites (p : Party) (d : Reg) (n v : Nat) : List RegWrite :=
  match kindOf d with
  | .v => (lanesOf p.executing).flatMap fun l => destWrites d n l v
  | .s => if p.once then destWrites d n 0 v else []
  | _ => []

end Sys2Proof.Machine
end

