-- ==== Sys2Proof/Machine/Flags.lean ====
section
/-! DEFINITION. The machine keeps predicates and no flags (R75). Conditions of CMP and CMPI (R60, R132), votes (R140), branch
conditions (R22, R18), and the class mask, each as a function of values. -/

namespace Sys2Proof.Machine

open Sys2Proof

/-- How two elements compare: less, equal, greater, or unordered. -/
inductive Cmp where
  | lt | eq | gt | un
  deriving DecidableEq, Repr

/-- A condition code of R60. -/
def condHolds (c : Nat) (r : Cmp) : Bool :=
  match c with
  | 0x0 => r == .eq
  | 0x1 => r == .lt || r == .gt
  | 0x2 => r == .lt
  | 0x3 => r == .lt || r == .eq
  | 0x4 => r == .gt
  | 0x5 => r == .gt || r == .eq
  | 0x6 => r != .un
  | 0x7 => r == .un
  | 0x8 => r == .eq || r == .un
  | 0x9 => r != .eq
  | 0xA => r == .lt || r == .un
  | 0xB => r != .gt
  | 0xC => r == .gt || r == .un
  | 0xD => r != .lt
  | _ => false

/-- Compare two integers. -/
def cmpInt (a b : Int) : Cmp := if a < b then .lt else if a = b then .eq else .gt

/-- Compare two float values; −0 equals +0 (R132). -/
def cmpFloat (a b : FVal) : Cmp :=
  if a.isNan || b.isNan then .un else if a.lt b then .lt else if b.lt a then .gt else .eq

/-- Compare two elements under TY, FZ applied to float inputs (R132). -/
def cmpElem (gmode : BitVec 15) (a b : Nat) : Cmp :=
  let ty := tyOf gmode
  if floatTy ty then cmpFloat ((floatFmt ty).input (fzOf gmode) a) ((floatFmt ty).input (fzOf gmode) b)
  else cmpInt (intElem ty a) (intElem ty b)

/-- The predicate of CMP: the condition holds in every element (R132). -/
def cmpOperands (gmode : BitVec 15) (c : Nat) (a b : Nat) : Bool :=
  ((elems (tyOf gmode) a).zip (elems (tyOf gmode) b)).all fun p => condHolds c (cmpElem gmode p.1 p.2)

/-- A vote (R140). -/
def vote (v : Nat) : Bool := v != 0

/-- The active lanes of a party that pass a branch condition (R110). -/
def Party.taken (p : Party) (n : Bool) (q : BitVec 3) : BitVec 32 :=
  let m := p.g.pred q.toNat
  p.g.act p.lead &&& (if n then ~~~ m else m)

end Sys2Proof.Machine
end

