-- ==== Sys2Proof/Machine/Alu.lean ====
section
/-! DEFINITION. Integer and floating-point arithmetic, logic, shifts, fields, select, compare and the unary operations
(R123 to R136). -/

namespace Sys2Proof.Machine

open Sys2Proof

/-! ### Element operations -/

/-- Apply an operation to each element of two operands, the generator threaded in ascending order (R74, R127). -/
def lift2 (gm : BitVec 15) (f : Nat → Nat → Gen Nat) (a b : Nat) : Gen Nat := fun g =>
  let r := mapGen (fun p => f p.1 p.2) ((elems (tyOf gm) a).zip (elems (tyOf gm) b)) g
  (joinElems (elemWidth (tyOf gm)) r.1, r.2)

/-- Apply an operation to each element of one operand. -/
def lift1 (gm : BitVec 15) (f : Nat → Gen Nat) (a : Nat) : Gen Nat := fun g =>
  let r := mapGen f (elems (tyOf gm) a) g
  (joinElems (elemWidth (tyOf gm)) r.1, r.2)

/-- Apply an operation to each element of three operands. -/
def lift3 (gm : BitVec 15) (f : Nat → Nat → Nat → Gen Nat) (a b c : Nat) : Gen Nat := fun g =>
  let r := mapGen (fun p => f p.1 p.2.1 p.2.2) ((elems (tyOf gm) a).zip ((elems (tyOf gm) b).zip (elems (tyOf gm) c))) g
  (joinElems (elemWidth (tyOf gm)) r.1, r.2)

/-- A float input of an element under FZ (R76). -/
def inputOf (gm : BitVec 15) (x : Nat) : FVal := (floatFmt (tyOf gm)).input (fzOf gm) x

/-- An integer result by wrap or clamp (R126). -/
def intResult (gm : BitVec 15) (x : Int) : Gen Nat :=
  pureGen (deliverInt (elemWidth (tyOf gm)) (unsignedTy (tyOf gm)) (satOf gm) x)

/-- A float result rounded once (R127). -/
def floatResult (gm : BitVec 15) (v : FVal) : Gen Nat := rounded gm fun k => (floatFmt (tyOf gm)).deliver k v

/-- A float result that does not round: no step of the generator (R79, R127). -/
def exactResult (gm : BitVec 15) (v : FVal) : Gen Nat := pureGen ((floatFmt (tyOf gm)).deliver (rndOf gm 0) v)

def elInt (gm : BitVec 15) (x : Nat) : Int := intElem (tyOf gm) x
def rmNat (gm : BitVec 15) : Nat := (rmOf gm).toNat

/-- a + b (R126, R127). -/
def addE (gm : BitVec 15) (a b : Nat) : Gen Nat :=
  if floatTy (tyOf gm) then floatResult gm (FVal.add (rmNat gm) (inputOf gm a) (inputOf gm b))
  else intResult gm (elInt gm a + elInt gm b)

/-- a − b. -/
def subE (gm : BitVec 15) (a b : Nat) : Gen Nat :=
  if floatTy (tyOf gm) then floatResult gm (FVal.add (rmNat gm) (inputOf gm a) (inputOf gm b).negate)
  else intResult gm (elInt gm a - elInt gm b)

/-- a · b. -/
def mulE (gm : BitVec 15) (a b : Nat) : Gen Nat :=
  if floatTy (tyOf gm) then floatResult gm (FVal.mul (inputOf gm a) (inputOf gm b))
  else intResult gm (elInt gm a * elInt gm b)

/-- The high half of the exact product (R126). -/
def mulhE (gm : BitVec 15) (a b : Nat) : Gen Nat :=
  let w := elemWidth (tyOf gm)
  pureGen (wrap (2 * w) (elInt gm a * elInt gm b) / 2 ^ w)

/-- a · b + d, fused. -/
def madE (gm : BitVec 15) (a b d : Nat) : Gen Nat :=
  if floatTy (tyOf gm) then floatResult gm (FVal.add (rmNat gm) (FVal.mul (inputOf gm a) (inputOf gm b)) (inputOf gm d))
  else intResult gm (elInt gm a * elInt gm b + elInt gm d)

/-- d − a · b, fused. -/
def msbE (gm : BitVec 15) (a b d : Nat) : Gen Nat :=
  if floatTy (tyOf gm) then floatResult gm (FVal.add (rmNat gm) (inputOf gm d) (FVal.mul (inputOf gm a) (inputOf gm b)).negate)
  else intResult gm (elInt gm d - elInt gm a * elInt gm b)

def minE (gm : BitVec 15) (a b : Nat) : Gen Nat :=
  if floatTy (tyOf gm) then exactResult gm (FVal.min (inputOf gm a) (inputOf gm b))
  else pureGen (if elInt gm a ≤ elInt gm b then a else b)

def maxE (gm : BitVec 15) (a b : Nat) : Gen Nat :=
  if floatTy (tyOf gm) then exactResult gm (FVal.max (inputOf gm a) (inputOf gm b))
  else pureGen (if elInt gm b ≤ elInt gm a then a else b)

/-- |a − b|: as an unsigned element, exact, under int TY (R126). -/
def absdE (gm : BitVec 15) (a b : Nat) : Gen Nat :=
  if floatTy (tyOf gm) then floatResult gm (FVal.add (rmNat gm) (inputOf gm a) (inputOf gm b).negate).abs
  else pureGen (elInt gm a - elInt gm b).natAbs

def andE (_ : BitVec 15) (a b : Nat) : Gen Nat := pureGen (a &&& b)
def orE (_ : BitVec 15) (a b : Nat) : Gen Nat := pureGen (a ||| b)
def xorE (_ : BitVec 15) (a b : Nat) : Gen Nat := pureGen (a ^^^ b)

/-- The complement within w bits. -/
def compl (w a : Nat) : Nat := 2 ^ w - 1 - a % 2 ^ w

def andnE (gm : BitVec 15) (a b : Nat) : Gen Nat := pureGen (a &&& compl (elemWidth (tyOf gm)) b)

/-- Shifts (R129). -/
def shlE (gm : BitVec 15) (a n : Nat) : Gen Nat :=
  let w := elemWidth (tyOf gm)
  pureGen (if w ≤ n then 0 else a * 2 ^ n % 2 ^ w)
def shrE (gm : BitVec 15) (a n : Nat) : Gen Nat :=
  let w := elemWidth (tyOf gm)
  pureGen (if w ≤ n then 0 else a / 2 ^ n)
def shaE (gm : BitVec 15) (a n : Nat) : Gen Nat :=
  let w := elemWidth (tyOf gm)
  pureGen (wrap w (sext w a / ((2 ^ Nat.min n w : Nat) : Int)))
def rotE (gm : BitVec 15) (a n : Nat) : Gen Nat :=
  let w := elemWidth (tyOf gm)
  let k := n % w
  pureGen (a * 2 ^ k % 2 ^ w + a / 2 ^ (w - k) % 2 ^ w)

/-- The field length of a descriptor within w bits (R130): position [5:0], length [13:8]. -/
def fieldLen (w desc : Nat) : Nat :=
  let p := desc % 64
  if p < w then Nat.min (desc / 256 % 64) (w - p) else 0

/-- BFE (R130). -/
def bfeV (ty : BitVec 5) (a desc : Nat) : Nat :=
  let w := opWidth ty
  let m := fieldLen w desc
  let f := a / 2 ^ (desc % 64) % 2 ^ m
  if m = 0 then 0 else if unsignedTy ty then f else wrap w (sext m f)

/-- BFI (R130): the descriptor is L. -/
def bfiV (ty : BitVec 5) (desc a b : Nat) : Nat :=
  let m := fieldLen (opWidth ty) desc
  let p := desc % 64
  a - a / 2 ^ p % 2 ^ m * 2 ^ p + b % 2 ^ m * 2 ^ p

/-! ### Unary element operations (R133 to R135) -/

def notE (gm : BitVec 15) (a : Nat) : Gen Nat := pureGen (compl (elemWidth (tyOf gm)) a)

def negE (gm : BitVec 15) (a : Nat) : Gen Nat :=
  if floatTy (tyOf gm) then exactResult gm (inputOf gm a).negate else intResult gm (-(elInt gm a))

def absE (gm : BitVec 15) (a : Nat) : Gen Nat :=
  if floatTy (tyOf gm) then exactResult gm (inputOf gm a).abs else intResult gm (elInt gm a).natAbs

/-- Leading zero bits of w bits. -/
def clzN (w a : Nat) : Nat := if a = 0 then w else w - 1 - Nat.log2 a
def popcN (w a : Nat) : Nat := ((List.range w).filter fun k => a.testBit k).length
def brevN (w a : Nat) : Nat := (List.range w).foldl (fun r k => r + (if a.testBit k then 2 ^ (w - 1 - k) else 0)) 0

def clzE (gm : BitVec 15) (a : Nat) : Gen Nat := pureGen (clzN (elemWidth (tyOf gm)) a)
def popcE (gm : BitVec 15) (a : Nat) : Gen Nat := pureGen (popcN (elemWidth (tyOf gm)) a)
def brevE (gm : BitVec 15) (a : Nat) : Gen Nat := pureGen (brevN (elemWidth (tyOf gm)) a)

/-- A function of R134 rounded to nearest whatever RM holds, SAT and FZ as GMODE says. -/
def fnE (f : FVal → FnRes) (gm : BitVec 15) (a : Nat) : Gen Nat :=
  pureGen ((floatFmt (tyOf gm)).fnDeliver { rndOf gm 0 with rm := 0 } (f (inputOf gm a)))

/-- SQRT rounds once under RM (R134). -/
def sqrtE (gm : BitVec 15) (a : Nat) : Gen Nat := rounded gm fun k => (floatFmt (tyOf gm)).fnDeliver k (fnSqrt (inputOf gm a))

/-- An integral operation in a given direction (R135). -/
def integralE (rm : Nat) (gm : BitVec 15) (a : Nat) : Gen Nat := exactResult gm ((inputOf gm a).integral { rndOf gm 0 with rm := rm })

/-- RINT rounds by RM, stochastically under RSR. -/
def rintE (gm : BitVec 15) (a : Nat) : Gen Nat :=
  rounded gm fun k => (floatFmt (tyOf gm)).deliver k ((inputOf gm a).integral k)

/-- FRC (R135): a − FLR(a) rounded under RM, a result of 1.0 replaced by the largest value below it; a zero result is +0. -/
def frcE (gm : BitVec 15) (a : Nat) : Gen Nat :=
  let f := floatFmt (tyOf gm)
  rounded gm fun k =>
    match inputOf gm a with
    | .fin n m e =>
      let v := FVal.add 0 (.fin n m e) ((FVal.fin n m e).integral { k with rm := 2 }).negate
      let c := f.deliver k v.abs
      let one := f.bias * 2 ^ f.mant
      if one ≤ c then one - 1 else c
    | _ => f.nan

def fclassE (gm : BitVec 15) (a : Nat) : Gen Nat := pureGen ((floatFmt (tyOf gm)).fclass a)

/-! ### Instruction shapes -/

/-- Registers of an operand under the gang's TY. -/
def Party.opRegs (p : Party) : Nat := if wideTy p.ty then 2 else 1

/-- An R-form instruction on two operands. -/
def binary (i : Instr) (d a : Reg) (ra : BitVec 2) (b : Reg) (rb : BitVec 2) (f : BitVec 15 → Nat → Nat → Gen Nat) (s : State) : Result :=
  s.issue i fun p => s.perLane p (latencyOf p.ty i) d p.opRegs fun l =>
    lift2 p.g.gmode (f p.g.gmode) (s.opValue p a ra p.opRegs l) (s.opValue p b rb p.opRegs l)

/-- MAD and MSB also read d. -/
def ternary (i : Instr) (d a : Reg) (ra : BitVec 2) (b : Reg) (rb : BitVec 2) (f : BitVec 15 → Nat → Nat → Nat → Gen Nat) (s : State) : Result :=
  s.issue i fun p => s.perLane p (latencyOf p.ty i) d p.opRegs fun l =>
    lift3 p.g.gmode (f p.g.gmode) (s.opValue p a ra p.opRegs l) (s.opValue p b rb p.opRegs l) (s.opValue p d 0 p.opRegs l)

/-- An I-form instruction (R125). -/
def immOp (i : Instr) (arith : Bool) (d a : Reg) (k : BitVec 11) (f : BitVec 15 → Nat → Nat → Gen Nat) (s : State) : Result :=
  s.issue i fun p => s.perLane p (latencyOf p.ty i) d p.opRegs fun l =>
    lift2 p.g.gmode (f p.g.gmode) (s.opValue p a 0 p.opRegs l) (immediate p.ty arith k)

/-- A UN instruction on one operand. -/
def unary (i : Instr) (d a : Reg) (ra : BitVec 2) (f : BitVec 15 → Nat → Gen Nat) (s : State) : Result :=
  s.issue i fun p => s.perLane p (latencyOf p.ty i) d p.opRegs fun l =>
    lift1 p.g.gmode (f p.g.gmode) (s.opValue p a ra p.opRegs l)

/-! ### Meanings -/

/-- ADD (R126, R127). -/
def execAdd (d a : Reg) (ra : BitVec 2) (b : Reg) (rb : BitVec 2) (s : State) : Result :=
  binary (.add d a ra b rb) d a ra b rb addE s

/-- SUB (R126, R127). -/
def execSub (d a : Reg) (ra : BitVec 2) (b : Reg) (rb : BitVec 2) (s : State) : Result :=
  binary (.sub d a ra b rb) d a ra b rb subE s

/-- MUL (R126, R127). -/
def execMul (d a : Reg) (ra : BitVec 2) (b : Reg) (rb : BitVec 2) (s : State) : Result :=
  binary (.mul d a ra b rb) d a ra b rb mulE s

/-- MULH (R126). -/
def execMulh (d a : Reg) (ra : BitVec 2) (b : Reg) (rb : BitVec 2) (s : State) : Result :=
  binary (.mulh d a ra b rb) d a ra b rb mulhE s

/-- MAD (R126, R127). -/
def execMad (d a : Reg) (ra : BitVec 2) (b : Reg) (rb : BitVec 2) (s : State) : Result :=
  ternary (.mad d a ra b rb) d a ra b rb madE s

/-- MSB (R126, R127). -/
def execMsb (d a : Reg) (ra : BitVec 2) (b : Reg) (rb : BitVec 2) (s : State) : Result :=
  ternary (.msb d a ra b rb) d a ra b rb msbE s

/-- MIN (R75, R126). -/
def execMin (d a : Reg) (ra : BitVec 2) (b : Reg) (rb : BitVec 2) (s : State) : Result :=
  binary (.min d a ra b rb) d a ra b rb minE s

/-- MAX (R75, R126). -/
def execMax (d a : Reg) (ra : BitVec 2) (b : Reg) (rb : BitVec 2) (s : State) : Result :=
  binary (.max d a ra b rb) d a ra b rb maxE s

/-- ABSD (R126, R127). -/
def execAbsd (d a : Reg) (ra : BitVec 2) (b : Reg) (rb : BitVec 2) (s : State) : Result :=
  binary (.absd d a ra b rb) d a ra b rb absdE s

/-- AND (R128). -/
def execAnd (d a : Reg) (ra : BitVec 2) (b : Reg) (rb : BitVec 2) (s : State) : Result :=
  binary (.and d a ra b rb) d a ra b rb andE s

/-- OR (R128). -/
def execOr (d a : Reg) (ra : BitVec 2) (b : Reg) (rb : BitVec 2) (s : State) : Result :=
  binary (.or d a ra b rb) d a ra b rb orE s

/-- XOR (R128). -/
def execXor (d a : Reg) (ra : BitVec 2) (b : Reg) (rb : BitVec 2) (s : State) : Result :=
  binary (.xor d a ra b rb) d a ra b rb xorE s

/-- ANDN (R128). -/
def execAndn (d a : Reg) (ra : BitVec 2) (b : Reg) (rb : BitVec 2) (s : State) : Result :=
  binary (.andn d a ra b rb) d a ra b rb andnE s

/-- SHL (R129). -/
def execShl (d a : Reg) (ra : BitVec 2) (b : Reg) (rb : BitVec 2) (s : State) : Result :=
  binary (.shl d a ra b rb) d a ra b rb shlE s

/-- SHR (R129). -/
def execShr (d a : Reg) (ra : BitVec 2) (b : Reg) (rb : BitVec 2) (s : State) : Result :=
  binary (.shr d a ra b rb) d a ra b rb shrE s

/-- SHA (R129). -/
def execSha (d a : Reg) (ra : BitVec 2) (b : Reg) (rb : BitVec 2) (s : State) : Result :=
  binary (.sha d a ra b rb) d a ra b rb shaE s

/-- ROT (R129). -/
def execRot (d a : Reg) (ra : BitVec 2) (b : Reg) (rb : BitVec 2) (s : State) : Result :=
  binary (.rot d a ra b rb) d a ra b rb rotE s

/-- BFE (R130): b is a single register. -/
def execBfe (d a : Reg) (ra : BitVec 2) (b : Reg) (rb : BitVec 2) (s : State) : Result :=
  s.issue (.bfe d a ra b rb) fun p => s.perLane p (latencyOf p.ty (.bfe d a ra b rb)) d p.opRegs fun l =>
    pureGen (bfeV p.ty (s.opValue p a ra p.opRegs l) (s.opValue p b rb 1 l))

/-- BFI (R130). -/
def execBfi (d a : Reg) (ra : BitVec 2) (b : Reg) (rb : BitVec 2) (s : State) : Result :=
  s.issue (.bfi d a ra b rb) fun p => s.perLane p (latencyOf p.ty (.bfi d a ra b rb)) d p.opRegs fun l =>
    pureGen (bfiV p.ty p.g.lit.toNat (s.opValue p a ra p.opRegs l) (s.opValue p b rb p.opRegs l))

/-- SEL (R131): GP selects and does not guard; an s destination is always written, by the lowest active lane's selector; nothing is
written where no lane is active (log entry 131). -/
def execSel (d a : Reg) (ra : BitVec 2) (b : Reg) (rb : BitVec 2) (s : State) : Result :=
  s.issue (.sel d a ra b rb) fun p =>
    let lanes := lanesOf (p.g.act p.lead ||| p.g.helpers p.lead)
    let lanes := if kindOf d = .s then (lanesOf (p.g.act p.lead)).take 1 else lanes
    let n := p.opRegs
    (s.fixedResult p (latencyOf p.ty (.sel d a ra b rb)) (lanes.flatMap fun l =>
      destWrites d n l (if p.g.guard.getLsbD l then s.opValue p a ra n l else s.opValue p b rb n l))).advance p

/-- CMP (R132). -/
def execCmp (c : BitVec 4) (q : BitVec 3) (a : Reg) (ra : BitVec 2) (b : Reg) (rb : BitVec 2) (s : State) : Result :=
  s.issue (.cmp c q a ra b rb) fun p => s.perLanePred p (latencyOf p.ty (.cmp c q a ra b rb)) q.toNat fun l =>
    cmpOperands p.g.gmode c.toNat (s.opValue p a ra p.opRegs l) (s.opValue p b rb p.opRegs l)

/-- CMPI (R125, R132). -/
def execCmpi (c : BitVec 4) (q : BitVec 3) (a : Reg) (k : BitVec 11) (s : State) : Result :=
  s.issue (.cmpi c q a k) fun p => s.perLanePred p (latencyOf p.ty (.cmpi c q a k)) q.toNat fun l =>
    cmpOperands p.g.gmode c.toNat (s.opValue p a 0 p.opRegs l) (immediate p.ty true k)

/-- ADDI (R125). -/
def execAddi (d a : Reg) (k : BitVec 11) (s : State) : Result := immOp (.addi d a k) true d a k addE s

/-- MULI (R125). -/
def execMuli (d a : Reg) (k : BitVec 11) (s : State) : Result := immOp (.muli d a k) true d a k mulE s

/-- ANDI (R125). -/
def execAndi (d a : Reg) (k : BitVec 11) (s : State) : Result := immOp (.andi d a k) false d a k andE s

/-- ORI (R125). -/
def execOri (d a : Reg) (k : BitVec 11) (s : State) : Result := immOp (.ori d a k) false d a k orE s

/-- XORI (R125). -/
def execXori (d a : Reg) (k : BitVec 11) (s : State) : Result := immOp (.xori d a k) false d a k xorE s

/-- SHLI (R125). -/
def execShli (d a : Reg) (k : BitVec 11) (s : State) : Result := immOp (.shli d a k) false d a k shlE s

/-- SHRI (R125). -/
def execShri (d a : Reg) (k : BitVec 11) (s : State) : Result := immOp (.shri d a k) false d a k shrE s

/-- SHAI (R125). -/
def execShai (d a : Reg) (k : BitVec 11) (s : State) : Result := immOp (.shai d a k) false d a k shaE s

/-- MINI (R125). -/
def execMini (d a : Reg) (k : BitVec 11) (s : State) : Result := immOp (.mini d a k) true d a k minE s

/-- MAXI (R125). -/
def execMaxi (d a : Reg) (k : BitVec 11) (s : State) : Result := immOp (.maxi d a k) true d a k maxE s

/-- MOV (R133): bit for bit. -/
def execMov (d a : Reg) (ra : BitVec 2) (s : State) : Result :=
  s.issue (.mov d a ra) fun p => s.perLane p (latencyOf p.ty (.mov d a ra)) d p.opRegs fun l => pureGen (s.opValue p a ra p.opRegs l)

/-- NOT (R133). -/
def execNot (d a : Reg) (ra : BitVec 2) (s : State) : Result := unary (.not d a ra) d a ra notE s

/-- NEG (R133). -/
def execNeg (d a : Reg) (ra : BitVec 2) (s : State) : Result := unary (.neg d a ra) d a ra negE s

/-- ABS (R133). -/
def execAbs (d a : Reg) (ra : BitVec 2) (s : State) : Result := unary (.abs d a ra) d a ra absE s

/-- CLZ (R133). -/
def execClz (d a : Reg) (ra : BitVec 2) (s : State) : Result := unary (.clz d a ra) d a ra clzE s

/-- POPC (R133). -/
def execPopc (d a : Reg) (ra : BitVec 2) (s : State) : Result := unary (.popc d a ra) d a ra popcE s

/-- BREV (R133). -/
def execBrev (d a : Reg) (ra : BitVec 2) (s : State) : Result := unary (.brev d a ra) d a ra brevE s

/-- RCP (R134). -/
def execRcp (d a : Reg) (ra : BitVec 2) (s : State) : Result := unary (.rcp d a ra) d a ra (fnE fnRcp) s

/-- RSQ (R134). -/
def execRsq (d a : Reg) (ra : BitVec 2) (s : State) : Result := unary (.rsq d a ra) d a ra (fnE fnRsq) s

/-- SQRT (R134). -/
def execSqrt (d a : Reg) (ra : BitVec 2) (s : State) : Result := unary (.sqrt d a ra) d a ra sqrtE s

/-- EXP2 (R134). -/
def execExp2 (d a : Reg) (ra : BitVec 2) (s : State) : Result := unary (.exp2 d a ra) d a ra (fnE fnExp2) s

/-- LOG2 (R134). -/
def execLog2 (d a : Reg) (ra : BitVec 2) (s : State) : Result := unary (.log2 d a ra) d a ra (fnE fnLog2) s

/-- SINT (R134). -/
def execSint (d a : Reg) (ra : BitVec 2) (s : State) : Result := unary (.sint d a ra) d a ra (fnE fnSin) s

/-- COST (R134). -/
def execCost (d a : Reg) (ra : BitVec 2) (s : State) : Result := unary (.cost d a ra) d a ra (fnE fnCos) s

/-- TANH (R134). -/
def execTanh (d a : Reg) (ra : BitVec 2) (s : State) : Result := unary (.tanh d a ra) d a ra (fnE fnTanh) s

/-- FLR (R135). -/
def execFlr (d a : Reg) (ra : BitVec 2) (s : State) : Result := unary (.flr d a ra) d a ra (integralE 2) s

/-- CEIL (R135). -/
def execCeil (d a : Reg) (ra : BitVec 2) (s : State) : Result := unary (.ceil d a ra) d a ra (integralE 3) s

/-- TRNC (R135). -/
def execTrnc (d a : Reg) (ra : BitVec 2) (s : State) : Result := unary (.trnc d a ra) d a ra (integralE 1) s

/-- RINT (R135). -/
def execRint (d a : Reg) (ra : BitVec 2) (s : State) : Result := unary (.rint d a ra) d a ra rintE s

/-- FRC (R135). -/
def execFrc (d a : Reg) (ra : BitVec 2) (s : State) : Result := unary (.frc d a ra) d a ra frcE s

/-- FCLASS (R135). -/
def execFclass (d a : Reg) (ra : BitVec 2) (s : State) : Result := unary (.fclass d a ra) d a ra fclassE s

/-- RAND (R136): each executing lane steps its generator and receives the stepped value. -/
def execRand (d : Reg) (ra : BitVec 2) (s : State) : Result :=
  s.issue (.rand d ra) fun p => s.perLane p (latencyOf p.ty (.rand d ra)) d 1 fun _ g => ((genStep g).toNat, genStep g)

end Sys2Proof.Machine
end

