-- ==== Sys2Proof/Machine/Control.lean ====
section
/-! DEFINITION. Control, mode and divergence instructions (R94 to R121): literals, modes, routes, REP, marks, branches, the join
stack, parties, EXIT and the end of a gang, YIELD. -/

namespace Sys2Proof.Machine

open Sys2Proof

/-! ### Parties and the join stack -/

/-- Renumber parties: each party is named by its lowest present, unretired quad (R17). -/
def Gang.renumber (g : Gang) : Gang :=
  g.mapQuads fun q d =>
    if g.unretired q then
      { d with party := BitVec.ofNat 3 (((List.range 8).find? fun r => g.unretired r && (g.quad r).party == d.party).getD q) }
    else d

/-- Entries on the stack of a party; the shapes of its quads are equal (R17). -/
def Gang.depth (g : Gang) (lead : Nat) : Nat := (g.quad lead).stack.length

/-- Push an entry on every quad of the party, with each quad's own lanes of a mask (R21). -/
def Gang.push (g : Gang) (lead : Nat) (path : Bool) (pc : Addr) (m : BitVec 32) : Gang :=
  let ms := g.members lead
  g.mapQuads fun q d => if ms.contains q then { d with stack := d.stack ++ [⟨path, pc, quadBits m q, 0⟩] } else d

/-- The active lanes of a party become the lanes of a mask, at a PC. -/
def Gang.runLanes (g : Gang) (lead : Nat) (pc : Addr) (m : BitVec 32) : Gang :=
  let ms := g.members lead
  g.mapQuads fun q d => if ms.contains q then { d with active := quadBits m q, pc := pc } else d

/-- Retire quads. -/
def Gang.retireQuads (g : Gang) (qs : List Nat) : Gang :=
  g.mapQuads fun q d => if qs.contains q then { d with retired := true, active := 0, helper := 0, stack := [], park := .none } else d

/-- What RESUME meets: a gang to go on with, JOINLOST at an entry, or a PACETARGET. -/
inductive Resume where
  | ok (g : Gang)
  | lost (entry : Nat)
  | badTarget (pc : Addr)

/-- RESUME over the whole party (R22, R24, R43); the fuel is the number of entries. -/
def Gang.resume (lead : Nat) : Nat → Gang → Resume
  | 0, g => .ok (g.retireQuads (g.members lead))
  | n + 1, g =>
    let ms := g.members lead
    match (g.quad lead).stack.getLast? with
    | none => .ok (g.retireQuads ms)
    | some e =>
      let covered := ms.all fun q => match (g.quad q).stack.getLast? with | some j => j.mask &&& ~~~ j.got == 0 | none => true
      if !e.path && !covered then .lost ((g.quad lead).stack.length - 1)
      else
        let popped := g.mapParty lead fun d =>
          match d.stack.getLast? with
          | some j => { d with stack := d.stack.dropLast, pc := j.pc, active := j.mask }
          | none => d
        if popped.act lead = 0 then Gang.resume lead n popped
        else if badPc e.pc then .badTarget e.pc
        else .ok popped

/-- The lanes of a quad that wait in a path entry or a got mask (R13). -/
def Quad.waiting (d : Quad) : BitVec 4 := d.stack.foldl (fun m e => m ||| (if e.path then e.mask else e.got)) 0

/-- The gang's slot is freed once its last quad retires; the block is done when its last gang ends (R115, R342). -/
def State.endGang (s : State) (core slot : Nat) : State :=
  match s.gangAt core slot with
  | none => s
  | some g =>
    if (List.range 8).any g.unretired then s
    else
      let s := (s.landAfterEnd core slot g).freeSlot core slot g.blk
      let s := (s.dropHandler core slot).leaveEngines core slot
      match s.blockAt g.blk with
      | none => s
      | some b =>
        if (s.gangsOf g.blk).isEmpty && b.saved.isEmpty then
          let s := { s with launches := replaceFirst (·.idx == b.launch) (fun l => { l with blocksDone := l.blocksDone + 1 }) s.launches
                            blocks := s.blocks.filter (·.key != g.blk) }
          s.at s.now (.launchCompletion b.launch)
        else s

/-- Put a gang back after a JOIN or EXIT: it has issued in this clock; a gang without quads ends. -/
def State.afterResume (s : State) (p : Party) (g : Gang) : State :=
  let waits := (List.range 8).filterMap fun q => match (g.quad q).park with | .regang m => some m | _ => none
  let ms := p.g.members p.lead
  let g := (g.mapQuads fun q d => if ms.contains q then { d with last := some s.now } else d).renumber
  let s := s.modGang p.core p.slot fun _ => g
  let s := waits.dedup.foldl (fun s m => s.at s.now (.regangCompletion p.core p.slot m)) s
  s.endGang p.core p.slot

/-- Go on with what RESUME gave, or trap precisely: the instruction then has no effect (R24, R43). -/
def State.resumeWith (s : State) (p : Party) : Resume → State
  | .ok g => s.afterResume p g
  | .lost n => s.raise p xJoinLost n
  | .badTarget pc => s.raise p xPaceTarget (pc.toNat % 2 ^ 32)

/-- XINFO[3:0] of JOINOVER (R23): the entries the stack would need, at most the 15 that the field can show (log entry 90). -/
def joinNeed (n : Nat) : Nat := Nat.min 15 n

/-- PACETARGET for a transfer (R43). -/
def State.paceTrap (s : State) (p : Party) (target : Addr) : State := s.raise p xPaceTarget (target.toNat % 2 ^ 32)

/-! ### Literals, modes and routes (R105, R106) -/

/-- NOP. -/
def execNop (tag : BitVec 25) (s : State) : Result := s.issueSimple (.nop tag) fun _ s => s

/-- LIMM: L := the sign-extended value. -/
def execLimm (v : BitVec 25) (s : State) : Result :=
  s.issueSimple (.limm v) fun p s => s.modGang p.core p.slot fun g => { g with lit := v.signExtend 32 }

/-- LIMH: L[31:7] := the value. -/
def execLimh (v : BitVec 25) (s : State) : Result :=
  s.issueSimple (.limh v) fun p s => s.modGang p.core p.slot fun g => { g with lit := v ++ g.lit.extractLsb' 0 7 }

/-- The REP image of R100. -/
def repImage (count : BitVec 6) (fd fa fb : Bool) (stride : BitVec 3) : Word :=
  1#1 ++ 0#13 ++ 0#6 ++ stride ++ BitVec.ofBool fd ++ BitVec.ofBool fa ++ BitVec.ofBool fb ++ count

/-- REP (R34, R107, R109): arms the state; a count of 0 skips the target and leaves it disarmed. -/
def execRep (count : BitVec 6) (fd fa fb : Bool) (stride : BitVec 3) (s : State) : Result :=
  s.issue (.rep count fd fa fb stride) fun p =>
    if count = 0 then (s.goto p (succPc (succPc p.pc))).modGang p.core p.slot fun g =>
      { g with rep := repOff (repImage count fd fa fb stride), repLead := p.lead }
    else (s.goto p (succPc p.pc)).modGang p.core p.slot fun g => { g with rep := repImage count fd fa fb stride, repLead := p.lead }

/-- A GMODE field under a mask bit. -/
def modeField (mask : BitVec 6) (b hi lo : Nat) (old new : Nat) : Nat := if mask.getLsbD b then fld new hi lo * 2 ^ lo else fld old hi lo * 2 ^ lo

/-- MODE (R58, R105). -/
def execMode (mask : BitVec 6) (image : BitVec 15) (s : State) : Result :=
  s.issueSimple (.mode mask image) fun p s => s.modGang p.core p.slot fun g =>
    let o := g.gmode.toNat
    let n := image.toNat
    { g with gmode := BitVec.ofNat 15 (modeField mask 5 14 10 o n + modeField mask 4 9 7 o n + modeField mask 3 6 6 o n
        + modeField mask 2 5 2 o n + modeField mask 1 1 1 o n + modeField mask 0 0 0 o n) }

/-- MROUTE (R106). -/
def execMroute (slot : BitVec 2) (kind : BitVec 3) (k : BitVec 5) (s : State) : Result :=
  s.issueSimple (.mroute slot kind k) fun p s => s.modGang p.core p.slot fun g =>
    let sh := 8 * (slot.toNat - 1)
    { g with routes := (g.routes &&& ~~~ (0xFF#24 <<< sh)) ||| ((kind ++ k).zeroExtend 24 <<< sh) }

/-! ### Marks and software traps -/

/-- SETMARK (R36, R117, R170, R173); it closes no mark, so an uncorrectable error stays counted (R38, R175). -/
def execSetmark (off : BitVec 25) (s : State) : Result :=
  s.issue (.setmark off) fun p =>
    let ls := p.g.leads
    if ls.length ≠ 1 then s.raise p xMarkParty (ls.foldl (fun m q => m + 2 ^ q) 0)
    else
      let pc := succPc p.pc
      let rec' := offsetPc p.pc off
      let seq := (s.coreAt p.core).leatSeq
      let s := s.modGang p.core p.slot fun g =>
        { g with markpc := pc, recipe := rec', epoch := g.epoch + 1, marks := g.marks + 1
                 mark := some ⟨g.marks + 1, pc, rec', s.now, seq, g.quads, g.gmode, g.routes⟩ }
      (s.at (s.now + 96) (.markSettle p.core p.slot s.now)).advance p

/-- MARK_SETTLE (R173): the mark set at a clock becomes the settled mark. -/
def execMarkSettle (core slot setAt : Nat) (s : State) : Result :=
  .next (s.modGang core slot fun g =>
    match g.mark with
    | some m =>
      if m.setAt = setAt then
        { g with settled := some m, copied := g.copied.filter fun c => decide (m.no ≤ c.1) }
      else g
    | none => g)

/-- TRAP (R118): USERTRAP with XPC at the successor. -/
def execTrap (code : BitVec 8) (s : State) : Result :=
  s.issue (.trap code) fun p => s.takeTrap p.core p.slot ⟨0x05, code.zeroExtend 32, succPc p.pc, p.lead, none⟩

/-! ### Branches, calls and returns (R110 to R113) -/

/-- BR (R22, R43, R110): P = 7 with N = 0 is always taken (R56), also where no lane of the party is active; any other BR is not taken there.
JOINOVER shows the entries that the stack and the push would need together (log entry 90). -/
def execBr (n : Bool) (q : BitVec 3) (k : BitVec 21) (s : State) : Result :=
  s.issue (.br n q k) fun p =>
    let t := p.taken n q
    let target := offsetPc p.pc k
    if t = 0 ∧ ¬ (q = 7 ∧ n = false) then s.advance p
    else if badPc target then s.paceTrap p target
    else if t = p.g.act p.lead then s.goto p target
    else if 8 < p.g.depth p.lead + 1 then s.raise p xJoinOver (joinNeed (p.g.depth p.lead + 1))
    else (s.modGang p.core p.slot fun g =>
      ((g.push p.lead true target t).runLanes p.lead p.pc (g.act p.lead &&& ~~~ t))).goto p (succPc p.pc)

/-- The quads of the party that take a BRS (R18). -/
def brsQuads (p : Party) (n : Bool) (q : BitVec 3) : List Nat :=
  if q = 7 ∧ n = false then p.g.members p.lead
  else (p.g.members p.lead).filter fun d => quadBits (p.taken n q) d != 0

/-- BRS (R18, R43, R111): quads that take it go to the target; if both groups hold quads the party divides and the mark closes. -/
def execBrs (n : Bool) (q : BitVec 3) (k : BitVec 21) (s : State) : Result :=
  s.issue (.brs n q k) fun p =>
    let target := offsetPc p.pc k
    let t := brsQuads p n q
    let rest := (p.g.members p.lead).filter fun d => !t.contains d
    if t.isEmpty then s.advance p
    else if badPc target then s.paceTrap p target
    else if rest.isEmpty then s.goto p target
    else
      let head (l : List Nat) : BitVec 3 := BitVec.ofNat 3 (l.headD 0)
      (s.modGang p.core p.slot fun g => g.mapQuads fun d x =>
        if t.contains d then { x with pc := target, party := head t, last := some s.now }
        else if rest.contains d then { x with pc := succPc p.pc, party := head rest, last := some s.now }
        else x).closeMark p

/-- The distinct targets of the active lanes of a BRI, ascending, each with its lanes (R112). -/
def briTargets (s : State) (p : Party) (a : Reg) : List (Nat × BitVec 32) :=
  let ls := lanesOf (p.g.act p.lead)
  let ts := (ls.map fun l => s.regValue p a 2 l).dedup.insertionSort (· ≤ ·)
  ts.map fun t => (t, maskOf fun l => ls.contains l && s.regValue p a 2 l == t)

/-- BRI (R43, R112). Lanes that read v targets but are none leave the party at the next word (log entry 91); JOINOVER as for BR. -/
def execBri (a : Reg) (s : State) : Result :=
  s.issue (.bri a) fun p =>
    let ts := if kindOf a = .v then briTargets s p a else [(s.uniform p a 2, p.g.act p.lead)]
    match ts.find? fun t => badPc (addr64 t.1), ts with
    | some t, _ => s.paceTrap p (addr64 t.1)
    | none, [] => s.advance p
    | none, low :: others =>
      let need := p.g.depth p.lead + others.length
      if 8 < need then s.raise p xJoinOver (joinNeed need)
      else (s.modGang p.core p.slot fun g =>
        (others.reverse.foldl (fun g t => g.push p.lead true (addr64 t.1) t.2) g).runLanes p.lead (addr64 low.1) low.2).goto p (addr64 low.1)

/-- CALL (R113). -/
def execCall (k : BitVec 21) (s : State) : Result :=
  s.issue (.call k) fun p =>
    let target := offsetPc p.pc k
    if badPc target then s.paceTrap p target
    else
      let link := succPc p.pc
      (s.modGang p.core p.slot fun g =>
        { g with sregs := Sp.set (Sp.set g.sregs 22 (link.extractLsb' 0 32)) 23 (link.extractLsb' 32 32) }).goto p target

/-- RET (R113). -/
def execRet (s : State) : Result :=
  s.issue .ret fun p =>
    let target : Addr := Sp.get p.g.sregs 23 ++ Sp.get p.g.sregs 22
    if badPc target then s.paceTrap p target else s.goto p target

/-! ### Join, exit, part and regang (R114 to R116) -/

/-- MARK (R22, R114). -/
def execMark (k : BitVec 21) (s : State) : Result :=
  s.issue (.mark k) fun p =>
    let target := offsetPc p.pc k
    if badPc target then s.paceTrap p target
    else if 8 < p.g.depth p.lead + 1 then s.raise p xJoinOver (joinNeed (p.g.depth p.lead + 1))
    else (s.modGang p.core p.slot fun g => g.push p.lead false target (g.act p.lead)).advance p

/-- The index of the innermost join entry of a stack. -/
def innermostJoin (st : List JEntry) : Option Nat := ((st.zipIdx.filter fun e => !e.1.path).getLast?).map (·.2)

/-- JOIN (R22, R24, R114). -/
def execJoin (s : State) : Result :=
  s.issue .join fun p =>
    match (p.g.members p.lead).find? fun q => (innermostJoin (p.g.quad q).stack).isNone with
    | some q => s.raise p xJoinUnder q
    | none =>
      let g := p.g.mapParty p.lead fun d =>
        { d with stack := setAt d.stack ((innermostJoin d.stack).getD 0) (fun e => { e with got := e.got ||| d.active }), active := 0 }
      s.resumeWith p (g.resume p.lead 8)

/-- EXIT (R22, R115). -/
def execExit (s : State) : Result :=
  s.issue .exit fun p =>
    let ms := p.g.members p.lead
    let g := p.g.mapParty p.lead fun d =>
      let st := d.stack.map fun e => if e.path then e else { e with mask := e.mask &&& ~~~ d.active, got := e.got &&& ~~~ d.active }
      { d with stack := st, helper := d.helper ||| d.active, active := 0 }
    let gone := ms.filter fun q => (g.quad q).waiting == 0
    let left := ms.filter fun q => !gone.contains q
    let g := g.retireQuads gone
    match left with
    | [] => s.afterResume p g
    | lead :: _ =>
      let g := g.mapQuads fun q d => if left.contains q then { d with party := BitVec.ofNat 3 lead } else d
      s.resumeWith p (g.resume lead 8)

/-- PART (R17, R20, R116). It closes the mark also where it names none of the party's quads (R38; log entry 92). -/
def execPart (m : BitVec 8) (s : State) : Result :=
  s.issue (.part m) fun p =>
    let ms := p.g.members p.lead
    let s := s.modGang p.core p.slot fun g =>
      (g.mapQuads fun q d => if ms.contains q && m.getLsbD q then { d with party := BitVec.ofNat 3 q } else d)
    let rest := ms.filter fun q => !m.getLsbD q
    let s := s.modGang p.core p.slot fun g =>
      g.mapQuads fun q d => if rest.contains q then { d with party := BitVec.ofNat 3 (rest.headD 0) } else d
    let s := s.modGang p.core p.slot fun g =>
      g.mapQuads fun q d => if ms.contains q then { d with pc := succPc p.pc, last := some s.now } else d
    s.closeMark p

/-- REGANG (R19): the party waits at the instruction; the completion is looked at when it arrives. -/
def execRegang (m : BitVec 8) (s : State) : Result :=
  s.issue (.regang m) fun p =>
    if (p.g.members p.lead).any fun q => !m.getLsbD q then s.raise p xRegangMask m.toNat
    else
      let s := s.modGang p.core p.slot fun g => g.mapParty p.lead fun d => { d with park := .regang m, last := some s.now }
      s.at s.now (.regangCompletion p.core p.slot m)

/-- Two stacks of the same shape (R17). -/
def sameShape (x y : List JEntry) : Bool := x.map (fun e => (e.path, e.pc)) == y.map (fun e => (e.path, e.pc))

/-- REGANG_COMPLETION (R19): with every named quad waiting at the same PC or retired, the waiting quads merge, or trap
REGANGSHAPE at the REGANG. -/
def execRegangCompletion (core slot : Nat) (mask : BitVec 8) (s : State) : Result :=
  match s.gangAt core slot with
  | none => .next s
  | some g =>
    if g.trap.isSome then .next s
    else
    let w := (List.range 8).filter fun q => mask.getLsbD q && g.unretired q && (g.quad q).park == .regang mask
    match w with
    | [] => .next s
    | lead :: _ =>
      let pc := (g.quad lead).pc
      let all := (List.range 8).all fun q => !mask.getLsbD q || !g.unretired q || (w.contains q && (g.quad q).pc == pc)
      if !all then .next s
      else if w.all fun q => sameShape (g.quad q).stack (g.quad lead).stack then
        .next (s.modGang core slot fun g => g.mapQuads fun q d =>
          if w.contains q then { d with party := BitVec.ofNat 3 lead, park := .none, pc := succPc pc, last := some s.now, wake := s.now + 1 } else d)
      else
        let s := s.modGang core slot fun g => g.mapQuads fun q d => if w.contains q then { d with park := .none } else d
        .next (s.takeTrap core slot ⟨0x15, mask.zeroExtend 32, pc, lead, none⟩)

/-! ### YIELD (R119 to R121) -/

/-- Clocks from the issue of a gate operation to the gate: 2, or 6 from the bed core of a twin block (R195). -/
def gateDelay (b : Block) (core : Nat) : Nat := if b.pair && core % 2 == 1 then 6 else 2

/-- Send a change or a read to a gate after some clocks (R195). -/
def State.sendGateAfter (s : State) (b : Block) (delay core slot gate : Nat) (after : List Nat) (chg : GateChange) : State :=
  (s.modBlock b.key fun b => { b with gateIn := b.gateIn ++ [⟨s.now + delay, gate, core, slot, after, chg⟩] }).at
    (s.now + delay) (.gateUpdate b.key gate)

/-- A BAR sub-op or YIELD of the executing party on its way to a gate. -/
def State.sendGate (s : State) (b : Block) (p : Party) (gate : Nat) (after : List Nat) (chg : GateChange) : State :=
  s.sendGateAfter b (gateDelay b p.core) p.core p.slot gate after chg

/-- YIELD (R120): ILLEGAL cause 7 in a gang of several parties, GATENUM beyond the gate count, else the gang parks. -/
def execYield (gate : BitVec 8) (off : BitVec 17) (s : State) : Result :=
  s.issue (.yield gate off) fun p =>
    match s.blockOf p with
    | none => s
    | some b =>
      if p.g.leads.length ≠ 1 then s.illegal p (.yield gate off) 7
      else if b.ngates ≤ gate.toNat then s.raise p xGateNum gate.toNat
      else
        let s := s.modGang p.core p.slot fun g => g.mapParty p.lead fun d =>
          { d with park := .yield gate.toNat .onWay (offsetPc p.pc off), last := some s.now }
        s.sendGate b p gate.toNat [] (.wait p.lead)

end Sys2Proof.Machine
end

