-- ==== Sys2Proof/Machine/Gates.lean ====
section
/-! DEFINITION. Gates (R119, R120, R194 to R198): the BAR sub-ops, the application of changes at a gate, and the wake of its
waiters. -/

namespace Sys2Proof.Machine

open Sys2Proof

/-! ### Gate images -/

/-- A gate as the four words of its image (R194). -/
def gateImage (g : Gate) : BitVec 128 :=
  g.adv ++ 0#6 ++ BitVec.ofBool g.init ++ BitVec.ofBool g.phase ++ g.expect ++ g.rema ++ 0#16 ++ g.remb

/-- A gate of a block. -/
def Block.gate (b : Block) (n : Nat) : Gate := b.gates.getD n {}

/-- A byte of the gate area (R186). -/
def Block.gateByte (b : Block) (off : Nat) : Byte := (gateImage (b.gate (off / 16))).extractLsb' (8 * (off % 16)) 8

/-- The gate that an image stands for. -/
def gateOfImage (v : BitVec 128) : Gate :=
  ⟨v.extractLsb' 0 48, v.extractLsb' 64 16, v.extractLsb' 80 8, v.getLsbD 88, v.getLsbD 89, v.extractLsb' 96 32⟩

/-- YARR (R100): valid, recorded phase, gate. -/
def yarrValid (y : Word) : Bool := y.getLsbD 9
def yarrPhase (y : Word) : Bool := y.getLsbD 8
def yarrGate (y : Word) : Nat := fld y.toNat 7 0
def yarrImage (gate : Nat) (phase : Bool) : Word := word (2 ^ 9 + (if phase then 2 ^ 8 else 0) + gate % 256)

/-- The phase a wait compares with (R120, R197). -/
def waitRef (y : Word) (gate : Nat) (phase : Bool) : Bool := if yarrValid y && yarrGate y == gate then yarrPhase y else phase

/-! ### BAR sub-ops (R196, R197) -/

/-- A BAR sub-op: nothing unless a lane writes; GATENUM beyond the gate count; else its effect on the block and gate number. -/
def barOp (i : Instr) (a : Reg) (f : Party → Block → Nat → State) (s : State) : Result :=
  s.issue i fun p =>
    match s.blockOf p with
    | none => s
    | some b =>
      let gate := s.uniform p a 1
      if !p.once then s.advance p
      else if b.ngates ≤ gate then s.raise p xGateNum gate
      else f p b gate

/-- BARCOUNT (R209): gate, count carried, EXPECT. -/
def State.barCount (s : State) (p : Party) (gate n expect : Nat) : State :=
  s.raise p xBarCount (gate % 256 + n % 256 * 2 ^ 8 + expect * 2 ^ 16)

/-- EXPECT as an arrival of a gang finds it at issue: its own BINITs on the way count (R197). -/
def expectNow (b : Block) (core slot gate : Nat) : Nat :=
  match ((b.gateIn.filter fun e => e.gate == gate && e.core == core && e.slot == slot).filterMap fun e =>
      match e.chg with | .binit n _ => some n.toNat | _ => none).getLast? with
  | some n => n
  | none => (b.gate gate).expect.toNat

/-- An outstanding read of memory, of windows or of a counter, or an atomic with a result. -/
def Pend.isRead (d : Pend) : Bool := match d.body with | .load .. => true | .bridge .. => true | .window .. => true | .kvx .. => true | .counter .. => true | .atomic => true | _ => false

/-- An operand code of a block-shared register. -/
def sharedCode (r : Nat) : Bool := decide (0x78 ≤ r) && decide (r ≤ 0x7D)

/-- What an arrival, a release of CORE scope, comes after (R33, R189, R243, R300): the gang's window writes, its atomics, its reads of memory
and its transfers that have not completed, and its block-shared writes that are in flight or not yet seen everywhere. -/
def arrivalAfter (s : State) (p : Party) : List Nat :=
  let c := s.coreAt p.core
  ((c.wins.filter fun w => w.slot == p.slot && w.blk == p.g.blk && w.write.isSome).map (·.id))
  ++ ((c.atoms.filter fun a => a.slot == p.slot && a.blk == p.g.blk && !a.told).map (·.id))
  ++ ((c.moves.filter fun m => m.store && m.slot == p.slot && m.blk == p.g.blk).map (·.first))
  ++ ((p.g.inflight.filter fun f => f.regs.any sharedCode).map (·.id))
  ++ ((p.g.pend.filter fun f => f.isRead || f.regs.any sharedCode).map (·.id))
  ++ ((s.blockAt p.g.blk).elim [] fun b =>
        (b.shWrites.filter fun w => w.part == b.partOf p.core && w.quarter == quarterOf p.slot).map (·.id))

/-- BINIT: BARCOUNT for a count of 0 or above 64. -/
def execBinit (d a : Reg) (s : State) : Result :=
  barOp (.binit d a) a (fun p b gate =>
    let n := s.uniform p d 1
    if n = 0 ∨ 64 < n then s.barCount p gate n (expectNow b p.core p.slot gate)
    else ((s.sendGate b p gate [] (.binit (BitVec.ofNat 8 n) s.now)).closeMark p).advance p) s

/-- An arrival (BARR, BARW) after its count check; on an uninitialised gate, whose EXPECT is 0, it traps with any count. -/
def arriveOp (i : Instr) (d a : Reg) (f : Party → Block → Nat → State → State) (s : State) : Result :=
  barOp i a (fun p b gate =>
    let n := s.uniform p d 1
    let e := expectNow b p.core p.slot gate
    if n ≠ e ∨ e = 0 then s.barCount p gate n e
    else f p b gate ((s.sendGate b p gate (arrivalAfter s p) .arrive).closeMark p)) s

/-- BARR. -/
def execBarr (d a : Reg) (s : State) : Result := arriveOp (.barr d a) d a (fun p _ _ s => s.advance p) s

/-- Park the party on a gate: the wait reaches the gate like every BAR sub-op. -/
def State.gateWait (s : State) (p : Party) (b : Block) (gate : Nat) (d : Reg) : State :=
  let s := s.modGang p.core p.slot fun g => g.mapParty p.lead fun q => { q with park := .bwait gate .onWay d, last := some s.now }
  s.sendGate b p gate [] (.wait p.lead)

/-- BARW: an arrival, then a BWAIT with D = z. -/
def execBarw (d a : Reg) (s : State) : Result := arriveOp (.barw d a) d a (fun p b gate s => s.gateWait p b gate 0x7E#7) s

/-- BWAIT. -/
def execBwait (d a : Reg) (s : State) : Result := barOp (.bwait d a) a (fun p b gate => s.gateWait p b gate d) s

/-- BEXP. -/
def execBexp (d a : Reg) (s : State) : Result :=
  barOp (.bexp d a) a (fun p b gate => ((s.sendGate b p gate [] (.bexp (word (s.uniform p d 1)))).closeMark p).advance p) s

/-- BTILE: BARCOUNT for more than 4,095 tiles; the mark stays open. -/
def execBtile (d a : Reg) (s : State) : Result :=
  barOp (.btile d a) a (fun p b gate =>
    let t := s.uniform p d 1
    if 4095 < t then s.barCount p gate t (expectNow b p.core p.slot gate)
    else (s.sendGate b p gate [] (.btile (word t))).advance p) s

/-- The registers a uniform result will write. -/
def resultCodes (d : Reg) (n : Nat) : List Nat :=
  match kindOf d with
  | .v => (List.range n).map (d.toNat + ·)
  | .s => (List.range n).map (d.toNat + ·)
  | _ => []

/-- BTEST: the result is a variable-latency write; one that observes an advance is an acquire (R198). -/
def execBtest (d a : Reg) (s : State) : Result :=
  barOp (.btest d a) a (fun p b gate =>
    let id := s.fresh
    ((s.addPend p (resultCodes d 1) .test).sendGate b p gate [] (.test id d p.executing)).advance p) s

/-- BRD. -/
def execBrd (d a : Reg) (s : State) : Result :=
  barOp (.brd d a) a (fun p b gate =>
    let id := s.fresh
    ((s.addPend p (resultCodes d 4) .gate).sendGate b p gate [] (.read id d p.executing)).advance p) s

/-! ### At the gate (R195) -/

/-- The writes of a uniform value into d in the lanes of a mask. -/
def maskedWrites (d : Reg) (mask : BitVec 32) (n v : Nat) : List RegWrite :=
  match kindOf d with
  | .v => (lanesOf mask).flatMap fun l => destWrites d n l v
  | .s => destWrites d n 0 v
  | _ => []

/-- The value of an outstanding operation is known: it lands after an open latency (R153). -/
def State.knownBody (s : State) (core slot id : Nat) (body : PendBody) : State :=
  let s := s.modGang core slot fun g => { g with pend := replaceFirst (·.id == id) (fun d => { d with body := body }) g.pend }
  s.later (.variableReturnLanding core slot id)

def State.knownResult (s : State) (core slot id : Nat) (ws : List RegWrite) : State := s.knownBody core slot id (.value ws)

/-- A wait reaches its gate: it has its reference phase. -/
def GateRef.reach (phase : Bool) : GateRef → GateRef
  | .onWay => .waits phase
  | r => r

/-- A party parked on a gate reaches it. -/
def Park.reach (gate : Nat) (phase : Bool) : Park → Park
  | .yield n ref cont => if n = gate then .yield n (ref.reach phase) cont else .yield n ref cont
  | .bwait n ref dst => if n = gate then .bwait n (ref.reach phase) dst else .bwait n ref dst
  | w => w

/-- The waiters on a gate whose reference phases wake are ready (R195). -/
def Park.free (gate : Nat) (wakes : Bool → Bool) : Park → Park
  | .yield n (.waits r) cont => .yield n (if n = gate ∧ wakes r = true then .freed r else .waits r) cont
  | .bwait n (.waits r) dst => .bwait n (if n = gate ∧ wakes r = true then .freed r else .waits r) dst
  | w => w

def State.freeWaiters (s : State) (blk gate : Nat) (wakes : Bool → Bool) : State :=
  (s.gangsOf blk).foldl (fun s g => s.modGang g.1 g.2.1 fun g => { g with quads := g.quads.map fun d => { d with park := d.park.free gate wakes } }) s

/-- Whether a change must wait at the gate for what it comes after. -/
def gateHeld (s : State) (b : Block) (e : GateIn) : Bool :=
  let c := s.coreAt e.core
  let out := c.wins.map (·.id) ++ (c.atoms.filter fun a => !a.told).map (·.id) ++ (c.moves.filter (·.store)).map (·.first) ++ b.shWrites.map (·.id)
    ++ (match s.gangAt e.core e.slot with | some g => g.inflight.map (·.id) ++ g.pend.map (·.id) | none => [])
  e.after.any out.contains

/-- Split the entries due at a gate from the others: a held entry waits one clock more, and so does one with an earlier operation of its gang
still on the way to any gate (R120, R197). Engines' arrivals (slot 64) have no order. -/
def splitDue (s : State) (b : Block) (gate : Nat) : List GateIn → List (Nat × Nat) → List GateIn × List GateIn
  | [], _ => ([], [])
  | e :: es, blocked =>
    let more := if e.slot < 64 then (e.core, e.slot) :: blocked else blocked
    if e.gate = gate ∧ e.clock ≤ s.now then
      if gateHeld s b e || blocked.contains (e.core, e.slot) then
        let r := splitDue s b gate es more
        (r.1, { e with clock := s.now + 1 } :: r.2)
      else
        let r := splitDue s b gate es blocked
        (e :: r.1, r.2)
    else
      let r := splitDue s b gate es more
      (r.1, e :: r.2)

/-- What a change does to its sender, with the gate as it stands before the clock's changes (R119, R197; log entry 17). -/
def gateSender (gate : Nat) (g0 : Gate) (s : State) (e : GateIn) : State :=
  match e.chg with
  | .arrive => s.modGang e.core e.slot fun g => { g with yarr := yarrImage gate g0.phase }
  | .wait lead => s.modGang e.core e.slot fun g =>
      let ref := waitRef g.yarr gate g0.phase
      let at' (d : Quad) : Quad := if d.party.toNat = lead ∧ d.present ∧ !d.retired then { d with park := d.park.reach gate ref } else d
      { g with quads := g.quads.map at', held := g.held.map (·.map at'), bellHeld := g.bellHeld.map (·.map at') }
  | .test pend d mask =>
    match s.gangAt e.core e.slot with
    | none => s
    | some g =>
      let ok := yarrValid g.yarr && yarrGate g.yarr == gate && (g0.phase != yarrPhase g.yarr)
      let s := if ok then s.modGang e.core e.slot fun g => { g with yarr := g.yarr &&& ~~~ (1#32 <<< 9) } else s
      let ws := maskedWrites d mask 1 (if ok then 1 else 0)
      s.knownBody e.core e.slot pend (if ok then .observed ws else .value ws)
  | .read pend d mask => s.knownBody e.core e.slot pend (.value (maskedWrites d mask 4 (gateImage g0).toNat))
  | _ => s

/-- A BINIT at a gate: ADV is kept (R197). -/
def gateBinit (g : Gate) (e : GateIn) : Gate :=
  match e.chg with
  | .binit n _ => { g with expect := n, rema := n.zeroExtend 16, remb := 0, phase := false, init := true }
  | _ => g

/-- The other changes of a clock. -/
def gateChange (g : Gate) (e : GateIn) : Gate :=
  match e.chg with
  | .bexp n => { g with remb := g.remb + n.zeroExtend 48 }
  | .btile t => { g with rema := g.rema + t.truncate 16 }
  | .arrive => { g with rema := g.rema - 1 }
  | .tile => { g with rema := g.rema - 1 }
  | .land n => { g with remb := g.remb - BitVec.ofNat 48 n }
  | .addBack n => { g with remb := g.remb + BitVec.ofNat 48 n }
  | _ => g

/-- The test after a clock's changes: the phase advances at most once. -/
def gateTest (g : Gate) : Gate :=
  if g.init && g.rema == 0 && g.remb == 0 then { g with phase := !g.phase, rema := g.expect.zeroExtend 16, adv := g.adv + 1 } else g

/-- The order of BINITs of one clock: issue clock, runner core first, quarter. -/
def binitBefore (b : Block) (x y : GateIn) : Bool :=
  let k (e : GateIn) : Nat := (match e.chg with | .binit _ t => t | _ => 0) * 8 + b.partOf e.core * 4 + quarterOf e.slot
  decide (k x ≤ k y)

/-- GATE_UPDATE (R195): every change that reaches the gate in this clock is applied, BINITs first, and the gate is tested once. -/
def execGateUpdate (blk gate : Nat) (s : State) : Result :=
  match s.blockAt blk with
  | none => .next s
  | some b =>
    let due := (splitDue s b gate b.gateIn []).1
    let rest := (splitDue s b gate b.gateIn []).2
    let late := rest.any fun e => e.gate == gate && e.clock == s.now + 1
    if due.isEmpty then .next (if late then (s.modBlock blk fun b => { b with gateIn := rest }).at (s.now + 1) (.gateUpdate blk gate) else s)
    else
      let g0 := b.gate gate
      let s := s.modBlock blk fun b => { b with gateIn := rest }
      let s := due.foldl (gateSender gate g0) s
      let inits := (due.filter fun e => match e.chg with | .binit _ _ => true | _ => false).insertionSort fun x y => binitBefore b x y = true
      let g1 := due.foldl gateChange (inits.foldl gateBinit g0)
      let g2 := gateTest g1
      let s := s.modBlock blk fun b => { b with gates := setAt b.gates gate fun _ => g2 }
      let waits := due.any fun e => match e.chg with | .wait _ => true | _ => false
      let s := if !inits.isEmpty || g2.phase != g1.phase then
          (s.freeWaiters blk gate fun r => r != g2.phase || (r && !inits.isEmpty)).at (s.now + 1) (.gateWaiterWake blk gate)
        else if waits then s.at s.now (.gateWaiterWake blk gate) else s
      .next (if late then s.at (s.now + 1) (.gateUpdate blk gate) else s)

/-- The gate whose advance has ended a wait. -/
def Park.freedAt : Park → Option Nat
  | .yield n (.freed _) _ => some n
  | .bwait n (.freed _) _ => some n
  | _ => Option.none

/-- One party's wait on a gate ends (R120, R197): YARR is no longer valid; a YIELD resumes every quad at its continuation, a BWAIT delivers the
phase it has seen and goes on at its successor. A wait freed during a halt stays freed, whatever the phase at the restart (log entry 116). -/
def State.endGateWait (s : State) (core slot lead : Nat) (g : Gang) : State :=
  let go (pc : Addr → Addr) : State := s.modGang core slot fun g =>
    { g.mapParty lead (fun q => { q with park := .none, pc := pc q.pc, wake := s.now }) with yarr := g.yarr &&& ~~~ (1#32 <<< 9) }
  match (g.quad lead).park with
  | .yield _ _ cont =>
    let s := go fun _ => cont
    if badPc cont then s.takeTrap core slot ⟨0x03, cont.extractLsb' 0 32, cont, lead, none⟩ else s
  | .bwait _ ref d =>
    let seen : Bool := match ref with | .freed r => !r | _ => false
    (go succPc).variableResult ⟨core, slot, lead, g⟩ (if kindOf d = .s then destWrites d 1 0 (if seen then 1 else 0) else [])
  | _ => s

/-- A freed wait of a party on a gate ends unless its core is halted (R121) or a trap or a rollback of the gang comes first; its acquire is complete
once the reads that the gang issued before have returned (R192, R304). -/
def State.leaveGate (s : State) (core slot lead blk gate : Nat) : State :=
  match s.gangAt core slot with
  | none => s
  | some g =>
    if (s.coreAt core).halted || g.trap.isSome || g.rolling.isSome || g.redo || (g.quad lead).park.freedAt != some gate then s
    else if g.pend.any (·.isRead) then s.at (s.now + 1) (.gateWaiterWake blk gate)
    else s.endGateWait core slot lead g

/-- GATE_WAITER_WAKE (R195): the parties parked on a gate whose phase differs from their reference, and those that an advance has freed, become
ready. -/
def execGateWaiterWake (blk gate : Nat) (s : State) : Result :=
  match s.blockAt blk with
  | none => .next s
  | some b =>
    let s := s.freeWaiters blk gate fun r => r != (b.gate gate).phase
    .next ((s.gangsOf blk).foldl (fun s k => k.2.2.leads.foldl (fun s lead => s.leaveGate k.1 k.2.1 lead blk gate) s) s)

/-- BLOCK_SHARED_VISIBILITY (R31, R32): a write, with every earlier one, is visible everywhere. -/
def execBlockSharedVisibility (blk id : Nat) (s : State) : Result :=
  .next (s.modBlock blk fun b =>
    if b.shWrites.any (·.id == id) then
      let old := b.shWrites.takeWhile (·.id != id) ++ (b.shWrites.find? (·.id == id)).toList
      { b with shared := old.foldl (fun m w => Sp.set m w.reg w.val) b.shared
               shWrites := (b.shWrites.dropWhile (·.id != id)).drop 1 }
    else b)

end Sys2Proof.Machine
end

