-- ==== Sys2Proof/Machine/Registers.lean ====
section
/-! DEFINITION. State registers and privileged state: what RDS and RDP read, what WRS and WRP check and write (R97 to R104, R164,
R208, R247, R269, R280, R357, R390, R414, R415, R436, R454, R460). -/

namespace Sys2Proof.Machine

open Sys2Proof

/-! ### What a state register holds -/

/-- A truth value as a number. -/
def bnat (b : Bool) : Nat := if b then 1 else 0

/-- A lane mask of one stack mask of each quad of the party (R104). -/
def stackMask (p : Party) (n : Nat) (f : JEntry → BitVec 4) : BitVec 32 :=
  quadMask (p.g.members p.lead) fun q => match (p.g.quad q).stack[n]? with | some e => f e | none => 0

/-- The key table of a core as KEYTn (R164). -/
def keyWord (keys : List (Nat × BitVec 2)) (n : Nat) : Nat :=
  (List.range 16).foldl (fun v k => v + (Sp.get keys (16 * n + k)).toNat * 2 ^ (2 * k)) 0

/-- No lane copy, LDX or bulk transfer of the core is in flight (R178). -/
def Core.cpq (c : Core) : Bool := c.works.isEmpty && c.recs.isEmpty

/-- The resident blocks that hold a part of a core. -/
def State.blocksOn (s : State) (core : Nat) : List Block :=
  s.blocks.filter fun b => b.resident && (b.core == core || (b.pair && b.core / 2 == core / 2))

/-- Whether an allocated range of a core's pond is still held (R155): a scratch part until its block leaves, a register area until its gang
ends and no B mark holds it (R218). The third number names block key, slot and kind. -/
def State.pinLive (s : State) (core : Nat) (r : Nat × Nat × Nat) : Bool :=
  let key := r.2.2 / 128
  let slot := r.2.2 / 2 % 64
  if r.2.2 % 2 = 1 then s.blocks.any fun b => b.key == key && b.resident && (b.core == core || (b.pair && b.core / 2 == core / 2))
  else (s.gangAt core slot).elim false (·.blk == key)
    || (s.coreAt core).mmas.any fun m => m.blk == key && m.bgangs.any fun b => b.1 == slot

def State.livePins (s : State) (core : Nat) : List (Nat × Nat × Nat) := (s.coreAt core).pins.filter (s.pinLive core)

/-- The pinned bays of a core, from the KiB ranges allocated in its pond (R155). -/
def State.bayPins (s : State) (core : Nat) : Nat :=
  let pins := s.livePins core
  (List.range 32).foldl (fun v b => if pins.any fun r => decide (r.1 < 32 * b + 32) && decide (32 * b < r.1 + r.2.1) then v + 2 ^ b else v) 0

/-- Granules of a leat entry (R165). -/
def LeatEntry.granules (e : LeatEntry) : Nat := 1 + ((List.range 4).filter fun q => e.bytes.any fun b => b.1 / 32 == q).length

/-- MXSTAT (R247). -/
def mxstat (s : State) (core slot : Nat) : Nat :=
  let c := s.coreAt core
  let r := s.coreAt (core / 2 * 2)
  let mine (o : Option Owner) : Option Owner := match o with | some o => if o.core = core ∧ o.slot = slot ∧ !o.released then some o else none | none => none
  let own := mine c.owner
  let req := (r.mxq.filter fun q => q.core == core && q.slot == slot).head?
  let mmas := (c.mmas.filter fun m => m.slot == slot && (s.gangAt core slot).elim false fun g => g.blk == m.blk).length
  bnat (own.elim false fun o => !o.pair) + 2 * bnat (own.elim false (·.pair)) + 4 * bnat req.isSome + 8 * bnat (req.elim false (·.pair))
    + 16 * (req.elim 0 fun q => q.prio % 4) + 256 * Nat.min 4 mmas

/-- The oldest unretired MMA ticket of an engine (R247). -/
def Core.mxdone (c : Core) : Word := (c.mmas.head?).elim c.mxtick (·.ticket)

/-- The board of a core's domain. -/
def State.boardAt (s : State) (d : Nat) : Board := (Kv.get? s.boards d).getD {}

/-- The request engine is frozen and stands still between transfer units: none of a record's units is under way (R177). -/
def Core.standsStill (c : Core) : Bool :=
  c.frozen && c.works.all fun w => w.rticket.isNone || w.units.all fun u => u.st == .queued || u.st == .landed

/-- The value of a state register as the executing party reads it (R100, R101, R164, R208, R247, R414). -/
def stateValue (s : State) (p : Party) (k : Nat) : Nat :=
  let g := p.g
  let c := s.coreAt p.core
  let ms := p.g.members p.lead
  let stack := (g.quad p.lead).stack
  let board := s.boardAt c.domain
  if 0x018 ≤ k ∧ k < 0x020 then (stack[k - 0x018]?).elim 0 fun e => bnat e.path
  else if 0x020 ≤ k ∧ k < 0x030 then (stack[(k - 0x020) / 2]?).elim 0 fun e => e.pc.toNat
  else if 0x030 ≤ k ∧ k < 0x038 then (stackMask p (k - 0x030) (·.mask)).toNat
  else if 0x038 ≤ k ∧ k < 0x040 then (stackMask p (k - 0x038) fun e => if e.path then 0 else e.got).toNat
  else if 0x090 ≤ k ∧ k < 0x0A0 then keyWord c.keys (k - 0x090)
  else if 0x0A0 ≤ k ∧ k < 0x0A4 then (c.grants.getD (k - 0x0A0) 0).toNat
  else match k with
  | 0x000 => g.gmode.toNat
  | 0x001 => g.routes.toNat
  | 0x002 => g.lit.toNat
  | 0x003 => g.rep.toNat
  | 0x008 => g.markpc.toNat
  | 0x00A => g.recipe.toNat
  | 0x00C => bnat g.mark.isSome
  | 0x010 => stack.length
  | 0x040 => (g.act p.lead).toNat
  | 0x041 => (quadMask ((List.range 8).filter fun q => (g.quad q).present) fun q => (g.quad q).helper).toNat
  | 0x042 =>
    let bits (f : Nat → Bool) : Nat := (List.range 8).foldl (fun v q => if f q then v + 2 ^ q else v) 0
    bits (fun q => g.leads.contains q) * 2 ^ 24 + bits (fun q => (g.quad q).present && (g.quad q).retired) * 2 ^ 16
      + bits (fun q => (g.quad q).present) * 2 ^ 8 + bits (fun q => ms.contains q)
  | 0x046 => g.yarr.toNat
  | 0x048 => g.lanes * 2 ^ 16 + g.nquads * 2 ^ 8 + g.number
  | 0x049 => (s.blockAt g.blk).elim 0 (·.bid)
  | 0x04A => p.core * 2 ^ 5 + quarterOf p.slot * 2 ^ 3 + bnat ((s.blockAt g.blk).elim false (·.pair)) * 4
  | 0x04C => s.now % 2 ^ 64
  | 0x080 => bnat c.cpq + 2 * bnat c.halted + 4 * bnat c.standsStill + 8 * bnat c.leat.isEmpty + 16 * (s.blocksOn p.core).length
      + 2 ^ 16 * c.gangs.length
  | 0x081 => c.domain + 2 ^ 8 * c.function
  | 0x082 => c.baymap.toNat
  | 0x084 => s.bayPins p.core
  | 0x085 => g.regKiB * 2 ^ 10
  | 0x086 => (s.blockAt g.blk).elim 0 fun b =>
      (if b.partOf p.core = 0 then b.scrKiB.1 else b.scrKiB.2) * 2 ^ 10 + (b.scrSize / 1024) * 2 ^ 20
  | 0x088 => bnat c.halted
  | 0x08A => c.strikes.toNat
  | 0x08C => (c.leat.head?).elim c.leatEnd (·.pos) + 2 ^ 11 * c.leatEnd
  | 0x08D => c.leatSeq.toNat
  | 0x0C0 => c.rqtick.toNat
  | 0x0C1 => ((c.recs.head?).elim c.rqtick (·.ticket)).toNat
  | 0x0C2 => c.rqerr.toNat
  | 0x0C3 => 64 - c.recs.length
  | 0x0C4 => (s.blockAt g.blk).elim 0 (·.ngates)
  | 0x100 => mxstat s p.core p.slot
  | 0x101 => c.mxtick.toNat
  | 0x102 => c.mxdone.toNat
  | 0x103 => c.mxcount.toNat
  | 0x104 => c.mxchk.toNat
  | 0x105 => g.role.toNat
  | 0x106 => g.tsel.toNat
  | 0x107 => match c.owner with | some o => if o.released then 0 else 2 ^ 31 + bnat o.pair * 2 ^ 8 + o.slot | none => 0
  | 0x180 => g.kv.rm.toNat
  | 0x181 => g.kv.st.toNat
  | 0x182 => g.kv.curs.toNat
  | 0x183 => g.kv.curh.toNat
  | 0x184 => g.kv.curt.toNat
  | 0x188 => g.blsel.toNat
  | 0x189 => match Kv.get? board.lines (g.blsel.toNat) with | some l => l.mode.toNat + 4 * bnat l.wake | none => 0
  | 0x18A => board.hpc.toNat
  | 0x18C => board.hgang.toNat
  | 0x18D => bnat g.bellHeld.isSome
  | 0x18E => g.bs.pc.toNat
  | 0x190 => g.bs.mode.toNat
  | 0x191 => g.bs.rep.toNat
  | 0x192 => g.bs.route.toNat
  | 0x193 => board.refused.toNat
  | 0x400 => g.xr.xpc.toNat
  | 0x402 => g.xr.xcode.toNat
  | 0x403 => g.xr.xinfo.toNat
  | 0x404 => g.xr.xrep.toNat
  | 0x405 => g.xr.xmode.toNat
  | 0x406 => g.xr.xroute.toNat
  | _ => 0

/-- PRED of a lane (R100). -/
def predByte (g : Gang) (l : Nat) : Nat := (List.range 8).foldl (fun v n => if (g.pred n).getLsbD l then v + 2 ^ n else v) 0

/-- A per-lane state register: PRED or RNG. -/
def laneReadout (g : Gang) (k l : Nat) : Nat := if k = 0x044 then predByte g l else (g.rng l).toNat

/-- RDS of these numbers has the fixed latency (R102). -/
def rdsFixed (k : Nat) : Bool := decide (k < 0x080) || decide (0x400 ≤ k)

/-- RDS (R102). -/
def execRds (d : Reg) (k : BitVec 11) (s : State) : Result :=
  s.issue (.rds d k) fun p =>
    let n := if wideReg k then 2 else 1
    let ws :=
      if laneReg k then (if kindOf d = .v then (lanesOf p.executing).flatMap fun l => destWrites d 1 l (laneReadout p.g k.toNat l) else [])
      else p.uniformWrites d n (stateValue s p k.toNat)
    (if rdsFixed k.toNat then s.fixedResult p 4 ws else s.variableResult p ws).advance p

/-! ### What a write checks (R103, R104, R460) -/

/-- Cause 2 for nonzero bits from hi to lo. -/
def res (v hi lo : Nat) : List Nat := when (fld v hi lo != 0) 2

/-- The causes a GMODE image gives, and a route image. -/
def gmodeCauses (v : Nat) : List Nat :=
  res v 31 15 ++ when (badTy (BitVec.ofNat 5 (fld v 14 10)) || badRm (BitVec.ofNat 3 (fld v 9 7))) 6

def routeCauses (v : Nat) : List Nat :=
  res v 31 24 ++ when ((List.range 3).any fun n => badRoute (BitVec.ofNat 3 (fld v (8 * n + 7) (8 * n + 5))) (BitVec.ofNat 5 (fld v (8 * n + 4) (8 * n)))) 6

/-- The ILLEGAL causes that a value written to a state register gives. -/
def writeCauses (k v : Nat) : List Nat :=
  if 0x018 ≤ k ∧ k < 0x020 then res v 31 1
  else if 0x020 ≤ k ∧ k < 0x030 then res v 1 0
  else match k with
  | 0x000 => gmodeCauses v
  | 0x001 => routeCauses v
  | 0x003 => res v 30 18
  | 0x00C => res v 31 1
  | 0x010 => when (decide (8 < v)) 2
  | 0x044 => res v 31 8
  | 0x046 => res v 31 10
  | 0x088 => res v 31 1
  | 0x0C2 => when (v != 0) 2
  | 0x106 => res v 31 2
  | 0x188 => res v 31 6
  | 0x189 => res v 31 3 ++ when (fld v 1 0 == 3) 6
  | 0x190 => gmodeCauses v
  | 0x191 => res v 30 18
  | 0x192 => routeCauses v
  | 0x402 => res v 31 8
  | 0x404 => res v 30 18
  | 0x405 => gmodeCauses v
  | 0x406 => routeCauses v
  | _ => []

/-! ### What a write does -/

/-- A write of the join stack of the executing party (R104). -/
def writeStack (s : State) (p : Party) (f : Nat → Quad → List JEntry) : State :=
  let ms := p.g.members p.lead
  (s.modGang p.core p.slot fun g => g.mapQuads fun q d => if ms.contains q then { d with stack := f q d } else d).closeMark p

/-- JSDEPTH (R104). -/
def jsdepth (s : State) (p : Party) (d : Nat) : State :=
  writeStack s p fun _ q => (q.stack ++ List.replicate 8 (⟨false, 0, 0, 0⟩ : JEntry)).take d

/-- JSKIND, JSPC, JSA and JSB (R104). An entry that becomes a path entry loses its got mask (log entry 94). -/
def jsentry (s : State) (p : Party) (k v : Nat) : State :=
  writeStack s p fun q d =>
    if k < 0x020 then setAt d.stack (k - 0x018) fun e => if v = 1 then { e with path := true, got := 0 } else { e with path := false }
    else if k < 0x030 then setAt d.stack ((k - 0x020) / 2) fun e => { e with pc := addr64 v }
    else if k < 0x038 then setAt d.stack (k - 0x030) fun e => { e with mask := quadBits (BitVec.ofNat 32 v) q &&& ~~~ d.helper }
    else setAt d.stack (k - 0x038) fun e => if e.path then e else { e with got := quadBits (BitVec.ofNat 32 v) q &&& ~~~ d.helper }

/-- MARKPC, RECIPE and MARKV (R104, R460). -/
def writeMark (s : State) (p : Party) (k v : Nat) : State :=
  (s.modGang p.core p.slot fun g =>
    if k = 0x008 then { g with markpc := addr64 v } else if k = 0x00A then { g with recipe := addr64 v } else g).closeMark p

/-- HALT (R177); on resumption bells held pending and waits on gates are looked at again (R121). What is outstanding at a halt still lands (log entry
133). -/
def writeHalt (s : State) (core v : Nat) : State :=
  let s := s.modCore core fun c => { c with halted := v % 2 == 1 }
  if v % 2 = 1 then s else (s.coreAt core).gangs.foldl (fun s g => (s.at s.now (.bellDelivery core g.1)).repark core g.1) s

/-- RQERR (R208): a write of zero clears it. -/
def clearRqerr (s : State) (core : Nat) : State := s.modCore core fun c => { c with rqerr := 0 }

/-- Change a line of a domain's board. -/
def Board.modLine (b : Board) (n : Nat) (f : BellLine → BellLine) : Board := { b with lines := Kv.put b.lines n (f ((Kv.get? b.lines n).getD {})) }

/-- A generator value as RNG stores it (R103). -/
def rngStored (v : Nat) : Word := if v % 2 ^ 32 = 0 then 1 else word v

/-- Writing a per-lane register of a lane (R102, R103). -/
def writeLaneReg (g : Gang) (k l v : Nat) : Gang :=
  if k = 0x045 then { g with rngs := Sp.set g.rngs l (rngStored v) }
  else { g with preds := (List.range 7).foldl (fun m n =>
      let old := Sp.get m n
      Sp.set m n (if v.testBit n then old ||| (1#32 <<< l) else old &&& ~~~ (1#32 <<< l))) g.preds }

/-- What WRS of a checked value does to a G, P, C or M register. -/
def writeState (s : State) (p : Party) (k v : Nat) : State :=
  let onG (f : Gang → Gang) : State := s.modGang p.core p.slot f
  if 0x018 ≤ k ∧ k < 0x040 then jsentry s p k v
  else match k with
  | 0x000 => onG fun g => { g with gmode := BitVec.ofNat 15 v }
  | 0x001 => onG fun g => { g with routes := BitVec.ofNat 24 v }
  | 0x002 => onG fun g => { g with lit := word v }
  | 0x003 => onG fun g => { g with rep := word v, repLead := p.lead }
  | 0x008 => writeMark s p k v
  | 0x00A => writeMark s p k v
  | 0x00C => writeMark s p k v
  | 0x010 => jsdepth s p v
  | 0x046 => onG fun g => { g with yarr := word v }
  | 0x088 => writeHalt s p.core v
  | 0x0C2 => clearRqerr s p.core
  | 0x106 => onG fun g => { g with tsel := word v }
  | 0x180 => onG fun g => { g with kv := { g.kv with rm := word v } }
  | 0x188 => onG fun g => { g with blsel := word v }
  | 0x189 =>
    let d := (s.coreAt p.core).domain
    { s with boards := Kv.put s.boards d ((s.boardAt d).modLine p.g.blsel.toNat fun l => { l with mode := BitVec.ofNat 2 v, wake := v.testBit 2 }) }
  | 0x18E => onG fun g => { g with bs := { g.bs with pc := addr64 v } }
  | 0x190 => onG fun g => { g with bs := { g.bs with mode := BitVec.ofNat 15 v } }
  | 0x191 => onG fun g => { g with bs := { g.bs with rep := word v } }
  | 0x192 => onG fun g => { g with bs := { g.bs with route := BitVec.ofNat 24 v } }
  | 0x400 => onG fun g => { g with xr := { g.xr with xpc := addr64 v } }
  | 0x402 => onG fun g => { g with xr := { g.xr with xcode := BitVec.ofNat 8 v } }
  | 0x403 => onG fun g => { g with xr := { g.xr with xinfo := word v } }
  | 0x404 => onG fun g => { g with xr := { g.xr with xrep := word v } }
  | 0x405 => onG fun g => { g with xr := { g.xr with xmode := BitVec.ofNat 15 v } }
  | 0x406 => onG fun g => { g with xr := { g.xr with xroute := BitVec.ofNat 24 v } }
  | _ => s

/-- WRS of a per-lane register: every executing lane's value (R102). -/
def writeLanes (s : State) (p : Party) (a : Reg) (k : Nat) : State :=
  s.modGang p.core p.slot fun g => (lanesOf p.executing).foldl (fun g l => writeLaneReg g k l (s.regValue p a 1 l)) g

/-- The ILLEGAL causes of the values that a WRS would write: in every executing lane, helpers included, or once. -/
def wrsCauses (s : State) (a : Reg) (k : BitVec 11) (p : Party) : List Nat :=
  if laneReg k then (lanesOf p.executing).flatMap fun l => writeCauses k.toNat (s.regValue p a 1 l)
  else if p.once then writeCauses k.toNat (s.uniform p a (if wideReg k then 2 else 1)) else []

/-- WRS (R102, R103). A write that arms REPST makes the next word of the writing party the target (log entry 93). -/
def execWrs (a : Reg) (k : BitVec 11) (s : State) : Result :=
  s.issueChecked (.wrs a k) (wrsCauses s a k) fun p =>
    if laneReg k then (writeLanes s p a k.toNat).advance p
    else if !p.once then s.advance p
    else
      let v := s.uniform p a (if wideReg k then 2 else 1)
      if k.toNat = 0x003 then writeState (s.goto p (succPc p.pc)) p k.toNat v
      else (writeState s p k.toNat v).advance p

/-- JSDEPTH_WRITE (R104): the executing party's write of JSDEPTH. -/
def execJsdepthWrite (v : Word) (s : State) : Result :=
  match s.party? with
  | none => .fault .noParty
  | some p => if 8 < v.toNat then .next (s.illegal p (.wrs 0x7F 0x010) 2) else .next (jsdepth s p v.toNat)

/-- JOIN_STACK_ENTRY_WRITE (R104): the executing party's write of JSKIND, JSPC, JSA or JSB. -/
def execJoinStackEntryWrite (k : BitVec 11) (v : Addr) (s : State) : Result :=
  match s.party? with
  | none => .fault .noParty
  | some p =>
    if k.toNat < 0x018 ∨ 0x040 ≤ k.toNat then .next s
    else match lowest (writeCauses k.toNat v.toNat) with
      | some c => .next (s.illegal p (.wrs 0x7F k) c)
      | none => .next (jsentry s p k.toNat v.toNat)

/-- MARK_REGISTER_WRITE (R104, R460): the executing party's write of MARKPC, RECIPE or MARKV. -/
def execMarkRegisterWrite (k : BitVec 11) (v : Addr) (s : State) : Result :=
  match s.party? with
  | none => .fault .noParty
  | some p =>
    if k.toNat ≠ 0x008 ∧ k.toNat ≠ 0x00A ∧ k.toNat ≠ 0x00C then .next s
    else match lowest (writeCauses k.toNat v.toNat) with
      | some c => .next (s.illegal p (.wrs 0x7F k) c)
      | none => .next (writeMark s p k.toNat v.toNat)

/-- RNG_WRITE (R103): the executing party's write of its lanes' generators. -/
def execRngWrite (a : Reg) (s : State) : Result :=
  match s.party? with
  | none => .fault .noParty
  | some p => .next (writeLanes s p a 0x045)

/-- HALT_WRITE (R177). -/
def execHaltWrite (core : Nat) (v : Word) (s : State) : Result := .next (writeHalt s core v.toNat)

/-- RQERR_WRITE (R208): for the core of the executing party. -/
def execRqerrWrite (v : Word) (s : State) : Result :=
  match s.party? with
  | none => .fault .noParty
  | some p => if v = 0 then .next (clearRqerr s p.core) else .next (s.illegal p (.wrs 0x7F 0x0C2) 2)

/-! ### Privileged state -/

/-- The slice that L2SEL names, on the core's die. -/
def Core.selSlice (c : Core) (core : Nat) : Nat := dieOf core * 4096 + fld c.l2sel.toNat 11 0
def Core.selClass (c : Core) : Nat := fld c.l2sel.toNat 15 12

def State.sliceAt (s : State) (k : Nat) : Slice := (Kv.get? s.slices k).getD {}

/-- The class of a function (R275). -/
def State.classOfFunction (s : State) (f : Nat) : Nat := (Kv.get? s.classOf f).getD 0

def State.poolAt (s : State) (t : Nat) : Pool := s.pools.getD t {}

/-- READY (R427) is the ready map; CLUMAP as it stands. -/
def rightsAt (s : State) (n : Nat) : Rights := (Kv.get? s.rights n).getD {}

/-- The regions that have an entry in a ticket directory. -/
def State.dirCount (s : State) : Nat := (s.tickets.filter fun t => t.writer.isSome || !t.readers.isEmpty).length

/-- The value of a privileged register (R269, R280, R357, R390, R415, R436, R454). -/
def privValue (s : State) (p : Party) (k : Nat) : Nat :=
  let g := p.g
  let c := s.coreAt p.core
  let sl := s.sliceAt (c.selSlice p.core)
  let cls := c.selClass
  let wc := s.classes.getD cls {}
  let dom := s.domainAt ((s.blockAt g.blk).elim c.domain (·.domain))
  let fsel := fld c.kvfsel.toNat 6 0
  let tier := fld c.kvfsel.toNat 9 8
  let f := s.funcAt fsel
  let own := s.funcAt c.function
  let port := s.ports.getD (c.fpsel.toNat) {}
  let pr := s.pr
  match k with
  | 0x060 => c.port.fill
  | 0x061 => c.port.cap
  | 0x062 => c.port.level
  | 0x063 => Nat.min (2 ^ 32 - 1) c.port.wait
  | 0x068 => c.l2sel.toNat
  | 0x069 => (sl.lines.filter (·.cls == cls)).length + 2 ^ 16 * sl.lines.length
  | 0x06A => (Sp.get sl.fill cls).toNat
  | 0x06B => (Sp.get sl.hit cls).toNat
  | 0x06C => (Sp.get sl.hitx cls).toNat
  | 0x06D => wc.mask.toNat + 2 ^ 16 * (wc.lease / 256)
  | 0x06E => s.classOfFunction c.function
  | 0x070 => dom.trapvec.toNat
  | 0x072 => dom.restvec.toNat
  | 0x074 => g.xr.ctxptr.toNat
  | 0x076 => g.xr.sscr0.toNat
  | 0x077 => g.xr.sscr1.toNat
  | 0x078 => g.xr.sscr2.toNat
  | 0x079 => g.xr.sscr3.toNat
  | 0x07A =>
    let saving := ((s.gangsOf g.blk).filter fun q => q.2.2.pre.saving == 1 || q.2.2.pre.pending).length
    bnat g.super + 2 * bnat g.pre.pending + 4 * bnat g.pre.leader + 8 * bnat g.pre.restoring + 2 ^ 8 * saving
  | 0x07B => (s.blockAt g.blk).elim 0 fun b => 64 + 16 * b.ngates + 8320 * (if b.pair then 2 else 1)
  | 0x080 => g.xr.xva.toNat
  | 0x082 => pr.devnum.toNat
  | 0x083 => c.grsel.toNat
  | 0x084 => ((Kv.get? s.graticule c.grsel.toNat).getD 0).toNat
  | 0x086 => pr.hcmdq.toNat
  | 0x088 => pr.hfltq.toNat
  | 0x08A => pr.hsup.toNat
  | 0x08B => own.share + 2 ^ 16 * own.eff + 2 ^ 27 * bnat own.halved
  | 0x08C => pr.hostwin.toNat
  | 0x08E => pr.hflips.toNat
  | 0x090 => c.kvfsel.toNat
  | 0x091 => f.kvmode.toNat
  | 0x092 => f.kvbell.toNat
  | 0x093 => f.kvkey.toNat
  | 0x094 => f.stab.toNat
  | 0x096 => f.scnt.toNat
  | 0x097 => (Sp.get f.q tier).toNat
  | 0x098 => (Sp.get f.b tier).toNat
  | 0x099 => (Sp.get f.u tier).toNat
  | 0x09A => f.res.toNat
  | 0x09C => (s.poolAt tier).reg.toNat
  | 0x09E => (s.poolAt tier).stk.toNat
  | 0x0A0 => (s.poolAt tier).free.toNat
  | 0x0A1 => (s.poolAt tier).low.toNat
  | 0x0A2 => c.brsel.toNat
  | 0x0A4 => (rightsAt s c.brsel.toNat).lo.toNat
  | 0x0A6 => (rightsAt s c.brsel.toNat).hi.toNat
  | 0x0A8 => (s.domainAt (c.brsel.toNat % 256)).board.toNat
  | 0x0AA => pr.wakeq.toNat
  | 0x0AC => pr.brtotal.toNat
  | 0x0B0 => pr.jrnlq.toNat
  | 0x0B2 => pr.jrnltail.toNat
  | 0x0B3 => pr.jrnlack.toNat
  | 0x0B4 => pr.ready.toNat
  | 0x0B6 => pr.errq.toNat
  | 0x0B8 => pr.clumap.toNat
  | 0x0B9 => pr.pwrcap.toNat
  | 0x0BA => (Config.measuredPower s.now).toNat + 2 ^ 16 * pr.throttle.toNat + 2 ^ 20 * bnat pr.powerLimited + 2 ^ 21 * bnat pr.thermalLimited
  | 0x0C0 => c.fpsel.toNat
  | 0x0C1 => port.lanes + 8 * bnat port.up + 16 * port.neighbour
  | 0x0C2 => port.retry.toNat
  | 0x0C3 => pr.fabtmo.toNat
  | 0x0C4 => pr.tkquiet.toNat
  | 0x0C5 => (s.heldTickets.filter (!·.write)).length + 2 ^ 16 * (s.heldTickets.filter (·.write)).length
  | 0x0C6 => Nat.min 8191 s.dirCount
  | _ => 0

/-- RDP (R99): a variable-latency read. -/
def execRdp (d : Reg) (k : BitVec 11) (s : State) : Result :=
  s.issue (.rdp d k) fun p =>
    (s.variableResult p (p.uniformWrites d (if widePriv k then 2 else 1) (privValue s p k.toNat))).advance p

/-- Reserved bits of a ring register such as HCMDQ. -/
def ringCauses (v : Nat) : List Nat := res v 11 4

/-- The ILLEGAL causes of a value written to privileged state (R99, R103, R269, R280, R390, R454). -/
def privCauses (k v : Nat) : List Nat :=
  match k with
  | 0x061 => res v 31 16 ++ when (v == 0) 2
  | 0x068 => res v 31 16
  | 0x06A => when (v != 0) 2
  | 0x06B => when (v != 0) 2
  | 0x06C => when (v != 0) 2
  | 0x070 => res v 1 1
  | 0x072 => res v 1 1
  | 0x074 => res v 9 0
  | 0x083 => res v 31 12
  | 0x090 => res v 31 10 ++ res v 7 7
  | 0x091 => res v 30 21
  | 0x092 => res v 31 21
  | 0x093 => res v 31 8
  | 0x094 => res v 5 0
  | 0x096 => res v 31 20
  | 0x09A => ringCauses v
  | 0x09C => res v 15 3
  | 0x09E => res v 1 0
  | 0x0A2 => res v 31 8
  | 0x0A4 => res v 31 28 ++ res v 63 48
  | 0x0A8 => res v 9 1
  | 0x0AA => ringCauses v
  | 0x0B9 => res v 31 12
  | 0x0C0 => res v 31 6
  | 0x0C3 => res v 31 24
  | 0x0C4 => res v 31 16
  | _ => []

/-- Registers whose writes from a virtual function trap SYSDENY (R415, R436, R454). -/
def physicalOnly (k : Nat) : Bool := decide (0x090 ≤ k)

/-- A value out of its field's range traps SYSARG with cause 1 (R415, R436, R454). -/
def privRange (s : State) (p : Party) (k v : Nat) : Bool :=
  let c := s.coreAt p.core
  let f := s.funcAt (fld c.kvfsel.toNat 6 0)
  let tier := fld c.kvfsel.toNat 9 8
  match k with
  | 0x090 => decide (fld v 6 0 ≤ 64) && decide (fld v 9 8 ≤ 2)
  | 0x091 => fld v 20 1 != 0
  | 0x098 => decide ((Sp.get f.q tier).toNat ≤ v)
  | 0x09A => decide (4 ≤ fld v 3 0) && decide (fld v 3 0 ≤ 12)
  | 0x09C => decide (fld v 2 0 ≤ 4)
  | 0x0AA => decide (4 ≤ fld v 3 0) && decide (fld v 3 0 ≤ 12)
  | 0x0B9 => decide (1600 ≤ v) && decide (v ≤ 3200)
  | 0x0C0 => decide (v < 36)
  | 0x0C3 => v != 0
  | 0x0C4 => v != 0
  | _ => true

/-- PORTCAP (R269): the depth; the level comes down to it. -/
def writePortcap (s : State) (core v : Nat) : State :=
  s.modCore core fun c => { c with port := { c.port with cap := v, level := Nat.min c.port.level v } }

/-- The counters that L2FILL, L2HIT and L2HITX name are cleared (R280). -/
def clearL2 (s : State) (core k : Nat) : State :=
  let c := s.coreAt core
  let sl := s.sliceAt (c.selSlice core)
  let cls := c.selClass
  let sl := match k with
    | 0x06A => { sl with fill := Sp.set sl.fill cls 0 }
    | 0x06B => { sl with hit := Sp.set sl.hit cls 0 }
    | _ => { sl with hitx := Sp.set sl.hitx cls 0 }
  { s with slices := Kv.put s.slices (c.selSlice core) sl }

/-- KVPFREE (R415): the free count of the selected pool. -/
def writeKvpfree (s : State) (tier v : Nat) : State := { s with pools := setAt s.pools tier fun q => { q with free := word v } }

/-- What WRP of a checked value does. -/
def writePriv (s : State) (p : Party) (k v : Nat) : State :=
  let c := s.coreAt p.core
  let onG (f : Gang → Gang) : State := s.modGang p.core p.slot f
  let onC (f : Core → Core) : State := s.modCore p.core f
  let d := (s.blockAt p.g.blk).elim c.domain (·.domain)
  let onD (f : Domain → Domain) : State := { s with domains := Kv.put s.domains d (f (s.domainAt d)) }
  let fn := fld c.kvfsel.toNat 6 0
  let tier := fld c.kvfsel.toNat 9 8
  let onF (f : Func → Func) : State := { s with funcs := Kv.put s.funcs fn (f (s.funcAt fn)) }
  let onP (f : Pool → Pool) : State := { s with pools := setAt s.pools tier f }
  let onR (f : Rights → Rights) : State := { s with rights := Kv.put s.rights c.brsel.toNat (f (rightsAt s c.brsel.toNat)) }
  match k with
  | 0x061 => writePortcap s p.core v
  | 0x068 => onC fun c => { c with l2sel := word v }
  | 0x06A => clearL2 s p.core k
  | 0x06B => clearL2 s p.core k
  | 0x06C => clearL2 s p.core k
  | 0x070 => onD fun d => { d with trapvec := addr64 v }
  | 0x072 => onD fun d => { d with restvec := addr64 v }
  | 0x074 => onG fun g => { g with xr := { g.xr with ctxptr := addr64 v } }
  | 0x076 => onG fun g => { g with xr := { g.xr with sscr0 := word v } }
  | 0x077 => onG fun g => { g with xr := { g.xr with sscr1 := word v } }
  | 0x078 => onG fun g => { g with xr := { g.xr with sscr2 := word v } }
  | 0x079 => onG fun g => { g with xr := { g.xr with sscr3 := word v } }
  | 0x080 => onG fun g => { g with xr := { g.xr with xva := addr64 v } }
  | 0x083 => onC fun c => { c with grsel := word v }
  | 0x090 => onC fun c => { c with kvfsel := word v }
  | 0x091 => onF fun f => { f with kvmode := word v }
  | 0x092 => onF fun f => { f with kvbell := word v }
  | 0x093 => onF fun f => { f with kvkey := word v }
  | 0x094 => onF fun f => { f with stab := addr64 v }
  | 0x096 => onF fun f => { f with scnt := word v }
  | 0x097 => onF fun f => { f with q := Sp.set f.q tier (word v) }
  | 0x098 => onF fun f => { f with b := Sp.set f.b tier (word v) }
  | 0x09A => onF fun f => { f with res := addr64 v }
  | 0x09C => onP fun q => { q with reg := addr64 v }
  | 0x09E => onP fun q => { q with stk := addr64 v }
  | 0x0A0 => writeKvpfree s tier v
  | 0x0A1 => onP fun q => { q with low := word v }
  | 0x0A2 => onC fun c => { c with brsel := word v }
  | 0x0A4 => onR fun r => { r with lo := addr64 v }
  | 0x0A6 => onR fun r => { r with hi := addr64 v }
  | 0x0A8 =>
    let t := c.brsel.toNat % 256
    { s with domains := Kv.put s.domains t { s.domainAt t with board := addr64 v }
             boards := if v % 2 = 1 then Kv.put s.boards t {} else Kv.del s.boards t }
  | 0x0AA => { s with pr := { s.pr with wakeq := addr64 v } }
  | 0x0B9 => { s with pr := { s.pr with pwrcap := word v } }
  | 0x0C0 => onC fun c => { c with fpsel := word v }
  | 0x0C3 => { s with pr := { s.pr with fabtmo := word v } }
  | 0x0C4 => { s with pr := { s.pr with tkquiet := word v } }
  | _ => s

/-- PORTCAP_WRITE (R269): for the core of the executing party. -/
def execPortcapWrite (v : Word) (s : State) : Result :=
  match s.party? with
  | none => .fault .noParty
  | some p => match lowest (privCauses 0x061 v.toNat) with
    | some c => .next (s.illegal p (.wrp 0x7F 0x061) c)
    | none => .next (writePortcap s p.core v.toNat)

/-- L2_COUNTER_CLEAR (R280): for the slice and class that L2SEL of the executing party's core names. -/
def execL2CounterClear (k : BitVec 11) (v : Word) (s : State) : Result :=
  match s.party? with
  | none => .fault .noParty
  | some p =>
    if k.toNat < 0x06A ∨ 0x06C < k.toNat then .next s
    else if v = 0 then .next (clearL2 s p.core k.toNat) else .next (s.illegal p (.wrp 0x7F k) 2)

/-- KVPFREE_WRITE (R415): for the pool that KVFSEL of the executing party's core names. -/
def execKvpfreeWrite (v : Word) (s : State) : Result :=
  match s.party? with
  | none => .fault .noParty
  | some p => .next (writeKvpfree s (fld (s.coreAt p.core).kvfsel.toNat 9 8) v.toNat)

end Sys2Proof.Machine
end

