-- ==== Sys2Proof/Machine/Memory.lean ====
section
/-! DEFINITION. Global memory: routes and translation (R364 to R371), the bytes at the homes, second-level lines and first-level
copies (R273 to R286), the leat (R165 to R171, R255), rings in memory (R335, R377, R433), and the port bucket (R267). -/

namespace Sys2Proof.Machine

open Sys2Proof

/-! ### Addresses (R364, R366, R368) -/

def sheetOf (va : Nat) : Nat := fld va 63 52
def keyOf (va : Nat) : Nat := fld va 51 44
def offsetOf (va : Nat) : Nat := fld va 43 0

/-- An address without its key: the location (R163, R368). -/
def keyless (va : Nat) : Nat := sheetOf va * 2 ^ 52 + offsetOf va

/-- VA[63:7]. -/
def lineOf (va : Nat) : Nat := fld va 63 7

/-- Sheets 0xFFF and 0xFFE never reach a home. -/
def chipSheet (va : Nat) : Bool := decide (0xFFE ≤ sheetOf va)

/-- The home of an address within its package (R368). -/
def homeOf (va : Nat) : Nat :=
  fld va 17 12 ^^^ fld va 23 18 ^^^ fld va 29 24 ^^^ fld va 35 30 ^^^ fld va 41 36 ^^^ fld va 43 42

/-- The device that homes an address by the graticule; none when its sheet has no valid entry (R366). -/
def State.deviceOf (s : State) (va : Nat) : Option Nat :=
  let e := ((Kv.get? s.graticule (sheetOf va)).getD 0).toNat
  if fld e 63 63 = 0 then none
  else match fld e 62 61 with
    | 0 => some s.pr.devnum.toNat
    | 1 => some (fld e 19 0)
    | _ => some (fld e 19 0 + (offsetOf va >>> fld e 55 50) % 2 ^ fld e 60 56)

/-- Whether this package homes an address. -/
def State.homedHere (s : State) (va : Nat) : Bool := s.deviceOf va == some s.pr.devnum.toNat

/-! ### Pages (R369, R370) -/

/-- Bytes of a page by size code. -/
def pageBytes (size : Nat) : Nat := match size with | 0 => 2 ^ 16 | 1 => 2 ^ 21 | _ => 2 ^ 30

def Page.has (p : Page) (va : Nat) : Bool := decide (p.va ≤ keyless va) && decide (keyless va < p.va + pageBytes p.size)

/-- The page that maps an address. -/
def State.pageOf (s : State) (va : Nat) : Option Page := s.pages.find? (·.has va)

def State.modPage (s : State) (va : Nat) (f : Page → Page) : State := { s with pages := replaceFirst (·.has va) f s.pages }

def Page.present (p : Page) : Bool := p.attr.getLsbD 0
def Page.wr (p : Page) : Bool := p.attr.getLsbD 1
def Page.atomics (p : Page) : Bool := p.attr.getLsbD 2
def Page.treat (p : Page) : Nat := fld p.attr.toNat 6 5
def Page.hostBias (p : Page) : Bool := p.attr.getLsbD 7
def Page.tier (p : Page) : Nat := fld p.attr.toNat 9 8
def Page.key (p : Page) : Nat := fld p.attr.toNat 23 16
def Page.tenant (p : Page) : Nat := fld p.attr.toNat 39 24

/-- Where a byte of a page lies: in host memory, or in a home's DRAM, with its key there (R369). -/
def Page.place (p : Page) (va : Nat) : Bool × Nat :=
  let off := keyless va - p.va
  if p.tier = 2 then (true, p.frame + off) else (false, homeOf va * 2 ^ 48 + p.frame + off / 2 ^ 18 * 4096 + off % 4096)

/-- The place of a line, where its poison is kept (R380). -/
def Page.poisonKey (p : Page) (va : Nat) : Nat := let l := p.place (va / 128 * 128); (if l.1 then 2 ^ 62 else 0) + l.2

def State.setPoison (s : State) (va : Nat) : State :=
  match s.pageOf va with
  | none => s
  | some p => if s.poison.contains (p.poisonKey va) then s else { s with poison := s.poison ++ [p.poisonKey va] }

def State.clearPoison (s : State) (va : Nat) : State :=
  match s.pageOf va with
  | none => s
  | some p => { s with poison := s.poison.filter (· != p.poisonKey va) }

/-- A byte at its home; of another package's memory it is free (log entry 1), and so it is where no page maps it (log entries 7, 18). -/
def State.homeByte (s : State) (va : Nat) : Byte :=
  if !s.homedHere va then Config.remoteByte s.fresh va
  else match s.pageOf va with
  | none => Config.unmappedByte va
  | some p => let l := p.place va; if l.1 then Sp.get s.hostMem l.2 else Sp.get s.dram l.2

def State.setHomeByte (s : State) (va : Nat) (b : Byte) : State :=
  match s.pageOf va with
  | none => s
  | some p =>
    let l := p.place va
    if l.1 then { s with hostMem := Sp.set s.hostMem l.2 b } else { s with dram := Sp.set s.dram l.2 b }

def State.setHomeBytes (s : State) (va : Nat) (bs : List Byte) : State := (bs.zipIdx).foldl (fun s p => s.setHomeByte (va + p.2) p.1) s

/-- The 128 bytes of a line at its home. -/
def State.homeLine (s : State) (line : Nat) : Cells := putBytes [] 0 ((List.range 128).map fun k => s.homeByte (line * 128 + k))

/-! ### Second-level lines (R273) -/

def sliceNum (line : Nat) : Nat := line % 4096 ^^^ line / 4096 % 4096
def setNum (line : Nat) : Nat := line / 4096 % 64 ^^^ line / 2 ^ 24 % 64

def sliceKey (die line : Nat) : Nat := die * 4096 + sliceNum line

def State.lineIn (s : State) (die line : Nat) : Option L2Line := (s.sliceAt (sliceKey die line)).lines.find? (·.line == line)

def State.modSlice (s : State) (die line : Nat) (f : Slice → Slice) : State :=
  { s with slices := Kv.put s.slices (sliceKey die line) (f (s.sliceAt (sliceKey die line))) }

def State.modLine (s : State) (die line : Nat) (f : L2Line → L2Line) : State :=
  s.modSlice die line fun sl => { sl with lines := replaceFirst (·.line == line) f sl.lines }

/-! ### First-level copies -/

/-- A core's valid copy of a line (R167, R283). -/
def Core.copyOf (c : Core) (now line : Nat) : Option L1Line :=
  c.l1.find? fun l => l.line == line && (l.treat != 1 || decide (now < l.leaseEnd))

/-- A core that owns a line returns it with its bytes and keeps no copy (R292). -/
def State.recallOwner (s : State) (die line : Nat) : State :=
  match (s.lineIn die line).bind (·.coreOwner) with
  | none => s
  | some k =>
    let s := match (s.coreAt k).l1.find? (·.line == line) with
      | some l => s.modLine die line fun x => { x with data := l.raw, dirty := true, coreOwner := none }
      | none => s.modLine die line fun x => { x with coreOwner := none }
    s.modCore k fun c => { c with l1 := c.l1.filter (·.line != line) }

/-- A core's copy of a line goes; an owned one goes back to its slice first (R292). -/
def State.dropCopy (s : State) (core line : Nat) : State :=
  let s := if (s.lineIn (dieOf core) line).elim false fun x => x.coreOwner == some core then s.recallOwner (dieOf core) line else s
  s.modCore core fun c => { c with l1 := c.l1.filter (·.line != line) }

/-- Drop the copies of a line in some cores. -/
def State.dropCopies (s : State) (cores : List Nat) (line : Nat) : State := cores.foldl (fun s k => s.dropCopy k line) s

/-- A write that waited for invalidations has its last acknowledgement: this clock is its stamp (R281, R282, R289, R294). -/
def State.acked (s : State) (w : SliceWait) : State :=
  match w.what with
  | .leat q => s.later (.leatDrainAck w.core q s.now)
  | .pend slot id =>
    (s.modCore w.core fun c => { c with atoms := replaceFirst (·.id == id) (fun a => { a with stamp := Nat.max a.stamp s.now, waiting := a.waiting - 1 }) c.atoms }).at
      s.now (.sliceAtomic w.core slot id false)
  | .xfer work u =>
    if s.slices.any fun k => k.2.lines.any fun l => l.waits.any fun x => x.core == w.core && x.what == w.what then s
    else (s.modCore w.core fun c => { c with works := replaceFirst (·.id == work) (fun k =>
      { k with units := replaceFirst (·.id == u) (fun x => { x with st := .written s.now }) k.units }) c.works }).at s.now (.transferUnitLanding w.core work u)
  | .record _ => s

/-- Every core's copy of a tracked line goes and the writes that waited for their invalidations are acknowledged: before the line leaves the
slice, is granted to a core or is given up to the other die (R282, R286, R291). -/
def State.revokeLine (s : State) (die line : Nat) : State :=
  match s.lineIn die line with
  | none => s
  | some x =>
    let s := if x.treat = 0 then s.dropCopies (x.sharers ++ x.waits.flatMap (·.acks)) line else s
    let s := s.modLine die line fun y => { y with sharers := [], waits := [] }
    x.waits.foldl (fun s w => s.acked w) s

/-- A set keeps the largest lease horizon of the leased lines that have left it (R283). -/
def Slice.horizon (sl : Slice) (line : Nat) : Nat := (Kv.get? sl.evicted (setNum line)).getD 0
def Slice.keepHorizon (sl : Slice) (x : L2Line) : Slice :=
  if x.treat = 1 then { sl with evicted := Kv.put sl.evicted (setNum x.line) (Nat.max x.hz (sl.horizon x.line)) } else sl

/-- A die's second-level cache does not hold a line any more: its bit in the line's record is cleared (R381). -/
def State.memDrop (s : State) (die line : Nat) : State :=
  { s with memCache := s.memCache.map fun m => if m.line = line then { m with dies := m.dies &&& ~~~ (1#2 <<< die) } else m }

/-- A line leaves its slice: an owning core returns it, sharers are invalidated, dirty bytes go to the home, and the set keeps its
lease horizon (R276, R282, R283, R285). -/
def State.evictLine (s : State) (die line : Nat) : State :=
  let s := (s.recallOwner die line).revokeLine die line
  match s.lineIn die line with
  | none => s
  | some x =>
    let s := if x.dirty then s.setHomeBytes (line * 128) (lineBytes x.data 0 128) else s
    (s.memDrop die line).modSlice die line fun sl => { (sl.keepHorizon x) with lines := sl.lines.filter (·.line != line) }

/-- A line leaves its stack's memory-side cache, after the slices that its record names have dropped it (R381). -/
def State.memLeave (s : State) (m : MemLine) : State :=
  let drop (s : State) (die : Nat) : State := if m.dies.getLsbD die then s.evictLine die m.line else s
  let s := drop (drop s 0) 1
  { s with memCache := s.memCache.filter (·.line != m.line) }

/-- The set a line of the memory-side cache is in (R381: 64 MiB for four homes, 16 ways of 128 bytes): the line number within its home, or within
host memory, by its low bits (log entry 89). -/
def memSet (tag : Nat) : Nat := tag / 2 ^ 48 % 4 * 2 ^ 13 + tag / 128 % 2 ^ 13

/-- A die's slice takes a line that this package homes: its stack's memory-side cache holds the line and records the die (R381). In a full
set another line leaves first; R381 does not say which (log entry 89). -/
def State.memHold (s : State) (die line : Nat) : State :=
  if !s.homedHere (line * 128) then s
  else match s.pageOf (line * 128) with
  | none => s
  | some p =>
    let stack := homeOf (line * 128) / 4
    let tag := p.poisonKey (line * 128)
    let hold (s : State) : State :=
      { s with memCache := s.memCache.map fun m => if m.line = line then { m with dies := m.dies ||| (1#2 <<< die) } else m }
    if s.memCache.any (·.line == line) then hold s
    else
      let set := s.memCache.filter fun m => m.stack == stack && memSet m.tag == memSet tag
      let s := if set.length < 16 then s
        else match set[Config.memSideVictim s.fresh % 16]? with
          | some m => (s.memLeave m).bump
          | none => s
      hold { s with memCache := s.memCache ++ [⟨stack, line, tag, 0⟩] }

/-- Every copy of a line leaves both levels, its newest bytes at the home. -/
def State.flushLine (s : State) (line : Nat) : State :=
  let s := (s.evictLine 0 line).evictLine 1 line
  s.dropCopies (s.cores.map (·.1)) line

/-- The coherent value of a byte: an owning core's copy, a slice's line, or the home. -/
def State.globalByte (s : State) (va : Nat) : Byte :=
  let line := lineOf va
  let hit (die : Nat) : Option Byte := (s.lineIn die line).map fun x =>
    match x.coreOwner.bind fun k => (s.coreAt k).l1.find? (·.line == line) with
    | some l => Sp.get l.raw (va % 128)
    | none => Sp.get x.data (va % 128)
  match hit 0 with
  | some b => b
  | none => (hit 1).getD (s.homeByte va)

/-- What a device agent reads and writes: the coherent value; a write leaves no older copy anywhere (log entry 18). -/
def State.devRead (s : State) (va n : Nat) : List Byte := (List.range n).map fun k => s.globalByte (va + k)
def State.dev32 (s : State) (va : Nat) : Nat := ofBytes (s.devRead va 4)
def State.dev64 (s : State) (va : Nat) : Nat := ofBytes (s.devRead va 8)

/-- The lines that a range touches. -/
def linesOf (va n : Nat) : List Nat := if n = 0 then [] else (List.range (lineOf (va + n - 1) - lineOf va + 1)).map (lineOf va + ·)

/-- A party that waits for a counter is reached by its value. -/
def Quad.reached (s : State) (line : Nat) (q : Quad) : Bool :=
  q.present && !q.retired && (match q.park with | .ctrw va value (some false) _ => lineOf va == line && decide (value ≤ s.dev64 va) | _ => false)

/-- A location of a line has changed: the CTRWs whose counters have reached their values by this change resume, whatever follows (R327). -/
def State.counterChanged (s : State) (line : Nat) : State :=
  s.cores.foldl (fun t c => c.2.gangs.foldl (fun t g =>
    let hit := (List.range 8).filter fun k => (g.2.quad k).reached s line
    if hit.isEmpty then t
    else
      let t := t.modGang c.1 g.1 fun x => x.mapQuads fun k q =>
        match q.park with | .ctrw va v _ stay => if hit.contains k then { q with park := .ctrw va v (some true) stay } else q | _ => q
      hit.foldl (fun t k => t.at t.now (.ctrwWake c.1 g.1 (g.2.quad k).party.toNat)) t) t) s

def State.devWrite (s : State) (va : Nat) (bs : List Byte) : State :=
  let ls := linesOf va bs.length
  ls.foldl (fun s l => s.counterChanged l) ((ls.foldl (fun s l => s.flushLine l) s).setHomeBytes va bs)

def State.devWrite32 (s : State) (va v : Nat) : State := s.devWrite va (toBytes 4 v)
def State.devWrite64 (s : State) (va v : Nat) : State := s.devWrite va (toBytes 8 v)

/-- A word of the instruction stream: the coherent bytes at the PC (log entry 7). -/
def State.fetchWord (s : State) (pc : Addr) : Word := word (s.dev32 pc.toNat)

/-! ### What a home answers (R371, R427) -/

/-- A home's answer: 0 accepted, 1 NOTPRESENT, 2 TIERMOVE, 4 PROTECT, 5 POISON (R376). `remote` is the tenant tag of a remote
requester; `wide` says that the request writes the whole line. -/
def State.homeCheck (s : State) (access va : Nat) (write wide : Bool) (remote : Option Nat) (host : Bool) : Nat :=
  if !s.pr.ready.getLsbD (2 + homeOf va / 4) then 2
  else if !s.homedHere va then 2
  else match s.pageOf va with
    | none => if s.refuseMarks.any fun r => decide (r.1 ≤ keyless va) && decide (keyless va < r.1 + r.2) then 4 else 1
    | some p =>
      let drained := !host && (access == 1 || access == 4) && p.mov == some false
      if !p.present then 1
      else if p.mov.isSome && !drained then 2
      else if keyOf va ≠ p.key then 4
      else if !host && (remote.elim false fun t => p.tenant != 0xFFFF && p.tenant != t) then 4
      else if (write && !p.wr) || (access == 2 && (!p.wr || !p.atomics)) then 4
      else if s.poison.contains (p.poisonKey va) && !(write && wide) then 5
      else 0

/-- An accepted access marks the page accessed, and dirty when it writes (R370, R371). -/
def State.markPage (s : State) (va : Nat) (write : Bool) : State :=
  s.modPage va fun p =>
    let b := 1#64 <<< homeOf va
    { p with cHomes := p.cHomes ||| b, dHomes := if write then p.dHomes ||| b else p.dHomes }

/-! ### Rings in memory (R335, R377, R433) -/

/-- Records a ring register holds: base and log size (R390). -/
def ringBase (r : Addr) : Nat := fld r.toNat 63 12 * 4096
def ringSize (r : Addr) : Nat := 2 ^ fld r.toNat 3 0

/-- Append a record to the ring at a register, if it has room; none when it is full. -/
def State.appendRing (s : State) (r : Addr) (size : Nat) (rec' : List Byte) : Option State :=
  let base := ringBase r
  let tail := s.dev32 base
  let head := s.dev32 (base + 4)
  if ringSize r ≤ (tail + 2 ^ 32 - head) % 2 ^ 32 then none
  else some ((s.devWrite (base + 128 + size * (tail % ringSize r)) rec').devWrite32 base ((tail + 1) % 2 ^ 32))

/-- The bytes of some words. -/
def wordBytes (ws : List Nat) : List Byte := ws.flatMap (toBytes 4)

/-- A ring by a device agent (R406): no entry and no limit. -/
def State.deviceRing (s : State) (domain line v : Nat) : State :=
  s.later (.bellRingArrival ⟨0, 0, s.pr.devnum.toNat, domain, line, word v, none, s.fresh⟩)

/-- The fault bell or the error bell, coalesced within 256 clocks (R377, R433). -/
def State.supRing (s : State) (domain : Nat) (last : Option Nat) : State :=
  if last.elim true (fun t => decide (t + 256 ≤ s.now)) then s.deviceRing domain (fld s.pr.hsup.toNat 13 8) 0 else s

/-- Whether the coalesced bell rings now, as the clock of its last ring. -/
def ringClock (now : Nat) (last : Option Nat) : Option Nat := if last.elim true (fun t => decide (t + 256 ≤ now)) then some now else last

/-- The domain of the physical function for error reports: the one whose function is 0 (R433). -/
def State.physDomain (s : State) : Nat := ((s.domains.find? fun d => d.2.function == 0).map (·.1)).getD 0

/-- An error record (R433): kind and fields w3 to w7. With the ring full, the last record's count of dropped records grows. -/
def State.errorRecord (s : State) (kind : Nat) (fs : List Nat) : State :=
  if s.pr.errq = 0 then s
  else
    let ws := [kind, s.now % 2 ^ 32, s.now / 2 ^ 32 % 2 ^ 32] ++ (fs ++ [0, 0, 0, 0, 0]).take 5
    match s.appendRing s.pr.errq 32 (wordBytes ws) with
    | some s =>
      let last := s.pr.lastErrRing
      { (s.supRing s.physDomain last) with pr := { s.pr with lastErrRing := ringClock s.now last } }
    | none =>
      let tail := s.dev32 (ringBase s.pr.errq)
      let a := ringBase s.pr.errq + 128 + 32 * ((tail + 2 ^ 32 - 1) % ringSize s.pr.errq)
      let w := s.dev32 a
      s.devWrite32 a (w % 2 ^ 16 + Nat.min 65535 (w / 2 ^ 16 + 1) * 2 ^ 16)

/-- A line of a page becomes uncorrectable where it is stored, and firmware is told (R380, R433). -/
def State.poisonPlace (s : State) (p : Page) (va : Nat) : State :=
  let a := (p.place va).2 % 2 ^ 48
  State.errorRecord { s with poison := p.poisonKey va :: s.poison.filter (· != p.poisonKey va) } 2 [homeOf va / 4 + homeOf va * 16, a % 2 ^ 32, a / 2 ^ 32]

/-! ### The port (R267) -/

/-- The ready ports that the route table makes eligible for a device (R438). -/
def State.usablePorts (s : State) (dev : Nat) : List Nat :=
  ((s.pr.routes.filter (·.1 == dev)).map (·.2)).filter fun p => s.pr.ready.getLsbD (19 + p)

/-- The host link is up (R427): READY[18]. -/
def State.hostReady (s : State) : Bool := s.pr.ready.getLsbD 18

/-- A flow: the messages for one device that concern one 64 KiB region, VA[63:16] (R438). -/
def flowOf (dev va : Nat) : Nat := dev * 2 ^ 48 + fld va 63 16

/-- The port by which the next message of a flow leaves, none while it is held: the flow keeps its path while that is ready, and takes another, by a
hash of the region, once no message of the old path is still to be answered (R438; log entry 120). -/
def State.flowPort (s : State) (dev va : Nat) : Option Nat :=
  let ports := s.usablePorts dev
  let fresh := if ports = [] then none else ports[Config.pathHash (fld va 63 16) % ports.length]?
  match Kv.get? s.flows (flowOf dev va) with
  | none => fresh
  | some p =>
    if ports.contains p then some p
    else if s.fabric.any fun m => flowOf m.dev m.va == flowOf dev va && m.port.isSome then none
    else fresh

/-- A message leaves by a port, and its flow keeps to that. -/
def State.leavesBy (s : State) (m : FabMsg) (p : Nat) : State :=
  { s with fabric := replaceFirst (· == m) (fun x => { x with port := some p }) s.fabric, flows := Kv.put s.flows (flowOf m.dev m.va) p }

/-- A message of the same flow that left before is still to be answered (R438). -/
def State.flowBefore (s : State) (m : FabMsg) : Bool :=
  (s.fabric.takeWhile (· != m)).any fun x => flowOf x.dev x.va == flowOf m.dev m.va && x.port.isSome

/-- This package says something to another. -/
def State.tellDevice (s : State) (dev va : Nat) (say : FabSay) : State := { s with fabOut := s.fabOut ++ [⟨dev, va, say⟩] }

/-- A function has sent a request from a port in this period (R387). -/
def State.active (s : State) (f : Nat) : State :=
  if s.share.active.contains f then s else { s with share := { s.share with active := s.share.active ++ [f] } }

/-- Service of a home charged to a function (R388). -/
def State.charge (s : State) (home f n : Nat) : State :=
  let k := home * 128 + f
  { s with share := { s.share with charged := Kv.put s.share.charged k ((Kv.get? s.share.charged k).getD 0 + n) } }

/-- The queue entry that a request of a function gets at a home: a free one of those reserved for it, else one of the pool, if any is free (R388). -/
def State.entryFor (s : State) (home f : Nat) : Option Bool :=
  let at' := s.homeJobs.filter (·.home == home)
  let pool := 1024 - (s.funcs.map (·.2.share)).sum
  if (at'.filter fun j => j.function == f && j.entry == some true).length < (s.funcAt f).share then some true
  else if (at'.filter (·.entry == some false)).length < pool then some false
  else none

def State.serverAt (s : State) (home : Nat) : HomeServer := (Kv.get? s.homeServers home).getD {}

/-- A home begins to serve a charge in this clock, at 640 bytes per clock (R388). -/
def State.serves (s : State) (home f n : Nat) : State :=
  let x := s.serverAt home
  State.charge { s with homeServers := Kv.put s.homeServers home { x with free := Nat.max x.free (640 * s.now) + n } } home f n

/-- A home serves a request as it comes: no request waits there, and it has service left in this clock. -/
def State.homeOpen (s : State) (home : Nat) : Bool :=
  s.homeJobs.all (·.home != home) && decide ((s.serverAt home).free < 640 * (s.now + 1))

/-- A step's requests at homes, each with its charge, are served at once, or wait in the queues; the step goes on when all have been served (R388). -/
def State.atHomes (s : State) (e : Instr) (f : Nat) (jobs : List (Nat × Nat)) : State × Bool :=
  if s.served.contains e then ({ s with served := s.served.filter (· != e) }, true)
  else if s.homeJobs.any (·.ev == e) then (s, false)
  else
    let one (t : State × Bool) (j : Nat × Nat) : State × Bool :=
      if t.1.homeOpen j.1 then (t.1.serves j.1 f j.2, t.2)
      else ({ t.1 with homeJobs := t.1.homeJobs ++ [⟨j.1, f, j.2, e, t.1.entryFor j.1 f⟩] }, false)
    jobs.foldl one (s, true)

/-- The requests at a home's input take entries as they come free, the oldest first. -/
def State.takeEntries (s : State) (home : Nat) : State :=
  (List.range s.homeJobs.length).foldl (fun s k =>
    match s.homeJobs[k]? with
    | some j => if j.home = home ∧ j.entry = none then { s with homeJobs := setAt s.homeJobs k fun j => { j with entry := s.entryFor home j.function } } else s
    | none => s) s

/-- A queued request is served, and its step goes on when none of its requests waits any more. -/
def State.serveJob (s : State) (j : HomeJob) : State :=
  let s := State.serves { s with homeJobs := s.homeJobs.erase j } j.home j.function j.bytes
  let s := s.takeEntries j.home
  if s.homeJobs.any (·.ev == j.ev) then s else State.at { s with served := j.ev :: s.served } s.now j.ev

/-- The next of some functions in the rotation after one. -/
def nextTurn (fs : List Nat) (f : Nat) : Nat :=
  fs.foldl (fun m g => if (g + 127 - f) % 128 < (m + 127 - f) % 128 then g else m) (fs.headD f)

/-- The turn passes to the next function, which gets its quantum. -/
def State.passTurn (s : State) (home : Nat) (fs : List Nat) (x : HomeServer) : State :=
  let f := nextTurn fs x.turn
  let d := (Kv.get? x.deficit f).getD 0 + 4 * (s.funcAt f).share
  { s with homeServers := Kv.put s.homeServers home { x with turn := f, deficit := Kv.put x.deficit f d } }

/-- What is left of a function's deficit after a service: nothing when no other request of it waits. -/
def State.spend (s : State) (j : HomeJob) (x : HomeServer) : State :=
  let more := (s.homeJobs.filter fun i => i.home == j.home && i.function == j.function).length != 1
  let left := if more then (Kv.get? x.deficit j.function).getD 0 - j.bytes else 0
  { s with homeServers := Kv.put s.homeServers j.home { x with deficit := Kv.put x.deficit j.function left } }

/-- A home's service in a clock: deficit round robin over the functions with a share and a quantum of 4·s(f) bytes, and the others only while no such
function has a request queued, the oldest request first and one at the home's input too, since a share of 0 reserves no entry and the pool may be
empty (R388; log entry 87). -/
def serveHome (home : Nat) : Nat → State → State
  | 0, s => s
  | n + 1, s =>
    let x := s.serverAt home
    let q := s.homeJobs.filter fun j => j.home == home && j.entry.isSome
    if 640 * (s.now + 1) ≤ x.free then s
    else match ((q.map (·.function)).filter fun f => (s.funcAt f).share != 0).dedup with
      | [] => (s.homeJobs.find? (·.home == home)).elim s fun j => serveHome home n (s.serveJob j)
      | fs =>
        match q.find? (·.function == x.turn) with
        | some j =>
          if fs.contains x.turn && decide (j.bytes ≤ (Kv.get? x.deficit x.turn).getD 0) then serveHome home n ((s.spend j x).serveJob j)
          else serveHome home n (s.passTurn home fs x)
        | none => serveHome home n (s.passTurn home fs x)

/-- The homes' service in a clock, and what waits there (R388, R389). -/
def State.homesServe (s : State) : State :=
  if s.homeJobs.isEmpty then s
  else
    let keys := (s.homeJobs.map fun j => j.home * 128 + j.function).dedup
    let waited := keys.foldl (fun w k => Kv.put w k ((Kv.get? w k).getD 0 + 1)) s.share.waited
    let s : State := { s with share := { s.share with waited := waited } }
    ((s.homeJobs.map (·.home)).dedup).foldl (fun s h => serveHome h 100000 (s.takeEntries h)) s

/-- A request waits at the core's port with its cost. -/
def State.toPort (s : State) (core cost : Nat) (e : Instr) : State :=
  let s := s.active (s.coreAt core).function
  let idle := (s.coreAt core).port.queue.isEmpty
  let s := s.modCore core fun c => { c with port := { c.port with queue := c.port.queue ++ [(cost, e)] } }
  if idle then s.at s.now (.portRequestDepart core) else s

def State.modPend (s : State) (core slot id : Nat) (f : Pend → Pend) : State :=
  s.modGang core slot fun g => { g with pend := replaceFirst (·.id == id) f g.pend }

def State.pendAt (s : State) (core slot id : Nat) : Option Pend := (s.gangAt core slot).bind fun g => g.pend.find? (·.id == id)

/-- A read of a counter and a probe of a KVX keep their request; a load, a fill or an atomic starts again at its slice. -/
def State.keepsRequest (s : State) (core : Nat) (r : HomeReq) : Bool :=
  r.access == 5 || (match r.asker with
    | .core _ (.pend slot id) => (s.pendAt core slot id).elim false fun d => match d.body with | .kvx .. => true | _ => false
    | _ => false)

/-- A request of a core for a home takes its turn at the port (R267, R268, R379). -/
def State.portHome (s : State) (core cost : Nat) (what : Parked) (r : HomeReq) : State := s.toPort core cost (.homeRequest { r with asker := .port core what })

/-- What a timed step that leaves the port is at the slices: the request and the lines it is for (R275). -/
def State.requestOf (s : State) (core : Nat) (e : Instr) : List (Parked × Nat) :=
  match e with
  | .sliceFill _ slot id line _ => [(.pend slot id, line)]
  | .sliceEntryApply _ q => [(.leat q, (((s.coreAt core).leat.find? (·.seq == q)).elim 0 (·.line)))]
  | .sliceAtomic _ slot id _ =>
    (((s.coreAt core).atoms.find? (·.id == id)).elim [] fun a => ((a.lanes.filter fun l => l.old.isNone && l.refused.isNone).map fun l => lineOf l.addr).dedup).map
      fun l => (.pend slot id, l)
  | .transferUnitLanding _ w u => [(.xfer w u, 0)]
  | .homeRequest r => match r.asker with
    | .port k (.pend slot id) => if s.keepsRequest k { r with asker := .core k (.pend slot id) } then [] else [(.pend slot id, lineOf r.va)]
    | _ => []
  | _ => []

def SliceReq.is (r : SliceReq) (core : Nat) (what : Parked) (line : Nat) : Bool := r.core == core && r.what == what && r.line == line

/-- A request is at the slices no more: it is parked in its core. -/
def State.requestBack (s : State) (core : Nat) (what : Parked) (line : Nat) : State :=
  { s with sliceReqs := s.sliceReqs.filter fun r => !r.is core what line }

/-- A request to the slices has ended. -/
def State.requestGone (s : State) (core : Nat) (what : Parked) (line : Nat) : State :=
  (s.requestBack core what line).modCore core fun c => { c with counted := c.counted.filter fun x => !(x.1 == what && (x.2 == line || line == 0)) }

/-- A request leaves its core with the class of the core's function (R275). -/
def State.requestLeaves (s : State) (core : Nat) (e : Instr) : State :=
  let cls := s.classOfFunction (s.coreAt core).function
  (s.requestOf core e).foldl (fun s r =>
    { (s.requestBack core r.1 r.2) with sliceReqs := (s.requestBack core r.1 r.2).sliceReqs ++ [⟨core, r.1, r.2, cls, .onWay⟩] }) s

/-- A release mark, which the port queue holds under the name of its drain, leaves its ring as it passes the port (R165). -/
def State.markLeaves (s : State) (core : Nat) (e : Instr) : State :=
  match e with
  | .leatDrainAck _ q _ =>
    if (s.coreAt core).leat.any fun x => x.seq == q && x.relm.isSome then
      (s.modCore core fun c => { c with leat := c.leat.filter (·.seq != q) }).drain core
    else s
  | _ => s

/-- Requests leave in order while the level covers their cost. -/
def departAll (fuel : Nat) (s : State) (core : Nat) : State :=
  match fuel with
  | 0 => s
  | n + 1 =>
    let q := (s.coreAt core).port
    match q.queue with
    | (cost, e) :: rest =>
      if cost ≤ q.level then
        let s := s.modCore core fun c => { c with port := { c.port with level := q.level - cost, queue := rest } }
        departAll n ((((s.active (s.coreAt core).function).requestLeaves core e).markLeaves core e).later e) core
      else s
    | [] => s

/-- PORT_REQUEST_DEPART (R267): what still waits is looked at again in the next clock, and PORTWAIT counts the wait. -/
def execPortRequestDepart (core : Nat) (s : State) : Result :=
  let s := departAll (s.coreAt core).port.queue.length s core
  if (s.coreAt core).port.queue.isEmpty then .next s
  else .next ((s.modCore core fun c => { c with port := { c.port with wait := Nat.min (2 ^ 32 - 1) (c.port.wait + 1) } }).at
    (s.now + 1) (.portRequestDepart core))

/-- PORT_BUCKET_REFILL (R267). -/
def execPortBucketRefill (core : Nat) (s : State) : Result :=
  .next (s.modCore core fun c => { c with port := { c.port with level := Nat.min c.port.cap (c.port.level + c.port.fill) } })

/-! ### The leat (R165 to R171) -/

/-- The newest byte of a location in the leat (R167). -/
def Core.leatByte (c : Core) (va : Nat) : Option Byte :=
  ((c.leat.filter fun e => e.relm.isNone && e.line == lineOf va).reverse.findSome? fun e => (e.bytes.find? (·.1 == va % 128)).map (·.2))

/-- A byte as the core's own view holds it, when no fill is needed (R167). -/
def Core.viewByte (c : Core) (now va : Nat) : Option Byte :=
  match c.leatByte va with
  | some b => some b
  | none => (c.copyOf now (lineOf va)).map fun l => Sp.get l.data (va % 128)

/-- All n bytes at an address from the own view. -/
def Core.viewBytes (c : Core) (now va n : Nat) : Option (List Byte) := (List.range n).mapM fun k => c.viewByte now (va + k)

/-- The granules of the entries in the ring (R165). -/
def Core.ringUsed (c : Core) : Nat := c.leat.foldl (fun n e => n + e.granules) 0

/-- The granules from the first entry of the ring to its end: what a hole inside has freed is not room yet (R165). -/
def Core.ringSpan (c : Core) : Nat :=
  match c.leat with
  | [] => 0
  | e :: _ => let n := (c.leatEnd + 2048 - e.pos % 2048) % 2048; if n = 0 then 2048 else n

/-- Room that an append does not have: the ring's, and what is kept for core-scope atomics on their way (R171). -/
def Core.ringHeld (c : Core) : Nat := c.ringSpan + ((c.atoms.filter fun a => !a.told).map (·.need)).sum

/-- Entries one after the other from a granule, and the granule after them. -/
def layEntries (pos : Nat) : List LeatEntry → List LeatEntry × Nat
  | [] => ([], pos)
  | e :: es => let r := layEntries ((pos + e.granules) % 2048) es; ({ e with pos := pos } :: r.1, r.2)

/-- Append an entry; a first-level copy of the line is patched (R166, R167). A core-scope atomic may append when its gang stands in no slot: the
slot it issued from then comes as the gang's number. -/
def State.appendEntry (s : State) (core slot : Nat) (g : Gang) (line : Nat) (bytes : List (Nat × Byte)) (relm : Option (BitVec 3)) (atom : Bool) : State :=
  let c := s.coreAt core
  let e : LeatEntry := ⟨c.leatSeq, line, bytes, relm, atom, false, s.now + 96, none, g.epoch, slot, g.blk, g.launch, g.super, c.leatEnd, false, false, false,
    if slot < 64 then slot else g.number⟩
  let patch (l : L1Line) : L1Line := if l.line = line ∧ relm.isNone then { l with data := Sp.setAll l.data bytes } else l
  let s := s.modCore core fun c =>
    { c with leat := c.leat ++ [e], leatSeq := c.leatSeq + 1, leatEnd := (c.leatEnd + e.granules) % 2048, l1 := c.l1.map patch
             atoms := c.atoms.map fun a => { a with fills := a.fills.map fun f => if f.1 = line ∧ relm.isNone then (f.1, Sp.setAll f.2 bytes) else f } }
  let s := s.at (s.now + 96) (.leatEntrySeal core e.seq)
  if 1024 < (s.coreAt core).ringUsed then s.drain core else s

/-- The bytes written, by line ascending; of several writes of one byte the last stands (R166). -/
def byLine (ws : List (Nat × Byte)) : List (Nat × List (Nat × Byte)) :=
  let lines := ((ws.map fun w => lineOf w.1).dedup).insertionSort (· ≤ ·)
  lines.map fun l => (l, (List.range 128).filterMap fun k => ((ws.filter fun w => w.1 == l * 128 + k).getLast?).map fun w => (k, w.2))

/-- Granules an append needs (R171). -/
def needGranules (ws : List (Nat × Byte)) : Nat :=
  (byLine ws).foldl (fun n e => n + 1 + ((List.range 4).filter fun q => e.2.any fun b => b.1 / 32 == q).length) 0

def State.appendWrites (s : State) (core slot : Nat) (g : Gang) (ws : List (Nat × Byte)) (atom : Bool) : State :=
  (byLine ws).foldl (fun s e => s.appendEntry core slot g e.1 e.2 none atom) s

/-- Urge the drain of every entry with a condition, and so of the entries before it (R255). -/
def State.urge (s : State) (core : Nat) (p : LeatEntry → Bool) : State :=
  let l := (s.coreAt core).leat
  match (l.filter p).getLast? with
  | none => s
  | some e => (s.modCore core fun c => { c with leat := c.leat.map fun x => if seqLe x.seq e.seq then { x with urged := true } else x }).drain core

/-- Urge the entries of a region in every leat (R255, R375, R445). -/
def State.urgeRange (s : State) (lo n : Nat) : State :=
  s.cores.foldl (fun s c => s.urge c.1 fun e => e.relm.isNone && decide (lo ≤ keyless (e.line * 128)) && decide (keyless (e.line * 128) < lo + n)) s

/-! ### Park states that an operation ends -/

/-- A quad of a party whose held operation is complete goes on at its successor, or where it stands when its PC has moved already. -/
def Quad.release (d : Quad) (lead now : Nat) : Quad :=
  if d.present && !d.retired && d.party.toNat == lead then
    match d.park with
    | .hold true => { d with park := .none, pc := succPc d.pc, wake := now + 1 }
    | .hold false => { d with park := .none, wake := now + 1 }
    | _ => d
  else d

/-- The party's held operation is complete. -/
def State.endHold (s : State) (core slot lead : Nat) : State :=
  let fix (d : Quad) : Quad := d.release lead s.now
  let fixHeld (d : Quad) : Quad := if d.park = .hold false then fix d else d
  s.modGang core slot fun g =>
    { g with quads := g.quads.map fix, held := g.held.map fun h => h.map fixHeld, bellHeld := g.bellHeld.map fun h => h.map fixHeld }

/-- Where a gang runs: its own code, its bell handler, or handler context. -/
def Gang.context (g : Gang) : Nat := if g.super then 2 else if g.bellHeld.isSome then 1 else 0

/-- As endHold, for a party of one context of the gang: its quads may be held aside (R343, R407). -/
def State.endHoldIn (s : State) (core slot lead ctx : Nat) : State :=
  let fix (d : Quad) : Quad := d.release lead s.now
  s.modGang core slot fun g =>
    if g.context = ctx then { g with quads := g.quads.map fix }
    else if ctx = 0 ∧ g.bellHeld.isSome = true then { g with bellHeld := g.bellHeld.map fun h => h.map fix }
    else { g with held := g.held.map fun h => h.map fix }

/-- The party waits at its instruction, which has issued, until endHold. -/
def State.hold (s : State) (p : Party) (again : Bool) : State :=
  s.modGang p.core p.slot fun g => g.mapParty p.lead fun q =>
    { q with park := .hold again, last := some s.now, pc := if again then q.pc else succPc p.pc }

end Sys2Proof.Machine
end

