-- ==== Sys2Proof/Machine/Loads.lean ====
section
/-! DEFINITION. Loads and stores (R179 to R187), first-level fills from the slices (R258, R259, R276 to R286), requests to homes, their
refusals and replays (R367, R371, R376 to R380), and the landing of variable-latency results (R153, R185, R402). -/

namespace Sys2Proof.Machine

open Sys2Proof

/-! ### Addresses of lanes and the checks before an access (R161, R162, R179, R181, R209) -/

/-- The address of a lane from an address field: pair or single (R179). -/
def laneAddr (s : State) (p : Party) (r : Reg) (n size off lane : Nat) : Nat :=
  let w := if n = 2 then 64 else 32
  (s.regValue p r n lane + off + (if kindOf r = .s then lane * size else 0)) % 2 ^ w

/-- The rights a core has for a key (R162). -/
def Core.right (c : Core) (key : Nat) : Nat := (Sp.get c.keys key).toNat

/-- KEYVIOL for the first lane, in lane order, whose key lacks a right. -/
def keyViol (c : Core) (need : Nat) (as : List (Nat × Nat)) : Option (Nat × Nat) :=
  (as.find? fun a => !chipSheet a.2 && decide (c.right (keyOf a.2) < need)).map fun a => (xKeyViol, keyOf a.2 + need * 2 ^ 8 + a.1 * 2 ^ 10)

/-- WINDOW cause 1: a chip sheet named by an instruction that is no window instruction. -/
def sheetViol (as : List (Nat × Nat)) : Option (Nat × Nat) :=
  (as.find? fun a => chipSheet a.2).map fun a => (xWindow, 1 + fld a.2 42 40 * 2 ^ 4 + a.1 * 2 ^ 7)

/-- MISALIGN (R181). -/
def misaligned (size flag : Nat) (as : List (Nat × Nat)) : Option (Nat × Nat) :=
  (as.find? fun a => a.2 % size != 0).map fun a => (xMisalign, a.1 + flag)

/-- The first of some traps. -/
def firstTrap (l : List (Option (Nat × Nat))) : Option (Nat × Nat) := l.findSome? id

/-- The checks of a plain global access. -/
def globalTrap (c : Core) (need size : Nat) (as : List (Nat × Nat)) : Option (Nat × Nat) :=
  firstTrap [keyViol c need as, sheetViol as, misaligned size 0 as]

/-! ### Outstanding operations -/

/-- A lane has its bytes or its refusal. -/
def LoadLane.done (l : LoadLane) : Bool := l.got.isSome || l.refused.isSome

def PendBody.lanes : PendBody → List LoadLane
  | .load _ _ _ ls => ls
  | .window _ _ ls => ls
  | .kvx _ _ _ ls => ls
  | _ => []

def PendBody.withLanes (b : PendBody) (ls : List LoadLane) : PendBody :=
  match b with
  | .load k t q _ => .load k t q ls
  | .window k t _ => .window k t ls
  | .kvx d st i _ => .kvx d st i ls
  | b => b

/-- Change the lanes of an operation that returns per lane; when every lane is done, its landing follows (R153). -/
def State.modLanes (s : State) (core slot id : Nat) (f : LoadLane → LoadLane) : State :=
  let s := s.modPend core slot id fun d => { d with body := d.body.withLanes (d.body.lanes.map f) }
  match s.pendAt core slot id with
  | some d => if d.body.lanes.all (·.done) && !d.body.lanes.isEmpty then s.at (s.now + 1) (.variableReturnLanding core slot id) else s
  | none => s

/-- The final refusal of an operation's lanes on a line (or of every lane that waits). -/
def refuseLane (line : Option Nat) (code : Nat) (l : LoadLane) : LoadLane :=
  if !l.done && (line.elim true fun x => lineOf l.addr == x) then { l with refused := some code } else l

/-! ### Requests to homes -/

/-- The launch that a request of a core serves. -/
def State.launchOf (s : State) (core : Nat) : Parked → Option Nat
  | .pend slot _ => (s.gangAt core slot).map (·.launch)
  | .leat q => ((s.coreAt core).leat.find? (·.seq == q)).map (·.launch)
  | .xfer w _ => ((s.coreAt core).works.find? (·.id == w)).map (·.launch)
  | .record t => (((s.coreAt core).recs.find? (·.ticket.toNat == t)).bind fun r => s.blockAt r.blk).map (·.launch)

/-- The tenant tag that a request carries over the fabric (R440): that of its launch, else of the domain its core hosts. -/
def State.tagFor (s : State) (core : Nat) (what : Parked) : Nat :=
  match (s.launchOf core what).bind fun l => s.launches.find? (·.idx == l) with
  | some l => l.tag
  | none => (s.domainAt (s.coreAt core).domain).tag

/-- Send a request to the home of its address: PROTECT at the own interface without a valid entry; to another package it waits for a port of the
fabric, for FABTMO clocks at most (R366, R438, R452); else to the home. -/
def State.sendHome (s : State) (core : Nat) (what : Parked) (r : HomeReq) : State :=
  let r := { r with reroutes := Nat.max r.reroutes (((s.coreAt core).rerouted.lookup what).getD 0) }
  match s.deviceOf r.va with
  | none => s.later (.homeRequest { r with reroutes := 17 })
  | some dev =>
    if dev = s.pr.devnum.toNat then s.later (.homeRequest r)
    else
      let m : FabMsg := ⟨core, what, s.now, dev, r.access.toNat, r.va, s.tagFor core what, none⟩
      (State.at { s with fabric := s.fabric ++ [m] } (s.now + s.pr.fabtmo.toNat * 1024) (.fabricTimeout core what)).at s.now (.homeRequest r)

/-- A read request of an outstanding operation. -/
def readReq (core slot id access va : Nat) : HomeReq := ⟨BitVec.ofNat 4 access, va, access == 2, false, .core core (.pend slot id), [], 0⟩

def State.askHome (s : State) (core slot id access va : Nat) : State := s.sendHome core (.pend slot id) (readReq core slot id access va)

/-! ### Filling (R259, R276 to R286) -/

/-- A request at the slices, and the way class it carries from its core (R275). -/
def State.reqAt (s : State) (core : Nat) (what : Parked) (line : Nat) : Option SliceReq := s.sliceReqs.find? (·.is core what line)
def State.classFor (s : State) (core : Nat) (what : Parked) (line : Nat) : Nat :=
  (s.reqAt core what line).elim (s.classOfFunction (s.coreAt core).function) (·.cls)

/-- The fill mask a request allocates under: that of its class when its fetch began (R276, R278). -/
def State.maskFor (s : State) (core : Nat) (what : Parked) (line : Nat) : BitVec 16 :=
  match s.reqAt core what line with
  | some ⟨_, _, _, _, .fetching m⟩ => m
  | _ => (s.classes.getD (s.classFor core what line) {}).mask

/-- The line of a request is asked of the home: its fetch begins (R278). -/
def State.fetchBegins (s : State) (core : Nat) (what : Parked) (line : Nat) : State :=
  let m := (s.classes.getD (s.classFor core what line) {}).mask
  { s with sliceReqs := replaceFirst (·.is core what line) (fun r => { r with st := .fetching m }) s.sliceReqs }

/-- A request reaches its slice, behind those that have arrived (R284, R290). -/
def State.arrives (s : State) (core : Nat) (what : Parked) (line : Nat) : State :=
  match s.reqAt core what line with
  | some r => if r.st = .onWay then { s with sliceReqs := s.sliceReqs.filter (fun x => !x.is core what line) ++ [{ r with st := .arrived }] } else s
  | none => { s with sliceReqs := s.sliceReqs ++ [⟨core, what, line, s.classFor core what line, .arrived⟩] }

/-- The offset of a location, the location at another offset, and one further on. -/
def Loc.off : Loc → Nat
  | .scratch _ _ o => o
  | .mem va => va
def Loc.at (l : Loc) (o : Nat) : Loc := match l with | .scratch b p _ => .scratch b p o | .mem _ => .mem (o % 2 ^ 64)
def Loc.plus (l : Loc) (n : Nat) : Loc := l.at (l.off + n)

/-- The pieces a unit moves: sources, destination, bytes. -/
def XUnit.pieces (u : XUnit) : List (List Loc × Loc × Nat) :=
  if u.parts.isEmpty then [(u.srcs, u.dst, u.len)] else u.parts.map fun x => (u.srcs.map (·.plus x.1), u.dst.plus x.2.1, x.2.2)

/-- A unit writes a line of memory. -/
def XUnit.writes (u : XUnit) (line : Nat) : Bool :=
  u.pieces.any fun x => match x.2.1 with
    | .mem va => !chipSheet va && (linesOf va x.2.2).contains line
    | .scratch _ _ _ => false

/-- A request that has a line to write and is still wanted: a drained entry, an atomic of more than core scope, or a transfer unit (R284, R289). -/
def State.writesLine (s : State) (r : SliceReq) (line : Nat) : Bool :=
  match r.what with
  | .leat q => r.line == line && (s.coreAt r.core).leat.any fun e => e.seq == q && !e.applied && e.parked.isNone
  | .pend _ id => r.line == line && (s.coreAt r.core).atoms.any fun a => a.id == id && a.scope != 0 && a.lanes.any fun l => l.old.isNone && l.refused.isNone && lineOf l.addr == line
  | .xfer w id => (s.coreAt r.core).works.any fun k => k.id == w && k.units.any fun u => u.id == id && u.st == .sent && u.writes line
  | .record _ => false

/-- A write of a line has reached the die's slice before a request, known by `key`, and is not done (R284, R285, R290). -/
def State.behind (s : State) (core : Nat) (what : Parked) (key line : Nat) : Bool :=
  (s.sliceReqs.takeWhile fun r => !r.is core what key).any fun r =>
    dieOf r.core == dieOf core && r.st != .onWay && s.writesLine r line

/-- A 64 KiB region of the ticket rules (R442). -/
def regionOf (va : Nat) : Nat := keyless va / 2 ^ 16

/-- Whether another package holds a ticket of a region homed here: local slices then allocate nothing (R444). -/
def State.ticketed (s : State) (va : Nat) : Bool :=
  s.tickets.any fun t => t.region == regionOf va && (t.writer.isSome || !t.readers.isEmpty || t.closing)

/-- The ticket this package holds for an address of another package; none while it is being handed back (R443, R445). -/
def State.heldFor (s : State) (va : Nat) : Option HeldTicket := s.heldTickets.find? fun t => t.region == regionOf va && t.leaving.isNone

/-- This package holds a WRITE ticket for the address (R443). -/
def State.holdsWrite (s : State) (va : Nat) : Bool := !s.homedHere va && (s.heldFor va).elim false (·.write)

/-- The treatment of a line: its page's, or its ticket's for a line of another package (R281, R443). -/
def State.treatOf (s : State) (va : Nat) : Nat := if s.homedHere va then (s.pageOf va).elim 2 Page.treat else (s.heldFor va).elim 2 (·.treat)

/-- Whether a slice may hold a line (R375, R385, R443, R444), whether it may take writes of it (R443), and whether a fill or a write under a mask may
allocate it (R277). -/
def State.mayHold (s : State) (va : Nat) : Bool :=
  if s.homedHere va then !s.ticketed va && (s.pageOf va).elim false fun p => !p.hostBias && p.mov.isNone else (s.heldFor va).isSome
def State.mayWrite (s : State) (va : Nat) : Bool := if s.homedHere va then s.mayHold va else s.holdsWrite va
def State.mayKeep (s : State) (mask : BitVec 16) (va : Nat) : Bool := mask != 0 && s.mayHold va
def State.mayTake (s : State) (mask : BitVec 16) (va : Nat) : Bool := mask != 0 && s.mayWrite va

/-- A use of a line of another package makes its ticket the most recently used (R442). -/
def State.useTicket (s : State) (va : Nat) : State :=
  if s.homedHere va then s else { s with heldTickets := replaceFirst (·.region == regionOf va) (fun t => { t with used := s.now }) s.heldTickets }

/-- Count a saturating event of a class. -/
def countUp (m : Words) (k : Nat) : Words := if (Sp.get m k).toNat = 2 ^ 32 - 1 then m else Sp.set m k (Sp.get m k + 1)

/-- The line that leaves for a fill of a class: none while an allowed way is free (R276). -/
def pickWay (sl : Slice) (set : Nat) (mask : BitVec 16) : Nat × Option Nat :=
  let ls := sl.lines.filter fun l => setNum l.line == set
  let ways := (List.range 16).filter mask.getLsbD
  match ways.find? fun w => !ls.any (·.way == w) with
  | some w => (w, none)
  | none =>
    let c := ls.filter fun l => ways.contains l.way
    match c.foldl (fun m l => match m with | none => some l | some b => if l.used < b.used then some l else some b) none with
    | some l => (l.way, some l.line)
    | none => (0, none)

/-- The other die's copy of a line comes back to the home when it is owned there, and stays shared (R286). -/
def State.shareOther (s : State) (die line : Nat) : State :=
  let o := 1 - die
  match s.lineIn o line with
  | none => s
  | some x =>
    if !x.owned then s
    else
      let s := s.recallOwner o line
      match s.lineIn o line with
      | some x => (s.setHomeBytes (line * 128) (lineBytes x.data 0 128)).modLine o line fun y => { y with dirty := false, owned := false }
      | none => s

/-- A line is filled into a slice from its home for a class, under the page's treatment (R276, R281, R283). -/
def State.fillLine (s : State) (cls : Nat) (mask : BitVec 16) (die line : Nat) : State :=
  let s := (s.shareOther die line).memHold die line
  let pick := pickWay (s.sliceAt (sliceKey die line)) (setNum line) mask
  let s := match pick.2 with | some v => s.evictLine die v | none => s
  let treat := s.treatOf (line * 128)
  let data := s.homeLine line
  s.modSlice die line fun sl =>
    { sl with uses := sl.uses + 1
              fill := countUp sl.fill cls
              lines := sl.lines ++ [⟨line, pick.1, data, false, treat, [], if treat = 1 then sl.horizon line else 0,
                cls, false, none, 0, none, sl.uses, []⟩] }

/-- A lookup that hits counts for its class and makes its way the most recent (R276, R279). -/
def State.countHit (s : State) (cls die line : Nat) : State :=
  let mask := (s.classes.getD cls {}).mask
  s.modSlice die line fun sl =>
    let out := match sl.lines.find? (·.line == line) with | some l => !mask.getLsbD l.way | none => false
    { sl with uses := sl.uses + 1, hit := countUp sl.hit cls, hitx := if out then countUp sl.hitx cls else sl.hitx
              lines := replaceFirst (·.line == line) (fun l => { l with used := sl.uses }) sl.lines }

/-- A request's lookup that hits counts once, whatever retries it meets (R276, R279); what has counted is known until the request ends. -/
def State.countOnce (s : State) (core : Nat) (what : Parked) (key line : Nat) : State :=
  if (s.coreAt core).counted.contains (what, line) then s
  else (s.countHit (s.classFor core what key) (dieOf core) line).modCore core fun c => { c with counted := (what, line) :: c.counted }

/-- The entries of the replay filter for a line that are still in their rings, in replay order, as bytes (R259). One that has been applied has its
place in the line itself, where a later write may have followed it (R307; log entry 124). -/
def State.filterBytes (s : State) (core line : Nat) : List (Nat × Byte) :=
  (((s.coreAt core).filter.filter (·.line == line)).flatMap fun f =>
    ((s.coreAt f.src).leat.find? fun e => e.seq == f.seq && !e.applied).elim [] (·.bytes))

/-- The bytes of a core's own entries for a line that have not been applied, oldest first. -/
def Core.ownBytes (c : Core) (line : Nat) : List (Nat × Byte) :=
  (c.leat.filter fun e => e.relm.isNone && e.line == line && !e.applied).flatMap (·.bytes)

/-- A line as its slice holds it, or its home, patched by replayed entries (R259). -/
def State.lineBase (s : State) (core die line : Nat) : Cells :=
  Sp.setAll (match s.lineIn die line with | some x => x.data | none => s.homeLine line) (s.filterBytes core line)

/-- What a core receives of a line: its own undrained bytes come on top (R259). -/
def State.lineFor (s : State) (core die line : Nat) : Cells := Sp.setAll (s.lineBase core die line) ((s.coreAt core).ownBytes line)

/-- A line that has come serves the loads of the core that wait for it, each without the entries appended after it: a load reads no later
write of its gang, and no earlier load of a gang reads later than a later one (R307). -/
def State.giveLine (s : State) (core die line : Nat) (p : Word → Bool) : State :=
  let base := s.lineBase core die line
  let es := (s.coreAt core).leat.filter fun e => e.relm.isNone && e.line == line
  (s.coreAt core).gangs.foldl (fun s g => g.2.pend.foldl (fun s d =>
    match d.body with
    | .load kind _ seq lanes =>
      if p seq && lanes.any (fun l => !l.done && lineOf l.addr == line) then
        let data := Sp.setAll base ((es.filter fun e => !seqLe seq e.seq).flatMap (·.bytes))
        s.modLanes core g.1 d.id fun l => if !l.done && lineOf l.addr == line then { l with got := some (lineBytes data (l.addr % 128) (kindSize kind)) } else l
      else s
    | _ => s) s) s

/-- Serve a line from its slice to a core for a class; a tracked or leased line leaves a first-level copy there (R281 to R283). -/
def State.serveLine (s : State) (core die line cls : Nat) : State :=
  let s := s.recallOwner die line
  match s.lineIn die line with
  | none => s
  | some x =>
    if x.treat = 2 || !(s.mayHold (line * 128) || s.homedHere (line * 128)) then s
    else
      let stop := s.now + (s.classes.getD cls {}).lease
      let s := s.modLine die line fun y =>
        if x.treat = 0 then { y with sharers := (core :: y.sharers.filter (· != core)) } else { y with hz := Nat.max y.hz stop }
      let copy : L1Line := ⟨line, s.lineFor core die line, x.treat, stop, false, []⟩
      s.modCore core fun c => { c with l1 := c.l1.filter (·.line != line) ++ [copy] }

/-- Bytes that each lane of an operation reads. -/
def PendBody.size : PendBody → Nat
  | .load k _ _ _ => kindSize k
  | .window k _ _ => kindSize k
  | _ => 1

/-- Slot 64 names a prefetch: no operation waits for its line (R329). -/
def prefetchSlot : Nat := 64

/-! ### LD and ST (R183, R184) -/

/-- A release of the gang that still waits for one of its reads holds the gang's next writes (R319). -/
def readHeld (s : State) (p : Party) : Bool :=
  ((s.coreAt p.core).rels.any fun r => r.slot == p.slot && r.blk == p.g.blk && !r.reads.isEmpty)

/-- An instruction that writes memory: not ready while readHeld. -/
def State.writer (s : State) (p : Party) (f : State) : State := if readHeld s p then s.stall p else f

/-- The lanes of a load with their addresses: writing lanes, and helper lanes whose access would raise no trap (R182). -/
def loadLanes (c : Core) (now need size : Nat) (p : Party) (addr : Nat → Nat) : List LoadLane :=
  let mk (h : Bool) (l : Nat) : LoadLane := ⟨l, addr l, h, c.viewBytes now (addr l) size, none⟩
  (lanesOf p.writing).map (mk false)
    ++ (lanesOf p.helping).map fun l =>
      if (globalTrap c need size [(l, addr l)]).isSome then { mk true l with got := some (List.replicate size 0) } else mk true l

/-- An atomic of the gang on one of some addresses' lines is under way: the gang's next access there comes after it (R307). -/
def atomOn (c : Core) (slot : Nat) (as : List Nat) : Bool :=
  c.atoms.any fun a => a.slot == slot && a.lanes.any fun l => l.old.isNone && l.refused.isNone && as.any fun x => lineOf x == lineOf l.addr

/-- A load of the gang on one of some addresses' lines has not returned: the gang's next write there comes after it (R307). -/
def loadOn (g : Gang) (as : List Nat) : Bool :=
  g.pend.any fun d => d.body.lanes.any fun l => !l.done && as.any fun x => lineOf x == lineOf l.addr

/-- Flits of a read of a line for some lanes: an uncached load of up to 32 bytes costs 2, a fill 5 (R268). -/
def State.readCost (s : State) (line size : Nat) (as : List Nat) : Nat :=
  let bytes := (List.range 128).filter fun k => as.any fun a => decide (a ≤ line * 128 + k) && decide (line * 128 + k < a + size)
  if s.treatOf (line * 128) == 2 && decide (bytes.length ≤ 32) then 2 else 5

/-- LD (R183). -/
def execLd (t a : Reg) (kind : BitVec 3) (k : BitVec 8) (s : State) : Result :=
  s.issue (.ld t a kind k) fun p =>
    let size := kindSize kind
    let addr (l : Nat) : Nat := laneAddr s p a 2 size (k.toNat * size) l
    let c := s.coreAt p.core
    match globalTrap c 1 size ((lanesOf p.writing).map fun l => (l, addr l)) with
    | some x => s.raise p x.1 x.2
    | none =>
      let lanes := loadLanes c s.now 1 size p addr
      if lanes.isEmpty then s.advance p
      else if atomOn c p.slot (lanes.map (·.addr)) then s.stall p
      else
        let id := s.fresh
        let s := s.addPend p (resultCodes t (kindRegs kind)) (.load kind t (s.coreAt p.core).leatSeq lanes)
        let missing := ((lanes.filter fun l => !l.done).map fun l => lineOf l.addr).dedup
        let s := missing.foldl (fun s line =>
          s.toPort p.core (s.readCost line size ((lanes.filter fun l => !l.done).map (·.addr))) (.sliceFill p.core p.slot id line false)) s
        let s := if missing.isEmpty then s.later (.variableReturnLanding p.core p.slot id) else s
        s.advance p

/-- The bytes each writing lane stores: at its address, size bytes of the data operand. -/
def storeBytes (s : State) (p : Party) (t : Reg) (kind : BitVec 3) (addr : Nat → Nat) : List (Nat × Byte) :=
  (lanesOf p.writing).flatMap fun l =>
    ((toBytes (kindSize kind) (s.regValue p t (kindRegs kind) l)).zipIdx).map fun b => ((addr l + b.2) % 2 ^ 64, b.1)

/-- ST (R184): held while the leat lacks room (R171). -/
def execSt (t a : Reg) (kind : BitVec 3) (k : BitVec 8) (s : State) : Result :=
  s.issue (.st t a kind k) fun p =>
    let size := kindSize kind
    let addr (l : Nat) : Nat := laneAddr s p a 2 size (k.toNat * size) l
    let c := s.coreAt p.core
    match globalTrap c 2 size ((lanesOf p.writing).map fun l => (l, addr l)) with
    | some x => s.raise p x.1 x.2
    | none =>
      let ws := storeBytes s p t kind addr
      let as := (lanesOf p.writing).map addr
      s.writer p (
        if atomOn c p.slot as then s.stall p
        else if 2048 < c.ringHeld + needGranules ws then s.stall p
        else (s.appendWrites p.core p.slot p.g ws false).advance p)

/-! ### LDS and STS (R186, R187) -/

/-- A byte of the scratch part of a core: the gate image in the runner's gate area (R186, R212). -/
def Block.scratchByte (b : Block) (part off : Nat) : Byte :=
  if off < 16 * b.ngates ∧ part = 0 then b.gateByte off else if part = 0 then Sp.get b.scr off else Sp.get b.scrB off

/-- What a gang reads: the gate area is the runner's from both cores (R212). -/
def Block.ldsByte (b : Block) (part off : Nat) : Byte := if off < 16 * b.ngates then b.gateByte off else b.scratchByte part off

def Block.putScratch (b : Block) (part off : Nat) (bs : List Byte) : Block :=
  if part = 0 then { b with scr := putBytes b.scr off bs } else { b with scrB := putBytes b.scrB off bs }

/-- SCRRANGE of a scratch range; `gates` says that the gate area is closed to it too (R186). -/
def scrTrap (b : Block) (size : Nat) (gates : Bool) (as : List (Nat × Nat)) : Option (Nat × Nat) :=
  let bad (a : Nat × Nat) : Bool := decide (b.scrSize < a.2 + size) || (gates && decide (a.2 < 16 * b.ngates))
  (as.find? bad).map fun a => (xScrRange, a.1 + (if gates && decide (a.2 < 16 * b.ngates) then 32 else 0))

/-- LDS (R187): the bytes are read when the access takes effect, at issue; the result lands later. The lanes of a bed-core gang's LDS in the
gate area read the gate 6 clocks after issue (R212). -/
def execLds (t a : Reg) (kind : BitVec 3) (k : BitVec 8) (s : State) : Result :=
  s.issue (.lds t a kind k) fun p =>
    match s.blockOf p with
    | none => s
    | some b =>
      let size := kindSize kind
      let addr (l : Nat) : Nat := laneAddr s p a 1 size (k.toNat * size) l
      match firstTrap [misaligned size 0 ((lanesOf p.writing).map fun l => (l, addr l)),
          scrTrap b size false ((lanesOf p.writing).map fun l => (l, addr l))] with
      | some x => s.raise p x.1 x.2
      | none =>
        let part := b.partOf p.core
        let read (l : Nat) : List Byte := (List.range size).map fun j => b.ldsByte part (addr l + j)
        let bridge (l : Nat) : Bool := part == 1 && decide (addr l < 16 * b.ngates)
        let help (l : Nat) : LoadLane :=
          if (addr l % size != 0) || decide (b.scrSize < addr l + size) then ⟨l, addr l, true, some (List.replicate size 0), none⟩
          else ⟨l, addr l, true, if bridge l then none else some (read l), none⟩
        let lanes := (lanesOf p.writing).map (fun l => (⟨l, addr l, false, if bridge l then none else some (read l), none⟩ : LoadLane))
          ++ (lanesOf p.helping).map help
        if lanes.isEmpty then s.advance p
        else
          let id := s.fresh
          let s := s.addPend p (resultCodes t (kindRegs kind)) (.bridge kind t lanes)
          let s := if lanes.all (·.done) then s.later (.variableReturnLanding p.core p.slot id)
            else s.at (s.now + 6) (.variableReturnLanding p.core p.slot id)
          s.advance p

/-- STS (R187). -/
def execSts (t a : Reg) (kind : BitVec 3) (k : BitVec 8) (s : State) : Result :=
  s.issue (.sts t a kind k) fun p =>
    match s.blockOf p with
    | none => s
    | some b =>
      let size := kindSize kind
      let addr (l : Nat) : Nat := laneAddr s p a 1 size (k.toNat * size) l
      match firstTrap [misaligned size 0 ((lanesOf p.writing).map fun l => (l, addr l)),
          scrTrap b size true ((lanesOf p.writing).map fun l => (l, addr l))] with
      | some x => s.raise p x.1 x.2
      | none => s.writer p (
          (s.modBlock b.key fun b => (storeBytes s p t kind addr).foldl (fun b w => b.putScratch (b.partOf p.core) w.1 [w.2]) b).advance p)

/-! ### Fault records and parking (R377 to R379) -/

/-- The start of the page, or of the 64 KiB region of an unmapped address, and its size (R377). -/
def State.pageRange (s : State) (va : Nat) : Nat × Nat :=
  match s.pageOf va with
  | some p => (p.va, pageBytes p.size)
  | none => (keyless va / 2 ^ 16 * 2 ^ 16, 2 ^ 16)

/-- Who was refused: a core of this package, a remote requester, or the host (R377). -/
inductive Refused where
  | core (core : Nat)
  | remote (who : Tenant)
  | host
  deriving DecidableEq, Repr

/-- Domain, function and device of who was refused, as a fault record gives them; the physical function's for the host (R377, R458; log entry 134). -/
def Refused.fields (s : State) : Refused → Nat × Nat × Nat
  | .core k => ((s.coreAt k).domain % 256, (s.coreAt k).function % 128, s.pr.devnum.toNat)
  | .remote w => (w.domain % 256, w.function % 128, w.device % 2 ^ 20)
  | .host => (0, 0, s.pr.devnum.toNat)

/-- A fault record (R377). -/
def faultWords (s : State) (code access va : Nat) (who : Refused) : List Nat :=
  let f := who.fields s
  let line := va / 128 * 128
  let w2 := code + access * 2 ^ 4 + homeOf va * 2 ^ 8 + f.1 * 2 ^ 16 + f.2.1 * 2 ^ 24 + (match who with | .remote _ => 2 ^ 31 | _ => 0)
  [line % 2 ^ 32, line / 2 ^ 32, w2, f.2.2, 0, 0, 0, 0]

/-- Write a fault record and ring the fault bell; the address of the record, 1 while it is held for room (R377). -/
def State.faultRecord (s : State) (ws : List Nat) : State × Nat :=
  if s.pr.hfltq = 0 then (s, 0)
  else
    let base := ringBase s.pr.hfltq
    let slot := s.dev32 base % ringSize s.pr.hfltq
    match s.appendRing s.pr.hfltq 32 (wordBytes ws) with
    | some s =>
      let last := s.pr.lastFaultRing
      let s := if s.pr.hsup.getLsbD 14 then s.supRing (fld s.pr.hsup.toNat 7 0) last else s
      ({ s with pr := { s.pr with lastFaultRing := ringClock s.now last } }, base + 128 + 32 * slot)
    | none => ({ s with faultHeld := s.faultHeld ++ [ws.map word] }, 1)

/-- A held record's count of further refusals grows: the latest of a home and a page (R377). -/
def countHeld (home : Nat) (range : Nat × Nat) (l : List (List Word)) : List (List Word) :=
  let hit (r : List Word) : Bool :=
    let va := keyless ((r.getD 0 0).toNat + (r.getD 1 0).toNat * 2 ^ 32)
    fld (r.getD 2 0).toNat 3 0 == 1 && fld (r.getD 2 0).toNat 13 8 == home && decide (range.1 ≤ va) && decide (va < range.1 + range.2)
  (replaceFirst hit (fun r => r.set 4 (word (Nat.min 65535 ((r.getD 4 0).toNat + 1)))) l.reverse).reverse

/-- A replayable refusal is recorded: the park table, and the page's first NOTPRESENT at this home or its count (R377, R378). -/
def State.recordParked (s : State) (r : HomeReq) (code : Nat) (who : Refused) : State :=
  let h := homeOf r.va
  let range := s.pageRange r.va
  let add (e : ParkEntry) : ParkEntry :=
    match who with
    | .core k => { e with cores := k :: e.cores.filter (· != k) }
    | .remote w => if e.devices.contains w.device then e else if e.devices.length < 16 then { e with devices := w.device :: e.devices } else { e with overflow := true }
    | .host => e
  let room := decide ((s.parks.filter fun e => e.home == h && e.listed).length < 2048)
  let list (e : ParkEntry) : ParkEntry := if e.listed || room then add { e with listed := true } else e
  match s.parks.find? fun e => e.home == h && e.va == range.1 with
  | some e =>
    let s := { s with parks := replaceFirst (fun e => e.home == h && e.va == range.1) list s.parks }
    if code ≠ 1 then s
    else if e.recAddr = 0 then
      let f := s.faultRecord (faultWords s code r.access.toNat r.va who)
      { f.1 with parks := replaceFirst (fun e => e.home == h && e.va == range.1) (fun e => { e with recAddr := f.2 }) f.1.parks }
    else if e.recAddr = 1 then { s with faultHeld := countHeld h range s.faultHeld }
    else s.devWrite32 (e.recAddr + 16) (Nat.min 65535 (s.dev32 (e.recAddr + 16) + 1))
  | none =>
    let f := if code = 1 then s.faultRecord (faultWords s code r.access.toNat r.va who) else (s, 0)
    { f.1 with parks := f.1.parks ++ [list ⟨h, range.1, range.2, [], [], false, f.2, false⟩] }

/-- A refusal is recorded by its home: a replayable one in the park table, a final one by a fault record of its own (R377). -/
def State.recordRefusal (s : State) (r : HomeReq) (code : Nat) (who : Refused) : State :=
  if code ≤ 2 then s.recordParked r code who else (s.faultRecord (faultWords s code r.access.toNat r.va who)).1

/-- A request leaves the slices with its answer. -/
def State.requestEnds (s : State) (core : Nat) (what : Parked) (va : Nat) : State :=
  s.requestGone core what (match what with | .xfer _ _ => 0 | _ => lineOf va)

/-- Park a request in the core until its replay (R379). -/
def State.parkReq (s : State) (core : Nat) (what : Parked) (r : HomeReq) (code wait : Nat) (reroute : Bool) : State :=
  let s := s.requestBack core what (match what with | .xfer _ _ => 0 | _ => lineOf r.va)
  let s := s.modCore core fun c =>
    { c with missBuf := c.missBuf ++ [⟨r, s.now + wait⟩]
             leat := match what with | .leat q => replaceFirst (·.seq == q) (fun e => { e with parked := some code, sent := false }) c.leat | _ => c.leat
             works := match what with
               | .xfer w u => replaceFirst (·.id == w) (fun k => { k with units := replaceFirst (·.id == u) (fun x => { x with st := .parked code }) k.units }) c.works
               | _ => c.works }
  if reroute then
    (s.modCore core fun c => { c with rerouted := (what, r.reroutes) :: c.rerouted.filter (·.1 != what) }).at (s.now + wait) (.rerouteReplay core what)
  else s.at (s.now + wait) (.refusalReplayTimer core what)

/-- A request that has been answered for good has no reroutes any more. -/
def State.routed (s : State) (core : Nat) (what : Parked) : State := s.modCore core fun c => { c with rerouted := c.rerouted.filter (·.1 != what) }

/-- Flits of a parked request of an operation, as when it was first sent (R268; a probe of a KVX has no row there and costs none, log entry 121). -/
def State.againCost (s : State) (core slot id : Nat) (r : HomeReq) : Nat :=
  match (s.coreAt core).atoms.find? (·.id == id) with
  | some a => if a.scope = 0 then s.readCost (lineOf r.va) a.w (a.lanes.map (·.addr)) else 8
  | none => match s.pendAt core slot id with
    | some d => match d.body with
      | .load kind _ _ lanes => s.readCost (lineOf r.va) (kindSize kind) ((lanes.filter fun l => !l.done).map (·.addr))
      | .counter .. => 2
      | .kvx .. => 0
      | _ => 5
    | none => 5

/-- Send a parked request again, charged again (R268, R379). -/
def State.replayOne (s : State) (core : Nat) (r : HomeReq) : State :=
  match r.asker with
  | .core _ (.leat q) =>
    let s := s.modCore core fun c => { c with leat := replaceFirst (·.seq == q) (fun e => { e with parked := none }) c.leat }
    s.drain core
  | .core _ (.xfer w u) =>
    let s := s.modCore core fun c =>
      { c with works := replaceFirst (·.id == w) (fun k => { k with units := replaceFirst (·.id == u) (fun x => { x with st := .queued }) k.units }) c.works }
    s.at s.now (.transferUnitLanding core w u)
  | .core _ (.record t) => s.portHome core 8 (.record t) r
  | .core _ (.pend slot id) =>
    let cost := s.againCost core slot id r
    if s.keepsRequest core r || 0 < r.reroutes || (s.deviceOf r.va).isNone then s.portHome core cost (.pend slot id) r
    else s.toPort core cost (if r.access = 2 then .sliceAtomic core slot id false else .sliceFill core slot id (lineOf r.va) false)
  | _ => s

/-- When a request was issued, among the operations of its core: their numbers rise. -/
def reqIssued (r : HomeReq) : Nat := match r.asker with | .core _ (.pend _ id) => id | _ => 0

/-- Replay the parked requests of a core that a condition names, in issue order. -/
def State.replay (s : State) (core : Nat) (p : MissReq → Bool) : State :=
  let rs := ((s.coreAt core).missBuf.filter p).insertionSort fun x y => reqIssued x.req ≤ reqIssued y.req
  let s := s.modCore core fun c => { c with missBuf := c.missBuf.filter fun r => !p r }
  rs.foldl (fun s r => s.replayOne core r.req) s

def reqFor (r : HomeReq) (what : Parked) : Bool := match r.asker with | .core _ w => w == what | _ => false

/-- The parked requests of an operation whose time has come (R367, R379). -/
def MissReq.isDue (now : Nat) (what : Parked) (m : MissReq) : Bool := reqFor m.req what && decide (m.due ≤ now)

/-- The number that stands for the network interface where a resume comes from another package (R448). -/
def interface : Nat := 512

/-- RESUME_MESSAGE (R378, R379, R448): the core replays; the interface passes it to the cores recorded for the regions, which are freed. -/
def execResumeMessage (core va size : Nat) (s : State) : Result :=
  if core = interface then
    let hit (e : Nat × List Nat) : Bool := decide (va < (e.1 + 1) * 2 ^ 16) && decide (e.1 * 2 ^ 16 < va + size)
    let cores := ((s.remoteParks.filter hit).flatMap (·.2)).dedup.insertionSort (· ≤ ·)
    .next (cores.foldl (fun s k => s.later (.resumeMessage k va size)) { s with remoteParks := s.remoteParks.filter fun e => !hit e })
  else .next (s.replay core fun m => decide (va ≤ keyless m.req.va) && decide (keyless m.req.va < va + size))

/-- REFUSAL_REPLAY_TIMER (R379). -/
def execRefusalReplayTimer (core : Nat) (what : Parked) (s : State) : Result := .next (s.replay core (MissReq.isDue s.now what))

/-- REROUTE_REPLAY (R367). -/
def execRerouteReplay (core : Nat) (what : Parked) (s : State) : Result := .next (s.replay core (MissReq.isDue s.now what))

/-- The address of a host access (R383). -/
def hostVa (s : State) (offset : Nat) : Nat := fld s.pr.hostwin.toNat 63 44 * 2 ^ 44 + offset % 2 ^ 44

/-- Resume a page: a message to every recorded core and device, the host's held accesses to it are tried again, and the entries are freed (R378,
R383, R448). -/
def State.resumeRange (s : State) (va size : Nat) : State :=
  let hit (e : ParkEntry) : Bool := decide (va < e.va + e.size) && decide (e.va < va + size)
  let es := s.parks.filter hit
  let cores := if es.any (·.overflow) then s.cores.map (·.1) else (es.flatMap (·.cores)).dedup.insertionSort (· ≤ ·)
  let s := { s with parks := s.parks.filter fun e => !hit e }
  let s := cores.foldl (fun s k => s.later (.resumeMessage k va size)) s
  let s := (es.flatMap (·.devices)).dedup.foldl (fun s d => s.tellDevice d va (.resume size)) s
  let held := s.hostHeld.filter fun h => decide (va ≤ keyless (hostVa s h.offset)) && decide (keyless (hostVa s h.offset) < va + size)
  held.foldl (fun s h => s.at s.now (.homeRequest ⟨0, hostVa s h.offset, h.write, false, .host h.id, [], 0⟩)) s

/-! ### Final refusals (R185, R262, R380) -/

/-- The refusal trap: code, XINFO and XVA. -/
def refusalTrapOf (code access va : Nat) (remote : Bool) : Trap :=
  let x := if code = 5 then 0x41 else if code = 3 then 0x42 else if code = 6 then xFabDown else 0x40
  let home := if code = 6 then 0 else homeOf va * 2 ^ 6
  ⟨BitVec.ofNat 8 x, word (access + (if remote then 16 else 0) + home), 0, 0, some (addr64 va)⟩

/-- A gang's refusal trap, or the failure of its launch when it is not resident (R185, R380). -/
def State.refuseGang (s : State) (core slot blk launch code access va : Nat) (remote bySuper : Bool) : State :=
  let t := refusalTrapOf code access va remote
  match s.gangAt core slot with
  | some g =>
    if g.blk = blk then s.delayTrap core slot t bySuper
    else { s with launches := replaceFirst (·.idx == launch) (fun l => if l.state = 4 then l else { l with state := 4, status := 7, xcode := t.code.zeroExtend 32, xva := addr64 va, changed := s.now }) s.launches }
  | none =>
    { s with launches := replaceFirst (·.idx == launch) (fun l =>
        if l.state = 4 then l else { l with state := 4, status := 7, xcode := t.code.zeroExtend 32, xva := addr64 va, changed := s.now }) s.launches }

/-- The more bit of a refusal trap that waits: further requests of the operation were refused (R380). -/
def State.moreRefused (s : State) (core slot : Nat) : State :=
  s.modGang core slot fun g =>
    if g.late.isEmpty then { g with trap := g.trap.map (·.more) }
    else { g with late := replaceFirst (fun x => finalRefusal x.1) (fun x => (x.1.more, x.2)) g.late }

/-- An entry that has left the ring waits in no release, promotion, work or filter of a core any more (R167, R191, R258, R265); where its stamp lies
ahead it is kept until that has passed, in its own core and where it had been replayed (R288, R302). -/
def Core.noteGone (c : Core) (k now core : Nat) (e : LeatEntry) (stamp : Nat) (acked clean : Bool) : Core :=
  let note (l : List (Nat × Word)) : List (Nat × Word) := l.filter fun x => !(x.1 == core && x.2 == e.seq)
  let hitR (r : Release) : Release :=
    if r.entries.contains (core, e.seq) then
      { r with entries := note r.entries, stamp := Nat.max r.stamp stamp
               cleans := if clean then r.cleans.filter (· != (core, .leat e.seq)) else r.cleans }
    else r
  let hitP (r : Promo) : Promo := if r.entries.contains (core, e.seq) then { r with entries := note r.entries, stamp := Nat.max r.stamp stamp } else r
  let hitW (w : Work) : Work := if w.after.contains (core, e.seq) then { w with after := note w.after, afterStamp := Nat.max w.afterStamp stamp } else w
  let hitB (b : BulkRec) : BulkRec :=
    if b.afterEntries.contains (core, e.seq) then { b with afterEntries := note b.afterEntries, afterStamp := Nat.max b.afterStamp stamp } else b
  let named := c.filter.any fun f => f.src == core && f.seq == e.seq
  let ahead := c.unpassed.filter fun u => decide (now < u.stamp)
  { c with rels := c.rels.map hitR, promos := c.promos.map hitP, works := c.works.map hitW, recs := c.recs.map hitB
           filter := c.filter.filter fun f => !(f.src == core && f.seq == e.seq)
           unpassed := if acked && decide (now < stamp) && (k == core || named) then ahead ++ [⟨core, e, stamp⟩] else ahead }

/-- A core names an entry of a leat in its filter, a release, a work or a record. -/
def Core.waitsFor (c : Core) (core : Nat) (seq : Word) : Bool :=
  (c.filter.any fun f => f.src == core && f.seq == seq) || (c.rels.any fun r => r.entries.contains (core, seq))
    || (c.works.any fun w => w.after.contains (core, seq)) || c.recs.any fun b => b.afterEntries.contains (core, seq)

/-- The trail takes a drained entry: 256 records, and the floor is the newest that has left (R258). -/
def Core.trailTakes (c : Core) (line : Nat) (seq : Word) : Core :=
  let tr := c.trail ++ [(line, seq)]
  { c with trail := tr.drop (tr.length - 256)
           trailFloor := if 256 < tr.length then (tr.head?).elim c.trailFloor (fun x => if seqLe x.2 c.trailFloor then c.trailFloor else x.2) else c.trailFloor }

/-- An entry leaves the ring, acknowledged with a stamp or withdrawn (R167, R258, R262). -/
def State.entryGone (s : State) (core : Nat) (seq : Word) (stamp : Nat) (acked : Bool) : State :=
  match (s.coreAt core).leat.find? (·.seq == seq) with
  | none => s
  | some e =>
    let clean := !acked || s.holdsWrite (e.line * 128) || s.homedHere (e.line * 128) && !s.cleanDue.any fun d => d.core == core && d.what == .leat seq
    let s := s.requestGone core (.leat seq) e.line
    let s := { s with launches := replaceFirst (·.idx == e.launch) (fun l => { l with stamp := Nat.max l.stamp stamp }) s.launches }
    let s := s.modCore core fun c => { (if acked && e.relm.isNone then c.trailTakes e.line seq else c) with leat := c.leat.filter (·.seq != seq) }
    let near := (s.cores.filter fun k => k.1 == core || k.2.waitsFor core seq).map (·.1)
    let s : State := { s with cores := s.cores.map fun k => (k.1, k.2.noteGone k.1 s.now core e stamp acked clean) }
    near.foldl (fun s k => s.wake k) s

/-- Cores of a cluster that hold state. -/
def State.clusterCores (s : State) (core : Nat) : List Nat := (s.cores.map (·.1)).filter fun k => clusterOf k == clusterOf core

/-- A unit of an engine work changes its progress. -/
def State.setUnit (s : State) (core work u : Nat) (st : XState) : State :=
  s.modCore core fun c =>
    { c with works := replaceFirst (·.id == work) (fun k => { k with units := replaceFirst (·.id == u) (fun x => { x with st := st }) k.units }) c.works }

/-- The result of an operation is known, with a trap due after its landing (R185). -/
def State.knownTrap (s : State) (core slot id : Nat) (ws : List RegWrite) (t : Trap) : State :=
  (s.modPend core slot id fun d => { d with body := .trap ws t }).later (.variableReturnLanding core slot id)

/-- An entry leaves the ring without having been applied: every filter entry that names it is cleared, and the copies of its line leave the cluster
and every core that replayed it (R262, R271). -/
def State.withdraw (s : State) (core : Nat) (e : LeatEntry) : State :=
  let read := (s.cores.filter fun k => k.2.filter.any fun f => f.src == core && f.seq == e.seq).map (·.1)
  (s.entryGone core e.seq s.now false).dropCopies (s.clusterCores core ++ read) e.line

/-- The effect of a final refusal on what was refused (R185, R190, R205, R262, R326, R396). The VA of a refused entry is that of its first
byte (R380). -/
def State.finalRefusal (s : State) (core : Nat) (what : Parked) (access va code : Nat) (remote : Bool) : State :=
  let s := (s.requestEnds core what va).routed core what
  match what with
  | .pend slot id =>
    match (s.coreAt core).atoms.find? fun a => a.id == id && !a.told with
    | some _ =>
      let f (l : AtomLane) : AtomLane := if l.old.isNone && l.refused.isNone && lineOf l.addr == lineOf va then { l with refused := some code } else l
      (s.modCore core fun c => { c with atoms := replaceFirst (·.id == id) (fun a => { a with lanes := a.lanes.map f }) c.atoms }).at
        s.now (.sliceAtomic core slot id false)
    | none =>
      match s.pendAt core slot id with
      | none => s
      | some d =>
        match d.body with
        | .counter _ _ _ =>
          let zero := d.regs.flatMap fun r =>
            if r < 0x60 then [] else if r < 0x7E then [(⟨.s (r - 0x60), 0⟩ : RegWrite)]
            else if r < 128 then [] else (List.range 32).map fun l => ⟨.p (r - 128) l, 0⟩
          s.knownTrap core slot id zero (refusalTrapOf code access va remote)
        | .kvx _ _ _ _ =>
          s.modLanes core slot id fun l => if !l.done && l.addr / 4096 == va / 4096 then { l with refused := some code } else l
        | _ => s.modLanes core slot id (refuseLane (some (lineOf va)) code)
  | .leat seq =>
    match (s.coreAt core).leat.find? (·.seq == seq) with
    | none => s
    | some e =>
      (s.withdraw core e).refuseGang core e.slot e.blk e.launch code access (e.line * 128 + (e.bytes.head?).elim 0 (·.1)) remote e.super
  | .xfer work u => (s.setUnit core work u (.refused code access va)).at s.now (.transferUnitLanding core work u)
  | .record t =>
    (s.modCore core fun c => { c with recs := replaceFirst (·.ticket.toNat == t) (fun r => { r with inc := some code }) c.recs }).at
      s.now (.recordCounterIncrement core t)

/-! ### Landing (R153, R180, R185, R402) -/

/-- The register value of loaded bytes (R180). -/
def extendLoad (kind : BitVec 3) (bs : List Byte) : Nat :=
  let v := ofBytes bs
  match kind.toNat with
  | 1 => wrap 32 (sext 8 v)
  | 3 => wrap 32 (sext 16 v)
  | _ => v

/-- The lanes of an LDS that read the gate over the bridge take their bytes in the clock of arrival (R212). -/
def State.crossBridge (s : State) (core slot id : Nat) : State :=
  match s.gangAt core slot with
  | none => s
  | some g =>
    let read (kind : BitVec 3) (l : LoadLane) : LoadLane :=
      if l.done then l
      else { l with got := some ((s.blockAt g.blk).elim [] fun b => (List.range (kindSize kind)).map fun j => b.ldsByte 0 (l.addr + j)) }
    s.modPend core slot id fun d => match d.body with
      | .bridge kind t lanes => { d with body := .bridge kind t (lanes.map (read kind)) }
      | _ => d

/-- The function of a core's KV configuration is valid (R462). -/
def Func.kvValid (f : Func) : Bool := f.kvmode.getLsbD 31 && decide (4 ≤ fld f.res.toNat 3 0) && decide (fld f.res.toNat 3 0 ≤ 12)

/-- A resume record waits for room in the function's ring (R400). -/
def State.resumeRecord (s : State) (w : ResumeWait) : State := State.later { s with kvWait := s.kvWait ++ [w] } (.resumeRingRoom w.function)

/-- The error line of a function (R402). -/
def State.errorLine (s : State) (f : Nat) (v : Nat) : State :=
  let b := (s.funcAt f).kvbell.toNat
  if fld b 20 20 = 1 then s.deviceRing (fld b 7 0) (fld b 19 14) v else s

/-- The refusal trap of some lanes of a load; it shows more where more than one refused request covers them (R185, R380). -/
def State.trapLanes (s : State) (core slot : Nat) (g : Gang) (d : Pend) (bad : List LoadLane) : State :=
  match bad with
  | [] => s
  | l :: more =>
    let s := s.refuseGang core slot g.blk g.launch (l.refused.getD 4) 0 l.addr (!s.homedHere l.addr) d.super
    if more.any fun x => lineOf x.addr != lineOf l.addr then s.moreRefused core slot else s

/-- POISON under a current sequence in precise mode: KVRM and p6, the resume record and the error line (R402). -/
def State.poisonLanes (s : State) (core slot : Nat) (g : Gang) (bad : List LoadLane) : State :=
  match bad with
  | [] => s
  | l :: _ =>
    let f := (s.coreAt core).function
    let mask := maskOf fun n => bad.any (·.lane == n)
    let s := s.modGang core slot fun g =>
      { g with kv := { g.kv with rm := g.kv.rm ||| mask }, preds := Sp.set g.preds 6 (Sp.get g.preds 6 &&& ~~~ mask) }
    let ws := [g.kv.curs.toNat, g.kv.curh.toNat % 2 ^ 16, g.kv.curt.toNat, 2 ^ 32 - 1, (g.kv.rm ||| mask).toNat, 2 + f % 128 * 16,
      l.addr / 128 * 128 % 2 ^ 32, l.addr / 2 ^ 32]
    (s.resumeRecord ⟨f, ws.map word, core, slot, g.blk, none⟩).errorLine f g.kv.curs.toNat

/-- What refused lanes of a load do once it lands: lanes refused POISON under a valid current sequence in precise mode are recorded, else the error
line is rung for them (R402, R462); all others trap (R185). -/
def State.refusedLoad (s : State) (core slot : Nat) (g : Gang) (d : Pend) (bad : List LoadLane) : State :=
  let f := s.funcAt (s.coreAt core).function
  let poison := if g.kv.curh.getLsbD 31 then bad.filter (·.refused == some 5) else []
  if poison.isEmpty then s.trapLanes core slot g d bad
  else if f.kvValid && !f.kvmode.getLsbD 0 then
    (s.poisonLanes core slot g poison).trapLanes core slot g d (bad.filter (·.refused != some 5))
  else (s.errorLine (s.coreAt core).function g.kv.curs.toNat).trapLanes core slot g d bad

/-- The return path of a quarter is free once the return that held it has landed or gone (R153). -/
def State.freePath (s : State) (core slot id : Nat) : State :=
  s.modCore core fun c => { c with sched := setAt c.sched (quarterOf slot) fun h => if h.back = some id then { h with back := none } else h }

/-- The end of an outstanding operation: its register writes, and what waited for it. -/
def State.landPend (s : State) (core slot id : Nat) (ws : List RegWrite) : State :=
  let n := writeSlots (((s.gangAt core slot).bind fun g => g.pend.find? (·.id == id)).elim [] (·.regs))
  let s := ((s.writeRegs core slot id ws).takeSlots core (quarterOf slot) n).freePath core slot id
  let s := s.modGang core slot fun g => { g with pend := g.pend.filter (·.id != id) }
  let s := s.modCore core fun c =>
    { c with rels := c.rels.map fun r => { r with reads := r.reads.filter (· != id) } }
  let waits := (s.coreAt core).atoms.filter fun a => a.slot == slot && a.told && a.acqLeft
  let s := waits.foldl (fun s a => s.at s.now (.sliceAtomic core slot a.id false)) s
  (s.settleTrap core slot).wake core

/-- What a lane of a KVX receives (R396, R397): its address and p6, or zeros; p6 stays after PROTECT; after a malformed descriptor both
are free (log entry 21). -/
def kvxWrites (d : Reg) (l : LoadLane) : List RegWrite :=
  let p6 (v : Word) : List RegWrite := [⟨.p 6 l.lane, v⟩]
  if l.helper then destWrites d 2 l.lane 0 ++ p6 0
  else match l.refused with
    | none => destWrites d 2 l.lane l.addr ++ p6 1
    | some 98 => destWrites d 2 l.lane l.addr ++ p6 (word (l.addr / 2 ^ 8 % 2))
    | some code => destWrites d 2 l.lane 0 ++ (if code = 1 ∨ code = 2 ∨ code = 99 then p6 0 else [])

/-- The KVRANGE of a KVX (R396, R416): the lowest cause, with its lowest lane for cause 0. -/
def kvxRange (lanes : List LoadLane) : Option Trap :=
  match lanes.find? (·.refused == some 99), lanes.find? (·.refused == some 98) with
  | some l, _ => some ⟨0x46, word (l.lane * 16), 0, 0, none⟩
  | none, some _ => some ⟨0x46, 3, 0, 0, none⟩
  | none, none => none

/-- A KVX lands (R396, R397). -/
def State.landKvx (s : State) (core slot : Nat) (g : Gang) (d : Pend) (reg : Reg) (stall : Bool) (lanes : List LoadLane) : State :=
  let s := s.landPend core slot d.id (lanes.flatMap (kvxWrites reg))
  let faults := lanes.filter fun l => l.refused == some 1 || l.refused == some 2
  let s := if stall then s.endHold core slot d.lead
    else s.modGang core slot fun g => { g with kv := { g.kv with rm := maskOf fun n => faults.any (·.lane == n) } }
  let bad := lanes.filter fun l => l.refused.elim false fun c => decide (2 < c) && decide (c < 98)
  let s := match bad with
    | [] => s
    | l :: more =>
      let s := s.refuseGang core slot g.blk g.launch (l.refused.getD 4) 0 l.addr (!s.homedHere l.addr) d.super
      if more.any fun x => x.addr / 4096 != l.addr / 4096 then s.moreRefused core slot else s
  match kvxRange lanes with | some t => s.delayTrap core slot t d.super | none => s

/-- The operation's result is complete, so that it can land. -/
def PendBody.ready : PendBody → Bool
  | .value _ => true
  | .trap _ _ => true
  | .load _ _ _ lanes => lanes.all (·.done)
  | .bridge _ _ lanes => lanes.all (·.done)
  | .window _ _ lanes => lanes.all (·.done)
  | .kvx _ _ _ lanes => lanes.all (·.done)
  | _ => false

/-- The register writes of loaded lanes (R180, R185). -/
def loadWrites (kind : BitVec 3) (t : Reg) (lanes : List LoadLane) : List RegWrite :=
  lanes.flatMap fun l => destWrites t (kindRegs kind) l.lane (if l.refused.isSome then 0 else extendLoad kind (l.got.getD []))

/-- Reads that the gang issued before an operation have not returned. -/
def Gang.readsBefore (g : Gang) (id : Nat) : Bool := g.pend.any fun e => e.isRead && decide (e.id < id)

/-- A result is complete and its landing needs only write slots: a BTEST that has observed an advance lands once its acquire is complete (R304). -/
def Gang.returned (g : Gang) (d : Pend) : Bool :=
  match d.body with
  | .observed _ => !g.readsBefore d.id
  | b => b.ready

/-- VARIABLE_RETURN_LANDING (R153): in the first clock with write slots for it. -/
def execVariableReturnLanding (core slot id : Nat) (s : State) : Result :=
  let s := s.crossBridge core slot id
  match s.gangAt core slot with
  | none => .next (s.freePath core slot id)
  | some g =>
    match g.pend.find? (·.id == id) with
    | none => .next (s.freePath core slot id)
    | some d =>
      if g.returned d && !(s.coreAt core).returnMay s.now (quarterOf slot) id (writeSlots d.regs) then .next (s.holdReturn core slot id)
      else match d.body with
      | .value ws => .next (s.landPend core slot id ws)
      | .observed ws => .next (if g.readsBefore id then s.at (s.now + 1) (.variableReturnLanding core slot id) else s.landPend core slot id ws)
      | .load kind t _ lanes =>
        if !lanes.all (·.done) then .next s
        else .next ((s.landPend core slot id (loadWrites kind t lanes)).refusedLoad core slot g d (lanes.filter fun l => l.refused.isSome && !l.helper))
      | .bridge kind t lanes => .next (s.landPend core slot id (loadWrites kind t lanes))
      | .window kind t lanes =>
        if !lanes.all (·.done) then .next s else .next (s.landPend core slot id (loadWrites kind t lanes))
      | .trap ws t => .next ((s.landPend core slot id ws).delayTrap core slot t d.super)
      | .kvx reg stall _ lanes => if !lanes.all (·.done) then .next s else .next (s.landKvx core slot g d reg stall lanes)
      | _ => .next s

end Sys2Proof.Machine
end

