-- ==== Sys2Proof/Machine/Leat.lean ====
section
/-! DEFINITION. The life of leat entries and second-level lines: sealing, publication, drains, application at the slices, stamps,
acknowledgements, ownership, and departures (R165 to R169, R254 to R262, R276 to R292, R461). -/

namespace Sys2Proof.Machine

open Sys2Proof

/-! ### Sealing and publication (R168, R256, R257) -/

/-- The newest release mark below which every entry is sealed. -/
def newestMark : List LeatEntry → Option Word → Option Word
  | [], m => m
  | e :: es, m => if !e.sealed then m else newestMark es (if e.relm.isSome then some e.seq else m)

/-- s lies in c < s ≤ t, modulo 2^32 (R461). -/
def seqIn (c s t : Word) : Bool := decide (0 < (s - c).toNat) && decide ((s - c).toNat ≤ (t - c).toNat)

/-- Leased copies leave, and the cursor moves to the tail (R258, R461). -/
def State.cursorJump (s : State) (core source : Nat) (tail : Word) : State :=
  s.modCore core fun c => { c with l1 := c.l1.filter (·.treat != 1), cursors := Sp.set c.cursors source tail }

/-- Before a cursor falls 2^31 − 2^12 behind (R461). -/
def State.cursorLimit (s : State) (core source : Nat) : State :=
  let t := (s.coreAt source).pubTail
  if 2 ^ 31 - 2 ^ 12 ≤ (t - Sp.get (s.coreAt core).cursors source).toNat then s.cursorJump core source t else s

/-- LEAT_TAIL_PUBLISH (R256): the tail advances, is broadcast, and releases up to it count their 8 clocks. -/
def State.publish (s : State) (core : Nat) : State :=
  let c := s.coreAt core
  match newestMark c.leat none with
  | none => s
  | some m =>
    if seqLe m c.pubTail then s
    else
      let note (r : Release) : Release :=
        match r.seq with
        | some q => if r.published.isNone && !r.fence && seqLe q m then { r with published := some s.now } else r
        | none => r
      let s := s.modCore core fun c => { c with pubTail := m, pubClock := s.now, rels := c.rels.map note }
      let s := s.at (s.now + 8) (.tailBroadcastArrival core m)
      let s := c.rels.foldl (fun s r => s.at (s.now + 8) (.releaseCompletion core r.id)) s
      let s := (s.clusterCores core).foldl (fun s k => if k = core then s else s.cursorLimit k core) s
      s.at (s.now + 8) (.leatDrainStart core)

/-- LEAT_ENTRY_SEAL (R168): an entry that took a later seal time is sealed then (R169). -/
def execLeatEntrySeal (core : Nat) (seq : Word) (s : State) : Result :=
  match (s.coreAt core).leat.find? (·.seq == seq) with
  | none => .next s
  | some e =>
    if e.sealed then .next s
    else if s.now < e.sealAt then .next (s.at e.sealAt (.leatEntrySeal core seq))
    else
      let s := s.modCore core fun c => { c with leat := replaceFirst (·.seq == seq) (fun x => { x with sealed := true }) c.leat }
      .next (((s.publish core).drain core).at (s.now + 1024) (.leatDrainStart core))

/-- TAIL_BROADCAST_ARRIVAL (R257): every core of the cluster has the tail. -/
def execTailBroadcastArrival (core : Nat) (tail : Word) (s : State) : Result :=
  .next ((List.range 16).foldl (fun s k => s.modCore (clusterOf core * 16 + k) fun c => { c with tailSeen := Sp.set c.tailSeen core tail }) s)

/-- REPLAY_CURSOR_LIMIT (R461). -/
def execReplayCursorLimit (core source : Nat) (s : State) : Result := .next (s.cursorLimit core source)

/-- A load that waits for a line was issued after entry A and before entry B. -/
def State.loadBetween (s : State) (core line : Nat) (a b : Word) : Bool :=
  (s.coreAt core).gangs.any fun g => g.2.pend.any fun d => match d.body with
    | .load _ _ seq lanes => seqIn a seq b && lanes.any fun l => !l.done && lineOf l.addr == line
    | _ => false

/-- What waits for entry B of a leat waits for entry A that has taken its bytes. -/
def Core.inPlaceOf (c : Core) (core : Nat) (b a : Word) : Core :=
  let put (l : List (Nat × Word)) : List (Nat × Word) := (l.map fun x => if x = (core, b) then (core, a) else x).dedup
  let putP (l : List (Nat × Parked)) : List (Nat × Parked) := (l.map fun x => if x = (core, .leat b) then (core, .leat a) else x).dedup
  { c with rels := c.rels.map fun r => { r with entries := put r.entries, cleans := putP r.cleans }
           promos := c.promos.map fun r => { r with entries := put r.entries }
           works := c.works.map fun w => { w with after := put w.after }
           recs := c.recs.map fun r => { r with afterEntries := put r.afterEntries } }

/-- LEAT_COMPACTION (R169): entry B joins entry A, when the pair is eligible; the entries after A follow it without a gap. -/
def execLeatCompaction (core : Nat) (seqA seqB : Word) (s : State) : Result :=
  let l := (s.coreAt core).leat
  match l.find? (·.seq == seqA), l.find? (·.seq == seqB) with
  | some a, some b =>
    let between := l.filter fun e => seqIn seqA e.seq seqB && e.seq != seqB
    if seqIn seqA seqB (seqA + 64) && a.line == b.line && a.relm.isNone && b.relm.isNone && a.slot == b.slot && a.blk == b.blk
        && a.epoch == b.epoch && !a.sealed && !b.sealed && !between.any (fun e => e.relm.elim false fun r => decide (2 ≤ r.toNat))
        && !s.loadBetween core a.line seqA seqB then
      let bytes := (a.bytes.filter fun x => !b.bytes.any (·.1 == x.1)) ++ b.bytes
      let merged : LeatEntry := { a with bytes := bytes.insertionSort (fun x y => x.1 ≤ y.1), sealAt := b.sealAt, atom := a.atom || b.atom, urged := a.urged || b.urged }
      let before := l.takeWhile (·.seq != seqA)
      let r := layEntries a.pos (merged :: (l.drop (before.length + 1)).filter (·.seq != seqB))
      let s := s.modCore core fun c => { c with leat := before ++ r.1, leatEnd := r.2 }
      .next { s with cores := s.cores.map fun k => (k.1, k.2.inPlaceOf core seqB seqA) }
    else .next s
  | _, _ => .next s

/-! ### Drains (R168, R255, R260, R304) -/

/-- Entries after the mark of an incomplete release stay in the core: at cluster scope until 8 clocks after its publication, beyond until it
completes (R304). -/
def Release.holdsEntries (r : Release) (now : Nat) : Bool :=
  match r.scope.toNat with
  | 0 => false
  | 1 => r.published.elim true fun t => decide (now < t + 8)
  | _ => true

/-- What a scan of the ring may send, oldest first: entries to send, and a release mark that leaves. -/
def drainScan (c : Core) (now : Nat) : List LeatEntry → List Nat → Bool → List LeatEntry
  | [], _, _ => []
  | e :: es, regions, first =>
    if e.relm.isSome then (if first && e.sealed && !e.sent then [e] else [])
    else if e.sent then drainScan c now es regions false
    else if e.parked.isSome then
      if es.any (·.relm.isSome) then [] else drainScan c now es (e.line / 512 :: regions) false
    else
      let due := e.urged || decide (e.sealAt + 1024 ≤ now) || decide (1024 < c.ringUsed)
      let released := !c.rels.any fun r => r.seq.elim false fun q => q != e.seq && seqLe q e.seq && r.holdsEntries now
      let told := seqLe e.seq c.pubTail || decide (c.pubClock + 8 ≤ now) || c.pubClock == 0
      if !e.sealed || !due || !released || !told || c.filter.any (·.line == e.line) then []
      else if regions.contains (e.line / 512) then drainScan c now es regions false
      else e :: drainScan c now es regions false

/-- LEAT_DRAIN_START (R255): the tail is published where nothing unsealed holds it any more (R256), and what may leave goes to the port: an entry
on its way to its slice, and a mark that is first and sealed, which leaves the ring as it passes (R165). -/
def execLeatDrainStart (core : Nat) (s : State) : Result :=
  let s := s.publish core
  let c := s.coreAt core
  .next ((drainScan c s.now c.leat [] true).foldl (fun s e =>
    (s.modCore core fun c => { c with leat := replaceFirst (·.seq == e.seq) (fun x => { x with sent := true }) c.leat }).toPort
      core e.granules (if e.relm.isSome then .leatDrainAck core e.seq s.now else .sliceEntryApply core e.seq)) s)

/-! ### At the slice (R281 to R286) -/

/-- A slice takes line ownership: the other die's slice gives the line up with its lease horizon, that of its set for a line it holds no more
(R283, R286). -/
def State.takeOwnership (s : State) (die line : Nat) : State :=
  if (s.lineIn die line).elim false (·.owned) then s else
  let hz := Nat.max ((s.sliceAt (sliceKey (1 - die) line)).horizon line) ((s.lineIn (1 - die) line).elim 0 (·.hz))
  let newer := ((s.lineIn (1 - die) line).elim false fun x => x.owned)
  let s := s.evictLine (1 - die) line
  let s := if newer then s.modLine die line fun x => { x with data := s.homeLine line } else s
  s.modLine die line fun x => { x with owned := true, hz := if x.treat = 1 then Nat.max x.hz hz else x.hz }

/-- OWNERSHIP_REQUEST (R286). -/
def execOwnershipRequest (die line : Nat) (s : State) : Result := .next (s.takeOwnership die line)

/-- LINE_OWNERSHIP_RECALL (R292). -/
def execLineOwnershipRecall (die line : Nat) (s : State) : Result := .next (s.recallOwner die line)

/-- DIRTY_WRITEBACK (R285): a line leaves its slice. -/
def execDirtyWriteback (die line : Nat) (s : State) : Result := .next (s.evictLine die line)

/-- LEASE_EXPIRY (R283). -/
def execLeaseExpiry (core line : Nat) (s : State) : Result :=
  .next (s.modCore core fun c => { c with l1 := c.l1.filter fun l => !(l.line == line && l.treat == 1 && decide (l.leaseEnd ≤ s.now)) })

/-- FIRST_LEVEL_COPY_DEPARTURE (R154): an owned line goes back to its slice. -/
def execFirstLevelCopyDeparture (core line : Nat) (s : State) : Result :=
  .next (s.dropCopy core line)

/-- The stamp of a write applied now to a line (R281, R283). -/
def L2Line.stamp (x : L2Line) (now : Nat) : Nat := if x.treat = 1 then Nat.max now x.hz else now

/-- Write bytes into an owned line of a slice. -/
def State.patchLine (s : State) (die line : Nat) (bytes : List (Nat × Byte)) : State :=
  (s.modLine die line fun x => { x with data := Sp.setAll x.data bytes, dirty := true }).counterChanged line

def State.setEntry (s : State) (core : Nat) (seq : Word) (f : LeatEntry → LeatEntry) : State :=
  s.modCore core fun c => { c with leat := replaceFirst (·.seq == seq) f c.leat }

/-- A write has been applied to a tracked line: every other sharer is told; whether it waits for their acknowledgements, or for those of
earlier writes of the line that are still out (R281, R282). -/
def State.tellSharers (s : State) (die line core : Nat) (what : Parked) : State × Bool :=
  match s.lineIn die line with
  | none => (s, false)
  | some x =>
    if x.treat ≠ 0 then (s, false)
    else
      let others := x.sharers.filter (· != core)
      let acks := (others ++ (x.waits.flatMap (·.acks)).filter (· != core)).dedup
      if acks.isEmpty then (s, false)
      else
        let s := s.modLine die line fun y => { y with sharers := y.sharers.filter (· == core), waits := y.waits ++ [⟨core, what, acks⟩] }
        (others.foldl (fun s k => s.later (.invalidationAck die line k)) s, true)

/-- A drained entry is applied to its line in the slice (R282, R284), after the loads issued before it; the acknowledgement waits for those of
the sharers. -/
def State.applyEntry (s : State) (core die : Nat) (e : LeatEntry) : State :=
  let s := (s.recallOwner die e.line).takeOwnership die e.line
  let s := s.giveLine core die e.line fun q => seqLe q e.seq
  let s := (s.patchLine die e.line e.bytes).setEntry core e.seq fun x => { x with applied := true }
  let r := s.tellSharers die e.line core (.leat e.seq)
  if r.2 then r.1 else r.1.later (.leatDrainAck core e.seq ((r.1.lineIn die e.line).elim s.now (·.stamp s.now)))

/-- The operation that a release names among what it waits for: an atomic or an engine work. -/
def opId : Parked → Option Nat
  | .pend _ id => some id
  | .xfer w _ => some w
  | _ => none

/-- A write's CLEAN is still to come; the releases of pod scope that wait for what wrote wait for it as well (R316, R446). -/
def State.cleanLater (s : State) (d : CleanDue) : State :=
  let note (r : Release) : Release :=
    if 4 ≤ r.scope.toNat ∧ ((opId d.what).elim false r.works.contains) = true then { r with cleans := r.cleans ++ [(d.core, d.what)] } else r
  { s with cleanDue := s.cleanDue ++ [d], cores := s.cores.map fun c => (c.1, { c.2 with rels := c.2.rels.map note }) }

/-- Some CLEANs have come: what waits for them goes on (R441, R446). -/
def State.cleaned (s : State) (p : CleanDue → Bool) : State :=
  let left := s.cleanDue.filter fun d => !p d
  let gone := (s.cleanDue.filter p).filter fun d => !left.any fun e => e.core == d.core && e.what == d.what
  let inRing (d : CleanDue) : Bool := match d.what with | .leat q => (s.coreAt d.core).leat.any (·.seq == q) | _ => false
  let note (r : Release) : Release := { r with cleans := r.cleans.filter fun x => !gone.any fun d => x == (d.core, d.what) && !inRing d }
  let s : State := { s with cleanDue := left, cores := s.cores.map fun c => (c.1, { c.2 with rels := c.2.rels.map note }) }
  (s.cores.map (·.1)).foldl (fun s k => s.wake k) s

/-- A device that holds a ticket is told to give it up, and is lost when it has not done so within FABTMO clocks (R445, R453). -/
def State.revokeFrom (s : State) (region device : Nat) : State :=
  (State.tellDevice { s with tickets := replaceFirst (·.region == region) (fun t => { t with revoking := t.revoking ++ [(device, s.now)] }) s.tickets }
    device (region * 2 ^ 16) .revoke).at (s.now + s.pr.fabtmo.toNat * 1024) (.ticketHolderLost device region)

/-- A write applied at its home makes the READ tickets of the region stale: they are revoked, and `who` waits for that with its CLEAN
(R444, R446). -/
def State.staleTickets (s : State) (va : Nat) (who : Option CleanDue) : State :=
  match s.tickets.find? fun t => t.region == regionOf va && (!t.readers.isEmpty || !t.revoking.isEmpty) with
  | none => s
  | some t =>
    let s := match who with | some d => s.cleanLater d | none => s
    (t.readers.filter fun d => !t.revoking.any (·.1 == d)).foldl (fun s d => s.revokeFrom t.region d) s

/-- A region's WRITE ticket is handed over before anything of the region is served (R444). -/
def State.recallTicket (s : State) (va : Nat) : State :=
  match s.tickets.find? fun t => t.region == regionOf va && t.writer.isSome with
  | none => s
  | some t =>
    let d := t.writer.getD 0
    if t.revoking.any (·.1 == d) then s else s.revokeFrom t.region d

/-- A request waits at the ticket home, in the order of arrival (R444); its home has served it (R388). -/
def State.queueAt (s : State) (region : Nat) (r : HomeReq) : State :=
  { s with served := if s.served.contains (.homeRequest r) then s.served else .homeRequest r :: s.served
           tickets := replaceFirst (·.region == region) (fun t => { t with queue := if t.queue.contains r then t.queue else t.queue ++ [r] }) s.tickets }

/-- The request at the head of a region's queue is looked at (again). -/
def State.nextAt (s : State) (region : Nat) : State :=
  match (s.tickets.find? (·.region == region)).bind (·.queue.head?) with
  | some r => s.at s.now (.homeRequest r)
  | none => s

/-- A request that has had its turn leaves the queue, and the next is looked at. -/
def State.turnOver (s : State) (region : Nat) (r : HomeReq) : State :=
  if (s.tickets.find? (·.region == region)).elim false (fun t => t.queue.head? == some r) then
    State.nextAt { s with tickets := replaceFirst (·.region == region) (fun t => { t with queue := t.queue.drop 1 }) s.tickets } region
  else s

/-- A request that the home has accepted is decided in its turn among those of its region: behind those that came before it, and behind the
hand-over of another's WRITE ticket (R444). -/
def State.inTurn (s : State) (r : HomeReq) (device : Option Nat) (go : State → Result) : Result :=
  let k := regionOf r.va
  match s.tickets.find? (·.region == k) with
  | none => go s
  | some t =>
    if t.queue.head?.elim false (· != r) then .next (s.queueAt k r)
    else if t.writer.isSome && (t.writer != device || t.revoking.any fun x => some x.1 != device) then .next ((s.queueAt k r).recallTicket r.va)
    else go (s.turnOver k r)
/-- An entry applied at the home without allocation (R277, R375, R444). -/
def State.applyAtHome (s : State) (core : Nat) (e : LeatEntry) : State :=
  let s := (s.flushLine e.line).giveLine core (dieOf core) e.line fun q => seqLe q e.seq
  let s := s.staleTickets (e.line * 128) (some ⟨core, .leat e.seq, e.slot, e.blk, e.bytes.map (e.line * 128 + ·.1), true⟩)
  let s := (e.bytes.foldl (fun s b => s.setHomeByte (e.line * 128 + b.1) b.2) s).counterChanged e.line
  let s := if e.bytes.length = 128 then s.clearPoison (e.line * 128) else s
  (s.setEntry core e.seq fun x => { x with applied := true }).later (.leatDrainAck core e.seq s.now)

/-- The home request of a drained entry. -/
def entryReq (core : Nat) (e : LeatEntry) : HomeReq :=
  ⟨1, e.line * 128, true, e.bytes.length == 128, .core core (.leat e.seq), [], 0⟩

/-- SLICE_ENTRY_APPLY (R284, R285): a hit is applied when the home's rules allow the write, a miss fetches the line from the home; writes of one
line take effect in their order of arrival, the entries of one leat in SEQ order. -/
def execSliceEntryApply (core : Nat) (seq : Word) (s : State) : Result :=
  let l := (s.coreAt core).leat
  match l.find? (·.seq == seq) with
  | none => .next s
  | some e =>
    if !e.sent || e.applied || e.parked.isSome then .next s
    else if l.any fun x => x.sent && !x.applied && x.parked.isNone && x.seq != seq && seqLe x.seq seq then
      .next (s.at (s.now + 1) (.sliceEntryApply core seq))
    else
      let s := s.arrives core (.leat seq) e.line
      let die := dieOf core
      let va := e.line * 128
      if s.behind core (.leat seq) e.line e.line then .next (s.at (s.now + 1) (.sliceEntryApply core seq))
      else
      let s := if (s.lineIn die e.line).isSome then s.countOnce core (.leat seq) e.line e.line else s
      if (s.lineIn die e.line).isSome && (s.holdsWrite va || s.homeCheck 1 va true (e.bytes.length == 128) none false == 0) then
        let s := (s.markPage va true).useTicket va
        if (s.pageOf va).elim false fun p => p.mov.isSome then .next (s.applyAtHome core e) else .next (s.applyEntry core die e)
      else .next ((s.fetchBegins core (.leat seq) e.line).sendHome core (.leat seq) (entryReq core e))

/-- SLICE_MISS_MERGE (R285): the home has accepted the entry's line: it is allocated and written, or written at the home. -/
def execSliceMissMerge (core : Nat) (seq : Word) (s : State) : Result :=
  match (s.coreAt core).leat.find? (·.seq == seq) with
  | none => .next s
  | some e =>
    if e.applied then .next s
    else if (s.mayWrite (e.line * 128) && (s.lineIn (dieOf core) e.line).isSome) || s.mayTake (s.maskFor core (.leat seq) e.line) (e.line * 128) then
      let die := dieOf core
      let s := if (s.lineIn die e.line).isSome then s
        else s.fillLine (s.classFor core (.leat seq) e.line) (s.maskFor core (.leat seq) e.line) die e.line
      let s := if e.bytes.length = 128 then s.clearPoison (e.line * 128) else s
      .next (s.applyEntry core die e)
    else .next (s.applyAtHome core e)

/-- LEAT_DRAIN_ACK (R167): the entry leaves the ring with a trail record. -/
def execLeatDrainAck (core : Nat) (seq : Word) (stamp : Nat) (s : State) : Result :=
  if ((s.coreAt core).leat.any (·.seq == seq)) then .next (s.entryGone core seq stamp true) else .next s

/-- INVALIDATION_ACK (R282): the sharer's copy is gone; a write whose last acknowledgement this is takes this clock as its stamp. -/
def execInvalidationAck (die line core : Nat) (s : State) : Result :=
  let s := s.dropCopy core line
  match s.lineIn die line with
  | none => .next s
  | some x =>
    let ws := x.waits.map fun w => { w with acks := w.acks.filter (· != core) }
    let done := ws.filter (·.acks.isEmpty)
    let s := s.modLine die line fun y => { y with waits := ws.filter fun w => !w.acks.isEmpty }
    .next (done.foldl (fun s w => s.acked w) s)

end Sys2Proof.Machine
end

