-- ==== Sys2Proof/Machine/Ordering.lean ====
section
/-! DEFINITION. Releases, acquires, the cluster replay, ACQL and promotions, range fences, and cache control (R258 to R266, R315 to R322,
R328 to R330). -/

namespace Sys2Proof.Machine

open Sys2Proof

/-! ### Releases (R318 to R320) -/

/-- The incomplete releases of a gang (R320). -/
def Core.relsOf (c : Core) (slot blk : Nat) : List Release := c.rels.filter fun r => r.slot == slot && r.blk == blk

/-- A ninth release waits (R320). -/
def relFull (s : State) (p : Party) : Bool := decide (8 ≤ ((s.coreAt p.core).relsOf p.slot p.g.blk).length)

/-- Every read the gang has issued and that has not returned. -/
def readsOf (s : State) (p : Party) : List Nat := ((s.gangAt p.core p.slot).elim [] fun g => g.pend.map (·.id))

/-- The gang's window writes that have not landed (R189). -/
def winsOf (s : State) (p : Party) : List Nat :=
  ((s.coreAt p.core).wins.filter fun w => w.slot == p.slot && w.blk == p.g.blk && w.write.isSome).map (·.id)

/-- Entries of the ring, without marks, as (core, SEQ). -/
def entriesOf (core : Nat) (l : List LeatEntry) : List (Nat × Word) := (l.filter (·.relm.isNone)).map fun e => (core, e.seq)

/-- A write leaves the core: an atomic through the port, 8 flits a lane, unless the core owns its lines (R268, R292); else at an open
latency. -/
def State.leaveCore (s : State) (core : Nat) (e : Instr) : State :=
  match e with
  | .sliceAtomic k _ id _ =>
    match (s.coreAt k).atoms.find? (·.id == id) with
    | none => s
    | some a =>
      let own (l : AtomLane) : Bool := (s.coreAt k).l1.any fun x => x.line == lineOf l.addr && x.owned
      if a.scope = 0 ∨ a.lanes.all own = true then s.at s.now e else s.toPort core (8 * a.lanes.length) e
  | _ => s.later e

/-- The atomics of cluster scope or wider that a release comes after (R302, R304): those of the gang, and those of the core that are
performed and not yet visible. -/
def atomsOf (s : State) (p : Party) : List Nat :=
  ((s.coreAt p.core).atoms.filter fun a => a.scope != 0 && ((a.slot == p.slot && a.blk == p.g.blk) || (a.told && (a.waiting != 0 || decide (s.now < a.stamp))))).map (·.id)

/-- A core-scope atomic of the gang has not been performed: a release or a fork edge after it waits, since its entry comes into the leat when
it is (R166, R302; log entry 98). -/
def coreAtomOut (s : State) (p : Party) : Bool :=
  (s.coreAt p.core).atoms.any fun a => a.scope == 0 && !a.told && a.slot == p.slot && a.blk == p.g.blk

/-- What a release waits for before it is issued: a core-scope atomic of the gang that has not been performed, and at core or cluster scope, whose
later writes are seen at once, the atomics and the window writes before it (R301, R302, R305; log entry 37). -/
def relEarly (s : State) (p : Party) (scope : BitVec 3) : Bool :=
  let mine (a : AtomOp) : Bool := a.scope != 0 && !a.told && a.slot == p.slot && a.blk == p.g.blk
  coreAtomOut s p || (scope == 0 && (s.coreAt p.core).atoms.any mine) || (scope == 1 && !(atomsOf s p).isEmpty)
    || (decide (scope.toNat < 2) && !(winsOf s p).isEmpty)

/-- The stores to scratch of the gang from its tiles that are under way (R243, R318). -/
def movesOf (s : State) (p : Party) : List Nat :=
  ((s.coreAt p.core).moves.filter fun m => m.store && m.slot == p.slot && m.blk == p.g.blk).map (·.first)

/-- The entries a core has replayed that are still in their rings (R258, R318). -/
def State.sourcesOf (s : State) (core : Nat) : List (Nat × Word) :=
  (((s.coreAt core).filter.filter fun f => (s.coreAt f.src).leat.any (·.seq == f.seq)).map fun f => (f.src, f.seq)).dedup

/-- What a release of die scope or wider covers (R318): the entries of the core's leat and those it has replayed. -/
def State.coveredBy (s : State) (core : Nat) : List (Nat × Word) := entriesOf core (s.coreAt core).leat ++ s.sourcesOf core

/-- The largest stamp of the core's acknowledged entries that lies ahead (R288). -/
def Core.stampAhead (c : Core) : Nat := c.unpassed.foldl (fun m u => Nat.max m u.stamp) 0

/-- The writes of this package whose CLEAN is still to come (R316, R446): those of any core, since a release covers what its gang has acquired
(R302; log entry 122). -/
def State.unclean (s : State) : List (Nat × Parked) := (s.cleanDue.map fun d => (d.core, d.what)).dedup

/-- The drains a release of die scope or wider, or a fork edge, asks for (R255). -/
def State.urgeCovered (s : State) (core : Nat) : State :=
  (s.sourcesOf core).foldl (fun s f => s.urge f.1 fun e => e.seq == f.2) (s.urge core fun _ => true)

/-- A release of the executing party (R318): its mark, what it covers, and the drains it urges. -/
def State.startRelease (s : State) (p : Party) (scope : BitVec 3) : State :=
  let c := s.coreAt p.core
  let wide := decide (2 ≤ scope.toNat)
  let covered := if wide then s.coveredBy p.core else []
  let r : Release := ⟨s.fresh, p.slot, p.g.blk, scope, if scope = 0 then none else some c.leatSeq, false, covered,
    if 4 ≤ scope.toNat then covered.map (fun e => (e.1, .leat e.2)) ++ s.unclean else [],
    if scope = 0 then [] else atomsOf s p, readsOf s p, winsOf s p, movesOf s p, if wide then c.stampAhead else 0, none, none⟩
  let s := (s.modCore p.core fun c => { c with rels := c.rels ++ [r] }).bump
  let s := if scope = 0 then s else s.appendEntry p.core p.slot p.g 0 [] (some scope) false
  let s := if wide then s.urgeCovered p.core else s
  s.at s.now (.releaseCompletion p.core r.id)

/-- A write leaves once some releases have completed. -/
def State.afterThese (s : State) (p : Party) (ids : List Nat) (e : Instr) : State :=
  if ids.isEmpty then s.leaveCore p.core e
  else s.modCore p.core fun c => { c with heldOps := c.heldOps ++ [⟨p.slot, p.g.blk, ids, e⟩] }

/-- A write leaves once every release its gang issued before it has completed (R319, R409). -/
def State.afterReleases (s : State) (p : Party) (e : Instr) : State :=
  s.afterThese p (((s.coreAt p.core).relsOf p.slot p.g.blk).map (·.id)) e

/-- A release has ended: what waited for it alone goes on, in issue order. -/
def State.releaseGone (s : State) (core id : Nat) : State :=
  let hs := (s.coreAt core).heldOps.map fun h => { h with rels := h.rels.filter (· != id) }
  let s := s.modCore core fun c => { c with rels := c.rels.filter (·.id != id), heldOps := hs.filter fun h => !h.rels.isEmpty }
  let s := (hs.filter fun h => h.rels.isEmpty).foldl (fun s h => s.leaveCore core h.ev) s
  s.wake core

/-- When a release may complete: none while something it waits for is outstanding, else the clock (R318, R288, R257, R446). A fence waits for
no read (R312). -/
def Release.ready (r : Release) (c : Core) : Option Nat :=
  if (!r.fence && !r.reads.isEmpty) || !r.wins.isEmpty || c.moves.any (fun m => r.moves.contains m.first) || r.works.any (fun w => c.works.any (·.id == w) || c.recs.any (·.work == w) || c.atoms.any (·.id == w)) then none
  else if r.scope = 0 then some 0
  else if r.scope = 1 then r.published.map (· + 8)
  else if r.entries.isEmpty && (r.scope.toNat < 4 || r.cleans.isEmpty) then some r.stamp else none

/-- A page of the host-memory tier, or in host bias (R315). -/
def Page.ofHost (p : Page) : Bool := p.tier == 2 || p.hostBias

/-- The dirty lines of host pages are written back to the host (R315). -/
def State.hostBack (s : State) : State :=
  let lines := s.slices.flatMap fun k => (k.2.lines.filter fun l => (l.dirty || l.coreOwner.isSome) && (s.pageOf (l.line * 128)).elim false Page.ofHost).map fun l => (k.1 / 4096, l.line)
  lines.foldl (fun s l =>
    let s := s.recallOwner l.1 l.2
    match s.lineIn l.1 l.2 with
    | some x => (s.setHomeBytes (l.2 * 128) (lineBytes x.data 0 128)).modLine l.1 l.2 fun y => { y with dirty := false }
    | none => s) s

/-- A release of SYSTEM scope waits for the host to acknowledge, which it does at an open latency (R315; log entry 99). -/
def State.toHost (s : State) (core id : Nat) : State :=
  let s := s.hostBack
  let t := s.now + 1 + Config.latency s.fresh
  (s.modCore core fun c => { c with rels := replaceFirst (·.id == id) (fun r => { r with host := some t }) c.rels }).bump.at t (.releaseCompletion core id)

/-- RELEASE_COMPLETION (R318). -/
def execReleaseCompletion (core id : Nat) (s : State) : Result :=
  match (s.coreAt core).rels.find? (·.id == id) with
  | none => .next s
  | some r =>
    match r.ready (s.coreAt core) with
    | none => .next s
    | some t =>
      if s.now < t then .next (s.at t (.releaseCompletion core id))
      else if r.scope ≠ 5 ∨ s.pages.all (fun p => !p.ofHost) = true then .next (s.releaseGone core id)
      else match r.host with
        | some h => if s.now < h then .next (s.at h (.releaseCompletion core id)) else .next (s.releaseGone core id)
        | none => .next (s.toHost core id)

/-- REL (R318, R319). -/
def execRel (scope : BitVec 3) (s : State) : Result :=
  s.issue (.rel scope) fun p =>
    if !p.once then s.advance p
    else if relFull s p || relEarly s p scope || (scope != 0 && decide (2048 < (s.coreAt p.core).ringHeld + 1)) then s.stall p
    else (s.startRelease p scope).advance p

/-- Whether bytes of a line lie in a range of addresses, modulo 2^64 (R322). -/
def inRange (base len va : Nat) : Bool := decide ((va + 2 ^ 64 - base) % 2 ^ 64 < len)

/-- The destination bytes of a unit in a range. -/
def XUnit.hits (u : XUnit) (base len : Nat) : Bool :=
  let bytes (d n : Nat) : Bool := match u.dst with
    | .mem va => (List.range n).any fun k => inRange base len (va + d + k)
    | .scratch _ _ _ => false
  if u.parts.isEmpty then bytes 0 u.len else u.parts.any fun x => bytes x.2.1 x.2.2

/-! ### Replay (R258 to R262) -/

/-- Set a core's cursor. -/
def State.setCursor (s : State) (core source : Nat) (t : Word) : State := s.modCore core fun c => { c with cursors := Sp.set c.cursors source t }

/-- Patch an entry into the acquirer's copy and enter it in the filter (R258). -/
def State.patchFrom (s : State) (core source : Nat) (e : LeatEntry) : State :=
  s.modCore core fun c =>
    { c with l1 := c.l1.map fun l => if l.line = e.line then { l with data := Sp.setAll l.data e.bytes } else l
             filter := c.filter ++ [⟨e.line, source, e.seq⟩] }

/-- Replay entries in ascending SEQ, but for those replayed already, while the filter has room; and those that found none (R261, R264). -/
def replayEntries (core source : Nat) : List LeatEntry → State → State × List LeatEntry
  | [], s => (s, [])
  | e :: es, s =>
    if e.relm.isSome || ((s.coreAt core).filter.any fun f => f.src == source && f.seq == e.seq) then replayEntries core source es s
    else if 512 ≤ (s.coreAt core).filter.length then (s, (e :: es).filter (·.relm.isNone))
    else replayEntries core source es (s.patchFrom core source e)

/-- Entries of another leat that are acknowledged with stamps ahead: who has acquired them releases them too (R302). -/
def State.takeUnpassed (s : State) (core source : Nat) (p : Word → Bool) : State :=
  let us := (s.coreAt source).unpassed.filter fun u => u.core == source && p u.entry.seq && decide (s.now < u.stamp)
  s.modCore core fun c => { c with unpassed := c.unpassed ++ us.filter fun u => !c.unpassed.contains u }

/-- The trail records of a leat from the cursor on to a SEQ: their lines leave the first level, and every leased one where a record has left
the trail (R258). -/
def State.replayTrail (s : State) (core source : Nat) (cur upto : Word) : State :=
  let x := s.coreAt source
  let s := (x.trail.filter fun t => seqIn cur t.2 upto).foldl (fun s t => s.dropCopy core t.1) s
  let s := if seqIn cur x.trailFloor (cur + (2 ^ 31 - 1)) then s.modCore core fun c => { c with l1 := c.l1.filter (·.treat != 1) } else s
  s.takeUnpassed core source fun q => seqIn cur q upto

/-- Entries that found the filter full have drained: they are trail records now (R261); false while one has not. -/
def State.replayFull (s : State) (core source : Nat) : State × Bool :=
  match (s.coreAt core).fullAt.find? (·.1 == source) with
  | none => (s, true)
  | some (_, upto) =>
    let cur := Sp.get (s.coreAt core).cursors source
    if (s.coreAt source).leat.any fun e => e.relm.isNone && seqIn cur e.seq upto then (s, false)
    else
      let s := (s.replayTrail core source cur upto).setCursor core source upto
      (s.modCore core fun c => { c with fullAt := c.fullAt.filter (·.1 != source) }, true)

/-- Replay one leat up to a tail (R258); false while entries that found the filter full have not drained (R261). -/
def State.replayLeat (s : State) (core source : Nat) (tail : Word) : State × Bool :=
  if (s.coreAt source).domain ≠ (s.coreAt core).domain then (s, true)
  else
    let f := s.replayFull core source
    let s := f.1
    let cur := Sp.get (s.coreAt core).cursors source
    if !f.2 then (s, false)
    else if tail = cur then (s, true)
    else
      let r := replayEntries core source ((s.coreAt source).leat.filter fun e => seqIn cur e.seq tail) s
      let s := r.1.replayTrail core source cur tail
      match r.2 with
      | [] => (s.setCursor core source tail, true)
      | e :: es =>
        let s := s.urge source fun x => (e :: es).any (·.seq == x.seq)
        ((s.setCursor core source (e.seq - 1)).modCore core fun c => { c with fullAt := c.fullAt ++ [(source, tail)] }, false)

/-- CLUSTER_REPLAY (R258): the other leats of the cluster in ascending core number, at the tails that have arrived. -/
def State.clusterReplay (s : State) (core : Nat) : State × Bool :=
  (List.range 16).foldl (fun r k =>
    let x := clusterOf core * 16 + k
    if x = core then r
    else
      let n := r.1.replayLeat core x (Sp.get (r.1.coreAt core).tailSeen x)
      (n.1, r.2 && n.2)) (s, true)

/-- What an acquire of a scope does beside waiting for reads (R321, R315). -/
def State.acquire (s : State) (core : Nat) (scope : BitVec 3) : State × Bool :=
  if scope = 0 then (s, true)
  else
    let r := s.clusterReplay core
    if scope = 5 then
      ((((s.coreAt core).l1.filter fun l => (s.pageOf (l.line * 128)).elim false Page.ofHost).map (·.line)).foldl (fun s l => s.dropCopy core l) r.1, r.2)
    else r

/-- ACQ (R321): not ready while an earlier read of the gang is outstanding, or the replay waits for room in the filter. -/
def execAcq (scope : BitVec 3) (s : State) : Result :=
  s.issue (.acq scope) fun p =>
    if !p.once then s.advance p
    else if !p.g.pend.isEmpty then s.stall p
    else
      let r := s.acquire p.core scope
      if r.2 then r.1.advance p else r.1.stall p

/-- A cluster takes blocks while its bit of CLUMAP is set (R271, R434). -/
def State.clusterUp (s : State) (core : Nat) : Bool := s.pr.clumap.getLsbD (clusterOf core)

/-- The promotion that an ACQL of the party waits for. -/
def promoOf (c : Core) (p : Party) (kind : Nat) : Option Promo := c.promos.find? fun r => r.kind == kind && r.slot == p.slot && r.lead == p.lead

/-- Wait for entries: the party holds until they are acknowledged (and, for kind 0, their stamps and one that lies ahead have passed). -/
def State.waitEntries (s : State) (p : Party) (kind : Nat) (es : List (Nat × Word)) (stamp : Nat) (upto : Option (Nat × Word)) (lines : List Nat) : State :=
  let r : Promo := ⟨s.fresh, kind, es, stamp, p.slot, p.lead, upto, lines⟩
  let drop (c : Core) : Core := { c with promos := (c.promos.filter fun q => !(q.kind == kind && q.slot == p.slot && q.lead == p.lead)) ++ [r] }
  ((s.modCore p.core drop).bump.hold p true).at s.now (.promotionComplete p.core r.id)

/-- ACQL (R263, R264). -/
def execAcql (a : Reg) (s : State) : Result :=
  s.issue (.acql a) fun p =>
    if !p.once then s.advance p
    else
      let name := s.uniform p a 1
      let x := fld name 13 5
      if fld name 31 14 ≠ 0 then s.raise p xLeatName (fld name 31 14 * 2 ^ 14)
      else if !p.g.pend.isEmpty then s.stall p
      else if x = p.core then s.advance p
      else if !s.clusterUp x then s.raise p xLeatName 1
      else if (s.coreAt x).domain ≠ (s.coreAt p.core).domain then s.advance p
      else if clusterOf x = clusterOf p.core then
        let r := s.replayLeat p.core x (Sp.get (s.coreAt p.core).tailSeen x)
        if r.2 then r.1.advance p else r.1.stall p
      else
        let tail := (s.coreAt x).pubTail
        let es := (s.coreAt x).leat.filter fun e => seqLe e.seq tail
        let ahead := ((s.coreAt x).unpassed.filter fun u => u.core == x && seqLe u.entry.seq tail).foldl (fun m u => Nat.max m u.stamp) 0
        let r := replayEntries p.core x es (s.urge x fun e => seqLe e.seq tail)
        (r.1.takeUnpassed p.core x fun q => seqLe q tail).waitEntries p 0 (entriesOf x es) ahead (some (x, tail)) (r.2.map (·.line))

/-- PROMOTION_COMPLETE (R265): the entries have drained and device time has passed their stamps; those that found no room in the filter are
treated as trail records (R261). A CWB waits for no stamp (R329). -/
def execPromotionComplete (core id : Nat) (s : State) : Result :=
  match (s.coreAt core).promos.find? (·.id == id) with
  | none => .next s
  | some r =>
    if !r.entries.isEmpty then .next s
    else if r.kind = 0 ∧ s.now < r.stamp then .next (s.at r.stamp (.promotionComplete core id))
    else
      let s := r.lines.foldl (fun s l => s.dropCopy core l) s
      .next ((s.modCore core fun c => { c with promos := c.promos.filter (·.id != id) }).endHold core r.slot r.lead)

/-! ### Cache control (R328 to R330) -/

/-- A CFL sub-op: checks of its range, then its effect on base and length. `need` is the right; a CPREF without it is dropped. -/
def cflOp (i : Instr) (d a : Reg) (need : Nat) (limit : Bool) (f : Party → Nat → Nat → State) (s : State) : Result :=
  s.issue i fun p =>
    let base := s.uniform p a 2
    let len := s.uniform p d 2
    let c := s.coreAt p.core
    if !p.once || len == 0 then s.advance p
    else if 2 ^ 44 < offsetOf base + len then s.raise p xRangeArg 0
    else if limit && decide (2 ^ 20 < len) then s.raise p xRangeArg 1
    else if chipSheet base then s.raise p xWindow (1 + fld base 42 40 * 2 ^ 4)
    else if c.right (keyOf base) < need then
      (if need = 1 then s.advance p else s.raise p xKeyViol (keyOf base + need * 2 ^ 8))
    else f p base len

/-- CWB: the drain of the range's entries, of any gang, and the wait for their acknowledgements. -/
def execCwb (d a : Reg) (s : State) : Result :=
  cflOp (.cwb d a) d a 2 false (fun p base len =>
    let inside (e : LeatEntry) : Bool := e.relm.isNone && decide (lineOf base ≤ e.line) && decide (e.line ≤ lineOf (base + len - 1))
    let es := entriesOf p.core ((s.coreAt p.core).leat.filter inside)
    if es.isEmpty then s.advance p else (s.urge p.core inside).waitEntries p 1 es 0 none []) s

/-- The first-level copies of the core in a range of lines leave, owned ones to their slice (R329). -/
def State.invalidateRange (s : State) (core lo hi : Nat) : State :=
  let ls := ((s.coreAt core).l1.filter fun l => decide (lo ≤ l.line) && decide (l.line ≤ hi)).map (·.line)
  ls.foldl (fun s l => s.dropCopy core l) s

/-- CINV. -/
def execCinv (d a : Reg) (s : State) : Result :=
  cflOp (.cinv d a) d a 2 false (fun p base len => (s.invalidateRange p.core (lineOf base) (lineOf (base + len - 1))).advance p) s

/-- CPREF: fills for the lines of the first 8 KiB. -/
def execCpref (d a : Reg) (s : State) : Result :=
  cflOp (.cpref d a) d a 1 false (fun p base len =>
    ((linesOf base (Nat.min len 8192)).foldl (fun s l => s.toPort p.core 5 (.sliceFill p.core prefetchSlot 0 l false)) s).advance p) s

/-- CDISC (R330): the lines wholly inside leave the core and both dies' slices without write-back; what leases have been granted for them stays
in the horizons of their sets (R283, R286). -/
def State.discardLine (s : State) (core line : Nat) : State :=
  let drop (s : State) (die : Nat) : State :=
    let s := (s.recallOwner die line).revokeLine die line
    match s.lineIn die line with
    | none => s
    | some x => (s.memDrop die line).modSlice die line fun sl => { (sl.keepHorizon x) with lines := sl.lines.filter (·.line != line) }
  let other := (s.lineIn (1 - dieOf core) line).elim false (·.owned)
  let s := drop (s.dropCopy core line) (dieOf core)
  if other then drop s (1 - dieOf core) else s

/-- CDISC. -/
def execCdisc (d a : Reg) (s : State) : Result :=
  cflOp (.cdisc d a) d a 2 true (fun p base len =>
    let whole := (linesOf base len).filter fun l => decide (base ≤ l * 128) && decide (l * 128 + 128 ≤ base + len)
    (whole.foldl (fun s l => s.discardLine p.core l) s).advance p) s

end Sys2Proof.Machine
end

