-- ==== Sys2Proof/Machine/Atomics.lean ====
section
/-! DEFINITION. Fills at the slices, atomics in every place where they are performed, and counters (R199, R200, R276 to R295, R323 to
R327). -/

namespace Sys2Proof.Machine

open Sys2Proof

/-! ### Fills (R259, R276, R281 to R283) -/

def State.modAtom (s : State) (core id : Nat) (f : AtomOp → AtomOp) : State :=
  s.modCore core fun c => { c with atoms := replaceFirst (·.id == id) f c.atoms }

def State.atomAt (s : State) (core id : Nat) : Option AtomOp := (s.coreAt core).atoms.find? (·.id == id)

/-- SLICE_FILL (R276): a first-level miss at the slice of the core's die; `granted` once the home has returned the line. It waits behind the writes of
the line that reached the slice before it (R285; log entry 123). -/
def execSliceFill (core slot pend line : Nat) (granted : Bool) (s : State) : Result :=
  let die := dieOf core
  let what : Parked := .pend slot pend
  let s := if granted then s else s.arrives core what line
  let hit := (s.lineIn die line).isSome && (s.homedHere (line * 128) || (s.heldFor (line * 128)).isSome)
  let cls := s.classFor core what line
  let mask := s.maskFor core what line
  if s.behind core what line line then .next (s.at (s.now + 1) (.sliceFill core slot pend line granted))
  else if !hit && !granted then .next ((s.fetchBegins core what line).askHome core slot pend 0 (line * 128))
  else
    let s := if hit && !granted then (s.countOnce core what line line).useTicket (line * 128) else s
    let s := if !hit && s.mayKeep mask (line * 128) then s.fillLine cls mask die line else if hit then s else s.shareOther die line
    let s := (s.serveLine core die line cls).requestGone core what line
    let data := s.lineFor core die line
    if slot = prefetchSlot then .next s
    else match s.atomAt core pend with
      | some _ => .next ((s.modAtom core pend fun a => { a with fills := a.fills ++ [(line, data)] }).at s.now (.sliceAtomic core slot pend false))
      | none => .next (s.giveLine core die line fun _ => true)

/-! ### The operations (R323, R324) -/

/-- Bytes of an atomic under TY. -/
def atomWidth (aop : BitVec 4) (ty : BitVec 5) : Nat := if aop.toNat = 8 then 1 else if wideTy ty then 8 else 4

/-- GMODE for the element operations of an atomic: RNE, no SAT, no FZ. -/
def atomMode (ty : BitVec 5) : BitVec 15 := ty ++ 0#10

/-- f of R324: the new value, none when nothing is written. -/
def atomNew (aop : BitVec 4) (ty : BitVec 5) (old op swap : Nat) : Option Nat :=
  let gm := atomMode ty
  match aop.toNat with
  | 0 => some (lift2 gm (addE gm) old op 0).1
  | 1 => some (lift2 gm (minE gm) old op 0).1
  | 2 => some (lift2 gm (maxE gm) old op 0).1
  | 3 => some (old &&& op)
  | 4 => some (old ||| op)
  | 5 => some (old ^^^ op)
  | 6 => some op
  | 7 => if old = op then some swap else none
  | _ => some (if op.testBit 8 then op % 16 * 16 + old % 16 else old / 16 * 16 + op % 16)

/-- Registers an atomic writes for each lane: the old value, w bytes. -/
def atomRegs (w : Nat) : Nat := Nat.max 1 (w / 4)

/-- The lane's operands (R323): for CAS the compare value and the swap value. -/
def atomLane (s : State) (p : Party) (d : Reg) (aop : BitVec 4) (w n lane addr : Nat) : AtomLane :=
  let v := s.regValue p d n lane
  if aop.toNat = 7 then ⟨lane, addr, v % 2 ^ (8 * w), v / 2 ^ (8 * w), none, none⟩ else ⟨lane, addr, v, 0, none, none⟩

def AtomLane.done (l : AtomLane) : Bool := l.old.isSome || l.refused.isSome

/-! ### AT and RED (R293, R319, R323 to R326) -/

/-- AT and RED: checks, room, drains of earlier entries of the lines, the release half, and the atomic on its way. One that is performed in the
core's own view is held behind its own release half alone (R319, R325). -/
def atomIssue (i : Instr) (ret : Bool) (d a : Reg) (scope : BitVec 3) (order : BitVec 2) (aop : BitVec 4) (s : State) : Result :=
  s.issue i fun p =>
    let ty := p.ty
    let w := atomWidth aop ty
    let n := Span.count ty (.atom aop)
    let lanes := lanesOf p.writing
    let addr (l : Nat) : Nat := laneAddr s p a 2 w 0 l
    let as := lanes.map addr
    let lines := (as.map lineOf).dedup
    let c := s.coreAt p.core
    let rel := order.getLsbD 1
    let entry (e : LeatEntry) : Bool := e.relm.isNone && lines.contains e.line
    let need := if scope = 0 then needGranules (as.flatMap fun a => (List.range w).map fun k => (a + k, 0)) else 0
    match globalTrap c 3 w (lanes.map fun l => (l, addr l)) with
    | some x => s.raise p x.1 x.2
    | none =>
      if lanes.isEmpty then (s.closeMark p).advance p
      else if readHeld s p || atomOn c p.slot as || loadOn p.g as || (rel && (relFull s p || relEarly s p scope)) then s.stall p
      else if 2048 < c.ringHeld + need + (if rel && scope != 0 then 1 else 0) then s.stall p
      else if scope ≠ 0 ∧ c.leat.any entry = true then (s.urge p.core entry).stall p
      else
        let s := s.closeMark p
        let own := if rel then [s.fresh] else []
        let s := if rel then s.startRelease p scope else s
        let id := s.fresh
        let s := if ret then s.addPend p (resultCodes d (atomRegs w)) .atomic else s.bump
        let acq := ret && order.getLsbD 0
        let op : AtomOp := ⟨id, p.slot, p.g.blk, p.lead, p.g.super, aop, ty, scope, order, w, ret, d,
          lanes.map fun l => atomLane s p d aop w n l (addr l), false, [], 0, false, acq, p.g.launch,
          p.g.epoch, need, 0, p.slot⟩
        let s := s.modCore p.core fun c => { c with atoms := c.atoms ++ [op] }
        let e : Instr := .sliceAtomic p.core p.slot id false
        let s := (if scope = 0 then s.afterThese p own e else s.afterReleases p e).advance p
        if acq then s.park p (.hold false) else s

/-- AT (R324). -/
def execAtom (d a : Reg) (scope : BitVec 3) (order : BitVec 2) (aop : BitVec 4) (s : State) : Result :=
  atomIssue (.atom d a scope order aop) true d a scope order aop s

/-- RED (R324). -/
def execRed (d a : Reg) (scope : BitVec 3) (order : BitVec 2) (aop : BitVec 4) (s : State) : Result :=
  atomIssue (.red d a scope order aop) false d a scope order aop s

/-! ### Performing (R290 to R295) -/

/-- The bytes at an address of a line's store. -/
def lineValue (data : Cells) (va w : Nat) : Nat := ofBytes (lineBytes data (va % 128) w)

/-- The bytes a lane writes, by offset in the line. -/
def laneBytes (a : AtomOp) (l : AtomLane) (old : Nat) : List (Nat × Byte) :=
  match atomNew a.aop a.ty old l.op l.swap with
  | none => []
  | some v => ((toBytes a.w v).zipIdx).map fun b => (l.addr % 128 + b.2, b.1)

/-- A lane has been performed: its old value, and the stamp of its write, or that its invalidations are out. -/
def State.laneDone (s : State) (core : Nat) (a : AtomOp) (l : AtomLane) (old stamp : Nat) (out : Bool) : State :=
  let more := a.lanes.any fun x => x.lane != l.lane && !x.done && lineOf x.addr == lineOf l.addr
  let s := if more then s else s.requestGone core (.pend a.key a.id) (lineOf l.addr)
  (s.modAtom core a.id fun x =>
    { x with stamp := if out then x.stamp else Nat.max x.stamp stamp, waiting := if out then x.waiting + 1 else x.waiting
             lanes := replaceFirst (·.lane == l.lane) (fun y => { y with old := some old }) x.lanes }).at
    s.now (.sliceAtomic core a.key a.id false)

/-- The gang of an atomic as the entries it appends name it: its mark epoch is the one at the append (R165), and it may have ended (R115, R166). -/
def State.writerOf (s : State) (core : Nat) (a : AtomOp) : Gang :=
  let epoch := match s.gangAt core a.slot with
    | some g => if g.blk = a.blk then g.epoch else a.epoch
    | none => a.epoch
  { launch := a.launch, blk := a.blk, epoch := epoch, super := a.super, number := a.key }

/-- Every lane of a CORE-scope atomic, in lane order, in the core's own view; its entries are appended together (R166, R324). -/
def State.performCore (s : State) (core : Nat) (a : AtomOp) : State :=
  let step (r : List (Nat × Cells) × List (Nat × Byte) × List AtomLane) (l : AtomLane) :=
    if l.done then (r.1, r.2.1, r.2.2 ++ [l])
    else
      let line := lineOf l.addr
      let data := (Kv.get? r.1 line).getD []
      let old := lineValue data l.addr a.w
      let bs := laneBytes a l old
      (r.1.map fun f => if f.1 = line then (f.1, Sp.setAll f.2 bs) else f,
        r.2.1 ++ bs.map fun b => (line * 128 + b.1, b.2), r.2.2 ++ [{ l with old := some old }])
  let r := a.lanes.foldl step (a.fills, [], [])
  ((s.modAtom core a.id fun x => { x with lanes := r.2.2, need := 0 }).appendWrites core a.slot (s.writerOf core a) r.2.1 true).at
    s.now (.sliceAtomic core a.key a.id false)

/-- A CORE-scope atomic reads its lines as a load does (R326), then acts. -/
def State.atomCore (s : State) (core : Nat) (a : AtomOp) : State :=
  let lines := ((a.lanes.filter fun l => !l.done).map fun l => lineOf l.addr).dedup
  if a.asked then (if lines.all fun x => (Kv.get? a.fills x).isSome then s.performCore core a else s)
  else
    let c := s.coreAt core
    let seen (x : Nat) : Bool := a.lanes.all fun l => lineOf l.addr != x || (c.viewBytes s.now l.addr a.w).isSome
    let view (x : Nat) : Cells := putBytes [] 0 ((List.range 128).map fun k => (c.viewByte s.now (x * 128 + k)).getD 0)
    let s := s.modAtom core a.id fun y => { y with asked := true, fills := (lines.filter seen).map fun x => (x, view x) }
    let s := (lines.filter fun x => !seen x).foldl (fun s x =>
      s.toPort core (s.readCost x a.w (a.lanes.map (·.addr))) (.sliceFill core a.key a.id x false)) s
    s.at s.now (.sliceAtomic core a.key a.id false)

/-- A lane at the slice (R290, R294): ownership is taken, the core's own copy goes, and the write takes the stamp of its treatment, as a drained
entry does. -/
def State.performSlice (s : State) (core : Nat) (a : AtomOp) (l : AtomLane) : State :=
  let die := dieOf core
  let line := lineOf l.addr
  let s := ((s.recallOwner die line).takeOwnership die line).dropCopy core line
  match s.lineIn die line with
  | none => s
  | some x =>
    let old := lineValue x.data l.addr a.w
    let bs := laneBytes a l old
    let s := s.modLine die line fun y => { y with sharers := y.sharers.filter (· != core) }
    if bs.isEmpty then s.laneDone core a l old s.now false
    else
      let r := (s.patchLine die line bs).tellSharers die line core (.pend a.key a.id)
      r.1.laneDone core a l old (x.stamp s.now) r.2

/-- A lane in the core that owns its line (R292). -/
def State.performOwned (s : State) (core : Nat) (a : AtomOp) (l : AtomLane) : State :=
  let line := lineOf l.addr
  match (s.coreAt core).l1.find? fun x => x.line == line && x.owned with
  | none => s
  | some x =>
    let old := lineValue x.raw l.addr a.w
    let bs := laneBytes a l old
    let put (y : L1Line) : L1Line :=
      if y.line = line ∧ y.owned = true then { y with data := Sp.setAll y.data bs, raw := Sp.setAll y.raw bs } else y
    ((s.modCore core fun c => { c with l1 := c.l1.map put }).counterChanged line).laneDone core a l old s.now false

/-- Grant line ownership: other copies leave, and the core holds the line (R291, R292). -/
def State.grantLine (s : State) (core line : Nat) : State :=
  let die := dieOf core
  let s := ((s.recallOwner die line).takeOwnership die line).revokeLine die line
  match s.lineIn die line with
  | none => s
  | some x =>
    let data := s.lineFor core die line
    let s := s.modLine die line fun y => { y with sharers := [core], coreOwner := some core }
    s.modCore core fun c => { c with l1 := c.l1.filter (·.line != line) ++ [⟨line, data, 0, 0, true, x.data⟩] }

/-- The contention count of a tracked line (R291). -/
def L2Line.contend (x : L2Line) (core now : Nat) : Nat :=
  let calm := match x.lastAt with | none => true | some (k, t) => k == core || decide (t + 4096 < now)
  if calm then x.cont - 1 else Nat.min (x.cont + 1) 3

/-- A lane whose access the home has accepted (R277, R290, R291, R444). -/
def State.performWide (s : State) (core : Nat) (a : AtomOp) (l : AtomLane) : State :=
  let die := dieOf core
  let line := lineOf l.addr
  let what : Parked := .pend a.key a.id
  let held := s.mayWrite l.addr && (s.lineIn die line).isSome
  if !held && !s.mayTake (s.maskFor core what line) l.addr then
    let s := s.flushLine line
    let old := lineValue (s.homeLine line) l.addr a.w
    let s := ((laneBytes a l old).foldl (fun s b => s.setHomeByte (line * 128 + b.1) b.2) s).counterChanged line
    let s := (State.staleTickets s l.addr (some ⟨core, what, a.slot, a.blk, (List.range a.w).map (l.addr + ·), true⟩)).bump
    s.laneDone core a l old s.now false
  else
    let s := if held then s else s.fillLine (s.classFor core what line) (s.maskFor core what line) die line
    match s.lineIn die line with
    | none => s
    | some x =>
      if x.treat ≠ 0 then s.performSlice core a l
      else
        let n := x.contend core s.now
        let s := s.modLine die line fun y => { y with cont := n, lastAt := some (core, s.now) }
        if 2 ≤ n then s.performSlice core a l else (s.grantLine core line).performOwned core a l

/-- The next lane of an atomic of cluster scope or wider. -/
def State.atomWide (s : State) (core : Nat) (a : AtomOp) (l : AtomLane) (granted : Bool) : State :=
  let line := lineOf l.addr
  let die := dieOf core
  if (s.coreAt core).l1.any fun x => x.line == line && x.owned then s.performOwned core a l
  else if granted then s.performWide core a l
  else
    let what : Parked := .pend a.key a.id
    let s := s.arrives core what line
    if s.behind core what line line then s.at (s.now + 1) (.sliceAtomic core a.key a.id false)
    else
    let s := if (s.lineIn die line).isSome then s.countOnce core what line line else s
    if (s.lineIn die line).isSome && (s.holdsWrite l.addr || s.homeCheck 2 l.addr true false none false == 0) then
      ((s.markPage l.addr true).useTicket l.addr).performWide core a l
    else (s.fetchBegins core what line).askHome core a.key a.id 2 l.addr

/-- Every lane is done: the old values are on their way, and refused lanes trap (R326). -/
def State.atomTell (s : State) (core : Nat) (a : AtomOp) : State :=
  let s := s.modAtom core a.id fun x => { x with told := true }
  let ws := a.lanes.flatMap fun l => destWrites a.d (atomRegs a.w) l.lane (l.old.getD 0)
  let bad := a.lanes.filter (·.refused.isSome)
  let more := if (bad.map fun l => lineOf l.addr).dedup.length ≤ 1 then 0 else 32
  let s := match bad.head?, a.ret with
    | none, true => s.knownResult core a.slot a.id ws
    | none, false => s
    | some l, ret =>
      let access := if a.scope = 0 then 0 else 2
      let t := refusalTrapOf (l.refused.getD 4) access l.addr (!s.homedHere l.addr)
      if ret then s.knownTrap core a.slot a.id ws { t with info := t.info ||| word more }
      else
        let s := s.refuseGang core a.slot a.blk a.launch (l.refused.getD 4) access l.addr (!s.homedHere l.addr) a.super
        if more = 0 || (s.gangAt core a.slot).elim true (fun g => g.blk != a.blk) then s else s.moreRefused core a.slot
  s.at s.now (.sliceAtomic core a.key a.id false)

/-- The acquire half (R325), then the end of the atomic once device time has passed its stamp. -/
def State.atomEnd (s : State) (core : Nat) (a : AtomOp) : State :=
  let mine := (s.gangAt core a.slot).elim false fun g => g.blk == a.blk
  let waiting := (s.gangAt core a.slot).elim false fun g => g.pend.any fun d => decide (d.id ≤ a.id)
  if a.acqLeft && mine && waiting then s
  else
    let r := if a.acqLeft && mine then s.acquire core a.scope else (s, true)
    if !r.2 then r.1.at (s.now + 1) (.sliceAtomic core a.key a.id false)
    else
      let s := r.1.modAtom core a.id fun x => { x with acqLeft := false }
      let s := if a.acqLeft && mine then s.endHold core a.slot a.lead else s
      if a.waiting ≠ 0 then s
      else if s.now < a.stamp then s.at a.stamp (.sliceAtomic core a.key a.id false)
      else (s.modCore core fun c => { c with atoms := c.atoms.filter (·.id != a.id) }).wake core

/-- SLICE_ATOMIC (R290, R291, R324): the next lane of an atomic is performed where its scope and treatment say; `granted` once the home
has accepted the access. -/
def execSliceAtomic (core _slot pend : Nat) (granted : Bool) (s : State) : Result :=
  match s.atomAt core pend with
  | none => .next s
  | some a =>
    match a.lanes.find? fun l => !l.done with
      | some l => .next (if a.scope = 0 then s.atomCore core a else s.atomWide core a l granted)
      | none => .next (if a.told then s.atomEnd core a else s.atomTell core a)

/-! ### Counters (R199, R200) -/

/-- The checks and execution of a counter sub-op, with the counter's address. -/
def counterOp (i : Instr) (a : Reg) (f : Party → Nat → State) (s : State) : Result :=
  s.issue i fun p =>
    let va := s.uniform p a 2
    if !p.once then s.advance p
    else match globalTrap (s.coreAt p.core) 1 8 [(0, va)] with
      | some x => s.raise p x.1 x.2
      | none => f p va

/-- The value of a counter. -/
def State.counterValue (s : State) (va : Nat) : Nat := ofBytes (s.devRead va 8)

/-- CTRW: the party parks; a counter of another package is asked for over the fabric. -/
def execCtrw (d a : Reg) (s : State) : Result :=
  counterOp (.ctrw d a) a (fun p va =>
    let s' := s.modGang p.core p.slot fun g => g.mapParty p.lead fun q => { q with park := .ctrw va (s.uniform p d 2) none false, last := some s.now }
    s'.later (.ctrwWake p.core p.slot p.lead)) s

/-- A one-time counter read: the party goes on once the acquire is complete (R304). -/
def State.counterRead (s : State) (p : Party) (regs : List Nat) (va : Nat) (test : Option (Nat × Nat × BitVec 32)) (d : Reg) : State :=
  let id := s.fresh
  let s := s.addPend p regs (.counter va test d)
  let op : AtomOp := ⟨id, p.slot, p.g.blk, p.lead, p.g.super, 0, 0, 3, 1, 8, true, d, [], true, [], 0, true, true, p.g.launch, p.g.epoch, 0, 0, p.slot⟩
  let s := s.modCore p.core fun c => { c with atoms := c.atoms ++ [op] }
  let s := s.portHome p.core 2 (.pend p.slot id) (readReq p.core p.slot id 5 va)
  (s.advance p).park p (.hold false)

/-- CTRT. -/
def execCtrt (d a : Reg) (s : State) : Result :=
  counterOp (.ctrt d a) a (fun p va =>
    let n := d.toNat % 8
    let value := s.uniform p a 4 / 2 ^ 64
    s.counterRead p (if n = 7 then [] else [128 + n]) va (some (n, value, p.writing)) d) s

/-- CTRRD. -/
def execCtrrd (d a : Reg) (s : State) : Result :=
  counterOp (.ctrrd d a) a (fun p va => s.counterRead p (resultCodes d 2) va none d) s

/-- What a counter read delivers (R200). -/
def counterWrites (v : Nat) (test : Option (Nat × Nat × BitVec 32)) (d : Reg) : List RegWrite :=
  match test with
  | some (n, value, mask) => (lanesOf mask).map fun l => ⟨.p n l, if value ≤ v then 1 else 0⟩
  | none => destWrites d 2 0 v

/-- A party whose CTRW has been reached goes on once the gang's earlier reads have returned and the device-scope acquire is complete (R200, R304):
behind the CTRW, or where it stands when a flashback save kept the park (log entry 101). -/
def State.ctrwGoesOn (s : State) (core slot lead : Nat) (g : Gang) (stay : Bool) : State :=
  if !g.pend.isEmpty then s.at (s.now + 1) (.ctrwWake core slot lead)
  else
    let q := s.acquire core 3
    if !q.2 then q.1.at (s.now + 1) (.ctrwWake core slot lead)
    else q.1.modGang core slot fun g => g.mapParty lead fun d => { d with park := .none, pc := if stay then d.pc else succPc d.pc, wake := s.now + 1 }

/-- CTRW_WAKE (R200, R327): the counter is read as an access of code 5, and then looked at when it changes; a final refusal traps (R185). -/
def execCtrwWake (core slot lead : Nat) (s : State) : Result :=
  match s.gangAt core slot with
  | none => .next s
  | some g =>
    match (g.quad lead).park with
    | .ctrw va value seen stay =>
      let see (s : State) (b : Bool) : State := s.modGang core slot fun g => g.mapParty lead fun d => { d with park := .ctrw va value (some b) stay }
      if g.trap.isSome || (s.coreAt core).halted then .next s
      else if seen = some true then .next (s.ctrwGoesOn core slot lead g stay)
      else if !s.homedHere va then
        if g.pend.any fun d => d.lead == lead && d.body == .counter va none 0x7E then .next s
        else .next ((s.addPend ⟨core, slot, lead, g⟩ [] (.counter va none 0x7E)).portHome core 2 (.pend slot s.fresh) (readReq core slot s.fresh 5 va))
      else
        let r : HomeReq := ⟨5, va, false, false, .core core (.pend slot 0), [], 0⟩
        let again (s : State) : State := s.later (.ctrwWake core slot lead)
        match s.homeCheck 5 va false false none false with
        | 0 =>
          if s.tickets.any fun t => t.region == regionOf va && t.writer.isSome then .next (again (s.recallTicket va)) else
          let s := s.markPage va false
          if s.counterValue va < value then .next (see s false) else .next ((see s true).at s.now (.ctrwWake core slot lead))
        | 1 =>
          let known := s.parks.any fun e => e.home == homeOf va && e.va == (s.pageRange va).1 && e.cores.contains core
          .next (again (if known then s else s.recordRefusal r 1 (.core core)))
        | 2 => .next (again s)
        | code =>
          .next ((s.recordRefusal r code (.core core)).refuseGang core slot g.blk g.launch code 5 va false g.super)
    | _ => .next s

end Sys2Proof.Machine
end

