-- ==== Sys2Proof/Machine/Windows.lean ====
section
/-! DEFINITION. The on-chip map (R158 to R161, R232, R332): what a window address names, the grants, LDW and STW, and the arrival of a
window access at its target. -/

namespace Sys2Proof.Machine

open Sys2Proof

/-! ### MMAs that use a core's stores (R218, R223) -/

/-- Fields of a format block (R237). -/
def fbPair (m : Mma) : Bool := (m.fb.getD 0 0).getLsbD 19
def fbTile (m : Mma) : Nat := fld (m.fb.getD 0 0).toNat 21 20
def fbAcc (m : Mma) : Nat := fld (m.fb.getD 0 0).toNat 17 16

/-- Chunks of an MMA with block scales by its A format (R217, R238); 0 without scales. -/
def scaledChunks (afmt : Nat) : Nat :=
  match afmt with
  | 0x04 => 4 | 0x05 => 4 | 0x06 => 4 | 0x07 => 4 | 0x16 => 8 | 0x09 => 8 | 0x19 => 16 | _ => 0

/-- The unretired MMAs that read and write a core's arrays: its own and, for a bed core, the pair MMAs of its runner core. -/
def State.mmasOn (s : State) (core : Nat) : List Mma :=
  (s.coreAt core).mmas ++ (if core % 2 = 1 then (s.coreAt (core - 1)).mmas.filter fbPair else [])

/-- Whether an MMA uses a tile slot, and a scale column. -/
def usesTile (m : Mma) (slot : Nat) : Bool := slot == fbTile m || (fbAcc m == 1 && slot == fbTile m + 1)
def usesColumn (m : Mma) (col : Nat) : Bool :=
  let n := scaledChunks (fld (m.fb.getD 0 0).toNat 6 0)
  let a := fld (m.fb.getD 1 0).toNat 7 0
  let b := fld (m.fb.getD 1 0).toNat 15 8
  (decide (a ≤ col) && decide (col < a + n)) || (decide (b ≤ col) && decide (col < b + 4 * n))

/-! ### What an address of the map names (R158) -/

def winCore (va : Nat) : Nat := fld va 51 43
def winKind (va : Nat) : Nat := fld va 42 40
def winOff (va : Nat) : Nat := fld va 39 0

/-- The highest offset bit of each kind, below the bits that are zero. -/
def winBits (kind : Nat) : Nat := match kind with | 0 => 20 | 1 => 20 | 2 => 26 | 3 => 19 | 4 => 16 | 5 => 14 | 6 => 16 | _ => 19

/-- A grant entry allows an access (R161, R164). -/
def grantAllows (g : Word) (va : Nat) (write : Bool) : Bool :=
  let v := g.toNat
  let k := winCore va % 16
  g.getLsbD 31 && (!write || g.getLsbD 30) && (fld v 29 22).testBit (winKind va) && fld v 21 21 == fld va 51 51
    && fld v 20 17 == fld va 50 47 && decide (fld v 16 13 ≤ k) && decide (k ≤ fld v 12 9)

/-- A nonzero bit in an offset range marked zero (R158, R232). -/
def winZeroBits (va : Nat) : Bool :=
  let off := winOff va
  decide (2 ^ winBits (winKind va) ≤ off) || (winKind va == 5 && off.testBit 13 && fld off 10 5 != 0)

/-- An access is granted: by an entry, or in supervisor mode on a core that hosts the issuing domain (R161, R345). -/
def State.winGranted (s : State) (core : Nat) (sup : Bool) (va : Nat) (write : Bool) : Bool :=
  let c := s.coreAt core
  (c.grants.any fun g => grantAllows g va write) || (sup && (s.coreAt (winCore va)).domain == c.domain)

/-- The causes of R161 for one address. -/
def winCauses (s : State) (core : Nat) (sup : Bool) (va : Nat) (write : Bool) : List Nat :=
  when (sheetOf va != 0xFFF || !s.winGranted core sup va write) 0
    ++ when (write && (winKind va == 6 || (winKind va == 0 && decide (2 ^ 20 ≤ winOff va)))) 2
    ++ when (winZeroBits va) 3

/-- WINDOW for accesses (lane, address, whether it writes) in lane order: the lowest cause, and the first access that meets it. -/
def winTrapOf (s : State) (p : Party) (as : List (Nat × Nat × Bool)) : Option (Nat × Nat) :=
  let causes (a : Nat × Nat × Bool) : List Nat := winCauses s p.core p.g.super a.2.1 a.2.2
  match lowest (as.flatMap causes) with
  | none => none
  | some cause => (as.find? fun a => (causes a).contains cause).map fun a => (xWindow, cause + winKind a.2.1 * 2 ^ 4 + a.1 * 2 ^ 7)

/-- WINDOW for the lanes of a window access. -/
def winTrap (s : State) (p : Party) (write : Bool) (as : List (Nat × Nat)) : Option (Nat × Nat) := winTrapOf s p (as.map fun a => (a.1, a.2, write))

/-! ### Reading a word of the map (R159) -/

/-- A word the manual leaves open, by its number (log entry 13). -/
def freeWord (n : Nat) : Word := Config.freeByte (n + 3) ++ Config.freeByte (n + 2) ++ Config.freeByte (n + 1) ++ Config.freeByte n

/-- The header of a leat entry as a number (R165). -/
def leatHeader (e : LeatEntry) : Nat :=
  let mask := e.bytes.foldl (fun m b => m + 2 ^ b.1) 0
  let sect := (List.range 4).foldl (fun m q => if e.bytes.any fun b => b.1 / 32 == q then m + 2 ^ q else m) 0
  (if e.relm.isSome then 0 else e.line) + e.seq.toNat * 2 ^ 64 + mask * 2 ^ 96 + sect * 2 ^ 224 + bnat e.relm.isSome * 2 ^ 228
    + (e.relm.elim 0 (·.toNat)) * 2 ^ 229 + bnat e.atom * 2 ^ 232 + bnat e.sealed * 2 ^ 233 + bnat e.parked.isSome * 2 ^ 234
    + e.epoch.toNat * 2 ^ 235 + e.gang * 2 ^ 240

/-- A word of the leat ring; what has left the ring is open. -/
def Core.ringWord (c : Core) (n off : Nat) : Word :=
  let g := off / 32
  match c.leat.find? fun e => decide ((g + 2048 - e.pos) % 2048 < e.granules) with
  | none => freeWord n
  | some e =>
    let j := (g + 2048 - e.pos) % 2048
    if j = 0 then word (leatHeader e / 2 ^ (8 * (off % 32)))
    else
      let q := (((List.range 4).filter fun q => e.bytes.any fun b => b.1 / 32 == q).getD (j - 1) 0)
      word (ofBytes ((List.range 4).map fun k => ((e.bytes.find? (·.1 == q * 32 + off % 32 + k)).elim 0 (·.2))))

/-- The gang of a slot and the party that kind 7 reaches (R159). -/
def State.winParty (s : State) (core slot : Nat) : Option Party :=
  (s.gangAt core slot).map fun g => ⟨core, slot, (g.quad (((List.range 8).find? g.unretired).getD 0)).party.toNat, g⟩

/-- The state register of a number, and whether the number is the second half of a 64-bit register. -/
def winReg (n : Nat) : Option (RegInfo × Bool) :=
  match stateRegs.find? (·.num == n) with
  | some r => some (r, false)
  | none => (stateRegs.find? fun r => r.wide && r.num + 1 == n).map fun r => (r, true)

/-- The block whose scratch part a slot names (R158, R212), with the part. -/
def State.winBlock (s : State) (core slot : Nat) : Option (Block × Nat) :=
  ((s.blocks.filter fun b => b.resident && ((!b.pair && b.core == core && b.slots.1 == slot)
      || (b.pair && b.core / 2 == core / 2 && (if core % 2 = 0 then b.slots.1 else b.slots.2) == slot))).getLast?).map
    fun b => (b, b.partOf core)

/-- Four bytes of a scratch part as a window reads it: the bed part's gate area reads zero (R212). -/
def Block.winScratch (b : Block) (part off : Nat) : Word :=
  word (ofBytes ((List.range 4).map fun k =>
    let a := off + k
    if b.scrSize ≤ a then 0 else if part = 1 ∧ a < 16 * b.ngates then 0 else b.scratchByte part a))

/-- A node record or header of the tree file (R232). -/
def treeRecord (t : Tree) (off : Nat) : Nat :=
  if off.testBit 13 then t.base.toNat + t.nodes.length * 2 ^ 32
  else match t.nodes[fld off 10 5]? with
    | none => 0
    | some n => n.token.toNat + n.score.toNat * 2 ^ 32 + n.mask.toNat * 2 ^ 64 + (t.base.toNat + n.depth) % 2 ^ 32 * 2 ^ 128
        + n.parent * 2 ^ 160 + n.state * 2 ^ 168 + n.depth * 2 ^ 176

/-- A word of a gang's registers, kind 1 (R158, R160). -/
def State.winGang (s : State) (core slot : Nat) (g : Gang) (off : Nat) : Word :=
  if off < 0x3000 then (if off / 128 < g.allot then g.vreg (off / 128) (off / 4 % 32) else 0)
  else if off < 0x3078 then s.scalar core slot g ((off - 0x3000) / 4)
  else if off < 0x307C then g.lit
  else if off < 0x3080 then g.gmode.zeroExtend 32
  else if off < 0x3100 then word (predByte g (off / 4 % 32))
  else if off < 0x3180 then g.rng (off / 4 % 32)
  else 0

/-- Whether an area of KiB at a place holds an offset of the pond, with the offset inside. -/
def inArea (off kib size : Nat) : Option Nat := if kib * 1024 ≤ off ∧ off < kib * 1024 + size then some (off - kib * 1024) else none

/-- The block with a part on a core whose scratch holds a pond offset. -/
def State.pondBlock (s : State) (core off : Nat) : Option (Block × Nat × Nat) :=
  (s.blocksOn core).findSome? fun b =>
    let part := b.partOf core
    (inArea off (if part = 0 then b.scrKiB.1 else b.scrKiB.2) b.scrSize).map fun o => (b, part, o)

/-- The gang whose register area holds a pond offset. -/
def State.pondGang (s : State) (core off : Nat) : Option (Nat × Gang × Nat) :=
  (s.coreAt core).gangs.findSome? fun g => (inArea off g.2.regKiB (128 * g.2.allot)).map fun o => (g.1, g.2, o)

/-- A 4-byte word of the map at an address; n numbers its open bytes. -/
def State.winWord (s : State) (n va : Nat) : Word :=
  let core := winCore va
  let c := s.coreAt core
  let off := winOff va
  match winKind va with
  | 0 =>
    match fld c.baymap.toNat (2 * (off / 0x8000) + 1) (2 * (off / 0x8000)) with
    | 0 => match s.pondGang core off with | some (_, g, o) => g.vreg (o / 128) (o / 4 % 32) | none => freeWord n
    | 1 => match s.pondBlock core off with | some (b, part, o) => b.winScratch part o | none => freeWord n
    | 2 => freeWord n
    | _ => c.ringWord n (off - 0xF0000)
  | 1 => match s.gangAt core (off / 2 ^ 14) with | some g => s.winGang core (off / 2 ^ 14) g (off % 2 ^ 14) | none => 0
  | 2 => match s.winBlock core (off / 2 ^ 20) with | some (b, part) => b.winScratch part (off % 2 ^ 20) | none => 0
  | 3 => Sp.get c.acc (off / 4)
  | 4 => word (ofBytes (lineBytes c.scale off 4))
  | 5 => word (treeRecord (c.trees.getD (fld off 12 11) {}) off / 2 ^ (8 * (off % 32)))
  | 6 => c.ringWord n off
  | _ =>
    match s.winParty core (off / 2 ^ 13), winReg (fld off 12 2) with
    | some p, some (r, high) => if laneReg (BitVec.ofNat 11 r.num) then 0 else word (stateValue s p r.num / (if high then 2 ^ 32 else 1))
    | _, _ => 0

/-! ### Writing a word of the map -/

/-- A write to a gang's registers through kind 1; an image that WRS would reject is discarded (R103, R159), and so is a write
to an absent lane (R12). -/
def State.winPutGang (s : State) (core slot : Nat) (g : Gang) (off : Nat) (v : Word) : State :=
  let put (f : Gang → Gang) : State := s.modGang core slot f
  let lane := off / 4 % 32
  if (off < 0x3000 || decide (0x3080 ≤ off)) && !g.hasLane lane then s
  else if off < 0x3000 then (if off / 128 < g.allot then put fun g => { g with vregs := Sp.set g.vregs (off / 4) v } else s)
  else if off < 0x3078 then (s.writeReg core slot s.fresh ⟨.s ((off - 0x3000) / 4), v⟩).bump
  else if off < 0x307C then put fun g => { g with lit := v }
  else if off < 0x3080 then (if (writeCauses 0x000 v.toNat).isEmpty then put fun g => { g with gmode := v.truncate 15 } else s)
  else if off < 0x3100 then (if (writeCauses 0x044 v.toNat).isEmpty then put fun g => writeLaneReg g 0x044 lane v.toNat else s)
  else if off < 0x3180 then put fun g => writeLaneReg g 0x045 lane v.toNat
  else s

/-- A write to a scratch part; the gate area and what lies beyond are discarded. -/
def State.winPutScratch (s : State) (b : Block) (part off : Nat) (v : Word) : State :=
  if b.scrSize < off + 4 ∨ off < 16 * b.ngates then s else s.modBlock b.key fun b => b.putScratch part off (toBytes 4 v.toNat)

/-- A write to the tree file (R232). -/
def treePut (t : Tree) (off : Nat) (v : Word) : Tree :=
  if off.testBit 13 then (if off % 32 = 0 then { t with base := v } else t)
  else
    let put (f : Node → Node) : Tree := { t with nodes := setAt t.nodes (fld off 10 5) f }
    match off % 32 with
    | 0 => put fun n => { n with token := v }
    | 4 => put fun n => { n with score := v }
    | 20 => if fld v.toNat 15 8 < 3 then put fun n => { n with state := fld v.toNat 15 8 } else t
    | _ => t

/-- A write of a whole state register through kind 7, as WRS in supervisor mode (R159). -/
def State.winPutReg (s : State) (p : Party) (r : RegInfo) (v : Nat) : State :=
  if r.acc = .r ∨ laneReg (BitVec.ofNat 11 r.num) = true ∨ (writeCauses r.num v).isEmpty = false then s else writeState s p r.num v

/-- Consecutive words of the map from an address. `low` is the first half of a 64-bit state register in the same access. -/
def State.winPut (s : State) (va : Nat) (low : Option Word) : List Word → State
  | [] => s
  | v :: vs =>
    let core := winCore va
    let c := s.coreAt core
    let off := winOff va
    match winKind va with
    | 0 =>
      let s := match fld c.baymap.toNat (2 * (off / 0x8000) + 1) (2 * (off / 0x8000)) with
        | 0 => match s.pondGang core off with | some (slot, g, o) => s.winPutGang core slot g o v | none => s
        | 1 => match s.pondBlock core off with | some (b, part, o) => s.winPutScratch b part o v | none => s
        | _ => s
      State.winPut s (va + 4) none vs
    | 1 =>
      let s := match s.gangAt core (off / 2 ^ 14) with | some g => s.winPutGang core (off / 2 ^ 14) g (off % 2 ^ 14) v | none => s
      State.winPut s (va + 4) none vs
    | 2 =>
      let s := match s.winBlock core (off / 2 ^ 20) with | some (b, part) => s.winPutScratch b part (off % 2 ^ 20) v | none => s
      State.winPut s (va + 4) none vs
    | 3 => State.winPut (s.modCore core fun c => { c with acc := Sp.set c.acc (off / 4) v }) (va + 4) none vs
    | 4 => State.winPut (s.modCore core fun c => { c with scale := putBytes c.scale off (toBytes 4 v.toNat) }) (va + 4) none vs
    | 5 => State.winPut (s.modCore core fun c => { c with trees := setAt c.trees (fld off 12 11) fun t => treePut t off v }) (va + 4) none vs
    | 6 => State.winPut s (va + 4) none vs
    | _ =>
      match s.winParty core (off / 2 ^ 13), winReg (fld off 12 2) with
      | some p, some (r, high) =>
        if !r.wide then State.winPut (s.winPutReg p r v.toNat) (va + 4) none vs
        else if high then
          let lo := (low.elim (stateValue s p r.num % 2 ^ 32) (·.toNat))
          State.winPut (s.winPutReg p r (lo + v.toNat * 2 ^ 32)) (va + 4) none vs
        else if vs.isEmpty then s.winPutReg p r (v.toNat + stateValue s p r.num / 2 ^ 32 * 2 ^ 32)
        else State.winPut s (va + 4) (some v) vs
      | _, _ => State.winPut s (va + 4) none vs

/-! ### Accesses at the target (R189, R218, R223, R332) -/

/-- The target holds an access: a write to a marked B range, or a tile slot or scale column that an unretired MMA uses. -/
def State.winHeld (s : State) (va size : Nat) (write : Bool) : Bool :=
  let core := winCore va
  let c := s.coreAt core
  (List.range (size / 4)).any fun k =>
    let off := winOff va + 4 * k
    match winKind va with
    | 0 => write && (match s.pondGang core off with | some (slot, g, o) => c.marked slot g.blk (o / 128) | none => false)
    | 1 => write && (match s.gangAt core (off / 2 ^ 14) with | some g => decide (off % 2 ^ 14 < 0x3000) && c.marked (off / 2 ^ 14) g.blk (off % 2 ^ 14 / 128) | none => false)
    | 3 => (s.mmasOn core).any fun m => usesTile m (off % 2 ^ 17 / 2 ^ 15)
    | 4 => (s.mmasOn core).any fun m => usesColumn m (off % 2 ^ 14 / 64)
    | _ => false

/-- A gang consumes an uncorrectable error of the accumulators, at a word of them (R175). -/
def State.consumeError (s : State) (core slot blk at' : Nat) : State :=
  if (s.gangAt core slot).elim false (·.blk == blk) then s.at s.now (.eccUncorrectable core slot 1 (4 * at')) else s

/-- A window read touches accumulator rows marked uncorrectable (R225): the reading gang consumes the error (log entry 51). -/
def State.windowBad (s : State) (core slot blk va size : Nat) : State :=
  let off := winOff va
  if winKind va = 3 ∧ ((s.coreAt (winCore va)).accBad.any fun x =>
      decide (off < 2 ^ 17 * x.1 + 2 ^ 15 * (x.2 + 1)) && decide (2 ^ 17 * x.1 + 2 ^ 15 * x.2 < off + size)) = true then
    s.consumeError core slot blk (off / 4)
  else s

/-- A target that hosts another protection domain answers zero and discards writes, but for the physical function (R332). -/
def State.winOpen (s : State) (phys : Bool) (domain va : Nat) : Bool := phys || (s.coreAt (winCore va)).domain == domain

/-- The bytes a window read returns, and the state with its open bytes used up. -/
def State.winRead (s : State) (phys : Bool) (domain va size : Nat) : List Byte × State :=
  if s.winOpen phys domain va then
    ((List.range (size / 4)).flatMap fun k => toBytes 4 (s.winWord (s.fresh + 4 * k) (va + 4 * k)).toNat, { s with fresh := s.fresh + size })
  else (List.replicate size 0, s)

/-- The words of some bytes. -/
def wordsOf (bs : List Byte) : List Word := (List.range (bs.length / 4)).map fun k => word (ofBytes ((bs.drop (4 * k)).take 4))

/-- A window write. -/
def State.winWrite (s : State) (phys : Bool) (domain va : Nat) (bs : List Byte) : State :=
  if s.winOpen phys domain va then s.winPut va none (wordsOf bs) else s

/-- WINDOW_ACCESS_ARRIVAL (R160, R189): the access waits behind the gang's earlier ones to the same core and while its target holds it. -/
def execWindowAccessArrival (core id : Nat) (s : State) : Result :=
  let c := s.coreAt core
  match c.wins.find? (·.id == id) with
  | none => .next s
  | some w =>
    let before := c.wins.takeWhile (·.id != id)
    if before.any fun x => x.slot == w.slot && x.blk == w.blk && winCore x.addr == winCore w.addr then .next (s.at (s.now + 1) (.windowAccessArrival core id))
    else if s.winHeld w.addr w.size w.write.isSome then .next (s.at (s.now + 1) (.windowAccessArrival core id))
    else
      let s := s.modCore core fun c => { c with wins := c.wins.filter (·.id != id) }
      match w.write with
      | some bs =>
        let note (r : Release) : Release := { r with wins := r.wins.filter (· != id) }
        let s := s.modCore core fun c => { c with rels := c.rels.map note }
        .next ((s.winWrite w.phys w.domain w.addr bs).wake core)
      | none =>
        let s := if s.winOpen w.phys w.domain w.addr then s.windowBad core w.slot w.blk w.addr w.size else s
        let r := s.winRead w.phys w.domain w.addr w.size
        .next (r.2.modLanes core w.slot w.pend fun l => if l.lane = w.lane then { l with got := some r.1 } else l)

/-- Issue window accesses: one for each lane, in lane order, each leaving after the gang's incomplete releases when it writes (R319). -/
def State.sendWindows (s : State) (p : Party) (size pend : Nat) (as : List (Nat × Nat × Option (List Byte))) : State :=
  let c := s.coreAt p.core
  as.foldl (fun s a =>
    let w : WinAcc := ⟨s.fresh, p.slot, p.g.blk, p.g.super, c.function == 0, c.domain, a.2.1, size, a.2.2, pend, a.1⟩
    let e : Instr := .windowAccessArrival p.core w.id
    let s := (s.modCore p.core fun c => { c with wins := c.wins ++ [w] }).bump
    if a.2.2.isSome then s.afterReleases p e else s.later e) s

/-- The checks of LDW and STW (R161, R181, R209). -/
def windowTrap (s : State) (p : Party) (write : Bool) (size : Nat) (as : List (Nat × Nat)) : Option (Nat × Nat) :=
  firstTrap [winTrap s p write as, misaligned size 0 as]

/-- LDW (R188). -/
def execLdw (t a : Reg) (kind : BitVec 3) (k : BitVec 8) (s : State) : Result :=
  s.issue (.ldw t a kind k) fun p =>
    let size := kindSize kind
    let addr (l : Nat) : Nat := laneAddr s p a 2 size (k.toNat * size) l
    match windowTrap s p false size ((lanesOf p.writing).map fun l => (l, addr l)) with
    | some x => s.raise p x.1 x.2
    | none =>
      let bad (l : Nat) : Bool := (windowTrap s p false size [(l, addr l)]).isSome
      let lanes := (lanesOf p.writing).map (fun l => (⟨l, addr l, false, none, none⟩ : LoadLane))
        ++ (lanesOf p.helping).map fun l => ⟨l, addr l, true, if bad l then some (List.replicate size 0) else none, none⟩
      if lanes.isEmpty then s.advance p
      else
        let id := s.fresh
        let s := s.addPend p (resultCodes t (kindRegs kind)) (.window kind t lanes)
        let asked := lanes.filter fun l => !l.done
        let s := if asked.isEmpty then s.later (.variableReturnLanding p.core p.slot id) else s
        (s.sendWindows p size id (asked.map fun l => (l.lane, l.addr, none))).advance p

/-- STW (R188). -/
def execStw (t a : Reg) (kind : BitVec 3) (k : BitVec 8) (s : State) : Result :=
  s.issue (.stw t a kind k) fun p =>
    let size := kindSize kind
    let addr (l : Nat) : Nat := laneAddr s p a 2 size (k.toNat * size) l
    match windowTrap s p true size ((lanesOf p.writing).map fun l => (l, addr l)) with
    | some x => s.raise p x.1 x.2
    | none => s.writer p (
        (s.sendWindows p size 0 ((lanesOf p.writing).map fun l => (l, addr l, some (toBytes size (s.regValue p t (kindRegs kind) l))))).advance p)

end Sys2Proof.Machine
end

