-- ==== Sys2Proof/Machine/Engines.lean ====
section
/-! DEFINITION. Engine works (R189 to R193, R201 to R207, R289): LDX, CPL, KICK, the service of bulk records, and the landing of transfer
units on gates. -/

namespace Sys2Proof.Machine

open Sys2Proof

/-! ### The fork edge (R191, R313, R319) -/

/-- The incomplete releases of the gang. -/
def relIds (s : State) (p : Party) : List Nat := ((s.coreAt p.core).relsOf p.slot p.g.blk).map (·.id)

/-- Whether what a work waits for has completed: entries acknowledged and their stamps passed, atomics visible, window writes landed, releases
complete. -/
def forkReady (s : State) (c : Core) (after : List (Nat × Word)) (stamp : Nat) (atoms wins rels : List Nat) : Bool :=
  after.isEmpty && decide (stamp ≤ s.now) && atoms.all (fun a => !c.atoms.any (·.id == a)) && wins.all (fun w => !c.wins.any (·.id == w))
    && rels.all (fun r => !c.rels.any (·.id == r))

/-- An instruction that forks engine work: not ready while readHeld, or while a core-scope atomic of the gang is still to be performed. -/
def State.forker (s : State) (p : Party) (f : State) : State := s.writer p (if coreAtomOut s p then s.stall p else f)

/-- An engine work of the executing party: its issue is a release of die scope of the core's leat (R191, R313). -/
def State.fork (s : State) (p : Party) (gate : Option Nat) (units : List XUnit) : State :=
  let w : Work := ⟨s.fresh, p.slot, p.g.blk, p.g.super, gate, none, s.coveredBy p.core, (s.coreAt p.core).stampAhead, atomsOf s p, winsOf s p,
    relIds s p, p.g.marks, units, p.g.launch⟩
  let s := (s.modCore p.core fun c => { c with works := c.works ++ [w] }).bump
  let s := s.urgeCovered p.core
  units.foldl (fun s u => s.at s.now (.transferUnitLanding p.core w.id u.id)) s

/-! ### LDX and CPL (R190) -/

/-- GATENUM for a gate beyond the block's count; a copy in supervisor mode names none (R190, R345). -/
def copyGate (b : Block) (p : Party) (k : BitVec 8) : Option (Nat × Nat) :=
  if !p.g.super && decide (b.ngates ≤ k.toNat) then some (xGateNum, k.toNat) else none

/-- The coalescer merges the lanes with one 128-byte line of source and one of destination into one unit, in lane order (R190; log entry 12). -/
def laneUnits (p : Party) (size : Nat) (own : Bool) (src dst : Nat → Loc) : List XUnit :=
  let ls := lanesOf p.writing
  let key (l : Nat) : Nat × Nat := ((src l).off / 128, (dst l).off / 128)
  ((ls.map key).dedup).zipIdx.map fun k =>
    let mine := ls.filter fun l => key l = k.1
    let low (f : Nat → Loc) : Nat := mine.foldl (fun m l => Nat.min m (f l).off) (f (mine.headD 0)).off
    ⟨k.2, [(src (mine.headD 0)).at (low src)], (dst (mine.headD 0)).at (low dst), size * mine.length, none, false, own, .queued,
      mine.map fun l => ((src l).off - low src, (dst l).off - low dst, size), 0, [], []⟩

/-- The unit writes every byte of the line its destination begins in (R371). -/
def XUnit.wide (u : XUnit) : Bool :=
  (List.range 128).all fun k => u.pieces.any fun x =>
    let a := u.dst.off / 128 * 128 + k
    decide (x.2.1.off ≤ a) && decide (a < x.2.1.off + x.2.2)

/-- MISALIGN of the two addresses of a lane: the lowest misaligned lane, bit 5 for the T address (R209). -/
def pairMisaligned (size : Nat) (as ts : List (Nat × Nat)) : Option (Nat × Nat) :=
  ((as.zip ts).find? fun x => x.1.2 % size != 0 || x.2.2 % size != 0).map fun x => (xMisalign, x.1.1 + (if x.1.2 % size ≠ 0 then 0 else 32))

/-- LDX. -/
def execLdx (t a : Reg) (kind : BitVec 3) (k : BitVec 8) (s : State) : Result :=
  s.issue (.ldx t a kind k) fun p =>
    match s.blockOf p with
    | none => s
    | some b =>
      let size := kindSize kind
      let src (l : Nat) : Nat := laneAddr s p a 2 size 0 l
      let dst (l : Nat) : Nat := laneAddr s p t 1 size 0 l
      let ls := lanesOf p.writing
      let as := ls.map fun l => (l, src l)
      let ts := ls.map fun l => (l, dst l)
      match firstTrap [keyViol (s.coreAt p.core) 1 as, sheetViol as, pairMisaligned size as ts, copyGate b p k,
          scrTrap b size true ts] with
      | some x => s.raise p x.1 x.2
      | none => s.forker p (
          if ls.isEmpty then s.advance p
          else (s.fork p (if p.g.super then none else some k.toNat)
            (laneUnits p size false (fun l => .mem (src l)) fun l => .scratch b.key (b.partOf p.core) (dst l))).advance p)

/-- The checks of CPL over both addresses of each lane (lane, address, whether it is the destination), the source of a lane before its destination:
the key of a global address, else the grant of its window (R161, R162); sheet 0xFFE has none, and is WINDOW with cause 0 (log entry 119). -/
def copyTrap (s : State) (p : Party) (as : List (Nat × Nat × Bool)) : Option (Nat × Nat) :=
  let need (a : Nat × Nat × Bool) : Nat := if a.2.2 then 2 else 1
  let key := (as.find? fun a => !chipSheet a.2.1 && decide ((s.coreAt p.core).right (keyOf a.2.1) < need a)).map fun a =>
    (xKeyViol, keyOf a.2.1 + need a * 2 ^ 8 + a.1 * 2 ^ 10)
  firstTrap [key, winTrapOf s p (as.filter fun a => chipSheet a.2.1)]

/-- CPL: the keys of both addresses, then their windows. -/
def execCpl (t a : Reg) (kind : BitVec 3) (k : BitVec 8) (s : State) : Result :=
  s.issue (.cpl t a kind k) fun p =>
    match s.blockOf p with
    | none => s
    | some b =>
      let size := kindSize kind
      let src (l : Nat) : Nat := laneAddr s p a 2 size 0 l
      let dst (l : Nat) : Nat := laneAddr s p t 2 size 0 l
      let ls := lanesOf p.writing
      let as := ls.map fun l => (l, src l)
      let ts := ls.map fun l => (l, dst l)
      match firstTrap [copyTrap s p (ls.flatMap fun l => [(l, src l, false), (l, dst l, true)]), pairMisaligned size as ts, copyGate b p k] with
      | some x => s.raise p x.1 x.2
      | none => s.forker p (
          if ls.isEmpty then s.advance p
          else (s.fork p (if p.g.super then none else some k.toNat)
            (laneUnits p size true (fun l => .mem (src l)) fun l => .mem (dst l))).advance p)

/-! ### KICK (R201) -/

/-- BULKARG: the lowest cause. -/
def bulkArg (b : Block) (addr count : Nat) : Option Nat :=
  if 64 < count then some 0
  else if addr % 64 ≠ 0 then some 1
  else if count ≠ 0 ∧ (b.scrSize < addr + 64 * count ∨ addr < 16 * b.ngates) then some 2
  else none

/-- The 16 words of a record in scratch. -/
def recordWords (b : Block) (part addr : Nat) : List Word :=
  (List.range 16).map fun k => word (ofBytes ((List.range 4).map fun j => b.scratchByte part (addr + 4 * k + j)))

/-- The records whose KICK came after window writes of its gang are copied once those have landed, and the ticket is on its way (R191, R201). -/
def State.copyRecord (s : State) (core : Nat) (r : BulkRec) : State :=
  let words := (s.blockAt r.blk).elim [] fun b => recordWords b r.part r.addr
  let upd (x : BulkRec) : BulkRec := { x with words := words, waits := false }
  let s := s.modCore core fun c => { c with recs := replaceFirst (·.ticket == r.ticket) upd c.recs }
  match r.ask.bind fun id => s.pendAt core r.slot id with
  | some d => s.knownResult core r.slot d.id (d.regs.map fun k => (⟨.s (k - 0x60), r.ticket⟩ : RegWrite))
  | none => s

def State.copyRecords (s : State) (core : Nat) : State :=
  let c := s.coreAt core
  (c.recs.filter fun r => r.waits && r.wins.all fun w => !c.wins.any (·.id == w)).foldl (fun s r => s.copyRecord core r) s

/-- KICK. -/
def execKick (d a b : Reg) (s : State) : Result :=
  s.issue (.kick d a b) fun p =>
    match s.blockOf p with
    | none => s
    | some blk =>
      let addr := s.uniform p a 1
      let count := s.uniform p b 1
      let c := s.coreAt p.core
      if !p.once then s.advance p
      else match bulkArg blk addr count with
        | some x => s.raise p xBulkArg x
        | none => s.forker p (
            if 64 < c.recs.length + count then s.stall p
            else
              let s := s.closeMark p
              let part := blk.partOf p.core
              let ws := p.uniformWrites d 1 c.rqtick.toNat
              let late := !(winsOf s p).isEmpty && count != 0
              let mk (k : Nat) : BulkRec := ⟨c.rqtick + BitVec.ofNat 32 k, s.fresh + k, p.slot, p.g.blk, part, p.g.super,
                if late then [] else recordWords blk part (addr + 64 * k), none, false, 0, s.coveredBy p.core, c.stampAhead, atomsOf s p, winsOf s p,
                relIds s p, false, addr + 64 * k, late, if late && k == 0 && !ws.isEmpty then some (s.fresh + count) else none, none⟩
              let s := s.modCore p.core fun c =>
                { c with recs := c.recs ++ (List.range count).map mk, rqtick := c.rqtick + BitVec.ofNat 32 count }
              let s := State.urgeCovered { s with fresh := s.fresh + count } p.core
              let s := s.at s.now (.bulkRecordService p.core)
              (if late && !ws.isEmpty then s.addPend p (codesOf ws) .ticket else s.variableResult p (if late then [] else ws)).advance p)

/-! ### Records (R202 to R205) -/

def BulkRec.w (r : BulkRec) (k : Nat) : Nat := (r.words.getD k 0).toNat
def BulkRec.kind (r : BulkRec) : Nat := fld (r.w 0) 3 0
def BulkRec.rop (r : BulkRec) : Nat := fld (r.w 0) 7 4
def BulkRec.rty (r : BulkRec) : Nat := fld (r.w 0) 12 8
def BulkRec.dup (r : BulkRec) : Bool := (r.w 0).testBit 13
def BulkRec.ssp (r : BulkRec) : Bool := (r.w 0).testBit 14
def BulkRec.dsp (r : BulkRec) : Bool := (r.w 0).testBit 15
def BulkRec.gv (r : BulkRec) : Bool := (r.w 0).testBit 16
def BulkRec.cv (r : BulkRec) : Bool := (r.w 0).testBit 17
def BulkRec.gate (r : BulkRec) : Nat := fld (r.w 0) 31 24
def BulkRec.src (r : BulkRec) : Nat := r.w 2 + r.w 3 * 2 ^ 32
def BulkRec.dst (r : BulkRec) : Nat := r.w 4 + r.w 5 * 2 ^ 32
def BulkRec.spitch (r : BulkRec) : Int := sext 32 (r.w 8)
def BulkRec.dpitch (r : BulkRec) : Int := sext 32 (r.w 9)

/-- SCATI with DUP 0 and REDC read RTY and ROP (R204). -/
def BulkRec.reduces (r : BulkRec) : Bool := r.kind == 6 || (r.kind == 5 && !r.dup)

/-- Bytes of an element of RTY. -/
def rtySize (rty : Nat) : Nat := elemWidth (BitVec.ofNat 5 rty) / 8
def rtyOk (rty : Nat) : Bool := [0x00, 0x01, 0x02, 0x05, 0x06, 0x09, 0x0A, 0x0B].contains rty

/-- The bytes a record owes its gate (R203, R206). -/
def BulkRec.owed (r : BulkRec) : Nat :=
  (match r.kind with
   | 1 => r.w 6
   | 2 => r.w 6 * r.w 7
   | 3 => r.w 6 * r.w 7 * r.w 11
   | 4 => r.w 6 * r.w 11
   | 5 => r.w 6 * r.w 11
   | 6 => r.w 6
   | _ => 0) % 2 ^ 48

/-- A GATE at or above the gate count (R205). -/
def BulkRec.badGate (r : BulkRec) (ngates : Nat) : Bool := r.gv && decide (ngates ≤ r.gate)

/-- Step 1 of R205. -/
def BulkRec.badFormat (r : BulkRec) (ngates : Nat) : Bool :=
  decide (r.kind = 0) || decide (6 < r.kind) || fld (r.w 0) 23 18 != 0 || r.w 1 != 0 || (r.ssp && r.w 3 != 0) || (r.dsp && r.w 5 != 0)
    || (r.reduces && (!rtyOk r.rty || decide (5 < r.rop))) || r.badGate ngates

/-- Step 2 of R205. -/
def BulkRec.badAlign (r : BulkRec) : Bool :=
  let win (sp : Bool) (a : Nat) : Bool := !sp && chipSheet a
  let windows := win r.ssp r.src || win r.dsp r.dst
  let usesS := r.kind == 2 || r.kind == 3 || r.kind == 4 || r.kind == 5
  (windows && ((win r.ssp r.src && r.src % 4 != 0) || (win r.dsp r.dst && r.dst % 4 != 0) || r.w 6 % 4 != 0
      || (usesS && (r.w 8 % 4 != 0 || r.w 9 % 4 != 0))))
    || (r.reduces && (r.w 6 % rtySize r.rty != 0 || r.src % rtySize r.rty != 0 || r.dst % rtySize r.rty != 0))
    || (r.kind == 3 && r.w 10 % 8 != 0) || ((r.kind == 4 || r.kind == 5) && r.w 10 % 4 != 0) || (r.cv && r.w 12 % 8 != 0)

/-- An address plus a signed offset, modulo 2^64. -/
def plusInt (a : Nat) (x : Int) : Nat := (((a : Int) + x) % ((2 ^ 64 : Nat) : Int)).toNat

/-- A row or element of a record: its source offsets (none: zeros), its destination offset, each from SRC and DST. -/
structure Row where
  srcs : List Nat
  dst : Nat
  deriving DecidableEq, Repr

/-- The rows of a record, given its list words (R203, R204). -/
def BulkRec.rows (r : BulkRec) (list : Nat → Nat) : List Row :=
  let n := r.w 11
  let h := r.w 7
  match r.kind with
  | 2 => (List.range h).map fun (k : Nat) => ⟨[plusInt r.src (r.spitch * (k : Int))], plusInt r.dst (r.dpitch * (k : Int))⟩
  | 3 => (List.range n).flatMap fun k => (List.range h).map fun j =>
      ⟨if list (2 * k + 1) = 2 ^ 32 - 1 then [] else [plusInt r.src (r.spitch * ((list (2 * k + 1) + j : Nat) : Int) + (list (2 * k) : Nat))],
        plusInt r.dst (r.dpitch * ((k * h + j : Nat) : Int))⟩
  | 4 => (List.range n).map fun (k : Nat) => ⟨[plusInt r.src (r.spitch * (list k : Nat))], plusInt r.dst (r.dpitch * (k : Int))⟩
  | 5 =>
    let from' (k : Nat) : Nat := plusInt r.src (r.spitch * k)
    let to' (i : Nat) : Nat := plusInt r.dst (r.dpitch * (i : Nat))
    if r.dup then (List.range n).map fun k => ⟨[from' k], to' (list k)⟩
    else ((List.range n).map list).dedup.map fun i => ⟨((List.range n).filter fun k => list k == i).map from', to' i⟩
  | _ => [⟨[r.src], r.dst⟩]

/-- The bytes of the next piece of a row of which `len` are left: none crosses a 128-byte line of its destination or of a single source, but a cut
keeps an element of a reduction (of `grain` bytes) and an aligned word of the destination whole (R204, R308). -/
def pieceLen (grain off len : Nat) (row : Row) : Nat :=
  let room (a : Nat) : Nat := 128 - (a + off) % 128
  let m := Nat.min len (Nat.min (room row.dst) (match row.srcs with | [a] => room a | _ => 128))
  let cut := if 1 < grain then m % grain else (row.dst + off + m) % 4
  if m = len ∨ cut = 0 then m
  else if cut < m then m - cut
  else Nat.min len (m + (if 1 < grain then grain else 4) - cut)

/-- The pieces of a row. -/
def pieces (fuel grain off len : Nat) (row : Row) : List (Nat × Nat) :=
  match fuel with
  | 0 => []
  | n + 1 =>
    if len = 0 then []
    else
      let m := pieceLen grain off len row
      (off, m) :: pieces n grain (off + m) (len - m) row

/-- The bytes behind a piece of a row that share an aligned word of a single source with its last byte: read with it, since an aligned word is
read whole (R308). -/
def aheadOf (off m len : Nat) (row : Row) : Nat :=
  match row.srcs with
  | [a] => Nat.min (len - (off + m)) ((4 - (a + off + m) % 4) % 4)
  | _ => 0

/-- Where an address of a record lies. -/
def recLoc (sp : Bool) (blk part a : Nat) : Loc := if sp then .scratch blk part a else .mem a

/-- The transfer units of a record, in order. -/
def BulkRec.units (r : BulkRec) (list : Nat → Nat) : List XUnit :=
  let all := (r.rows list).flatMap fun row => (pieces (r.w 6) (if r.reduces then rtySize r.rty else 1) 0 (r.w 6) row).map fun x => (row, x)
  all.zipIdx.map fun u =>
    let row := u.1.1
    let off := u.1.2.1
    ⟨u.2, row.srcs.map fun a => recLoc r.ssp r.blk r.part ((a + off) % 2 ^ 64), recLoc r.dsp r.blk r.part ((row.dst + off) % 2 ^ 64),
      u.1.2.2, if r.reduces then some (r.rop, r.rty) else none, r.kind == 6, false, .queued, [], aheadOf off u.1.2.2 (r.w 6) row, [], []⟩

/-- Words of the list that a record reads. -/
def BulkRec.listWords (r : BulkRec) : Nat := match r.kind with | 3 => 2 * r.w 11 | 4 => r.w 11 | 5 => r.w 11 | _ => 0

def State.modRec (s : State) (core : Nat) (ticket : Word) (f : BulkRec → BulkRec) : State :=
  s.modCore core fun c => { c with recs := replaceFirst (·.ticket == ticket) f c.recs }

/-- A record stops or is done with a status (R206). -/
def State.endRecord (s : State) (core : Nat) (ticket : Word) (status : Nat) : State :=
  (s.modRec core ticket fun r => { r with status := some status, started := true }).at s.now (.bulkRecordCompletion core ticket.toNat)

/-- BULK_RECORD_SERVICE (R205, R207): the oldest record enters service once its fork edge allows; checks 1 and 2, then its units one
after the other. -/
def execBulkRecordService (core : Nat) (s : State) : Result :=
  let s := s.copyRecords core
  let c := s.coreAt core
  match c.recs with
  | [] => .next s
  | r :: _ =>
    if r.started || c.frozen then .next s
    else if !forkReady s c r.afterEntries r.afterStamp r.atoms r.wins r.rels then
      .next (if r.afterEntries.isEmpty && decide (s.now < r.afterStamp) then s.at r.afterStamp (.bulkRecordService core) else s)
    else
      let ng := (s.blockAt r.blk).elim 0 (·.ngates)
      if r.badFormat ng then .next (s.endRecord core r.ticket 1)
      else if r.badAlign then .next (s.endRecord core r.ticket 5)
      else match s.blockAt r.blk with
        | none => .next (s.endRecord core r.ticket 4)
        | some b =>
          let n := r.listWords
          if n ≠ 0 ∧ (b.scrSize < r.w 10 + 4 * n ∨ r.w 10 < 16 * b.ngates) then .next (s.endRecord core r.ticket 4)
          else
            let list (k : Nat) : Nat := ofBytes ((List.range 4).map fun j => b.scratchByte r.part (r.w 10 + 4 * k + j))
            let us := r.units list
            let w : Work := ⟨r.work, r.slot, r.blk, r.super, if r.gv then some r.gate else none, some r.ticket, [], 0, [], [], [], 0, us, b.launch⟩
            let s := s.modRec core r.ticket fun r => { r with started := true }
            if us.isEmpty then .next (s.endRecord core r.ticket 0)
            else .next ((s.modCore core fun c => { c with works := c.works ++ [w] }).at s.now (.transferUnitLanding core r.work 0))

/-! ### Transfer units (R190, R205, R289) -/

/-- What stops a side of a unit: a status of R206 for a record, or a refusal of the home; 0 nothing, 100 wait a clock. -/
inductive Side where
  | ok
  | wait
  | status (n : Nat)
  | refusal (code va : Nat)
  | remote (access : Nat) (vas : List Nat)
  deriving DecidableEq, Repr

/-- What another package has still to accept of a unit's bytes at an address: each element of an update in place, as an atomic of its own (R449),
else the whole. -/
def XUnit.abroad (u : XUnit) (access va n : Nat) : List Nat :=
  let all := if access = 2 then u.red.elim [va] fun r => (List.range (n / Nat.max 1 (rtySize r.2))).map fun k => va + k * rtySize r.2 else [va]
  all.filter fun a => !u.acked.contains a

/-- The kind of the record a work serves; 0 for a copy of lanes. -/
def Core.workKind (c : Core) (w : Work) : Nat := (w.rticket.bind fun t => c.recs.find? (·.ticket == t)).elim 0 BulkRec.kind

/-- The checks of n bytes at one location of a unit: for a record its right, grant or range (R205), then the home (R371). `access` is 2 for an
update in place, 3 for a read, 4 for a write. -/
def unitSide (s : State) (core : Nat) (w : Work) (u : XUnit) (access : Nat) (l : Loc) (n : Nat) : Side :=
  let c := s.coreAt core
  let isRec := w.rticket.isSome
  let write := access != 3
  match l with
  | .scratch blk _ off =>
    match s.blockAt blk with
    | none => .status 4
    | some b => if isRec && (decide (b.scrSize < off + n) || decide (off < 16 * b.ngates)) then .status 4 else .ok
  | .mem va =>
    if chipSheet va then
      if isRec && (!(winCauses s core w.super va write).isEmpty || decide (2 < c.workKind w)) then .status 3
      else if s.winHeld va n write then .wait else .ok
    else if isRec && decide (c.right (keyOf va) < (if access = 2 then 3 else if write then 2 else 1)) then .status 2
    else if u.own && !write && (c.viewBytes s.now va n).isSome then .ok
    else match s.deviceOf va with
      | none => .refusal 4 va
      | some _ =>
        if !s.homedHere va then
          (if s.holdsWrite va || (!write && (s.heldFor va).isSome && (s.lineIn (dieOf core) (lineOf va)).isSome) || u.abroad access va n = [] then .ok
            else .remote access (u.abroad access va n))
        else if s.tickets.any (fun t => t.region == regionOf va && t.writer.isSome) then .refusal 100 va
        else match s.homeCheck access va write (u.wide && lineOf va == lineOf u.dst.off) none false with
          | 0 => .ok
          | code => .refusal code va

/-- n bytes at a location, cut at the 128-byte lines of memory. -/
def Loc.byLine (l : Loc) (n : Nat) : List (Loc × Nat) :=
  match l with
  | .scratch _ _ _ => [(l, n)]
  | .mem va =>
    let first := Nat.min n (128 - va % 128)
    if first = n then [(l, n)] else [(l, first), (l.plus first, n - first)]

/-- The first side of a unit that is not clear. -/
def unitSides (s : State) (core : Nat) (w : Work) (u : XUnit) : Side :=
  let read := u.pieces.flatMap fun x => x.1.flatMap fun l => (l.byLine x.2.2).map fun y => unitSide s core w u 3 y.1 y.2
  let write := u.pieces.flatMap fun x => (x.2.1.byLine x.2.2).map fun y => unitSide s core w u (if u.atDst then 2 else 4) y.1 y.2
  ((read ++ write).find? fun x => x != .ok).getD .ok

/-- The bytes at a location. -/
def State.locRead (s : State) (core : Nat) (own : Bool) (n : Nat) (l : Loc) : List Byte × State :=
  match l with
  | .scratch blk part off => ((s.blockAt blk).elim (List.replicate n 0) fun b => (List.range n).map fun k => b.ldsByte part (off + k), s)
  | .mem va =>
    let c := s.coreAt core
    if chipSheet va then s.winRead (c.function == 0) c.domain va n
    else
      let byte (k : Nat) : Byte := if own then (c.viewByte s.now (va + k)).getD (s.globalByte (va + k)) else s.globalByte (va + k)
      ((List.range n).map byte, s.markPage va false)

/-- Write bytes of one line through the slice of the core's die, or at the home, for a unit; with the stamp, or none while invalidations are out
(R277, R281, R286, R289). `at'` is the slot and the block of the gang it serves. -/
def State.globalWrite (s : State) (core : Nat) (what : Parked) (at' : Nat × Nat) (va : Nat) (bs : List Byte) (wide : Bool) : State × Option Nat :=
  let die := dieOf core
  let line := lineOf va
  let s := s.markPage va true
  let s := if wide then s.clearPoison va else s
  let held := s.mayWrite va && (s.lineIn die line).isSome
  if held || s.mayTake (s.maskFor core what 0) va then
    let s := if held then s else s.fillLine (s.classFor core what 0) (s.maskFor core what 0) die line
    let s := ((s.recallOwner die line).takeOwnership die line).dropCopy core line
    let s := s.modLine die line fun y => { y with sharers := y.sharers.filter (· != core) }
    let r := (s.patchLine die line (bs.zipIdx.map fun b => (va % 128 + b.2, b.1))).tellSharers die line core what
    (r.1, if r.2 then none else some ((r.1.lineIn die line).elim s.now (·.stamp s.now)))
  else ((((s.flushLine line).setHomeBytes va bs).counterChanged line).staleTickets va
    (some ⟨core, what, at'.1, at'.2, (List.range bs.length).map (va + ·), true⟩), some s.now)

/-- Write bytes at a location for a unit; the stamp of a global write, none while invalidations are out. -/
def State.locWrite (s : State) (core : Nat) (what : Parked) (at' : Nat × Nat) (l : Loc) (bs : List Byte) (wide : Bool) : State × Option Nat :=
  match l with
  | .scratch blk part off => (s.modBlock blk fun b => b.putScratch part off bs, some s.now)
  | .mem va =>
    let c := s.coreAt core
    if chipSheet va then (s.winWrite (c.function == 0) c.domain va bs, some s.now)
    else
      let join (a b : Option Nat) : Option Nat := match a, b with | some x, some y => some (Nat.max x y) | _, _ => none
      let step (r : State × Option Nat × List Byte) (y : Loc × Nat) : State × Option Nat × List Byte :=
        let x := r.1.globalWrite core what at' y.1.off (r.2.2.take y.2) wide
        (x.1, join r.2.1 x.2, r.2.2.drop y.2)
      let r := (l.byLine bs.length).foldl step (s, some s.now, bs)
      (r.1, r.2.1)

/-- Combine bytes element by element with ROP over RTY (R204). -/
def combine (rop rty : Nat) (x y : List Byte) : List Byte :=
  let n := rtySize rty
  let el (b : List Byte) (k : Nat) : Nat := ofBytes ((b.drop (n * k)).take n)
  (List.range (x.length / n)).flatMap fun k =>
    toBytes n ((atomNew (BitVec.ofNat 4 rop) (BitVec.ofNat 5 rty) (el x k) (el y k) 0).getD 0)

/-- Bytes of a unit's source from its beginning, those that the unit before it has read first (R308). -/
def State.sourceRead (s : State) (core : Nat) (u : XUnit) (n : Nat) (l : Loc) : List Byte × State :=
  let y := s.locRead core u.own (n - u.held.length) (l.plus u.held.length)
  (u.held.take n ++ y.1, y.2)

/-- The bytes a unit reads for the next one. -/
def State.aheadBytes (s : State) (core : Nat) (u : XUnit) : List Byte :=
  match u.srcs with
  | [l] => if u.ahead = 0 then u.held.drop u.len else (s.sourceRead core u (Nat.max u.held.length (u.len + u.ahead)) l).1.drop u.len
  | _ => []

/-- The bytes a piece of a unit writes. -/
def State.unitBytes (s : State) (core : Nat) (u : XUnit) (x : List Loc × Loc × Nat) : List Byte × State :=
  let read := x.1.foldl (fun (r : List (List Byte) × State) l => let y := r.2.sourceRead core u x.2.2 l; (r.1 ++ [y.1], y.2)) ([], s)
  match read.1, u.red with
  | [], _ => (List.replicate x.2.2 0, read.2)
  | b :: bs, some (rop, rty) =>
    let v := bs.foldl (combine rop rty) b
    if u.atDst then
      let d := read.2.locRead core false x.2.2 x.2.1
      (combine rop rty d.1 v, d.2)
    else (v, read.2)
  | b :: _, none => (b, read.2)

/-- The core that issued a work counts bytes on the gate: from the bed core 6 clocks later, over the bridge (R190, R212). -/
def State.countBytes (s : State) (core blk gate n : Nat) : State :=
  match s.blockAt blk with
  | none => s
  | some b => s.sendGateAfter b (if b.pair && core % 2 == 1 then 6 else 0) core 64 gate [] (.land n)

/-- A unit has landed, or counts as landed: its bytes on the gate, the next unit of a record, and the end of the work. -/
def State.unitLanded (s : State) (core : Nat) (w : Work) (u : XUnit) : State :=
  let s := (s.setUnit core w.id u.id .landed).requestGone core (.xfer w.id u.id) 0
  let s := match w.gate with
    | some gate =>
      let s := s.countBytes core w.blk gate u.len
      if w.rticket.isSome then s
      else s.modGang core w.slot fun g => if g.blk = w.blk then { g with copied := g.copied ++ [(w.mark, gate, u.len)] } else g
    | none => s
  let last := (w.units.filter fun x => x.id != u.id).all fun x => x.st == .landed
  match w.rticket with
  | none => if last then (s.modCore core fun c => { c with works := c.works.filter (·.id != w.id) }).wake core else s
  | some t =>
    let s := s.modRec core t fun r => { r with counted := r.counted + u.len }
    if last then s.endRecord core t 0 else s.at s.now (.transferUnitLanding core w.id (u.id + 1))

/-- Flits of a unit: each global side crosses the port (R268). -/
def unitCost (u : XUnit) : Nat :=
  let side (l : Loc) : Nat := match l with | .mem va => if chipSheet va then 0 else 1 + (u.len + 31) / 32 | _ => 0
  (u.srcs.map side).sum + side u.dst

/-- A unit's requests at the homes, for what the slice does not hold, with their charges (R388). -/
def State.unitJobs (s : State) (core : Nat) (u : XUnit) : List (Nat × Nat) :=
  let elements := u.red.elim 0 fun r => 4 * 32 * (u.len / rtySize r.2)
  (u.dst :: u.srcs).filterMap fun l =>
    match l with
    | .mem va =>
      if chipSheet va || !s.homedHere va || (s.lineIn (dieOf core) (lineOf va)).isSome then none
      else some (homeOf va, if u.atDst && l == u.dst then elements else Nat.max 32 u.len)
    | .scratch _ _ _ => none

/-- The global lines of a unit that its slice looks up, each once (R279); what the own view gives is none (R167). -/
def State.unitLines (s : State) (core : Nat) (u : XUnit) : List Nat :=
  let c := s.coreAt core
  let seen (own : Bool) (l : Loc) (n : Nat) : List Nat := match l with
    | .mem va => if chipSheet va || (own && (c.viewBytes s.now va n).isSome) then [] else linesOf va n
    | .scratch _ _ _ => []
  (u.pieces.flatMap fun x => (x.1.flatMap fun l => seen u.own l x.2.2) ++ seen false x.2.1 x.2.2).dedup

/-- The lookups of a unit that hit count, once for each line (R276, R279). -/
def State.unitLookups (s : State) (core : Nat) (w : Work) (u : XUnit) : State :=
  (s.unitLines core u).foldl (fun s l =>
    if (s.lineIn (dieOf core) l).isSome then (s.countOnce core (.xfer w.id u.id) 0 l).useTicket (l * 128) else s) s

/-- The errors that a unit consumes from accumulator rows it reads through the map (R175, R225). -/
def State.unitErrors (s : State) (core : Nat) (w : Work) (u : XUnit) : State :=
  let c := s.coreAt core
  let look (n : Nat) (s : State) (l : Loc) : State := match l with
    | .mem va => if chipSheet va && s.winOpen (c.function == 0) c.domain va then s.windowBad core w.slot w.blk va n else s
    | .scratch _ _ _ => s
  u.pieces.foldl (fun s x => x.1.foldl (look x.2.2) s) s

/-- A unit whose way is clear reads all its sources and then writes (R190). -/
def State.moveUnit (s : State) (core : Nat) (w : Work) (u : XUnit) : State :=
  let what : Parked := .xfer w.id u.id
  let s := (s.unitErrors core w u).bump
  let rest := s.aheadBytes core u
  let s := (s.unitLookups core w u).modCore core fun c => { c with works := replaceFirst (·.id == w.id) (fun k =>
    { k with units := replaceFirst (·.id == u.id + 1) (fun x => { x with held := rest }) k.units }) c.works }
  let read (r : List (Loc × List Byte) × State) (x : List Loc × Loc × Nat) : List (Loc × List Byte) × State :=
    let b := r.2.unitBytes core u x
    (r.1 ++ [(x.2.1, b.1)], b.2)
  let r := u.pieces.foldl read ([], s)
  let write (t : State × Option Nat) (x : Loc × List Byte) : State × Option Nat :=
    let y := t.1.locWrite core what (w.slot, w.blk) x.1 x.2 u.wide
    (y.1, match t.2, y.2 with | some a, some b => some (Nat.max a b) | _, _ => none)
  let x := r.1.foldl write (r.2, some s.now)
  match x.2 with
  | none => x.1.setUnit core w.id u.id .telling
  | some t =>
    if t ≤ s.now then x.1.unitLanded core w u
    else (x.1.setUnit core w.id u.id (.written t)).at t (.transferUnitLanding core w.id u.id)

/-- A write of one of the unit's destination lines has reached the slice before it (R284, R289). -/
def State.unitBehind (s : State) (core : Nat) (w : Work) (u : XUnit) : Bool :=
  u.pieces.any fun x => match x.2.1 with
    | .mem va => !chipSheet va && (linesOf va x.2.2).any fun l => s.behind core (.xfer w.id u.id) 0 l
    | .scratch _ _ _ => false

/-- A final refusal: of a copy, the gang traps and the bytes count; a record stops with a status (R190, R205). -/
def State.unitRefused (s : State) (core : Nat) (w : Work) (u : XUnit) (code access va : Nat) : State :=
  match w.rticket with
  | some t => s.endRecord core t (match code with | 5 => 7 | 3 => 8 | _ => 6)
  | none =>
    (s.refuseGang core w.slot w.blk w.launch code access va (!s.homedHere va) w.super).unitLanded core w u

/-- A refusal of a home: parked until its replay, or final with a fault record (R377, R379, R380); 100 waits its turn behind a hand-over (R444). -/
def State.unitHome (s : State) (core : Nat) (w : Work) (u : XUnit) (code va : Nat) : State :=
  let access := if u.pieces.any fun x => x.2.1 = .mem va then 4 else 3
  let r : HomeReq := ⟨BitVec.ofNat 4 access, va, access == 4, u.wide, .core core (.xfer w.id u.id), [], 0⟩
  if code = 100 then (s.setUnit core w.id u.id (.parked 0)).at s.now (.homeRequest r)
  else if code ≤ 2 then (s.recordRefusal r code (.core core)).parkReq core (.xfer w.id u.id) r code 65536 false
  else (s.recordRefusal r code (.core core)).unitRefused core w u code access va

/-- What a unit has still to ask of other packages: an update in place element by element, else one request (R438, R449). -/
def State.unitAbroad (s : State) (core : Nat) (w : Work) (u : XUnit) (access : Nat) (vas : List Nat) : State :=
  vas.foldl (fun s va => s.sendHome core (.xfer w.id u.id)
    ⟨BitVec.ofNat 4 access, va, access != 3, u.wide, .core core (.xfer w.id u.id), [], 0⟩) (s.setUnit core w.id u.id (.parked 0))

/-- A record with a destination on another package is marked for its counter (R450). -/
def State.noteAbroad (s : State) (core : Nat) (w : Work) (u : XUnit) : State :=
  let away := u.pieces.any fun x => match x.2.1 with
    | .mem va => (s.deviceOf va).isSome && !s.homedHere va
    | .scratch _ _ _ => false
  match w.rticket with
  | some t => if away then s.modCore core fun c => { c with recs := replaceFirst (·.ticket.toNat == t) (fun r => { r with abroad := true }) c.recs } else s
  | none => s

/-- TRANSFER_UNIT_LANDING (R190, R205): a unit begins past its fork edge, waits for its replay where it is refused, moves its bytes,
and lands; the units of a record go one after the other, and not while the engine is frozen. -/
def execTransferUnitLanding (core work unit : Nat) (s : State) : Result :=
  let c := s.coreAt core
  match c.works.find? (·.id == work) with
  | none => .next s
  | some w =>
    match w.units.find? (·.id == unit) with
    | none => .next s
    | some u =>
      let before := (w.units.takeWhile (·.id != unit)).all fun x => x.st == .landed
      let again := State.at s (s.now + 1) (.transferUnitLanding core work unit)
      match u.st with
      | .queued =>
        if (w.rticket.isSome && (c.frozen || !before)) then .next s
        else if !forkReady s c w.after w.afterStamp w.atoms w.wins w.rels then
          .next (if w.after.isEmpty && decide (s.now < w.afterStamp) then s.at w.afterStamp (.transferUnitLanding core work unit) else s)
        else
          let s := s.setUnit core work unit .sent
          .next (if unitCost u = 0 then s.later (.transferUnitLanding core work unit) else s.toPort core (unitCost u) (.transferUnitLanding core work unit))
      | .sent =>
        let s := ((s.noteAbroad core w u).arrives core (.xfer work unit) 0).unitLookups core w u
        let later := s.at (s.now + 1) (.transferUnitLanding core work unit)
        let served (go : State → State) : State :=
          match s.atHomes (.transferUnitLanding core work unit) c.function (s.unitJobs core u) with
          | (s, true) => go s
          | (s, false) => s
        match unitSides s core w u with
        | .ok => .next (if s.unitBehind core w u then later else served fun s => s.moveUnit core w u)
        | .wait => .next again
        | .status n => .next (match w.rticket with | some t => s.endRecord core t n | none => s.unitLanded core w u)
        | .refusal code va => .next (served fun s => s.unitHome core w u code va)
        | .remote access vas => .next (s.unitAbroad core w u access vas)
      | .parked _ => .next s
      | .telling => .next s
      | .written stamp => if stamp ≤ s.now then .next (s.unitLanded core w u) else .next (s.at stamp (.transferUnitLanding core work unit))
      | .landed => .next s
      | .refused code access va => .next (s.unitRefused core w u code access va)

/-! ### FNCR (R312, R322) -/

/-- A queued record will write a byte of a range: by its lists as scratch holds them now (log entry 19). -/
def BulkRec.hits (s : State) (r : BulkRec) (base len : Nat) : Bool :=
  (s.blockAt r.blk).elim false fun b =>
    let list (k : Nat) : Nat := ofBytes ((List.range 4).map fun j => b.scratchByte r.part (r.w 10 + 4 * k + j))
    (r.units list).any fun u => u.hits base len

/-- The writes with a byte in a range whose CLEAN is still to come: the gang's, and those of the core's engine works (R312, R446). -/
def State.uncleanIn (s : State) (p : Party) (base len : Nat) : List (Nat × Parked) :=
  ((s.cleanDue.filter fun d =>
    d.core == p.core && (d.bytes.any fun a => inRange base len a)
      && ((d.slot == p.slot && d.blk == p.g.blk) || (d.what matches .xfer _ _))).map fun d => (d.core, d.what)).dedup

/-- FNCR: at core and cluster scope as REL; beyond, a release that covers the gang's writes and the core's engine works with a byte in the range. -/
def execFncr (scope : BitVec 3) (a b : Reg) (s : State) : Result :=
  s.issue (.fncr scope a b) fun p =>
    if !p.once then s.advance p
    else if relFull s p || relEarly s p scope || (scope == 1 && decide (2048 < (s.coreAt p.core).ringHeld + 1)) then s.stall p
    else if scope.toNat < 2 then (s.startRelease p scope).advance p
    else
      let base := s.uniform p a 2
      let len := s.uniform p b 2
      let c := s.coreAt p.core
      let mine (e : LeatEntry) : Bool :=
        e.relm.isNone && e.slot == p.slot && e.blk == p.g.blk && e.bytes.any fun x => inRange base len (e.line * 128 + x.1)
      let cover := entriesOf p.core (c.leat.filter mine)
      let stamp := (c.unpassed.filter fun u => u.core == p.core && mine u.entry).foldl (fun m u => Nat.max m u.stamp) 0
      let touches (x : AtomOp) : Bool := x.slot == p.slot && x.blk == p.g.blk && x.lanes.any fun l => (List.range x.w).any fun k => inRange base len (l.addr + k)
      let works := ((c.works.filter fun w => w.units.any fun u => u.hits base len).map (·.id))
        ++ ((c.recs.filter fun r => !r.started && r.hits s base len).map (·.work)) ++ ((c.atoms.filter touches).map (·.id))
      let wins := (c.wins.filter fun w => w.slot == p.slot && w.blk == p.g.blk && w.write.elim false fun bs =>
        (List.range bs.length).any fun k => inRange base len (w.addr + k)).map (·.id)
      let r : Release := ⟨s.fresh, p.slot, p.g.blk, scope, some (c.leatSeq - 1), true, cover,
        if 4 ≤ scope.toNat then cover.map (fun e => (e.1, .leat e.2)) ++ s.uncleanIn p base len else [],
        works, readsOf s p, wins, [], stamp, none, none⟩
      let s := (s.modCore p.core fun c => { c with rels := c.rels ++ [r] }).bump
      (((s.urge p.core mine).at s.now (.releaseCompletion p.core r.id))).advance p

/-! ### Completion (R206) -/

/-- RQERR after a record's status (R206, R208). -/
def rqerrWith (old : Word) (status ticket : Nat) : Word :=
  if status = 0 then old
  else if old.getLsbD 31 then old ||| 0x40000000#32
  else word (2 ^ 31 + status * 2 ^ 24 + ticket % 2 ^ 24)

/-- BULK_RECORD_COMPLETION (R206): the bytes still owed are counted, the status is reported, and the next record may enter. -/
def execBulkRecordCompletion (core ticket : Nat) (s : State) : Result :=
  match (s.coreAt core).recs.find? (·.ticket.toNat == ticket) with
  | none => .next s
  | some r =>
    match r.status with
    | none => .next s
    | some status =>
      let ng := (s.blockAt r.blk).elim 0 (·.ngates)
      let rest := (r.owed + 2 ^ 48 - r.counted % 2 ^ 48) % 2 ^ 48
      let s := if r.gv && !r.badGate ng && decide (rest ≠ 0) then s.countBytes core r.blk r.gate rest else s
      let s := s.modCore core fun c =>
        { c with rqerr := rqerrWith c.rqerr status ticket, works := c.works.filter (·.id != r.work) }
      if r.cv then .next ((s.later (.recordCounterIncrement core ticket)).at s.now (.bulkRecordService core))
      else .next ((s.modCore core fun c => { c with recs := c.recs.filter (·.ticket.toNat != ticket) }).wake core)

/-- Add to a counter as a device agent (R206, R342, R373); READ tickets of its region are stale (R444). -/
def State.addCounter (s : State) (va inc : Nat) : State := (s.devWrite64 va ((s.dev64 va + inc) % 2 ^ 64)).staleTickets va none

/-- A record with its counter or a destination on another package has a write whose CLEAN is still to come (R450). -/
def State.recordUnclean (s : State) (core : Nat) (r : BulkRec) (va : Nat) : Bool :=
  (r.abroad || (s.deviceOf va).isSome && !s.homedHere va) && s.cleanDue.any fun d => d.core == core && match d.what with
    | .xfer w _ => w == r.work
    | _ => false

/-- A record has its counter increment behind it, or has none any more. -/
def State.recordDone (s : State) (core ticket : Nat) : State :=
  (s.modCore core fun c => { c with recs := c.recs.filter (·.ticket.toNat != ticket) }).wake core

/-- The request of a record's counter increment: an atomic at the counter's home (R206, R450). -/
def recordReq (core ticket va : Nat) : HomeReq := ⟨2, va, true, false, .core core (.record ticket), [], 0⟩

/-- The increment of a record's counter is performed: in this package, in its own slices under a WRITE ticket, or by another package (R206, R443,
R450). -/
def State.recordCounted (s : State) (core ticket : Nat) : State :=
  match (s.coreAt core).recs.find? (·.ticket.toNat == ticket) with
  | none => s
  | some r =>
    let va := r.w 12 + r.w 13 * 2 ^ 32
    let inc := r.w 14 + r.w 15 * 2 ^ 32
    let s := if s.homedHere va then (s.markPage va true).addCounter va inc
      else if s.holdsWrite va then (s.globalWrite core (.record ticket) (r.slot, r.blk) va (toBytes 8 ((s.dev64 va + inc) % 2 ^ 64)) false).1
      else s
    s.recordDone core ticket

/-- RECORD_COUNTER_INCREMENT (R206, R450): every unit has landed and so is visible, and over the fabric clean; the increment is an atomic at the
counter's home, which crosses the port at the cost of one (R268), waits out replayable refusals (R379), and reports a final one as a status. -/
def execRecordCounterIncrement (core ticket : Nat) (s : State) : Result :=
  match (s.coreAt core).recs.find? (·.ticket.toNat == ticket) with
  | none => .next s
  | some r =>
    let va := r.w 12 + r.w 13 * 2 ^ 32
    let fail (n : Nat) : State := (s.modCore core fun c => { c with rqerr := rqerrWith c.rqerr n ticket }).recordDone core ticket
    match r.inc with
    | some 0 => .next s
    | some code => .next (fail (match code with | 5 => 7 | 3 => 8 | _ => 6))
    | none =>
      if chipSheet va then .next (fail 3)
      else if (s.coreAt core).right (keyOf va) < 3 then .next (fail 2)
      else if s.recordUnclean core r va then .next (s.later (.recordCounterIncrement core ticket))
      else if s.holdsWrite va then .next (s.recordCounted core ticket)
      else .next ((s.modRec core r.ticket fun r => { r with inc := some 0 }).portHome core 8 (.record ticket) (recordReq core ticket va))

end Sys2Proof.Machine
end

