-- ==== Sys2Proof/Machine/Rollback.lean ====
section
/-! DEFINITION. Strikes, uncorrectable errors and rollback (R39, R172 to R175, R193, R213, R320, R357, R379). -/

namespace Sys2Proof.Machine

open Sys2Proof

/-- Where a gang of a struck block goes: its handler starts again, a mark, or nowhere (R174, R175, R357). -/
inductive RollTo where
  | redo
  | mark (m : Mark)
  | none
  deriving DecidableEq, Repr

/-- The target of a gang: the settled mark after a strike, the newest after an uncorrectable error. -/
def Gang.rollTo (g : Gang) (strike : Bool) : RollTo :=
  if g.inSave || g.inRestore then .redo
  else match (if strike then g.settled else g.mark) with
    | some m => .mark m
    | none => .none

/-- A load whose result a rollback cancels (R379). -/
def Pend.isLoad (d : Pend) : Bool := match d.body with | .load _ _ _ _ => true | .bridge _ _ _ => true | .window _ _ _ => true | .kvx _ _ _ _ => true | _ => false

/-- The gang's outstanding loads, parked or not, are cancelled (R379). -/
def State.cancelLoads (s : State) (core slot : Nat) : State :=
  match s.gangAt core slot with
  | none => s
  | some g =>
    let ids := (g.pend.filter (·.isLoad)).map (·.id)
    let mine (r : HomeReq) : Bool := match r.asker with | .core _ (.pend k id) => k == slot && ids.contains id | _ => false
    let s := s.modGang core slot fun g => { g with pend := g.pend.filter fun d => !d.isLoad }
    s.modCore core fun c =>
      { c with missBuf := c.missBuf.filter fun m => !mine m.req
               rels := c.rels.map fun r => { r with reads := r.reads.filter fun i => !ids.contains i }
               atoms := c.atoms.map fun a => if a.slot = slot ∧ a.blk = g.blk then { a with acqLeft := false } else a }

/-- Issue of the gang stops and its unsealed entries since the target go (R39, R174). -/
def State.beginRoll (s : State) (core slot : Nat) (t : RollTo) : State :=
  match s.gangAt core slot with
  | none => s
  | some g =>
    let since : Word := match t with | .mark m => m.seq | _ => g.entrySeq
    let s := (s.dropWaits core slot).cancelLoads core slot
    let s := s.discard core fun e => e.slot == slot && e.blk == g.blk && !e.sealed && seqLe since e.seq
    s.modGang core slot fun g => match t with
      | .mark m => { g with trap := none, rolling := some m, redo := false }
      | _ => { g with trap := none, rolling := none, redo := true }

/-- Every lane copy, LDX, MMA and tile move of the gang has landed (R39, R193, R224). -/
def State.landed (s : State) (core slot blk : Nat) : Bool :=
  let c := s.coreAt core
  c.works.all (fun w => w.slot != slot || w.blk != blk || w.rticket.isSome)
    && c.mmas.all (fun m => m.slot != slot || m.blk != blk)
    && c.moves.all fun m => m.slot != slot || m.blk != blk

/-- The bytes that the copies since the target mark have counted go back to their gates (R193). -/
def State.addBack (s : State) (core slot : Nat) (m : Mark) : State :=
  match s.gangAt core slot with
  | none => s
  | some g =>
    let since (c : Nat × Nat × Nat) : Bool := decide (m.no ≤ c.1)
    let s := match s.blockAt g.blk with
      | none => s
      | some b => (g.copied.filter since).foldl (fun s (c : Nat × Nat × Nat) =>
          s.sendGateAfter b (if b.pair && core % 2 == 1 then 6 else 0) core 64 c.2.1 [] (.addBack c.2.2)) s
    s.modGang core slot fun g => { g with copied := g.copied.filter fun c => !since c }

/-- The snapshot of a mark, with one party at MARKPC (R39). -/
def Gang.toMark (g : Gang) (m : Mark) (now : Nat) : Gang :=
  let lead := ((List.range 8).find? fun q => (m.quads.getD q {}).present && !(m.quads.getD q {}).retired).getD 0
  { g with
    quads := m.quads.map fun q => { q with pc := m.pc, party := BitVec.ofNat 3 lead, park := .none, last := some now, wake := now + 1 }
    gmode := m.gmode, routes := m.routes, rep := repOff g.rep, markpc := m.pc, recipe := m.recipe, mark := some m
    super := false, held := none, bellHeld := none, bellWait := false, rolling := none }

/-- The handler of a gang starts again at its vector with the same X registers (R357). -/
def Gang.redoAt (g : Gang) (pc : Addr) (now : Nat) : Gang :=
  { g with quads := handlerQuads { g with quads := g.held.getD g.quads } pc now, gmode := launchMode, routes := 0, rep := repOff g.rep, redo := false }

/-- The last steps of a gang's rollback. -/
def State.endRoll (s : State) (core slot : Nat) : State :=
  match s.gangAt core slot with
  | none => s
  | some g =>
    match g.rolling with
    | some m =>
      let s := (s.addBack core slot m).modGang core slot fun g => g.toMark m s.now
      let s := (s.at s.now (.refusalTrap core slot)).at s.now (.bellDelivery core slot)
      if g.pre.pending then s.at s.now (.preemptTrap core slot) else s
    | none =>
      if !g.redo then s
      else
        let vec := if g.inSave then s.trapVec g else (s.blockAt g.blk).elim 0 fun b => (s.domainAt b.domain).restvec
        match vectorPc vec with
        | none => s.killBlock g.blk 4 (if g.inSave then xPreempt else xResume) 0
        | some pc => s.modGang core slot fun g => g.redoAt pc s.now

/-- A block's rollback goes on once all its gangs have landed: it is rolled back as a whole (R39). -/
def State.rollOn (s : State) (key : Nat) : State :=
  let gs := (s.gangsOf key).filter fun g => g.2.2.rolling.isSome || g.2.2.redo
  if gs.all fun g => s.landed g.1 g.2.1 key then gs.foldl (fun s g => s.endRoll g.1 g.2.1) s
  else match gs with
    | g :: _ => s.later (.trapEntry g.1 g.2.1)
    | [] => s

/-- Roll a block back, or kill it with a code and XINFO when a gang has no mark to go to. -/
def State.rollBlock (s : State) (key : Nat) (strike : Bool) (code info : Nat) : State :=
  let gs := s.gangsOf key
  if gs.any fun g => g.2.2.rollTo strike == .none then s.killBlock key 4 code info
  else (gs.foldl (fun s g => s.beginRoll g.1 g.2.1 (g.2.2.rollTo strike)) s).rollOn key

/-- STRIKES[15:0] and [31:16], saturating. -/
def Core.countStrike (c : Core) (high : Bool) : Core :=
  let lo := fld c.strikes.toNat 15 0
  let hi := fld c.strikes.toNat 31 16
  let up (n : Nat) : Nat := Nat.min 65535 (n + 1)
  { c with strikes := if high then word (lo + up hi * 2 ^ 16) else word (up lo + hi * 2 ^ 16) }

/-- STRIKE_REPORT (R172 to R174): every block with a gang in the quarter rolls back to its settled marks, or is killed with SOFTERR. -/
def execStrikeReport (core quarter : Nat) (s : State) : Result :=
  let q := quarter % 4
  let keys := (((s.coreAt core).gangs.filter fun g => quarterOf g.1 == q).map fun g => g.2.blk).dedup
  let s := s.modCore core fun c => c.countStrike false
  .next (keys.foldl (fun s k =>
    let bed := (s.blockAt k).elim 0 fun b => b.partOf core
    s.rollBlock k true xSoftErr (q + 4 * bed)) s)

/-- ECC_UNCORRECTABLE: the gang has consumed an error of the pond (store 0), the accumulators (1), scale memory (2) or the tree file (3) (R175,
R176, R229); or a read of DRAM or of a memory-side cache has met one in the line of an address (store 4), which is poisoned where it is stored
and reported (R380, R433; log entry 127). -/
def execEccUncorrectable (core slot store offset : Nat) (s : State) : Result :=
  if store = 4 then .next ((s.pageOf offset).elim s fun p => if p.tier = 2 then s else s.poisonPlace p offset)
  else match s.gangAt core slot with
  | none => .next s
  | some g =>
    let info := store % 8 + offset / 8 % 2 ^ 20 * 8
    let s := if store < 2 then s.modCore core fun c => c.countStrike true else s
    if g.eccOnce then .next (s.killBlock g.blk 4 xEccUncor info)
    else .next ((s.modGang core slot fun g => { g with eccOnce := true }).rollBlock g.blk false xEccUncor info)

end Sys2Proof.Machine
end

