-- ==== Sys2Proof/Machine/Traps.lean ====
section
/-! DEFINITION. Landings of fixed-latency results, trap entry, delayed traps, ERET, and PREEMPT (R48, R51, R185, R343 to R346, R350). The
entry itself is State.enterTrap and the return State.leaveTrap, in Ops. -/

namespace Sys2Proof.Machine

open Sys2Proof

/-- FIXED_RESULT_LANDING (R48). -/
def execFixedResultLanding (core slot id : Nat) (s : State) : Result :=
  match s.gangAt core slot with
  | none => .next s
  | some g =>
    match g.inflight.find? (·.id == id) with
    | none => .next s
    | some f =>
      let s := s.modGang core slot fun g => { g with inflight := g.inflight.filter (·.id != id) }
      .next (((s.writeRegs core slot f.id f.writes).takeSlots core (quarterOf slot) (writeSlots f.regs)).settleTrap core slot)

/-- A delayed trap that has become due (R185, R344): in handler context it is held, or kills the block when the handler caused it; else it
is taken at the boundary where the gang stands, before a PREEMPT that waits there for landings, whose request stays pending (R347). -/
def State.lateTrap (s : State) (core slot : Nat) : State :=
  match s.gangAt core slot with
  | none => s
  | some g =>
    match g.late with
    | [] => s
    | (t, bySuper) :: _ =>
      if g.rolling.isSome || g.redo then s
      else if g.super then (if bySuper then s.killBlock g.blk 4 xNested t.info.toNat else s)
      else if g.awaitsRestore || g.trap.any (fun x => x.code.toNat != xPreempt) then s
      else
        let at' := g.boundaryPc
        (s.modGang core slot fun g => { g with late := g.late.drop 1, trap := none }).takeTrap core slot { t with pc := at'.1, lead := at'.2 }

/-- TRAP_ENTRY (R343): once every register write of the gang has landed; a delayed trap comes before a PREEMPT (R347), and a rollback that waits for
landings looks again (R39). -/
def execTrapEntry (core slot : Nat) (s : State) : Result :=
  match s.gangAt core slot with
  | none => .next s
  | some g =>
    if g.rolling.isSome || g.redo then .next (s.rollOn g.blk)
    else match g.trap with
    | none => .next s
    | some t =>
      if !g.quiet then .next s
      else if g.super then .next (s.killBlock g.blk 4 xNested t.info.toNat)
      else if t.code.toNat = xPreempt ∧ g.late.isEmpty = false then .next (s.lateTrap core slot)
      else .next (s.enterTrap core slot t)

/-- REFUSAL_TRAP (R185, R344). -/
def execRefusalTrap (core slot : Nat) (s : State) : Result := .next (s.lateTrap core slot)

/-- DELAYED_TRAP (R344): at the first user boundary after ERET. -/
def execDelayedTrap (core slot : Nat) (s : State) : Result := .next (s.lateTrap core slot)

/-- A copy that the gang issued in supervisor mode has not landed (R345). -/
def superCopies (s : State) (core slot blk : Nat) : Bool :=
  (s.coreAt core).works.any fun w => w.slot == slot && w.blk == blk && w.super && w.rticket.isNone

/-- ERET (R345, R346). -/
def execEret (s : State) : Result :=
  s.issue .eret fun p => if superCopies s p.core p.slot p.g.blk then s.stall p else s.leaveTrap p.core p.slot

/-- A party of the gang waits for an operation that must complete before the gang can be saved: SYS, a transfer, an acquire half. -/
def Gang.busyHold (g : Gang) : Bool := g.leads.any fun q => (g.quad q).park == .hold false

/-- PREEMPT_TRAP (R350): at a user boundary, with no other trap waiting: a trap comes first (R347). The request stays pending until the entry. -/
def execPreemptTrap (core slot : Nat) (s : State) : Result :=
  match s.gangAt core slot with
  | none => .next s
  | some g =>
    if !g.pre.pending || g.super || g.awaitsRestore || g.trap.isSome || !g.late.isEmpty || g.rolling.isSome || g.redo then .next s
    else if g.busyHold then .next (s.at (s.now + 1) (.preemptTrap core slot))
    else
      let at' := g.boundaryPc
      .next (s.takeTrap core slot ⟨0x08, 0, at'.1, at'.2, none⟩)

end Sys2Proof.Machine
end

