-- ==== Sys2Proof/Machine/Bells.lean ====
section
/-! DEFINITION. Bells (R403 to R413): rings, the rights table, boards, wake records, delivery, WAITB and BRET; and WRP, since it configures boards. -/

namespace Sys2Proof.Machine

open Sys2Proof

/-! ### Boards -/

/-- A domain has a board (R403, R406). -/
def State.hasBoard (s : State) (d : Nat) : Bool := (s.domainAt d).board.getLsbD 0

def State.modBoard (s : State) (d : Nat) (f : Board → Board) : State := { s with boards := Kv.put s.boards d (f (s.boardAt d)) }

/-- A line of a board. -/
def Board.line (b : Board) (n : Nat) : BellLine := (Kv.get? b.lines n).getD {}

/-- A deliverable line exists (R407). -/
def Board.deliverable (b : Board) : Bool := b.pend &&& b.mask != 0

/-- The memory image of a board (R403). -/
def Board.image (b : Board) : List Byte :=
  let line (n : Nat) : Nat :=
    let l := b.line n
    l.payload.toNat + l.count.toNat * 2 ^ 32 + l.mode.toNat * 2 ^ 48 + bnat l.wake * 2 ^ 50 + bnat l.out * 2 ^ 51
  toBytes 8 b.pend.toNat ++ toBytes 8 b.mask.toNat ++ toBytes 8 b.hpc.toNat ++ toBytes 8 b.hgang.toNat ++ toBytes 4 b.refused.toNat
    ++ List.replicate 28 0 ++ (List.range 64).flatMap fun n => toBytes 8 (line n)

/-- The image is current whenever no core hosts the domain (R403). -/
def State.syncBoard (s : State) (d : Nat) : State :=
  if s.hasBoard d && !s.blocks.any (fun b => b.resident && b.domain == d) then
    s.devWrite (fld (s.domainAt d).board.toNat 63 10 * 1024) (s.boardAt d).image
  else s

/-- The resident handler gang of a domain, as core and slot (R407). -/
def State.handlerOf (s : State) (d : Nat) : Option (Nat × Nat) :=
  let b := s.boardAt d
  let core := fld b.hgang.toNat 29 21
  let slot := fld b.hgang.toNat 5 0
  if b.hgang.getLsbD 31 && b.hres && (s.gangAt core slot).isSome then some (core, slot) else none

/-- Look at deliveries and WAITB parks of a domain again. -/
def State.poke (s : State) (d : Nat) : State :=
  let s := match s.handlerOf d with | some h => s.at s.now (.bellDelivery h.1 h.2) | none => s
  s.cores.foldl (fun s c =>
    if c.2.domain ≠ d then s
    else c.2.gangs.foldl (fun s g => g.2.leads.foldl (fun s lead =>
      match (g.2.quad lead).park with
      | .waitb _ => s.at s.now (.waitbWake c.1 g.1 lead)
      | _ => s) s) s) s

/-! ### Wake records (R408) -/

/-- A wake record. -/
def wakeRecord (d n : Nat) (l : BellLine) (now : Nat) : List Nat :=
  [d + n * 2 ^ 8, l.payload.toNat, l.count.toNat, now % 2 ^ 32, now / 2 ^ 32 % 2 ^ 32, 0, 0, 0]

/-- The records held for room go into the wake queue while it has room, each with its line as it stands at the write. -/
def State.flushWakeFrom (s : State) : List (List Word) → State
  | [] => { s with wakeHeld := [] }
  | r :: rs =>
    let w := (r.getD 0 0).toNat
    let l := (s.boardAt (fld w 7 0)).line (fld w 13 8)
    match s.appendRing s.pr.wakeq 32 (wordBytes (wakeRecord (fld w 7 0) (fld w 13 8) l s.now)) with
    | some t => State.flushWakeFrom t rs
    | none => { s with wakeHeld := r :: rs }

def State.flushWake (s : State) : State := if s.pr.wakeq = 0 then s else s.flushWakeFrom s.wakeHeld

/-- WAKE_QUEUE_ROOM (R408). -/
def execWakeQueueRoom (s : State) : Result := .next s.flushWake

/-! ### Rings (R404 to R406, R410) -/

/-- A line after an accepted ring (R404). -/
def BellLine.rung (l : BellLine) (v : Word) : BellLine :=
  { l with count := if l.count = 0xFFFF then l.count else l.count + 1
           payload := match l.mode.toNat with | 0 => l.payload ||| v | 1 => l.payload + v | _ => v }

/-- A wake record waits for its write, at most one of a line. -/
def State.holdWake (s : State) (d n : Nat) (l : BellLine) : State :=
  let r := (wakeRecord d n l s.now).map word
  State.flushWake { s with wakeHeld := if s.wakeHeld.any fun x => x.head? == r.head? then s.wakeHeld else s.wakeHeld ++ [r] }

/-- An accepted ring changes its line; with no handler gang resident a wake line leaves one record (R404, R408; log entry 105). -/
def State.applyRing (s : State) (d n : Nat) (v : Word) : State :=
  let l := ((s.boardAt d).line n).rung v
  let wake := l.wake && !l.out && (s.handlerOf d).isNone
  let s := s.modBoard d fun b =>
    { (b.modLine n fun _ => { l with out := l.out || wake }) with pend := b.pend ||| (1#64 <<< n) }
  let s := if wake then s.holdWake d n l else s
  (s.syncBoard d).poke d

/-- The rights entry that decides a ring: the first valid one in ascending index that matches (R406). -/
def State.rightFor (s : State) (r : Ring) : Option (Nat × Rights) :=
  let hit (e : Rights) : Bool :=
    let v := e.lo.toNat
    e.lo.getLsbD 0 && fld v 3 1 == r.cls && fld v 11 4 == r.domain
      && (if r.cls = 1 then fld v 19 12 else fld v 27 12) == r.sender
  s.rights.find? fun e => hit e.2

/-- The status of a ring (R406). -/
def State.ringStatus (s : State) (r : Ring) : Nat :=
  if r.device ≠ s.pr.devnum.toNat ∨ s.hasBoard r.domain = false then 3
  else if r.cls = 0 then 0
  else match s.rightFor r with
    | none => 1
    | some e =>
      let rate := fld e.2.lo.toNat 47 32
      if !e.2.hi.getLsbD r.line then 1 else if rate ≠ 0 ∧ rate ≤ e.2.used then 2 else 0

/-- Counts of a refused ring. -/
def State.refuseRing (s : State) (r : Ring) (status : Nat) : State :=
  let s := if status = 3 then s else
    (s.modBoard r.domain fun b => { b with refused := if b.refused = 0xFFFFFFFF then b.refused else b.refused + 1 }).syncBoard r.domain
  { s with pr := { s.pr with brtotal := if s.pr.brtotal = 0xFFFFFFFF then s.pr.brtotal else s.pr.brtotal + 1 } }

/-- The status goes back to RING's D. -/
def State.ringBack (s : State) (r : Ring) (status : Nat) : State :=
  match r.back with
  | none => s
  | some (core, slot, id) =>
    match s.pendAt core slot id with
    | none => s
    | some d => s.knownResult core slot id (d.regs.map fun k => (⟨.s (k - 0x60), word status⟩ : RegWrite))

/-- Rings of one sender to one line: of one gang, of one host function, or of the device's agents. -/
def sameSender (x r : Ring) : Bool :=
  x.cls == r.cls && x.sender == r.sender && x.device == r.device && x.domain == r.domain && x.line == r.line
    && (x.back.map fun k => (k.1, k.2.1)) == r.back.map fun k => (k.1, k.2.1)

/-- An earlier ring of the same gang, or of the same sender to the line, is still on its way (R404, R411). -/
def ringBefore (s : State) (r : Ring) : Bool :=
  (match r.back with
    | none => false
    | some (core, slot, id) => (s.gangAt core slot).elim false fun g => g.pend.any fun d => d.body == .bell && decide (d.id < id))
  || s.agenda.any fun e => match e.2 with | .bellRingArrival x => decide (x.no < r.no) && sameSender x r | _ => false

/-- What a ring is to the fabric. -/
def ringParked (r : Ring) : Nat × Parked := match r.back with | some (core, slot, id) => (core, .pend slot id) | none => (0, .pend 0 0)

/-- A ring for another package waits for a port of the fabric, leaves by it once, and comes back with that package's answer, a status that is free
(R438, R451, R452; log entry 1). -/
def State.ringAbroad (s : State) (r : Ring) : State :=
  let who := ringParked r
  match s.fabric.find? fun m => m.core == who.1 && m.what == who.2 with
  | none =>
    let m : FabMsg := ⟨who.1, who.2, s.now, r.device, 15, 0, r.sender, none⟩
    (State.at { s with fabric := s.fabric ++ [m] } (s.now + s.pr.fabtmo.toNat * 1024) (.fabricTimeout who.1 who.2)).at s.now (.bellRingArrival r)
  | some m =>
    if m.port.isNone then
      match s.flowPort m.dev m.va with
      | none => s.later (.bellRingArrival r)
      | some p => if Config.deviceChooses s.fresh then (s.leavesBy m p).bump.later (.bellRingArrival r) else (s.leavesBy m p).bump
    else if s.flowBefore m then s.at (s.now + 1) (.bellRingArrival r)
    else
      (State.ringBack { s with fabric := s.fabric.filter (· != m), unreached := s.unreached.filter (· != m.dev) } r
        ((Config.freeByte s.fresh).toNat % 4)).bump

/-- BELL_RING_ARRIVAL (R404, R406, R451): rings of one sender to one line are applied in issue order. -/
def execBellRingArrival (r : Ring) (s : State) : Result :=
  if ringBefore s r then .next (s.at (s.now + 1) (.bellRingArrival r))
  else if r.cls == 2 && r.back.isSome then .next (s.ringAbroad r)
  else
    let status := s.ringStatus r
    if status ≠ 0 then .next ((s.refuseRing r status).ringBack r status)
    else
      let s := match (if r.cls = 0 then none else s.rightFor r) with
        | some e => { s with rights := Kv.put s.rights e.1 { e.2 with used := e.2.used + 1 } }
        | none => s
      .next ((s.applyRing r.domain r.line r.value).ringBack r 0)

/-- HOST_BELL_WRITE (R405, R427): a write to BAR 2 over a link that is ready. -/
def execHostBellWrite (function offset size : Nat) (v : Word) (s : State) : Result :=
  let r : Ring := ⟨3, function, s.pr.devnum.toNat, fld offset 19 12, fld offset 11 6, v, none, s.fresh⟩
  if !s.hostReady then .next s
  else if size ≠ 4 ∨ offset % 64 ≠ 0 ∨ 2 ^ 20 ≤ offset then .next (s.refuseRing r 3) else .next (s.later (.bellRingArrival r))

/-- Sender class and sender of a kernel's ring (R406). -/
def ringFrom (s : State) (core target tag : Nat) (v : Word) (back : Option (Nat × Nat × Nat)) (no : Nat) : Ring :=
  let d := (s.coreAt core).domain
  let dev := fld target 51 32
  let dom := fld target 31 24
  let cls := if dev = s.pr.devnum.toNat then (if dom = d then 0 else 1) else 2
  ⟨cls, if cls = 2 then tag else d, dev, dom, fld target 23 18, v, back, no⟩

/-- RING (R410, R451): a target of another package that no route reaches gives NOTARGET and counts as refused (R406); else the message leaves over the fabric. -/
def execRing (d a b : Reg) (s : State) : Result :=
  s.issue (.ring d a b) fun p =>
    let target := s.uniform p a 2
    if !p.once then s.advance p
    else if sheetOf target ≠ 0xFFE ∨ fld target 17 0 ≠ 0 then s.raise p xBellArg 0
    else
      let id := s.fresh
      let r := ringFrom s p.core target (s.tagOf p.g) (word (s.uniform p b 1)) (some (p.core, p.slot, id)) id
      let s := (s.closeMark p).addPend p (resultCodes d 1) .bell
      if r.cls = 2 ∧ (Kv.get? s.pr.routes r.device).isNone = true then ((s.refuseRing r 3).ringBack r 3).advance p
      else (s.afterReleases p (.bellRingArrival r)).advance p

/-! ### BELL sub-ops (R411) -/

/-- A BELL sub-op: once per party, after the gang's earlier rings, on the board of the issuing core's domain. -/
def bellOp (i : Instr) (f : Party → Nat → State) (s : State) : Result :=
  s.issue i fun p =>
    if !p.once then s.advance p
    else if p.g.pend.any fun d => d.body == .bell then s.stall p
    else f p (s.coreAt p.core).domain

/-- The end of a BELL sub-op: the mark closes, the result is on its way, the image and deliveries follow the board. -/
def State.bellDone (s : State) (p : Party) (d : Nat) (ws : List RegWrite) : State :=
  ((((s.closeMark p).variableResult p ws).syncBoard d).poke d).advance p

/-- BMASK. -/
def execBmask (d a : Reg) (s : State) : Result :=
  bellOp (.bmask d a) (fun p k =>
    (s.modBoard k fun b => { b with mask := addr64 (s.uniform p a 2) }).bellDone p k (p.uniformWrites d 2 (s.boardAt k).mask.toNat)) s

/-- BPEND. -/
def execBpend (d : Reg) (s : State) : Result :=
  bellOp (.bpend d) (fun p k => s.bellDone p k (p.uniformWrites d 2 (s.boardAt k).pend.toNat)) s

/-- BTAKE: the line's payload and count, and the line is cleared. -/
def execBtake (d a : Reg) (s : State) : Result :=
  bellOp (.btake d a) (fun p k =>
    let n := s.uniform p a 1
    if 63 < n then s.raise p xBellArg 1
    else
      let b := s.boardAt k
      let l := b.line n
      let v := l.payload.toNat + (bnat (b.pend.getLsbD n) * 2 ^ 31 + l.count.toNat) * 2 ^ 32
      (s.modBoard k fun b =>
        { (b.modLine n fun l => { l with payload := 0, count := 0, out := false }) with pend := b.pend &&& ~~~ (1#64 <<< n) }).bellDone
        p k (p.uniformWrites d 2 v)) s

/-- BHPC: z makes the handler PC invalid. -/
def execBhpc (a : Reg) (s : State) : Result :=
  bellOp (.bhpc a) (fun p k =>
    let v := s.uniform p a 2
    if v % 4 ≠ 0 then s.raise p xBellArg 2
    else (s.modBoard k fun b => { b with hpc := if kindOf a = .z then 0 else addr64 (v + 1) }).bellDone p k []) s

/-- No gang that is saved is the handler gang of its domain any more (R411, R422). -/
def State.noSavedHandler (s : State) (d : Nat) : State :=
  { s with blocks := s.blocks.map fun b => if b.domain = d then { b with saved := b.saved.map fun k => { k with handler := false } } else b }

/-- BSELF: the gang becomes the handler gang, or stops being it; a saved handler gang is another (R422). -/
def execBself (a : Reg) (s : State) : Result :=
  bellOp (.bself a) (fun p k =>
    let v := s.uniform p a 1
    let me := hgangOf p.core p.slot
    if 1 < v then s.raise p xBellArg 3
    else if v = 1 then ((s.noSavedHandler k).modBoard k fun b => { b with hgang := me, hres := true }).bellDone p k []
    else (s.modBoard k fun b => if b.hgang = me ∧ b.hres = true then { b with hgang := 0 } else b).bellDone p k []) s

/-! ### Delivery (R407) -/

/-- The gang may take a bell now. -/
def bellMay (s : State) (core : Nat) (g : Gang) : Bool :=
  !g.super && !g.awaitsRestore && g.rolling.isNone && !g.redo && g.bellHeld.isNone && g.trap.isNone && g.late.isEmpty && !g.pre.pending && g.bellOk && !(s.coreAt core).halted

/-- The parties parked in WAITB learn that a delivery began after their WAITB (R412). -/
def markWaitb (q : Quad) : Quad := match q.park with | .waitb _ => { q with park := .waitb true } | _ => q

/-- Enter the bell handler. -/
def State.enterBell (s : State) (core slot : Nat) (pc : Addr) : State :=
  let s := (s.dropWaits core slot).modGang core slot fun g =>
    let at' := g.boundaryPc
    { g with bs := ⟨at'.1, g.gmode, g.rep, g.routes⟩, bellHeld := some (g.quads.map markWaitb), bellLead := at'.2
             rep := repOff g.rep, gmode := launchMode, routes := 0, bellWait := false, quads := handlerQuads g pc s.now }
  match s.gangAt core slot with
  | none => s
  | some g =>
    if badPc pc then
      s.takeTrap core slot ⟨0x03, pc.extractLsb' 0 32, pc, ((List.range 8).find? g.unretired).getD 0, none⟩
    else s

/-- BELL_DELIVERY (R407): at a boundary of the resident handler gang, once its register writes have landed. -/
def execBellDelivery (core slot : Nat) (s : State) : Result :=
  match s.gangAt core slot with
  | none => .next s
  | some g =>
    let k := (s.blockAt g.blk).elim 0 (·.domain)
    let b := s.boardAt k
    let due := s.handlerOf k == some (core, slot) && b.deliverable && b.hpc.getLsbD 0 && bellMay s core g
    if !due then .next (s.modGang core slot fun g => { g with bellWait := false })
    else if !g.quiet then .next (s.modGang core slot fun g => { g with bellWait := true })
    else .next (s.enterBell core slot (b.hpc &&& ~~~ 3#64))

/-! ### WAITB and BRET (R412, R413) -/

/-- WAITB. -/
def execWaitb (s : State) : Result :=
  s.issue .waitb fun p =>
    (s.modGang p.core p.slot fun g => g.mapParty p.lead fun q => { q with park := .waitb false, last := some s.now }).at
      s.now (.waitbWake p.core p.slot p.lead)

/-- WAITB_WAKE (R412). -/
def execWaitbWake (core slot lead : Nat) (s : State) : Result :=
  match s.gangAt core slot with
  | none => .next s
  | some g =>
    match (g.quad lead).park with
    | .waitb delivered =>
      let k := (s.blockAt g.blk).elim 0 (·.domain)
      let handler := s.handlerOf k == some (core, slot)
      if g.trap.isSome || (s.coreAt core).halted then .next s
      else if delivered || (!handler && (s.boardAt k).deliverable) then
        .next (s.modGang core slot fun g => g.mapParty lead fun d => { d with park := .none, pc := succPc d.pc, wake := s.now + 1 })
      else .next s
    | _ => .next s

/-- BRET (R413): outside a bell handler, or in trap handler context, ILLEGAL cause 7. -/
def execBret (s : State) : Result :=
  s.issue .bret fun p =>
    match p.g.bellHeld with
    | none => s.illegal p .bret 7
    | some held =>
      if p.g.super then s.illegal p .bret 7
      else
        let b := p.g.bs
        let qs := resumeQuads held p.g.bellLead b.pc b.rep s.now
        let s := s.modGang p.core p.slot fun g =>
          { g with rep := b.rep, repLead := g.bellLead, gmode := b.mode, routes := b.route, bellHeld := none, bellOk := false, quads := qs }
        let s := s.repark p.core p.slot
        if badPc b.pc then s.takeTrap p.core p.slot ⟨0x03, b.pc.extractLsb' 0 32, b.pc, p.g.bellLead, none⟩ else s

/-! ### WRP (R99, R403) -/

/-- WRP (R99): ILLEGAL for reserved bits, SYSDENY for a virtual function, SYSARG for a value out of range, else the write; the image of a
board that is configured is written while no core hosts its domain (R403). -/
def execWrp (a : Reg) (k : BitVec 11) (s : State) : Result :=
  let value (p : Party) : Nat := s.uniform p a (if widePriv k then 2 else 1)
  s.issueChecked (.wrp a k) (fun p => if p.once then privCauses k.toNat (value p) else []) fun p =>
    if !p.once then s.advance p
    else if physicalOnly k.toNat && (s.coreAt p.core).function != 0 then s.raise p xSysDeny 0
    else if !privRange s p k.toNat (value p) then s.raise p xSysArg 0x10
    else
      let d := (s.coreAt p.core).brsel.toNat % 256
      let t := writePriv s p k.toNat (value p)
      (if k.toNat = 0x0A8 then (t.noSavedHandler d).syncBoard d else t).advance p

end Sys2Proof.Machine
end

