-- ==== Sys2Proof/Machine/Convert.lean ====
section
/-! DEFINITION. CVT and MXQ (R65, R66, R81, R82, R86 to R88, R137, R138). -/

namespace Sys2Proof.Machine

open Sys2Proof

/-- How a conversion lays out its elements: count, source stride, source bits, destination stride. -/
structure CvtShape where
  count : Nat
  src : Nat
  srcBits : Nat
  dst : Nat
  deriving DecidableEq, Repr

/-- The layout of a conversion code (R65, R66). -/
def cvtShape (code : Nat) : CvtShape :=
  match code with
  | 0x04 => ⟨1, 32, 32, 64⟩ | 0x05 => ⟨1, 64, 64, 32⟩ | 0x06 => ⟨1, 32, 32, 32⟩ | 0x07 => ⟨1, 32, 16, 32⟩
  | 0x08 => ⟨1, 32, 32, 32⟩ | 0x09 => ⟨1, 32, 16, 32⟩ | 0x0A => ⟨1, 64, 64, 64⟩ | 0x0B => ⟨1, 64, 64, 64⟩
  | 0x0C => ⟨2, 32, 32, 16⟩ | 0x0D => ⟨2, 16, 16, 32⟩ | 0x0E => ⟨2, 32, 32, 16⟩ | 0x0F => ⟨2, 16, 16, 32⟩
  | 0x10 => ⟨4, 32, 32, 8⟩ | 0x11 => ⟨4, 8, 8, 32⟩ | 0x12 => ⟨4, 32, 32, 8⟩ | 0x13 => ⟨4, 8, 8, 32⟩
  | 0x14 => ⟨4, 32, 32, 8⟩ | 0x15 => ⟨4, 8, 8, 32⟩ | 0x16 => ⟨8, 32, 32, 4⟩ | 0x17 => ⟨8, 4, 4, 32⟩
  | 0x18 => ⟨4, 32, 32, 8⟩ | 0x19 => ⟨4, 8, 8, 32⟩ | 0x1A => ⟨8, 32, 32, 4⟩ | 0x1B => ⟨8, 4, 4, 32⟩
  | _ => ⟨1, 32, 32, 32⟩

/-- Clamp a signed integer to w bits (R82). -/
def clampInt (w : Nat) (x : Int) : Nat := deliverInt w false true x

/-- A float conversion that rounds under RM (R137). -/
def narrowCvt (gm : BitVec 15) (src dst : Fmt) (x : Nat) : Gen Nat := rounded gm fun k => dst.deliver k (src.input (fzOf gm) x)

/-- An exact widening: the result is not flushed (R137). -/
def widenCvt (gm : BitVec 15) (src dst : Fmt) (x : Nat) : Gen Nat := pureGen (dst.deliver rne (src.input (fzOf gm) x))

/-- A conversion to an integer (R82). -/
def toIntCvt (gm : BitVec 15) (src : Fmt) (w : Nat) (lo hi : Int) (x : Nat) : Gen Nat :=
  rounded gm fun k => wrap w ((src.input (fzOf gm) x).toInt k lo hi)

/-- A conversion from an integer. -/
def fromIntCvt (gm : BitVec 15) (dst : Fmt) (v : Int) : Gen Nat :=
  rounded gm fun k => dst.deliver k (.fin (decide (v < 0)) v.natAbs 0)

/-- A pack of one FP32 element into a narrow format (R81). -/
def packCvt (gm : BitVec 15) (fmt : Nat) (x : Nat) : Gen Nat := rounded gm fun k => narrowDeliver fmt k (fp32.input (fzOf gm) x)

/-- One element of a conversion (R65, R137). -/
def cvtElem (gm : BitVec 15) (code x : Nat) : Gen Nat :=
  match code with
  | 0x00 => toIntCvt gm fp32 32 (-(2 ^ 31)) (2 ^ 31 - 1) x
  | 0x01 => fromIntCvt gm fp32 (sext 32 x)
  | 0x02 => toIntCvt gm fp32 32 0 (2 ^ 32 - 1) x
  | 0x03 => fromIntCvt gm fp32 x
  | 0x04 => widenCvt gm fp32 fp64 x
  | 0x05 => narrowCvt gm fp64 fp32 x
  | 0x06 => narrowCvt gm fp32 fp16 x
  | 0x07 => widenCvt gm fp16 fp32 x
  | 0x08 => narrowCvt gm fp32 bf16 x
  | 0x09 => widenCvt gm bf16 fp32 x
  | 0x0A => toIntCvt gm fp64 64 (-(2 ^ 63)) (2 ^ 63 - 1) x
  | 0x0B => fromIntCvt gm fp64 (sext 64 x)
  | 0x0C => narrowCvt gm fp32 fp16 x
  | 0x0D => widenCvt gm fp16 fp32 x
  | 0x0E => narrowCvt gm fp32 bf16 x
  | 0x0F => widenCvt gm bf16 fp32 x
  | 0x10 => packCvt gm 0x04 x
  | 0x11 => pureGen (fp32.deliver rne (e4m3.value x))
  | 0x12 => packCvt gm 0x05 x
  | 0x13 => pureGen (fp32.deliver rne (e5m2.value x))
  | 0x14 => packCvt gm 0x06 x
  | 0x15 => pureGen (fp32.deliver rne (tf8Value x))
  | 0x16 => packCvt gm 0x09 x
  | 0x17 => pureGen (fp32.deliver rne (e2m1.value x))
  | 0x18 => pureGen (clampInt 8 (sext 32 x))
  | 0x19 => pureGen (wrap 32 (sext 8 x))
  | 0x1A => pureGen (clampInt 4 (sext 32 x))
  | 0x1B => pureGen (wrap 32 (sext 4 x))
  | _ => pureGen 0

/-- A whole conversion: elements in ascending order (R66, R79). -/
def cvtValue (gm : BitVec 15) (code v : Nat) : Gen Nat := fun g =>
  let sh := cvtShape code
  let r := mapGen (cvtElem gm code) ((List.range sh.count).map fun k => v / 2 ^ (sh.src * k) % 2 ^ sh.srcBits) g
  ((r.1.zipIdx).foldl (fun t e => t + e.1 * 2 ^ (sh.dst * e.2)) 0, r.2)

/-- CVT (R137). -/
def execCvt (d a : Reg) (ra : BitVec 2) (code : BitVec 7) (s : State) : Result :=
  s.issue (.cvt d a ra code) fun p => s.perLane p (latencyOf p.ty (.cvt d a ra code)) d (cvtSpan code).2 fun l =>
    cvtValue p.g.gmode code.toNat (s.opValue p a ra (cvtSpan code).1 l)

/-- The FP32 source of a lane of MXQ; an absent lane gives 0 (R138). -/
def mxqSource (s : State) (p : Party) (a : Reg) (ra : BitVec 2) (l : Nat) : FVal :=
  if p.g.hasLane l then fp32.input (fzOf p.g.gmode) (s.opValue p a ra 1 l) else .fin false 0 0

/-- MXQ (R138): every present lane feeds the scale of its block. -/
def execMxq (d a : Reg) (ra : BitVec 2) (fmt : BitVec 7) (s : State) : Result :=
  s.issue (.mxq d a ra fmt) fun p =>
    let n := if fmt.toNat = 0x16 ∨ fmt.toNat = 0x19 then 16 else 32
    let scale (b : Nat) : Nat := blockScale (emaxOf fmt.toNat) ((List.range n).map fun k => mxqSource s p a ra (b * n + k))
    s.perLane p (latencyOf p.ty (.mxq d a ra fmt)) d 2 fun l g =>
      let sc := scale (l / n)
      let r := rounded p.g.gmode (fun k => quantise fmt.toNat sc k (mxqSource s p a ra l)) g
      (r.1 + sc * 2 ^ 32, r.2)

end Sys2Proof.Machine
end

