-- ==== Sys2Proof/Machine/Matrix.lean ====
section
/-! DEFINITION. The matrix engine (R89 to R92, R214 to R226, R233 to R244): ownership, MMA and its run, scale columns, accumulator
moves, MXWAIT and ROLE. -/

namespace Sys2Proof.Machine

open Sys2Proof

/-! ### Ownership (R214, R215, R234, R235) -/

/-- What a gang owns: its claim on the engine of its own core (a pair owner sits on the runner core). -/
def State.owns (s : State) (core slot : Nat) : Option Owner :=
  match (s.coreAt core).owner with
  | some o => if o.core = core ∧ o.slot = slot ∧ o.released = false then some o else none
  | none => none

/-- The request of a gang in the queue of its stone pair. -/
def State.mxRequest (s : State) (core slot : Nat) : Option MxReq :=
  (s.coreAt (core / 2 * 2)).mxq.find? fun r => r.core == core && r.slot == slot

/-- A pair request that holds both engines. -/
def MxReq.holds (r : MxReq) : Bool := decide (4 ≤ r.prio)

/-- The requests that may be granted: none later than one that holds both engines. -/
def grantable (q : List MxReq) : List MxReq :=
  q.takeWhile (fun r => !r.holds) ++ (q.find? (·.holds)).toList

/-- The oldest request of the highest class that names an engine. -/
def lookRequest (q : List MxReq) (k : Nat) : Option MxReq :=
  ((grantable q).filter fun r => r.pair || r.core == k).foldl (fun m r => match m with
    | none => some r
    | some b => if b.prio % 4 < r.prio % 4 then some r else some b) none

/-- Engines given up whose MMAs have retired become free. -/
def State.freeEngines (s : State) (runner : Nat) : State :=
  let idle (k : Nat) : Bool := (s.mmasOn k).isEmpty
  let both := idle runner && idle (runner + 1)
  let gone (k : Nat) (o : Owner) : Bool := o.released && (if o.pair then both else idle k)
  let free (s : State) (k : Nat) : State :=
    match (s.coreAt k).owner with
    | some o => if gone k o then s.modCore k fun c => { c with owner := none } else s
    | none => s
  free (free s runner) (runner + 1)

/-- Give engines to a request. -/
def State.giveEngine (s : State) (runner : Nat) (r : MxReq) : State :=
  let o : Owner := ⟨r.core, r.slot, r.pair, r.prio % 4, false⟩
  let s := s.modCore runner fun c => { c with mxq := c.mxq.filter fun q => !(q.core == r.core && q.slot == r.slot) }
  if r.pair then (s.modCore runner fun c => { c with owner := some o }).modCore (runner + 1) fun c => { c with owner := some o }
  else s.modCore r.core fun c => { c with owner := some o }

/-- One look of the arbiter at an engine. -/
def State.lookEngine (s : State) (runner k : Nat) : State :=
  if (s.coreAt k).owner.isSome then s
  else match lookRequest (s.coreAt runner).mxq k with
    | none => s
    | some r =>
      let both := (s.coreAt runner).owner.isNone && (s.coreAt (runner + 1)).owner.isNone
      if !r.pair || both then s.giveEngine runner r
      else s.modCore runner fun c =>
        { c with mxq := c.mxq.map fun q => if q.core = r.core ∧ q.slot = r.slot ∧ q.holds = false then { q with prio := q.prio + 4 } else q }

/-- Parties in an MXACQ go on once their gang's request is granted or withdrawn; a resumed gang becomes ready. -/
def State.wakeOwners (s : State) (core : Nat) : State :=
  (s.coreAt core).gangs.foldl (fun s g =>
    if (s.mxRequest core g.1).isSome then s
    else
      let s := if g.2.pre.engine then s.modGang core g.1 fun g => { g with pre := { g.pre with engine := false } } else s
      if g.2.trap.isSome then s
      else s.modGang core g.1 fun g => g.mapQuads fun q d =>
        if d.park = .mxacq ∧ g.unretired q = true then { d with park := .none, pc := succPc d.pc, wake := s.now + 1 } else d) s

/-- ENGINE_GRANT (R215), for the stone pair of a runner core. -/
def execEngineGrant (core : Nat) (s : State) : Result :=
  let r := core / 2 * 2
  let s := s.freeEngines r
  let s := ((s.lookEngine r r).lookEngine r (r + 1)).lookEngine r r
  .next ((s.wakeOwners r).wakeOwners (r + 1))

/-- MXACQ (R234). -/
def execMxacq (prio : BitVec 2) (pair : Bool) (s : State) : Result :=
  s.issue (.mxacq prio pair) fun p =>
    match s.blockOf p with
    | none => s
    | some b =>
      let runner := p.core / 2 * 2
      let wait (s : State) : State :=
        (s.modGang p.core p.slot fun g => g.mapParty p.lead fun q => { q with park := .mxacq, last := some s.now }).at s.now (.engineGrant runner)
      if !p.once then s.advance p
      else if pair && !(b.pair && p.core % 2 == 0) then s.raise p xMxOwn 2
      else match s.owns p.core p.slot, s.mxRequest p.core p.slot with
        | some o, _ => if o.pair = pair then s.advance p else s.raise p xMxOwn 3
        | none, some r => if r.pair = pair then wait s else s.raise p xMxOwn 3
        | none, none => wait (s.modCore runner fun c => { c with mxq := c.mxq ++ [⟨p.core, p.slot, pair, prio.toNat⟩] })

/-- MXREL (R235). -/
def execMxrel (s : State) : Result :=
  s.issue .mxrel fun p => if p.once then (s.leaveEngines p.core p.slot).advance p else s.advance p

/-! ### Shape classes (R88, R217, R238) -/

/-- A shape class: K, chunk length, duration, B registers of a gang, bits of an element. -/
structure MxClass where
  cell : Nat
  k : Nat
  chunk : Nat
  dur : Nat
  regs : Nat
  bits : Nat
  deriving DecidableEq, Repr

def mxClass (fmt : Nat) : Option MxClass :=
  match fmt with
  | 0x00 => some ⟨0, 4, 1, 1024, 16, 64⟩
  | 0x01 => some ⟨1, 16, 4, 512, 32, 32⟩
  | 0x02 => some ⟨2, 64, 16, 256, 64, 16⟩
  | 0x03 => some ⟨2, 64, 16, 256, 64, 16⟩
  | 0x04 => some ⟨3, 128, 32, 256, 64, 8⟩
  | 0x05 => some ⟨3, 128, 32, 256, 64, 8⟩
  | 0x06 => some ⟨3, 128, 32, 256, 64, 8⟩
  | 0x07 => some ⟨3, 128, 32, 256, 64, 8⟩
  | 0x08 => some ⟨4, 128, 32, 256, 64, 8⟩
  | 0x16 => some ⟨5, 128, 16, 256, 64, 8⟩
  | 0x09 => some ⟨6, 256, 32, 256, 64, 4⟩
  | 0x19 => some ⟨7, 256, 16, 256, 64, 4⟩
  | _ => none

def MxClass.rowBytes (c : MxClass) : Nat := c.k * c.bits / 8

/-- The accumulator formats of a cell of R238. -/
def accAllowed (cell accf : Nat) : Bool :=
  match cell with
  | 0 => accf == 1
  | 4 => accf == 2
  | _ => decide (accf < 2)

/-- Fields of a format block (R237). -/
def fbW (fb : List Word) (k : Nat) : Nat := (fb.getD k 0).toNat
def Mma.afmt (m : Mma) : Nat := fld (fbW m.fb 0) 6 0
def Mma.bfmt (m : Mma) : Nat := fld (fbW m.fb 0) 14 8
def Mma.sat (m : Mma) : Bool := (fbW m.fb 0).testBit 18
def Mma.cls (m : Mma) : MxClass := (mxClass m.afmt).getD ⟨0, 0, 1, 0, 0, 8⟩

/-! ### MMA at issue (R239) -/

/-- The gang of a block with a number, on a core: its slot and itself. -/
def State.gangNumbered (s : State) (core blk n : Nat) : Option (Nat × Gang) :=
  (s.coreAt core).gangs.find? fun g => g.2.blk == blk && g.2.number == n

/-- The MXFMT cause of a format block, with the B gang for causes 5 and 6, as XINFO; `core` issues it. -/
def mxFmt (s : State) (b : Block) (core : Nat) (fb : List Word) : Option Nat :=
  let w := fbW fb
  let af := fld (w 0) 6 0
  let accf := fld (w 0) 17 16
  let pair := (w 0).testBit 19
  match mxClass af, mxClass (fld (w 0) 14 8) with
  | some c, some d =>
    let host := if pair then core / 2 * 2 else core
    let num (j : Nat) : Nat := fld (w 3) (8 * j + 5) (8 * j)
    let base (j : Nat) : Nat := fld (w 4) (8 * j + 6) (8 * j)
    let gang (j : Nat) : Option (Nat × Gang) := s.gangNumbered host b.key (num j)
    let n := scaledChunks af
    let badGang (j : Nat) : Bool := (gang j).elim true fun g => quarterOf g.1 != j
    let badBase (j : Nat) : Bool := base j % 2 == 1 || (gang j).elim true fun g => decide (g.2.allot < base j + c.regs)
    let leaves := decide (b.scrSize < w 2 + 128 * c.rowBytes)
    let gates := (pair || b.partOf core == 0) && decide (w 2 < 16 * b.ngates)
    let reserved := (w 0).testBit 7 || (w 0).testBit 15 || fld (w 0) 31 25 != 0 || fld (w 1) 31 24 != 0
      || (List.range 4).any (fun j => fld (w 3) (8 * j + 7) (8 * j + 6) != 0 || (w 4).testBit (8 * j + 7)) || (fb.drop 5).any (· != 0)
    if c.cell ≠ d.cell then some 1
    else if !accAllowed c.cell accf then some 2
    else if accf = 1 ∧ (w 0).testBit 20 = true then some 3
    else if n ≠ 0 ∧ (256 < fld (w 1) 7 0 + n ∨ 256 < fld (w 1) 15 8 + 4 * n) then some 4
    else match (List.range 4).find? badGang with
      | some j => some (5 + 16 * j)
      | none => match (List.range 4).find? badBase with
        | some j => some (6 + 16 * j)
        | none =>
          if w 2 % 128 ≠ 0 ∨ leaves = true ∨ gates = true then some 7
          else if (w 0).testBit 22 ∧ accf = 2 then some 8
          else if reserved then some 9 else none
  | _, _ => some 1

/-- The engines of an MMA. -/
def mmaCores (core : Nat) (pair : Bool) : List Nat := if pair then [core, core + 1] else [core]

/-- Accept an MMA: ticket, count, marks, and its begin 16 clocks later (R222, R225, R230). -/
def State.acceptMma (s : State) (p : Party) (fb : List Word) (gate : Option Nat) : State :=
  let c := s.coreAt p.core
  let regs := ((mxClass (fld (fbW fb 0) 6 0)).elim 0 (·.regs))
  let b (j : Nat) : Nat × Nat × Nat :=
    ((s.gangNumbered p.core p.g.blk (fld (fbW fb 3) (8 * j + 5) (8 * j))).elim 0 (·.1), fld (fbW fb 4) (8 * j + 6) (8 * j), regs)
  let count := c.mxcount + 1
  let tree := if (fbW fb 0).testBit 22 then some ((c.trees.getD (fld (fbW fb 0) 24 23) {}).nodes.map (·.mask)) else none
  let m : Mma := ⟨c.mxtick, p.slot, p.g.blk, fb, gate, (List.range 4).map b, relIds s p, s.now + 16,
    count.toNat % (Nat.max 1 c.mxchk.toNat) == 0, 0, 0, 1, ([], []), [], [], tree⟩
  let s := s.modCore p.core fun c => { c with mmas := c.mmas ++ [m], mxtick := c.mxtick + 1, mxcount := count }
  s.at (s.now + 16) (.mmaBegin p.core m.ticket.toNat)

/-- MMA (R239). -/
def execMma (d a b : Reg) (s : State) : Result :=
  s.issue (.mma d a b) fun p =>
    match s.blockOf p with
    | none => s
    | some blk =>
      let addr := s.uniform p a 1
      let fb := recordWords blk (blk.partOf p.core) addr
      let pair := (fbW fb 0).testBit 19
      let gv := s.uniform p b 1
      let gate := fld p.g.role.toNat 11 4 + gv
      if !p.once then s.advance p
      else match s.owns p.core p.slot with
        | none => s.raise p xMxOwn 0
        | some o =>
          if addr % 64 ≠ 0 ∨ blk.scrSize < addr + 64 ∨ addr < 16 * blk.ngates then s.raise p xMxFmt 10
          else match mxFmt s blk p.core fb with
            | some x => s.raise p xMxFmt x
            | none =>
              if pair && (!o.pair || p.core % 2 == 1) then s.raise p xMxOwn 1
              else if gv < 2 ^ 31 ∧ blk.ngates ≤ gate then s.raise p xGateNum gate
              else s.writer p (
                if (mmaCores p.core pair).any fun k => decide (4 ≤ (s.mmasOn k).length) then s.stall p
                else
                  let t := (s.coreAt p.core).mxtick
                  (((s.closeMark p).acceptMma p fb (if gv < 2 ^ 31 then some gate else none)).variableResult p (p.uniformWrites d 1 t.toNat)).advance p)

/-! ### The run of an MMA (R218, R219, R222, R225) -/

def State.mmaAt (s : State) (core ticket : Nat) : Option Mma := (s.coreAt core).mmas.find? (·.ticket.toNat == ticket)

def State.modMma (s : State) (core ticket : Nat) (f : Mma → Mma) : State :=
  s.modCore core fun c => { c with mmas := replaceFirst (·.ticket.toNat == ticket) f c.mmas }

/-- The A rows of a scratch part as they stand, by scratch offset; a block that has gone leaves them open (log entry 13). -/
def State.aRowsNow (s : State) (m : Mma) (part : Nat) : Cells :=
  let n := 128 * m.cls.rowBytes
  match s.blockAt m.blk with
  | some b => putBytes [] 0 ((List.range n).map fun k => b.scratchByte part (fbW m.fb 2 + k))
  | none => putBytes [] 0 ((List.range n).map fun k => Config.freeByte (s.fresh + k))

/-- The B registers of an MMA as they stand: of gangs that have ended, as they left them (R218). -/
def State.bRegsNow (s : State) (core : Nat) (m : Mma) : List (Nat × Words) :=
  m.bgangs.map fun b =>
    let inside (w : Words) : Words := Sp.keep (fun k => decide (b.2.1 ≤ k / 32) && decide (k / 32 < b.2.1 + b.2.2)) w
    match s.gangAt core b.1 with
    | some g => if g.blk = m.blk then (b.1, inside g.vregs) else (b.1, inside ((Kv.get? m.kept b.1).getD []))
    | none => (b.1, inside ((Kv.get? m.kept b.1).getD []))

/-- Values that were read at some clock of a run: where they changed, each group of `grain` keys is old or new (R219; log entry 13). -/
def chooseCells {w : Nat} (n grain : Nat) (old new : List (Nat × BitVec w)) : List (Nat × BitVec w) :=
  if old = new then new
  else (old.map (·.1) ++ new.map (·.1)).dedup.foldl (fun m k =>
    Sp.set m k (if Config.deviceChooses (n + k / grain) then Sp.get old k else Sp.get new k)) []

/-- The part of a block that an MMA's issuing core reads A from. -/
def State.mmaPart (s : State) (core : Nat) (m : Mma) : Nat := (s.blockAt m.blk).elim 0 fun b => b.partOf core

/-- MMA_BEGIN (R222): once its predecessor has ended and no earlier release of the gang is incomplete (R319). -/
def execMmaBegin (core ticket : Nat) (s : State) : Result :=
  match s.mmaAt core ticket with
  | none => .next s
  | some m =>
    let c := s.coreAt core
    let before := (c.mmas.takeWhile (·.ticket.toNat != ticket)).any fun x => decide (x.phase < 2)
    if m.phase ≠ 0 ∨ before = true ∨ s.now < m.ready then .next s
    else if m.rels.any fun r => c.rels.any (·.id == r) then .next (s.at (s.now + 1) (.mmaBegin core ticket))
    else
      let passes := if m.checked then (if Config.deviceChooses s.fresh then 3 else 2) else 1
      let fin := s.now + m.cls.dur * passes
      let rows := (s.aRowsNow m (s.mmaPart core m), if fbPair m then s.aRowsNow m 1 else [])
      let regs := s.bRegsNow core m
      let s := s.bump.modMma core ticket fun m => { m with phase := 1, fin := fin, passes := passes, aRows := rows, bRegs := regs }
      .next ((s.at fin (.mmaRetire core ticket)).at (fin + 24) (.mmaRetire core ticket))

/-- The end of the run: A and B stand as they were read, no element and no aligned 4-byte word of A in parts (R219, R308), and the next MMA may
begin. -/
def State.endRun (s : State) (core ticket : Nat) (m : Mma) : State :=
  let n := s.fresh
  let grain := Nat.max 4 (m.cls.bits / 8)
  let a := chooseCells n grain m.aRows.1 (s.aRowsNow m (s.mmaPart core m))
  let a' := if fbPair m then chooseCells (n + 2 ^ 15) grain m.aRows.2 (s.aRowsNow m 1) else []
  let regs := (m.bRegs.zip (s.bRegsNow core m)).zipIdx.map fun x => (x.1.1.1, chooseCells (n + 2 ^ 16 + 2 ^ 12 * x.2) 1 x.1.1.2 x.1.2.2)
  let s := State.modMma { s with fresh := n + 2 ^ 17 } core ticket fun m => { m with phase := 2, aRows := (a, a'), kept := regs }
  (s.coreAt core).mmas.foldl (fun s x => if x.phase = 0 then s.at s.now (.mmaBegin core x.ticket.toNat) else s) s

/-! ### The arithmetic (R89 to R92) -/

/-- The value of an element (R87, R88). -/
def elemValue (fmt v : Nat) : FVal :=
  match fmt with
  | 0x00 => fp64.value v
  | 0x01 => fp32.value v
  | 0x02 => fp16.value v
  | 0x03 => bf16.value v
  | 0x04 => e4m3.value v
  | 0x05 => e5m2.value v
  | 0x06 => tf8Value v
  | 0x16 => tf8Value v
  | 0x07 => .fin (decide (sext 8 v < 0)) (sext 8 v).natAbs (-6)
  | 0x08 => .fin (decide (sext 8 v < 0)) (sext 8 v).natAbs 0
  | _ => e2m1.value v

/-- The exact sum of the products of a chunk (R89, R90). -/
def chunkSum (a b : List FVal) : FVal :=
  match List.zipWith FVal.mul a b with
  | [] => .fin false 0 0
  | x :: xs => xs.foldl (FVal.add 0) x

/-- The sum under the two block scales; 255 is a NaN scale (R85). -/
def scaledSum (s : FVal) (sa sb : Nat) : FVal :=
  if sa = 255 ∨ sb = 255 then .nan
  else match s with
    | .fin n m e => .fin n m (e + ((sa : Int) - 127) + ((sb : Int) - 127))
    | v => v

/-- One chunk added to a floating-point accumulator: two roundings (R89, R90); −0 and −0 give −0 (log entry 132). -/
def accFloat (f : Fmt) (sat : Bool) (acc : Nat) (s : FVal) : Nat :=
  let k : Rnd := ⟨0, sat, false, 0⟩
  f.deliver k (FVal.add 0 (f.value acc) (f.value (f.deliver k s)))

/-- One chunk added to an INT32 accumulator (R91). -/
def accInt (sat : Bool) (acc : Nat) (s : FVal) : Nat :=
  let v : Int := match s with | .fin n m e => scaleTo n m e 0 | _ => 0
  deliverInt 32 false sat (sext 32 acc + v)

/-- A chunk of an operand with its scale. -/
structure Chunk where
  elems : List FVal
  scale : Nat
  deriving DecidableEq, Repr

/-- An output: its accumulator continued over the chunks, ascending. -/
def accumulate (accf : Nat) (sat : Bool) (acc : Nat) (a b : List Chunk) : Nat :=
  (List.zipWith (fun x y => scaledSum (chunkSum x.elems y.elems) x.scale y.scale) a b).foldl (fun acc s =>
    match accf with
    | 0 => accFloat fp32 sat acc s
    | 1 => accFloat fp64 sat acc s
    | _ => accInt sat acc s) acc

/-- Cut K elements into chunks with their scales. -/
def chunksOf (c : MxClass) (elem : Nat → FVal) (scale : Nat → Nat) : List Chunk :=
  (List.range (c.k / c.chunk)).map fun n => ⟨(List.range c.chunk).map fun k => elem (n * c.chunk + k), scale n⟩

/-- Element k of local row r of A (R66, R219). -/
def aElem (c : MxClass) (fmt : Nat) (rows : Cells) (r k : Nat) : FVal :=
  let bit := k * c.bits
  elemValue fmt (ofBytes (lineBytes rows (r * c.rowBytes + bit / 8) (Nat.max 1 (c.bits / 8))) / 2 ^ (bit % 8) % 2 ^ c.bits)

/-- B[k][j] from the registers of B gang j / 64 with a base (R218). -/
def bElem (c : MxClass) (fmt : Nat) (regs : Words) (base k j : Nat) : FVal :=
  let h := j % 64 / 32
  let i := j % 32
  let reg (n : Nat) : Nat := (Sp.get regs (32 * n + i)).toNat
  if c.bits = 64 then elemValue fmt (reg (base + 4 * k + 2 * h) + 2 ^ 32 * reg (base + 4 * k + 2 * h + 1))
  else
    let p := 32 / c.bits
    elemValue fmt (reg (base + 2 * (k / p) + h) / 2 ^ (c.bits * (k % p)) % 2 ^ c.bits)

/-- A scale byte of a core's quarter (R220). -/
def scaleByte (c : Core) (quarter col byte : Nat) : Nat := (Sp.get c.scale (2 ^ 14 * quarter + 64 * col + byte)).toNat

/-- The B column j of an MMA with the scales of a quarter. -/
def mmaColumn (m : Mma) (c : Core) (quarter j : Nat) : List Chunk :=
  let b := m.bgangs.getD (j / 64) (0, 0, 0)
  let regs := (m.kept.getD (j / 64) (0, [])).2
  let scaled := scaledChunks m.bfmt != 0
  chunksOf m.cls (fun k => bElem m.cls m.bfmt regs b.2.1 k j)
    (fun n => if scaled then scaleByte c quarter (fld (fbW m.fb 1) 15 8 + 4 * n + j / 64) (j % 64) else 127)

/-- The A row of a quarter of a core. -/
def mmaRow (m : Mma) (c : Core) (rows : Cells) (quarter r : Nat) : List Chunk :=
  let scaled := scaledChunks m.afmt != 0
  chunksOf m.cls (fun k => aElem m.cls m.afmt rows (32 * quarter + r) k)
    (fun n => if scaled then scaleByte c quarter (fld (fbW m.fb 1) 7 0 + n) r else 127)

/-- The tree mask keeps output (i, j) (R230). -/
def treeKeeps (m : Mma) (i j : Nat) : Bool :=
  match m.tree with
  | none => true
  | some masks =>
    let kb := fld (fbW m.fb 1) 23 16
    let n := i % 64
    decide (j < kb) || (decide (j - kb < masks.length) && decide (n < masks.length) && (masks.getD n 0).getLsbD (j - kb))

/-- The word index of a tile slot of a quarter, and of an element of `size` words (R221). -/
def tileWord (quarter slot : Nat) : Nat := 2 ^ 15 * quarter + 2 ^ 13 * slot

/-- Consecutive keys take values. -/
def Sp.putRange {w : Nat} (m : List (Nat × BitVec w)) (lo : Nat) (vs : List (BitVec w)) : List (Nat × BitVec w) :=
  (m.filter fun e => decide (e.1 < lo)) ++ ((vs.zipIdx lo).filterMap fun v => if v.1 = 0 then none else some (v.2, v.1))
    ++ m.filter fun e => decide (lo + vs.length ≤ e.1)

/-- The words an accumulator tile of a quarter holds after an MMA; `bad` leaves them open (R225 step 5). -/
def mmaTile (m : Mma) (c : Core) (rank : Nat) (rows : Cells) (bad : Option Nat) (quarter : Nat) : List Word :=
  let size := if fbAcc m = 1 then 2 else 1
  let base := tileWord quarter (fbTile m)
  let cols := (List.range 256).map fun j => mmaColumn m c quarter j
  let inf := if size = 2 then 0xFFF0000000000000 else 0xFF800000
  (List.range 32).flatMap fun r =>
    let row := mmaRow m c rows quarter r
    cols.zipIdx.flatMap fun col =>
      let at' := base + size * (256 * r + col.2)
      match bad with
      | some n => (List.range size).map fun k => freeWord (n + 4 * (at' + k))
      | none =>
        let old := (List.range size).foldl (fun v k => v + (Sp.get c.acc (at' + k)).toNat * 2 ^ (32 * k)) 0
        let v := if treeKeeps m (128 * rank + 32 * quarter + r) col.2 then accumulate (fbAcc m) m.sat old row col.1 else inf
        (List.range size).map fun k => word (v / 2 ^ (32 * k))

/-- The tile slots of an MMA in the quarters of a core. -/
def mmaSlots (m : Mma) : List (Nat × Nat) := (List.range 4).flatMap fun q => ((List.range 4).filter (usesTile m)).map fun x => (q, x)

/-- The accumulator rows of a core at retirement. -/
def State.writeTiles (s : State) (m : Mma) (core rank : Nat) (rows : Cells) (bad : Option Nat) : State :=
  s.modCore core fun c =>
    { c with acc := (List.range 4).foldl (fun a q => Sp.putRange a (tileWord q (fbTile m)) (mmaTile m c rank rows bad q)) c.acc
             accBad := if bad.isSome then (c.accBad ++ mmaSlots m).dedup else c.accBad }

/-- The error record of a self-check that disagreed (R225, R433): the element that it names is open, on the bed core too for a pair. -/
def State.peCheck (s : State) (core : Nat) (pair bad : Bool) : State :=
  let at' := (freeWord s.fresh).toNat
  let s : State := { s with fresh := s.fresh + 4 }
  s.errorRecord 1 [if pair && at'.testBit 15 then core + 1 else core, at' % 4 + at' / 4 % 32 * 2 ^ 8 + at' / 128 % 256 * 2 ^ 16, bnat bad]

/-- An MMA that continues rows marked uncorrectable consumes the error for the gang that issued it (R175, R225). -/
def State.accumulateBad (s : State) (core : Nat) (m : Mma) : State :=
  if (mmaCores core (fbPair m)).any fun k => (s.coreAt k).accBad.any fun x => usesTile m x.2 then
    s.consumeError core m.slot m.blk (tileWord 0 (fbTile m))
  else s

/-- MMA_RETIRE (R222): at its end the run is over; 24 clocks later the rows, the tree mask, the marks, the ticket and the tile arrival. -/
def execMmaRetire (core ticket : Nat) (s : State) : Result :=
  match s.mmaAt core ticket with
  | none => .next s
  | some m =>
    if m.phase = 0 ∨ s.now < m.fin then .next s
    else if m.phase = 1 then .next (s.endRun core ticket m)
    else if s.now < m.fin + 24 then .next s
    else
      let lost := m.passes == 3 && Config.deviceChooses s.fresh
      let bad := if lost then some (s.fresh + 1) else none
      let s : State := if m.passes = 3 then { s with fresh := s.fresh + 1 + 2 ^ 20 } else s
      let s := s.accumulateBad core m
      let s := s.writeTiles m core 0 m.aRows.1 bad
      let s := if fbPair m then s.writeTiles m (core + 1) 1 m.aRows.2 bad else s
      let s := if m.passes = 3 then s.peCheck core (fbPair m) lost else s
      let s := s.modCore core fun c => { c with mmas := c.mmas.filter (·.ticket.toNat != ticket) }
      let s := match m.gate, s.blockAt m.blk with
        | some gate, some b =>
          if b.pair && core % 2 == 1 then s.at (s.now + 6) (.bedTileArrival m.blk gate) else s.sendGateAfter b 0 core 64 gate [] .tile
        | _, _ => s
      .next (s.at s.now (.engineGrant (core / 2 * 2)))

/-- BED_TILE_ARRIVAL (R226). -/
def execBedTileArrival (blk gate : Nat) (s : State) : Result :=
  match s.blockAt blk with
  | none => .next s
  | some b => .next (s.sendGateAfter b 0 (b.coreOf 1) 64 gate [] .tile)

/-- MXWAIT (R236): not ready while an MMA of the gang or on its registers, or a transfer of the gang, is outstanding. -/
def execMxwait (s : State) : Result :=
  s.issue .mxwait fun p =>
    let c := s.coreAt p.core
    let mine (m : Mma) : Bool := m.blk == p.g.blk && (m.slot == p.slot || m.bgangs.any fun b => b.1 == p.slot)
    if p.once && (c.mmas.any mine || c.moves.any fun m => m.slot == p.slot && m.blk == p.g.blk) then s.stall p else s.advance p

/-- ROLE (R244). -/
def execRole (base : BitVec 8) (role : BitVec 4) (s : State) : Result :=
  s.issueSimple (.role base role) fun p s =>
    if p.once then s.modGang p.core p.slot fun g => { g with role := word (base.toNat * 16 + role.toNat) } else s

/-! ### Scale columns and accumulator moves (R223, R233, R241 to R243) -/

/-- The transfer of a party is under way: the party waits, its PC past the instruction. -/
def State.beginMove (s : State) (p : Party) (m : AccMove) : State :=
  ((s.modCore p.core fun c => { c with moves := c.moves ++ [m] }).advance p).park p (.hold false)

/-- The MXARG cause of SCLD (R241). -/
def scldArg (b : Block) (dv sa n : Nat) : Option Nat :=
  let len := 64 * n * (if dv.testBit 12 then 4 else 1)
  if fld dv 31 13 ≠ 0 ∨ (fld dv 11 8 = 0 ∧ n ≠ 0) then some 0
  else if 256 < fld dv 7 0 + n then some 1
  else if sa % 64 ≠ 0 then some 2
  else if n ≠ 0 ∧ (b.scrSize < sa + len ∨ sa < 16 * b.ngates) then some 3
  else none

/-- The columns that SCLD writes: quarter, column, scratch offset. -/
def scldColumns (dv sa n : Nat) : List (Nat × Nat × Nat) :=
  (List.range n).flatMap fun m => ((List.range 4).filter fun q => dv.testBit (8 + q)).map fun q =>
    (q, fld dv 7 0 + m, if dv.testBit 12 then sa + 64 * (4 * m + q) else sa + 64 * m)

/-- SCLD (R241). -/
def execScld (d a b : Reg) (s : State) : Result :=
  s.issue (.scld d a b) fun p =>
    match s.blockOf p with
    | none => s
    | some blk =>
      let dv := s.uniform p d 1
      let sa := s.uniform p a 1
      let n := s.uniform p b 1
      if !p.once then s.advance p
      else match scldArg blk dv sa n with
        | some x => s.raise p xMxArg x
        | none =>
          let cols := scldColumns dv sa n
          if cols.isEmpty then s.advance p
          else if (s.mmasOn p.core).any fun m => cols.any fun c => usesColumn m c.2.1 then s.stall p
          else
            let part := blk.partOf p.core
            let bytes (off : Nat) : List Byte := (List.range 64).map fun k => blk.scratchByte part (off + k)
            let s := s.modCore p.core fun c =>
              { c with scale := cols.foldl (fun m x => putBytes m (2 ^ 14 * x.1 + 64 * x.2.1) (bytes x.2.2)) c.scale }
            let fin := s.now + 1 + Config.latency s.fresh
            (s.bump.beginMove p ⟨p.slot, p.g.blk, p.lead, false, 0, 0, 0, 0, 0, fin, p.g.context⟩).at fin (.accTransferComplete p.core p.slot p.lead)

/-- The fields of a tile descriptor (R242). -/
def tdSlot (t : Nat) : Nat := t % 4
def tdQuarter (t : Nat) : Nat := fld t 3 2
def tdWide (t : Nat) : Bool := t.testBit 4
def tdRow (t : Nat) : Nat := fld t 9 5
def tdGroup (t : Nat) : Nat := fld t 12 10

/-- Slots of a descriptor. -/
def tdSlots (t : Nat) : List Nat := if tdWide t then [tdSlot t, tdSlot t + 1] else [tdSlot t]
def tdBad (t : Nat) : Bool := fld t 31 13 != 0 || (tdWide t && t.testBit 0)
def tdBytes (t : Nat) : Nat := if tdWide t then 65536 else 32768

/-- A tile is in use: by an MMA, or by a transfer under way (R223, R233). -/
def State.tileBusy (s : State) (core t : Nat) : Bool :=
  ((s.mmasOn core).any fun m => (tdSlots t).any (usesTile m))
    || (s.coreAt core).moves.any fun m => m.size != 0 && m.quarter == tdQuarter t &&
      (tdSlots t).any fun x => x == m.tile || (m.size == 65536 && x == m.tile + 1)

/-- A read of rows marked uncorrectable (R175, R225). -/
def State.consumeBad (s : State) (p : Party) (t : Nat) : State :=
  if (s.coreAt p.core).accBad.any fun x => x.1 == tdQuarter t && (tdSlots t).contains x.2 then
    s.consumeError p.core p.slot p.g.blk (tileWord (tdQuarter t) (tdSlot t))
  else s

/-- Rows that are overwritten whole are no longer marked. -/
def State.cleanTile (s : State) (core t : Nat) : State :=
  s.modCore core fun c => { c with accBad := c.accBad.filter fun x => !(x.1 == tdQuarter t && (tdSlots t).contains x.2) }

/-- An ACC sub-op of a whole tile. -/
def tileOp (i : Instr) (a : Reg) (f : Party → Block → Nat → State) (s : State) : Result :=
  s.issue i fun p =>
    match s.blockOf p with
    | none => s
    | some b =>
      let t := s.uniform p a 1
      if !p.once then s.advance p
      else if tdBad t then s.raise p xMxArg 4
      else f p b t

/-- ACCZ. -/
def execAccz (a : Reg) (s : State) : Result :=
  tileOp (.accz a) a (fun p _ t =>
    if s.tileBusy p.core t then s.stall p
    else
      let s := s.modCore p.core fun c =>
        { c with acc := Sp.putRange c.acc (tileWord (tdQuarter t) (tdSlot t)) (List.replicate (tdBytes t / 4) 0) }
      ((s.cleanTile p.core t).closeMark p).advance p) s

/-- Words of a transfer: those that move at its start or at its end, as the device chooses (R243; log entry 13). -/
def moveWords (m : AccMove) (start : Bool) : List Nat :=
  (List.range (m.size / 4)).filter fun k => Config.deviceChooses (m.first + k) == start

/-- Move some words of a transfer. -/
def State.moveSome (s : State) (core : Nat) (m : AccMove) (ks : List Nat) : State :=
  match s.blockAt m.blk with
  | none => s
  | some b =>
    let part := b.partOf core
    let base := tileWord m.quarter m.tile
    if m.store then
      s.modBlock m.blk fun b => ks.foldl (fun b k =>
        b.putScratch part (m.sa + 4 * k) (toBytes 4 (Sp.get (s.coreAt core).acc (base + k)).toNat)) b
    else s.modCore core fun c =>
      { c with acc := ks.foldl (fun a k =>
          Sp.set a (base + k) (word (ofBytes ((List.range 4).map fun j => b.scratchByte part (m.sa + 4 * k + j))))) c.acc }

/-- ACCLD and ACCST: the checks, and the transfer's start (R243). -/
def tileMove (i : Instr) (store : Bool) (d a : Reg) (s : State) : Result :=
  tileOp i a (fun p b t =>
    let sa := s.uniform p d 1
    if sa % 128 ≠ 0 then s.raise p xMxArg 5
    else match scrTrap b (tdBytes t) true [(0, sa)] with
      | some x => s.raise p x.1 x.2
      | none =>
        let go : State :=
          if s.tileBusy p.core t then s.stall p
          else
            let fin := s.now + (if tdWide t then 512 else 256)
            let m : AccMove := ⟨p.slot, p.g.blk, p.lead, store, tdQuarter t, tdSlot t, tdBytes t, sa, s.fresh, fin, p.g.context⟩
            let s := { (if store then s.consumeBad p t else (s.cleanTile p.core t).closeMark p) with fresh := s.fresh + 2 ^ 14 }
            ((s.moveSome p.core m (moveWords m true)).beginMove p m).at fin (.accTransferComplete p.core p.slot p.lead)
        if store then s.writer p go else go) s

/-- ACCLD. -/
def execAccld (d a : Reg) (s : State) : Result := tileMove (.accld d a) false d a s

/-- ACCST. -/
def execAccst (d a : Reg) (s : State) : Result := tileMove (.accst d a) true d a s

/-- A transfer of a party identifier of a gang that has reached its own end. -/
def AccMove.ends (slot lead now : Nat) (m : AccMove) : Bool := m.slot == slot && m.lead == lead && decide (m.fin ≤ now)

/-- ACC_TRANSFER_COMPLETE (R243): the words that had not moved move, the party that waits for them is ready again, and so may be the releases that
wait for an ACCST (R318); a transfer of the gang's handler is another. -/
def execAccTransferComplete (core slot lead : Nat) (s : State) : Result :=
  match (s.coreAt core).moves.find? (AccMove.ends slot lead s.now) with
  | none => .next s
  | some m =>
    let s := if m.size = 0 then s else s.moveSome core m (moveWords m false)
    .next (((s.modCore core fun c => { c with moves := c.moves.eraseP (AccMove.ends slot lead s.now) }).endHoldIn core slot lead m.ctx).wake core)

/-- The operands of ACCRD and ACCWR: D names a pair where the tile is of 64 bits (R242). -/
def rowOpnds (i : Instr) (wide : Bool) : List Opnd := (opnds i).map fun o => if o.field = 0 ∧ wide = true then { o with span := .n 2 } else o

/-- The ILLEGAL causes of a pair: q cannot name one, and one starts at an even code (R53). -/
def pairCauses (d : Reg) : List Nat := when (kindOf d == .q) 3 ++ when ((kindOf d == .v || kindOf d == .s) && d.toNat % 2 == 1) 4

/-- The second register of a pair holds the instruction: a pending write, or a B mark where it is written (R50, R218). -/
def State.pairHeld (s : State) (p : Party) (d : Reg) (write : Bool) : Bool :=
  (kindOf d == .v || kindOf d == .s) && (p.g.pend.any (fun x => x.regs.contains (d.toNat + 1))
    || (write && kindOf d == .v && (s.coreAt p.core).marked p.slot p.g.blk (d.toNat + 1)))

/-- As `issue`, for ACCRD and ACCWR, whose descriptor in A says how many registers D names (R68, R248). -/
def State.issueRow (s : State) (i : Instr) (d a : Reg) (write : Bool) (f : Party → Nat → State) : Result :=
  match s.party? with
  | none => .fault .noParty
  | some p =>
    let t := s.uniform p a 1
    let wide := tdWide t
    if !scoreboard p i || heldBack (s.coreAt p.core) p i || (wide && s.pairHeld p d write) then .next (s.stall p)
    else match preTrapWith s.now p i (rowOpnds i wide) (if wide then pairCauses d else []) [] with
      | some x => .next (s.raise p x.1 x.2)
      | none => .next (f p t)

/-- An ACC sub-op of a row segment; `idle` is what a descriptor that would trap gives where no lane writes. -/
def rowOp (i : Instr) (d a : Reg) (write : Bool) (idle : Party → Nat → State → State) (f : Party → Nat → State) (s : State) : Result :=
  s.issueRow i d a write fun p t =>
    if p.executing = 0 then s.advance p
    else if tdBad t then (if p.once then s.raise p xMxArg 4 else (idle p t s).advance p)
    else if s.tileBusy p.core t then s.stall p
    else f p t

/-- The word of an element's first half, of lane L. -/
def tdWord (t lane : Nat) : Nat := tileWord (tdQuarter t) (tdSlot t) + (if tdWide t then 2 else 1) * (256 * tdRow t + 32 * tdGroup t + lane)

/-- What ACCRD delivers: an element of each executing lane, n words long. -/
def accrdWrites (p : Party) (d : Reg) (n : Nat) (value : Nat → Nat) : List RegWrite := (lanesOf p.executing).flatMap fun l => destWrites d n l (value l)

/-- ACCRD (R243); with no lane that writes, a helper whose descriptor would trap receives zero (R182, R233). -/
def execAccrd (d a : Reg) (s : State) : Result :=
  rowOp (.accrd d a) d a true (fun p t s => s.variableResult p (accrdWrites p d (if tdWide t then 2 else 1) fun _ => 0)) (fun p t =>
    let c := s.coreAt p.core
    let n := if tdWide t then 2 else 1
    let value (l : Nat) : Nat := (List.range n).foldl (fun v k => v + (Sp.get c.acc (tdWord t l + k)).toNat * 2 ^ (32 * k)) 0
    ((s.consumeBad p t).variableResult p (accrdWrites p d n value)).advance p) s

/-- ACCWR. -/
def execAccwr (d a : Reg) (s : State) : Result :=
  rowOp (.accwr d a) d a false (fun _ _ s => s) (fun p t =>
    if !p.once then s.advance p
    else
      let n := if tdWide t then 2 else 1
      let put (m : Words) (l : Nat) : Words :=
        (List.range n).foldl (fun m k => Sp.set m (tdWord t l + k) (word (s.regValue p d n l / 2 ^ (32 * k)))) m
      ((s.modCore p.core fun c => { c with acc := (lanesOf p.writing).foldl put c.acc }).closeMark p).advance p) s

end Sys2Proof.Machine
end

