-- ==== Sys2Proof/Machine/Tree.lean ====
section
/-! DEFINITION. The tree file (R227 to R231, R245, R246). -/

namespace Sys2Proof.Machine

open Sys2Proof

/-- The tree that the party's TSEL names, in its core. -/
def State.treeOf (s : State) (p : Party) : Tree := (s.coreAt p.core).trees.getD (p.g.tsel.toNat % 4) {}

def State.putTree (s : State) (p : Party) (t : Tree) : State :=
  s.modCore p.core fun c => { c with trees := setAt c.trees (p.g.tsel.toNat % 4) fun _ => t }

/-- TREEARG with a cause and the lowest faulting lane (R248). -/
def State.treeArg (s : State) (p : Party) (cause lane : Nat) : State := s.raise p xTreeArg (cause + lane * 4)

/-- TTINIT. -/
def execTtinit (a : Reg) (s : State) : Result :=
  s.issueSimple (.ttinit a) fun p s => if p.once then s.putTree p ⟨word (s.uniform p a 1), []⟩ else s

/-- A node added at an index under a parent, or as a root (R228). -/
def Tree.addNode (t : Tree) (parent : Nat) : Tree :=
  let k := t.nodes.length
  let n : Node :=
    if 2 ^ 31 ≤ parent then ⟨k, 0, 0, 0, 0, 1#64 <<< k⟩
    else match t.nodes[parent]? with
      | some q => ⟨parent, 0, 0, 0, q.depth + 1, q.mask ||| (1#64 <<< k)⟩
      | none => ⟨k, 0, 0, 0, 0, 1#64 <<< k⟩
  { t with nodes := t.nodes ++ [n] }

/-- TTADD: nodes in ascending lane order; a full tree names the lowest writing lane. -/
def execTtadd (d a : Reg) (s : State) : Result :=
  s.issue (.ttadd d a) fun p =>
    let t := s.treeOf p
    let cnt := t.nodes.length
    let ws := (lanesOf p.writing).zipIdx.map fun x => (x.1, cnt + x.2, s.regValue p a 1 x.1)
    let full := decide (64 < cnt + ws.length)
    match (if full then ws.head?.map fun x => (0, x.1) else (ws.find? fun x => decide (x.2.2 < 2 ^ 31) && decide (x.2.1 ≤ x.2.2)).map fun x => (1, x.1)) with
    | some x => s.treeArg p x.1 x.2
    | none =>
      let value (l : Nat) : Nat := ((ws.find? (·.1 == l)).elim (2 ^ 32 - 1) (·.2.1))
      let s' := s.putTree p (ws.foldl (fun t x => t.addNode x.2.2) t)
      (s'.variableResult p ((p.computing d).flatMap fun l => destWrites d 1 l (value l))).advance p

/-- A read of one node for each lane; n is the registers of its result. -/
def treeRead (i : Instr) (d a : Reg) (n : Nat) (f : Tree → Node → Nat) (s : State) : Result :=
  s.issue i fun p =>
    let t := s.treeOf p
    let idx (l : Nat) : Nat := s.regValue p a 1 l
    match (lanesOf p.writing).find? fun l => decide (t.nodes.length ≤ idx l) with
    | some l => s.treeArg p 2 l
    | none =>
      (s.variableResult p ((p.computing d).flatMap fun l => destWrites d n l ((t.nodes[idx l]?).elim 0 (f t)))).advance p

/-- TTANC. -/
def execTtanc (d a : Reg) (s : State) : Result := treeRead (.ttanc d a) d a 2 (fun _ n => n.mask.toNat) s

/-- TTPOS. -/
def execTtpos (d a : Reg) (s : State) : Result := treeRead (.ttpos d a) d a 1 (fun t n => (t.base.toNat + n.depth) % 2 ^ 32) s

/-- TTPAR. -/
def execTtpar (d a : Reg) (s : State) : Result := treeRead (.ttpar d a) d a 1 (fun _ n => n.parent) s

/-- TTGTOK. -/
def execTtgtok (d a : Reg) (s : State) : Result := treeRead (.ttgtok d a) d a 1 (fun _ n => n.token.toNat) s

/-- TTGSC. -/
def execTtgsc (d a : Reg) (s : State) : Result := treeRead (.ttgsc d a) d a 1 (fun _ n => n.score.toNat) s

/-- A write of one node for each lane: the highest lane of a node stands, with its value and action. -/
def treeWrite (i : Instr) (d a : Reg) (f : Node → Word → Node) (s : State) : Result :=
  s.issue i fun p =>
    let t := s.treeOf p
    let ws : List (Nat × Nat × Word) := (lanesOf p.writing).map fun l => (l, s.regValue p a 1 l, word (s.regValue p d 1 l))
    let bad := match ws.find? fun x => fld x.2.1 7 6 != 0 || fld x.2.1 31 10 != 0 with
      | some x => some (3, x.1)
      | none => (ws.find? fun (x : Nat × Nat × Word) => decide (t.nodes.length ≤ x.2.1 % 64)).map fun (x : Nat × Nat × Word) => (2, x.1)
    match bad with
    | some x => s.treeArg p x.1 x.2
    | none =>
      let upd (k : Nat) (n : Node) : Node :=
        match (ws.filter fun (x : Nat × Nat × Word) => x.2.1 % 64 == k).getLast? with
        | none => n
        | some x =>
          let n := f n x.2.2
          match fld x.2.1 9 8 with | 1 => { n with state := 1 } | 2 => { n with state := 2 } | 3 => { n with state := 0 } | _ => n
      (s.putTree p { t with nodes := t.nodes.mapIdx upd }).advance p

/-- TTSTOK. -/
def execTtstok (d a : Reg) (s : State) : Result := treeWrite (.ttstok d a) d a (fun n v => { n with token := v }) s

/-- TTSSC. -/
def execTtssc (d a : Reg) (s : State) : Result := treeWrite (.ttssc d a) d a (fun n v => { n with score := v }) s

/-- The path from a node to its root, the node first; the fuel is the node's depth and one. -/
def Tree.path (t : Tree) : Nat → Nat → List Nat
  | 0, _ => []
  | k + 1, n => match t.nodes[n]? with
    | none => []
    | some q => if q.parent = n then [n] else n :: Tree.path t k q.parent

/-- The tree of a path, root first (R231). -/
def Tree.prune (t : Tree) (path : List Nat) : Tree :=
  let node (k old : Nat) : Option Node := (t.nodes[old]?).map fun n => { n with parent := k - 1, mask := BitVec.ofNat 64 (2 ^ (k + 1) - 1) }
  { t with nodes := path.zipIdx.filterMap fun x => node x.2 x.1 }

/-- TTPRUNE. -/
def execTtprune (d a : Reg) (s : State) : Result :=
  s.issue (.ttprune d a) fun p =>
    let t := s.treeOf p
    let c := s.uniform p a 1
    if !p.once then s.advance p
    else if t.nodes.length ≤ c then s.treeArg p 2 ((lanesOf p.writing).headD 0)
    else
      let path := (t.path 64 c).reverse
      ((s.putTree p (t.prune path)).variableResult p ((lanesOf p.executing).flatMap fun l => destWrites d 1 l (path.getD l (2 ^ 32 - 1)))).advance p

/-- TTCNT. -/
def execTtcnt (d : Reg) (s : State) : Result :=
  s.issue (.ttcnt d) fun p =>
    if !p.once then s.advance p
    else (s.variableResult p (p.uniformWrites d 1 (s.treeOf p).nodes.length)).advance p

end Sys2Proof.Machine
end

