-- ==== Sys2Proof/Machine/Homes.lean ====
section
/-! DEFINITION. Requests at the homes and their answers (R367, R371, R376 to R380, R438, R448), home commands and page changes (R372 to
R375), host accesses (R383 to R385), and bandwidth shares (R386 to R389). -/

namespace Sys2Proof.Machine

open Sys2Proof

/-! ### Home commands (R372 to R375) -/

/-- All homes. -/
def allHomes : BitVec 64 := BitVec.allOnes 64

/-- The fields of an attribute word that a page keeps: not D, C, MOV. -/
def attrKept : Addr := 0xFFFFFF03E7#64

/-- Bytes of the page a command names. -/
def cmdBytes (c : HomeCmd) : Nat := pageBytes c.size.toNat

/-- The page address of a command, without its key. -/
def cmdVa (c : HomeCmd) : Nat := keyless c.va.toNat

/-- Whether two commands concern the same page (R372). -/
def cmdsMeet (c d : HomeCmd) : Bool := decide (cmdVa c < cmdVa d + cmdBytes d) && decide (cmdVa d < cmdVa c + cmdBytes c)

/-- A page command: all but GRAT. -/
def isGrat (c : HomeCmd) : Bool := c.op == 6

/-- Whether a page overlaps the range of a command. -/
def Page.meets (p : Page) (c : HomeCmd) : Bool := decide (p.va < cmdVa c + cmdBytes c) && decide (cmdVa c < p.va + pageBytes p.size)

/-- The page mapped at the address and size of a command (R373). -/
def State.cmdPage (s : State) (c : HomeCmd) : Option Page := s.pages.find? fun p => p.va == cmdVa c && p.size == c.size.toNat

/-- A rejected attribute word (R370). -/
def badAttr (a : Nat) : Bool :=
  fld a 6 5 == 3 || fld a 9 8 == 3 || fld a 15 10 != 0 || fld a 63 40 != 0

/-- A rejected graticule entry (R365). -/
def badGrat (e : Nat) : Bool :=
  let w := fld e 60 56
  let g := fld e 55 50
  let base := fld e 19 0
  fld e 49 20 != 0 || (match fld e 62 61 with
    | 0 => base != 0 || w != 0 || g != 0
    | 1 => w != 0 || g != 0
    | 2 => decide (g < 21) || decide (40 < g) || decide (44 < g + w) || base % 2 ^ w != 0 || decide (20 < w)
    | _ => true)

/-- A page would lie beyond the 24 GiB that each home has of its stack's 96 (R3); pages of the host tier lie in host memory. -/
def badFrame (tier size frame : Nat) : Bool :=
  tier != 2 && decide (24 * 2 ^ 30 < frame + (match size with | 0 => 2 ^ 12 | 1 => 2 ^ 15 | _ => 2 ^ 24))

/-- A page change that the homes begin themselves: 9 flips the page to host bias (R385), 10 gives it the KEY and TENANT of a KV function (R391). -/
def ownCmd (c : HomeCmd) : Bool := c.recAddr == 0 && (c.op == 9 || c.op == 10)

/-- FORMAT (R373). A record with a reserved bit set has been read as op 0; a FRAME beyond the memory of a home is a rejected field (log entry
100). -/
def badCmd (c : HomeCmd) : Bool :=
  c.op == 0 || (decide (8 < c.op.toNat) && !ownCmd c) || c.size == 3
    || (if isGrat c then decide (2 ^ 12 ≤ c.va.toNat) || badGrat c.attr.toNat else offsetOf c.va.toNat % cmdBytes c != 0)
    || ((c.op == 1 || c.op == 3 || c.op == 4) && badAttr c.attr.toNat)
    || ((c.op == 1 || c.op == 4) && badFrame (fld c.attr.toNat 9 8) c.size.toNat c.frame.toNat)

/-- The lowest home of a page (R374). -/
def Page.lowHome (p : Page) : Nat :=
  if p.size = 0 then (List.range 16).foldl (fun m k => Nat.min m (homeOf (p.va + 4096 * k))) 63 else 0

/-- Whether an attribute change is a page change (R374). -/
def needsChange (old new : Nat) : Bool :=
  fld old 7 5 != fld new 7 5 || fld old 39 16 != fld new 39 16 || (old.testBit 1 && !new.testBit 1) || (old.testBit 2 && !new.testBit 2)

/-- The attribute word of a page takes a command's; C and D as the word gives them, in every home. -/
def Page.withAttr (p : Page) (a : Addr) : Page :=
  { p with attr := a &&& attrKept, cHomes := if a.getLsbD 4 then allHomes else 0, dHomes := if a.getLsbD 3 then allHomes else 0 }

/-- What is left of the REFUSE marks outside a range. -/
def cutMarks (lo n : Nat) (ms : List (Nat × Nat)) : List (Nat × Nat) :=
  ms.flatMap fun m =>
    (if m.1 < lo then [(m.1, Nat.min m.2 (lo - m.1))] else [])
      ++ (if lo + n < m.1 + m.2 then [(Nat.max m.1 (lo + n), m.1 + m.2 - Nat.max m.1 (lo + n))] else [])

/-- Copy a page's bytes from its place to that of another frame and tier; an uncorrectable line stays uncorrectable (R374, R380). -/
def State.copyPage (s : State) (p q : Page) : State :=
  let bytes := pageBytes p.size
  let src (host : Bool) : Cells := if host then s.hostMem else s.dram
  let host := p.tier == 2
  -- the offset of a place in the page, if the place belongs to the page
  let offset (a : Nat) : Option Nat :=
    if host then (if p.frame ≤ a ∧ a < p.frame + bytes then some (a - p.frame) else none)
    else
      let l := a % 2 ^ 48
      if l < p.frame then none
      else
        let base := (l - p.frame) / 4096 * 2 ^ 18 + (l - p.frame) % 4096
        ((List.range 64).map fun k => base + 4096 * k).find? fun o => decide (o < bytes) && (p.place (p.va + o)).2 == a
  let cells := (src host).filterMap fun c => (offset c.1).map fun o => (o, c.2)
  let clear (m : Cells) (toHost : Bool) : Cells :=
    m.filter fun c => !(
      if toHost then decide (q.frame ≤ c.1) && decide (c.1 < q.frame + bytes)
      else
        let l := c.1 % 2 ^ 48
        decide (q.frame ≤ l) && (
          let base := (l - q.frame) / 4096 * 2 ^ 18 + (l - q.frame) % 4096
          ((List.range 64).map fun k => base + 4096 * k).any fun o => decide (o < bytes) && (q.place (q.va + o)).2 == c.1))
  let s := if q.tier = 2 then { s with hostMem := clear s.hostMem true } else { s with dram := clear s.dram false }
  let s := cells.foldl (fun s c =>
    let l := q.place (q.va + c.1)
    if l.1 then { s with hostMem := Sp.set s.hostMem l.2 c.2 } else { s with dram := Sp.set s.dram l.2 c.2 }) s
  let bad := (s.poison.filterMap fun k => (offset (k % 2 ^ 62)).bind fun o => if (decide (2 ^ 62 ≤ k)) == host then some o else none)
  -- what the copy has written is as good as its source
  let to' := (List.range (bytes / 128)).map fun k => q.poisonKey (q.va + 128 * k)
  let s := { s with poison := s.poison.filter fun k => !to'.contains k }
  bad.foldl (fun s o => s.poisonPlace q (q.va + o)) s

def State.modCmd (s : State) (id : Nat) (f : CmdRun → CmdRun) : State := { s with cmds := replaceFirst (·.cmd.id == id) f s.cmds }

/-- Look at a command again at once. -/
def State.tickCmd (s : State) (id : Nat) : State := s.at s.now (.homeCommandComplete id)

/-- A command joins the queue of the homes. -/
def State.submit (s : State) (c : HomeCmd) : State := State.tickCmd { s with cmds := s.cmds ++ [{ cmd := c }] } c.id

/-- Whether a command may begin: every earlier command has begun, no earlier one concerns its page, and GRAT is ordered against all
(R372). -/
def mayBegin (before : List CmdRun) (c : HomeCmd) : Bool :=
  before.all fun e => e.begun && !isGrat e.cmd && !isGrat c && !cmdsMeet e.cmd c

/-- The unparked, undrained leat entries of a range, of every core (R375). -/
def State.rangeEntries (s : State) (lo n : Nat) : List (Nat × Word) :=
  s.cores.flatMap fun k => (k.2.leat.filter fun e =>
    e.relm.isNone && e.parked.isNone && decide (lo ≤ keyless (e.line * 128)) && decide (keyless (e.line * 128) < lo + n)).map fun e => (k.1, e.seq)

/-- Some of the entries have not drained yet. -/
def State.draining (s : State) (es : List (Nat × Word)) : Bool :=
  es.any fun e => (s.coreAt e.1).leat.any fun x => x.seq == e.2 && x.parked.isNone

/-- The revocation of every ticket of a region begins (R375, R444). -/
def State.recallAll (s : State) (region : Nat) : State :=
  let s := s.staleTickets (region * 2 ^ 16) none
  s.recallTicket (region * 2 ^ 16)

/-- The lines of a range leave the slices of both dies; the horizon of the leased ones, in slices and cores (R283, R375). -/
def State.recallRange (s : State) (lo n : Nat) : State × Nat :=
  let inside (l : Nat) : Bool := decide (lo ≤ keyless (l * 128)) && decide (keyless (l * 128) < lo + n)
  let held := s.slices.flatMap fun k => (k.2.lines.filter fun l => inside l.line).map fun l => (l.line, if l.treat = 1 then l.hz else 0)
  let copies := s.cores.flatMap fun c => (c.2.l1.filter fun l => inside l.line && l.treat == 1).map (·.leaseEnd)
  let hz := ((held.map (·.2)) ++ copies).foldl Nat.max 0
  (held.foldl (fun s l => (s.evictLine 0 l.1).evictLine 1 l.1) s, hz)

/-- The lines of a page that changes leave both dies' slices and the memory-side cache; the horizon as in recallRange (R375 step 4). -/
def State.recallPage (s : State) (lo n : Nat) : State × Nat :=
  let x := s.recallRange lo n
  ({ x.1 with memCache := x.1.memCache.filter fun m => !(decide (lo ≤ keyless (m.line * 128)) && decide (keyless (m.line * 128) < lo + n)) }, x.2)

/-- The 64 KiB regions of a range. -/
def regionsOf (lo n : Nat) : List Nat := (List.range ((n + 65535) / 65536)).map (lo / 2 ^ 16 + ·)

/-- The tickets of a range whose revocation is under way. -/
def State.revoking (s : State) (lo n : Nat) : Bool :=
  s.tickets.any fun t => !t.revoking.isEmpty && decide (lo / 2 ^ 16 ≤ t.region) && decide (t.region < (lo + n + 65535) / 2 ^ 16)

/-- A command completes: STATUS, then the counter, then what waits for the page (R373). -/
def State.finishCmd (s : State) (r : CmdRun) (status : Nat) : State :=
  let c := r.cmd
  let s := { s with cmds := s.cmds.filter (·.cmd.id != c.id) }
  let s := if c.recAddr = 0 then s else s.devWrite32 (c.recAddr + 4) (s.dev32 (c.recAddr + 4) / 16 * 16 + status)
  let s := if c.cv then s.addCounter c.caddr.toNat c.cinc.toNat else s
  let s := s.cmds.foldl (fun s d => s.tickCmd d.cmd.id) s
  if s.kvq.isEmpty then s else s.at s.now .kvAllocatorRequest

/-- A command's effect is complete in every home at an open latency, with a status. -/
def State.endCmd (s : State) (id status : Nat) : State := (s.modCmd id fun r => { r with step := 9, status := status }).later (.homeCommandComplete id)

/-- Step 1 to 3 of a page change: MOV, and the drains asked for (R375). -/
def State.beginChange (s : State) (c : HomeCmd) : State :=
  let s := { s with pages := replaceFirst (fun p => p.va == cmdVa c && p.size == c.size.toNat) (fun p => { p with mov := some false }) s.pages }
  let s := s.urgeRange (cmdVa c) (cmdBytes c)
  let s := (regionsOf (cmdVa c) (cmdBytes c)).foldl (fun s k => s.recallAll k) (if s.tickets.isEmpty then s else s)
  (s.modCmd c.id fun r => { r with step := 1, waits := s.rangeEntries (cmdVa c) (cmdBytes c) }).later (.homeCommandComplete c.id)

/-- MAP: whether the tables have room is free; a FRAME within a home's memory is taken as it is (log entry 100). -/
def State.beginMap (s : State) (c : HomeCmd) : State :=
  if s.pages.any (·.meets c) then s.endCmd c.id 3
  else if Config.deviceChooses s.fresh then s.bump.endCmd c.id 4
  else s.bump.endCmd c.id 0

/-- The page of a MAP is installed, at its completion: no home serves it before (R459; log entry 125). -/
def State.installMap (s : State) (c : HomeCmd) : State :=
  let p : Page := { va := cmdVa c, size := c.size.toNat, attr := 0, frame := c.frame.toNat, cHomes := 0, dHomes := 0, mov := none }
  let s := { s with pages := s.pages ++ [p.withAttr c.attr], refuseMarks := cutMarks (cmdVa c) (cmdBytes c) s.refuseMarks }
  if c.attr.getLsbD 0 then s.resumeRange (cmdVa c) (cmdBytes c) else s

/-- A command that acts on a mapped page, or fails with NOMAP. -/
def State.onPage (s : State) (c : HomeCmd) (f : Page → State) : State :=
  match s.cmdPage c with
  | none => s.endCmd c.id 2
  | some p => f p

/-- SETATTR: a tier in which the page's FRAME lies beyond a home's memory is a rejected field (R3; log entry 100). -/
def State.beginSetattr (s : State) (c : HomeCmd) : State :=
  s.onPage c fun p =>
    if badFrame (fld c.attr.toNat 9 8) p.size p.frame then s.endCmd c.id 1
    else if needsChange p.attr.toNat c.attr.toNat then s.beginChange c
    else
      State.endCmd { s with pages := replaceFirst (fun q => q.va == p.va) (fun q => q.withAttr c.attr) s.pages } c.id 0

/-- QUERY. -/
def State.beginQuery (s : State) (c : HomeCmd) : State :=
  s.onPage c fun p =>
    let bit (m : BitVec 64) (k : Nat) : Nat := if m.getLsbD p.lowHome then 2 ^ k else 0
    let a := p.attr.toNat + bit p.dHomes 3 + bit p.cHomes 4 + (if p.mov.isSome then 2 ^ 10 else 0)
    (s.devWrite (c.recAddr + 16) (toBytes 8 a ++ toBytes 8 p.frame)).endCmd c.id 0

/-- REFUSE. -/
def State.beginRefuse (s : State) (c : HomeCmd) : State :=
  if s.pages.any (·.meets c) then s.endCmd c.id 3
  else
    (State.resumeRange { s with refuseMarks := s.refuseMarks ++ [(cmdVa c, cmdBytes c)] } (cmdVa c) (cmdBytes c)).endCmd c.id 0

/-- GRAT: the entry is installed in every copy (R367). -/
def State.beginGrat (s : State) (c : HomeCmd) : State :=
  State.endCmd { s with graticule := Kv.put s.graticule (c.va.toNat % 2 ^ 12) c.attr } c.id 0

/-- A command begins (R374). -/
def State.beginCmd (s : State) (c : HomeCmd) : State :=
  if badCmd c then s.endCmd c.id 1
  else match c.op.toNat with
    | 1 => s.beginMap c
    | 2 => s.onPage c fun _ => s.beginChange c
    | 3 => s.beginSetattr c
    | 4 => s.onPage c fun _ => s.beginChange c
    | 5 => (s.resumeRange (cmdVa c) (cmdBytes c)).endCmd c.id 0
    | 6 => s.beginGrat c
    | 7 => s.beginQuery c
    | 8 => s.beginRefuse c
    | _ => s.onPage c fun _ => s.beginChange c

/-- A flip of a page's bias counts in HFLIPS (R385, R392). -/
def State.countFlip (s : State) (flip : Bool) : State :=
  if flip then { s with pr := { s.pr with hflips := if s.pr.hflips = 0xFFFFFFFF then s.pr.hflips else s.pr.hflips + 1 } } else s

/-- Step 5: the change itself (R375). -/
def State.applyChange (s : State) (c : HomeCmd) : State :=
  let here (p : Page) : Bool := p.va == cmdVa c && p.size == c.size.toNat
  match s.cmdPage c with
  | none => s
  | some p =>
    match c.op.toNat with
    | 2 => { s with pages := s.pages.filter fun p => !here p }
    | 3 => ({ s with pages := replaceFirst here (fun p => p.withAttr c.attr) s.pages }).countFlip (p.hostBias != c.attr.getLsbD 7)
    | 9 => ({ s with pages := replaceFirst here (fun p => { p with attr := p.attr ||| 0x80#64 }) s.pages }).countFlip (!p.hostBias)
    | 10 =>
      { s with pages := replaceFirst here (fun p => { p with attr := (p.attr &&& ~~~ 0xFFFFFF0000#64) ||| (c.attr &&& 0xFFFFFF0000#64) }) s.pages }
    | _ =>
      let tier := fld c.attr.toNat 9 8
      let q := { p with attr := (p.attr &&& ~~~ 0x300#64) ||| addr64 (tier * 2 ^ 8), frame := c.frame.toNat }
      let s := s.copyPage p q
      { s with pages := replaceFirst here (fun _ => q) s.pages }

/-- HOME_COMMAND_COMPLETE (R372, R373, R375): a command begins when it may, a page change goes through its steps, and STATUS and counter
are written at completion. -/
def execHomeCommandComplete (id : Nat) (s : State) : Result :=
  match s.cmds.find? (·.cmd.id == id) with
  | none => .next s
  | some r =>
    let c := r.cmd
    let lo := cmdVa c
    let n := cmdBytes c
    if !r.begun then
      let before := s.cmds.takeWhile (·.cmd.id != id)
      if !mayBegin before c then .next s
      else
        let s := (s.modCmd id fun r => { r with begun := true }).beginCmd c
        .next ((s.cmds.filter fun d => !d.begun).foldl (fun s d => s.tickCmd d.cmd.id) s)
    else match r.step with
      | 1 =>
        if s.draining r.waits || s.revoking lo n then .next (s.later (.homeCommandComplete id))
        else
          let x := s.recallPage lo n
          .next ((x.1.modCmd id fun r => { r with step := 2, hz := x.2 }).tickCmd id)
      | 2 =>
        if s.now < r.hz then .next (s.at r.hz (.homeCommandComplete id))
        else
          let s := { s with pages := replaceFirst (fun p => p.va == lo && p.size == c.size.toNat) (fun p => { p with mov := some true }) s.pages }
          .next ((((s.recallPage lo n).1.applyChange c).modCmd id fun r => { r with step := 3 }).later (.homeCommandComplete id))
      | 3 =>
        let s := { s with pages := replaceFirst (fun p => p.va == lo && p.size == c.size.toNat) (fun p => { p with mov := none }) s.pages }
        .next ((s.resumeRange lo n).finishCmd r 0)
      | 9 => .next (State.finishCmd (if c.op = 1 ∧ r.status = 0 then s.installMap c else s) r r.status)
      | _ => .next s

/-- A command record (R373); one with a reserved bit set is read as op 0. -/
def State.readCmd (s : State) (a : Nat) : HomeCmd :=
  let w (k : Nat) : Nat := s.dev32 (a + 4 * k)
  let pair (k : Nat) : Addr := addr64 (w k + w (k + 1) * 2 ^ 32)
  let bad := fld (w 0) 31 7 != 0 || fld (w 1) 31 4 != 0 || w 8 != 0 || w 9 != 0 || w 10 != 0 || w 11 != 0
  ⟨s.fresh, if bad then 0 else BitVec.ofNat 4 (w 0), BitVec.ofNat 2 (w 0 / 16), (w 0).testBit 6, pair 2, pair 4, pair 6, pair 12, pair 14, a⟩

/-- Read the records between the head and a tail. -/
def State.readCmds (base size head : Nat) : Nat → State → State
  | 0, s => s
  | n + 1, s =>
    let c := s.readCmd (base + 128 + 64 * (head % size))
    State.readCmds base size (head + 1) n ((s.bump.submit c).devWrite32 (base + 4) ((head + 1) % 2 ^ 32))

/-- HOME_BELL (R372): the homes read the records between head and tail; when the bell rings is open (log entry 20). -/
def execHomeBell (s : State) : Result :=
  if s.pr.hcmdq = 0 then .next s
  else
    let base := ringBase s.pr.hcmdq
    let tail := s.dev32 base
    let head := s.dev32 (base + 4)
    let n := Nat.min (ringSize s.pr.hcmdq) ((tail + 2 ^ 32 - head) % 2 ^ 32)
    .next (State.readCmds base (ringSize s.pr.hcmdq) head n s)

/-- MAP (R374). -/
def execMap (c : HomeCmd) (s : State) : Result := .next (s.bump.submit { c with id := s.fresh, op := 1 })
/-- UNMAP. -/
def execUnmap (c : HomeCmd) (s : State) : Result := .next (s.bump.submit { c with id := s.fresh, op := 2 })
/-- SETATTR. -/
def execSetattr (c : HomeCmd) (s : State) : Result := .next (s.bump.submit { c with id := s.fresh, op := 3 })
/-- MOVE. -/
def execMove (c : HomeCmd) (s : State) : Result := .next (s.bump.submit { c with id := s.fresh, op := 4 })
/-- RESUME. -/
def execResume (c : HomeCmd) (s : State) : Result := .next (s.bump.submit { c with id := s.fresh, op := 5 })
/-- GRAT. -/
def execGrat (c : HomeCmd) (s : State) : Result := .next (s.bump.submit { c with id := s.fresh, op := 6 })
/-- QUERY. -/
def execQuery (c : HomeCmd) (s : State) : Result := .next (s.bump.submit { c with id := s.fresh, op := 7 })
/-- REFUSE. -/
def execRefuse (c : HomeCmd) (s : State) : Result := .next (s.bump.submit { c with id := s.fresh, op := 8 })

/-! ### Fault records held for room (R377) -/

/-- Held records go into the ring while it has room. -/
def State.flushFaultsFrom (s : State) : List (List Word) → State
  | [] => { s with faultHeld := [] }
  | r :: rs =>
    let base := ringBase s.pr.hfltq
    let a := base + 128 + 32 * (s.dev32 base % ringSize s.pr.hfltq)
    match s.appendRing s.pr.hfltq 32 (wordBytes (r.map (·.toNat))) with
    | none => { s with faultHeld := r :: rs }
    | some t =>
      let w (k : Nat) : Nat := (r.getD k 0).toNat
      let va := keyless (w 0 + w 1 * 2 ^ 32)
      let hit (e : ParkEntry) : Bool :=
        e.recAddr == 1 && fld (w 2) 3 0 == 1 && e.home == fld (w 2) 13 8 && decide (e.va ≤ va) && decide (va < e.va + e.size)
      State.flushFaultsFrom { t with parks := replaceFirst hit (fun e => { e with recAddr := a }) t.parks } rs

/-- FAULT_RING_ROOM (R377): the records held are written and the fault bell rings. -/
def execFaultRingRoom (s : State) : Result :=
  if s.pr.hfltq = 0 ∨ s.faultHeld = [] then .next s
  else
    let t := s.flushFaultsFrom s.faultHeld
    let last := t.pr.lastFaultRing
    let t := if t.pr.hsup.getLsbD 14 && decide (t.faultHeld.length < s.faultHeld.length) then t.supRing (fld t.pr.hsup.toNat 7 0) last else t
    .next { t with pr := { t.pr with lastFaultRing := ringClock t.now last } }

/-! ### Requests of the package's cores (R371, R376 to R380, R438, R448) -/

/-- What a request is for is still there: a rollback or a trap may have withdrawn it (R379, R397). -/
def State.wanted (s : State) (core : Nat) : Parked → Bool
  | .pend slot id => slot == prefetchSlot || (s.atomAt core id).elim false (fun a => !a.told) || (s.pendAt core slot id).isSome
  | .leat q => (s.coreAt core).leat.any (·.seq == q)
  | .xfer w u => (s.coreAt core).works.any fun k => k.id == w && k.units.any (·.id == u)
  | .record t => (s.coreAt core).recs.any fun r => r.ticket.toNat == t && r.inc == some 0

/-- The operation is a KVX; whether it stalls (R397). -/
def State.kvxOf (s : State) (core : Nat) : Parked → Option Bool
  | .pend slot id => (s.pendAt core slot id).bind fun d => match d.body with | .kvx _ stall _ _ => some stall | _ => none
  | _ => none

/-- A probe of a KVX is answered: its granule's lanes are accepted, or fault with a code (R396). -/
def State.kvProbed (s : State) (core slot id va code : Nat) : State :=
  s.modLanes core slot id fun l =>
    if l.done || l.addr / 4096 != va / 4096 then l
    else if code = 0 ∨ code = 5 then { l with got := some [] } else { l with refused := some code }

/-- The charge of a request at its home (R388): an atomic's elements, one of each lane that names the line, count 4 × 32 each (log entry 104);
an engine's unit is charged as it moves. -/
def reqCharge (s : State) (core : Nat) (what : Parked) (r : HomeReq) : Nat :=
  match what with
  | .leat q => Nat.max 32 (((s.coreAt core).leat.find? (·.seq == q)).elim 32 fun e => e.bytes.length)
  | .pend _ id =>
    if r.access = 2 then 128 * (((s.atomAt core id).elim [] (·.lanes)).filter fun l => lineOf l.addr == lineOf r.va).length
    else if r.access = 5 ∨ s.treatOf r.va = 2 then 32 else 128
  | .xfer _ _ => 0
  | .record _ => 128

/-- A CTRW of another package's counter takes its value (R200, R447). -/
def State.ctrwValue (s : State) (core slot id v va : Nat) (lead : Nat) : State :=
  match s.gangAt core slot with
  | none => s
  | some g =>
    match (g.quad lead).park with
    | .ctrw _ value _ stay =>
      if g.trap.isSome then s.landPend core slot id []
      else if v < value then s.portHome core 2 (.pend slot id) (readReq core slot id 5 va)
      else
        ((s.landPend core slot id []).modGang core slot fun g => g.mapParty lead fun d => { d with park := .ctrw va value (some true) stay }).at
          s.now (.ctrwWake core slot lead)
    | _ => s.landPend core slot id []

/-- A unit whose request a home has accepted looks again at what it still needs, once no answer is out (R438). -/
def State.unitGoesOn (s : State) (core w u va : Nat) : State :=
  let what : Parked := .xfer w u
  let s := s.modCore core fun c => { c with works := replaceFirst (·.id == w) (fun k =>
    { k with units := replaceFirst (·.id == u) (fun x => { x with acked := x.acked ++ [va] }) k.units }) c.works }
  if (s.fabric.any fun m => m.core == core && m.what == what) || (s.coreAt core).missBuf.any (fun m => reqFor m.req what) then s
  else (s.setUnit core w u .sent).at s.now (.transferUnitLanding core w u)

/-- An accepted request goes on: a fill, an atomic, a counter, a probe, an entry, a unit or a record's increment (R371). -/
def homeAccepted (core : Nat) (what : Parked) (r : HomeReq) (s : State) : Result :=
  let s := s.routed core what
  match what with
  | .pend slot id =>
    if (s.kvxOf core what).isSome then .next (s.kvProbed core slot id r.va 0)
    else if r.access = 2 then execSliceAtomic core slot id true (s.markPage r.va true)
    else if r.access = 5 then
      let s := s.markPage r.va false
      let v := s.counterValue r.va
      match s.pendAt core slot id with
      | some ⟨_, lead, _, _, .counter _ test d⟩ =>
        if (((s.gangAt core slot).elim Park.none fun g => (g.quad lead).park) matches .ctrw _ _ _ _) && !s.homedHere r.va then
          .next (s.bump.ctrwValue core slot id v r.va lead)
        else .next (s.bump.knownResult core slot id (counterWrites v test d))
      | _ => .next s
    else execSliceFill core slot id (lineOf r.va) true (s.markPage r.va false)
  | .leat q => execSliceMissMerge core q (s.markPage r.va true)
  | .xfer w u => .next (s.unitGoesOn core w u r.va)
  | .record t => .next (s.recordCounted core t)

/-- A refused request (R376 to R380): it is recorded where its home is, or where no home has it; a prefetch is dropped, a KVX in precise mode
faults, else a replayable refusal parks; a final one reaches the gang. -/
def State.homeRefused (s : State) (core : Nat) (what : Parked) (r : HomeReq) (code : Nat) (abroad : Bool) : State :=
  let kvx := s.kvxOf core what
  let s := if abroad then s else s.recordRefusal r code (.core core)
  if what == .pend prefetchSlot 0 then s
  else if code ≤ 2 then
    if kvx = some false then (match what with | .pend slot id => s.kvProbed core slot id r.va code | _ => s)
    else s.parkReq core what r code 65536 false
  else s.finalRefusal core what r.access.toNat r.va code abroad

/-- TIERMOVE with reroute: the request goes again after 64 clocks, and is refused PROTECT the 16th time; to a KVX in precise mode it is a fault
(R367, R396). -/
def State.rerouteReq (s : State) (core : Nat) (what : Parked) (r : HomeReq) (abroad : Bool) : State :=
  if what == .pend prefetchSlot 0 then s
  else if s.kvxOf core what = some false then (match what with | .pend slot id => s.kvProbed core slot id r.va 2 | _ => s)
  else if 16 ≤ r.reroutes + 1 then (s.recordRefusal r 4 (.core core)).finalRefusal core what r.access.toNat r.va 4 abroad
  else s.parkReq core what { r with reroutes := r.reroutes + 1 } 2 64 true

/-- The cores that wait on a region of another package (R448): at most 1,024 regions are told apart. -/
def State.remotePark (s : State) (core region : Nat) : State :=
  let old := (Kv.get? s.remoteParks region).getD []
  let now' := if old = [] ∧ 1024 ≤ s.remoteParks.length then s.cores.map (·.1) else core :: old.filter (· != core)
  { s with remoteParks := Kv.put s.remoteParks region now' }

/-- A core with nothing parked in a region of another package any more is not recorded for it (R448, R457). -/
def State.remoteFree (s : State) (core region : Nat) : State :=
  if (s.coreAt core).missBuf.any fun m => regionOf m.req.va == region then s
  else
    let cut := s.remoteParks.map fun e => if e.1 = region then (e.1, e.2.filter (· != core)) else e
    { s with remoteParks := cut.filter fun e => !e.2.isEmpty }

/-- A ticket comes with the answer of another package, or not (R442 to R444; log entry 1): a WRITE for a write, raising an own READ, else a READ.
With the table full the least recently used goes back, and this answer brings none. -/
def State.maybeTicket (s : State) (va : Nat) (write : Bool) : State :=
  let take := Config.deviceChooses s.fresh
  let treat := if Config.deviceChooses (s.fresh + 1) then 1 else 0
  let s := { s with fresh := s.fresh + 2 }
  match s.heldTickets.find? fun t => t.region == regionOf va with
  | some t =>
    { s with heldTickets := replaceFirst (fun x => x.region == t.region) (fun x => { x with used := s.now, write := x.write || (write && take && x.leaving.isNone) }) s.heldTickets }
  | none =>
    if !take then s
    else if s.heldTickets.length < 16384 then { s with heldTickets := s.heldTickets ++ [(⟨regionOf va, write, treat, s.now, none⟩ : HeldTicket)] }
    else s.at s.now .ticketEviction

/-- A write has been applied by another package's home, and not under a WRITE ticket: an own READ ticket of the region is revoked, and the CLEAN comes
with the answer or later (R441, R444; log entry 1). -/
def State.appliedAbroad (s : State) (core : Nat) (what : Parked) (r : HomeReq) : State :=
  let s := match s.heldFor r.va with
    | some t => if t.write then s else s.later (.ticketHandover s.pr.devnum.toNat t.region)
    | none => s
  if s.holdsWrite r.va then s
  else match what with
    | .leat q => s.later (.fabricAckArrival core q true)
    | _ =>
      if Config.deviceChooses s.fresh then s.bump
      else
        let c := s.coreAt core
        let by' : Option (Nat × Nat × List Nat) := match what with
          | .pend _ id => (s.atomAt core id).map fun (a : AtomOp) => (a.slot, a.blk, (List.range a.w).map (r.va + ·))
          | .xfer w _ => (c.works.find? fun (k : Work) => k.id == w).map fun (k : Work) => (k.slot, k.blk, (List.range 128).map fun j => r.va / 128 * 128 + j)
          | .record t => (c.recs.find? fun (b : BulkRec) => b.ticket.toNat == t).map fun (b : BulkRec) => (b.slot, b.blk, (List.range 8).map (r.va + ·))
          | .leat _ => none
        let d := by'.getD (64, 0, [])
        (s.bump.cleanLater ⟨core, what, d.1, d.2.1, d.2.2, false⟩).later (.homeRequest { r with asker := .clean core what })

/-- The answer code of another package: 0, a refusal (R376), or 7 for TIERMOVE with reroute (R367). -/
def answerCode (b : Byte) : Nat := match b.toNat % 16 with | 4 => 1 | 5 => 2 | 6 => 4 | 7 => 5 | 8 => 7 | _ => 0

/-- A message's answer has come: it is outstanding no more, and its device can be reached. -/
def State.answered (s : State) (m : FabMsg) : State := { s with fabric := s.fabric.filter (· != m), unreached := s.unreached.filter (· != m.dev) }

/-- The answer of another package's home arrives (R438, R448): which one is free (log entry 1). What it parks may be resumed by that home. -/
def answerAbroad (core : Nat) (what : Parked) (r : HomeReq) (m : FabMsg) (s : State) : Result :=
  let s := s.answered m
  let code := answerCode (Config.freeByte s.fresh)
  let code := if code = 5 ∧ (s.kvxOf core what).isSome = true then 0 else code
  let s := s.bump
  if code = 7 then .next (s.rerouteReq core what r true)
  else if code ≠ 0 then
    let parks := decide (code ≤ 2) && s.kvxOf core what != some false && what != .pend prefetchSlot 0
    let s := if parks then (s.remotePark core (regionOf r.va)).later (.resumeMessage interface (regionOf r.va * 2 ^ 16) (2 ^ 16)) else s
    .next (s.homeRefused core what r code true)
  else
    let s := s.remoteFree core (regionOf r.va)
    let probe := (s.kvxOf core what).isSome || r.access == 5
    let s := if probe then s else s.maybeTicket r.va (r.write || r.access == 2)
    let s := if r.write || r.access == 2 then s.appliedAbroad core what r else s
    homeAccepted core what r s

/-- A message for another package leaves by a port, and whether its answer returns is free; with no port it tries again, until its time is over
(R438, R452). -/
def State.departs (s : State) (m : FabMsg) (r : HomeReq) : State :=
  match s.flowPort m.dev m.va with
  | none => s.later (.homeRequest r)
  | some p =>
    let answers := Config.deviceChooses s.fresh
    let s := (s.leavesBy m p).bump
    if answers then s.later (.homeRequest r) else s

/-- A request of a core at its home, or on its way to that of another package and back. -/
def coreRequest (core : Nat) (what : Parked) (r : HomeReq) (s : State) : Result :=
  if !s.wanted core what then .next (s.turnOver (regionOf r.va) r)
  else if r.reroutes = 17 then .next (s.homeRefused core what r 4 false)
  else match s.fabric.find? fun m => m.core == core && m.what == what && m.va == r.va with
    | some m =>
      if m.port.isNone then .next (s.departs m r)
      else if s.flowBefore m then .next (s.at (s.now + 1) (.homeRequest r))
      else answerAbroad core what r m s
    | none =>
      if !s.homedHere r.va then .next (s.rerouteReq core what r false)
      else
        match s.homeCheck r.access.toNat r.va r.write r.wide none false with
        | 0 => s.inTurn r none (homeAccepted core what r)
        | code =>
          let s := s.turnOver (regionOf r.va) r
          if code = 5 ∧ (s.kvxOf core what).isSome = true then homeAccepted core what r s else .next (s.homeRefused core what r code false)

/-! ### Requests of other packages and of the host (R383 to R385, R440, R441, R444, R448) -/

/-- A region of the directory is in use. -/
def Ticket.held (t : Ticket) : Bool := t.writer.isSome || !t.readers.isEmpty

/-- Regions in use in the directory of a home. -/
def State.dirUsed (s : State) (home : Nat) : Nat := (s.tickets.filter fun t => homeOf (t.region * 2 ^ 16) == home && t.held).length

/-- Devices other than one that have held or asked for a ticket within the last TKQUIET clocks. -/
def Ticket.busy (t : Ticket) (device now quiet : Nat) : Bool :=
  t.writer.elim false (· != device) || t.readers.any (· != device) || t.asked.any fun a => a.1 != device && decide (now < a.2 + quiet)

/-- Whether a request of another device has a ticket decided before it is served (R444). -/
def State.asksTicket (s : State) (device : Nat) (write : Bool) (va : Nat) : Bool :=
  let cached := (s.pageOf va).elim false fun p => p.treat != 2
  match s.tickets.find? (·.region == regionOf va) with
  | none => cached
  | some t =>
    cached && (if write then t.writer != some device && !t.busy device s.now (s.pr.tkquiet.toNat * 256)
      else t.writer != some device && !t.readers.contains device && decide (t.readers.length < 15))
      && (t.held || decide (s.dirUsed (homeOf (regionOf va * 2 ^ 16)) < 4096))

/-- A write of another package is applied at the home: APPLIED goes back, and CLEAN with it or, where it makes READ tickets stale, once they are
revoked (R441, R444). -/
def State.applyRemote (s : State) (device : Nat) (r : HomeReq) (bytes : List (Nat × Byte)) : State :=
  let line := lineOf r.va
  let s := s.flushLine line
  let s := if r.wide then s.clearPoison r.va else s
  let s := (bytes.foldl (fun s b => s.setHomeByte (line * 128 + b.1 % 128) b.2) s).counterChanged line
  let s := s.staleTickets r.va none
  let out := (s.tickets.find? (·.region == regionOf r.va)).elim false fun t => !t.revoking.isEmpty
  let s := s.tellDevice device r.va (.applied (!out))
  if out then
    { s with tickets := replaceFirst (·.region == regionOf r.va) (fun t => { t with owed := t.owed ++ [(device, r.va)] }) s.tickets }
  else s

/-- An accepted request of another package is served (R440, R441, R443, R444, R449): a write under the requester's WRITE ticket is its own to apply. -/
def State.serveRemote (s : State) (w : Tenant) (op : Option RemoteOp) (r : HomeReq) : State :=
  let size := op.elim 0 fun o => atomWidth o.aop o.ty
  let holder := (s.tickets.find? (·.region == regionOf r.va)).elim false fun t => t.writer == some w.device && t.revoking.isEmpty
  if holder && (r.write || op.isSome) then s.tellDevice w.device r.va (.ticket true)
  else match op with
    | some o =>
      let s := (s.markPage r.va true).flushLine (lineOf r.va)
      let old := lineValue (s.homeLine (lineOf r.va)) r.va size
      let new := (atomNew o.aop o.ty old o.op o.swap).elim [] fun v => (toBytes size v).zipIdx.map fun b => (r.va % 128 + b.2, b.1)
      (s.tellDevice w.device r.va (.value old)).applyRemote w.device r new
    | none =>
      if r.write then (s.markPage r.va true).applyRemote w.device r r.data
      else
        let s := s.markPage r.va false
        let data := if r.access = 5 then s.devRead r.va 8 else s.devRead (lineOf r.va * 128) 128
        let s := s.tellDevice w.device r.va (.data data)
        if (s.tickets.find? (·.region == regionOf r.va)).elim false fun t => t.readers.contains w.device then s.tellDevice w.device r.va (.ticket false) else s

/-- A request of another package: checked with the tag it carries; a ticket that it asks for is decided before it is served, in the order of arrival
(R371, R440, R444, R448). -/
def remoteRequest (w : Tenant) (op : Option RemoteOp) (r : HomeReq) (s : State) : Result :=
  let k := regionOf r.va
  if !s.homedHere r.va then .next (s.tellDevice w.device r.va (.refused 2 true))
  else match s.homeCheck r.access.toNat r.va r.write r.wide (some w.tag) false with
  | 0 =>
      let write := r.write || op.isSome
      let first := (s.tickets.find? (·.region == k)).elim true fun t => t.queue.head?.elim true (· == r)
      if first && r.access != 5 && s.asksTicket w.device write r.va then
        let s : State := if s.tickets.any (·.region == k) then s else { s with tickets := s.tickets ++ [{ region := k }] }
        .next ((s.queueAt k r).at s.now (.ticketRequest w.device k write))
      else s.inTurn r (some w.device) fun s => .next (s.serveRemote w op r)
    | code => .next (((s.turnOver k r).recordRefusal r code (.remote w)).tellDevice w.device r.va (.refused code false))

/-- The flip of a device-biased page to host bias, once (R385). -/
def State.flipBias (s : State) (p : Page) : State :=
  let c : HomeCmd := ⟨s.fresh, 9, BitVec.ofNat 2 p.size, false, addr64 p.va, 0, 0, 0, 0, 0⟩
  if s.cmds.any fun d => ownCmd d.cmd && d.cmd.op == 9 && cmdsMeet d.cmd c then s else s.bump.submit c

/-- A host access that a home holds (R383). -/
def hostRequest (id : Nat) (r : HomeReq) (s : State) : Result :=
  match s.hostHeld.find? (·.id == id) with
  | none => .next (s.turnOver (regionOf r.va) r)
  | some h =>
    let va := hostVa s h.offset
    let drop (s : State) : State := { s with hostHeld := s.hostHeld.filter (·.id != id) }
    let wide := h.data.length == 128 && va % 128 == 0
    let access := if h.write then 4 else 0
    match s.homeCheck access va h.write wide none true with
    | 0 =>
      match s.pageOf va with
      | none => .next s
      | some p =>
        if p.tier != 2 && !p.hostBias then .next (s.flipBias p)
        else s.inTurn r none fun s =>
          let s := s.markPage va h.write
          if h.write then
            let s := if wide then s.clearPoison va else s
            .next (drop ((s.devWrite va h.data).staleTickets va none))
          else .next (drop ((s.evictLine 0 (lineOf va)).evictLine 1 (lineOf va)))
    | code =>
      let s := (s.turnOver (regionOf r.va) r).recordRefusal { r with va := va, access := BitVec.ofNat 4 access } code .host
      .next (if code ≤ 2 then s else drop s)

/-- The function and the charge of a request at a home of this package (R388); a request of another package is of the function that its tenant tag
names (R440), one of the host of the physical function (log entry 87). None where nothing is asked of a home here. -/
def State.homeJob (s : State) (r : HomeReq) : Option (Nat × Nat) :=
  if !s.homedHere r.va then none
  else match r.asker with
    | .core core what =>
      if !s.wanted core what || r.reroutes == 17 || (s.fabric.any fun m => m.core == core && m.what == what && m.va == r.va) then none
      else match reqCharge s core what r with | 0 => none | n => some ((s.coreAt core).function, n)
    | .remote w op =>
      let size := op.elim 0 fun o => atomWidth o.aop o.ty
      some ((Kv.get? s.pr.fabFunction w.tag).getD 0,
        if op.isSome then 4 * Nat.max 32 size else if r.write then Nat.max 32 r.data.length else if r.access = 5 then 32 else 128)
    | .host id => (s.hostHeld.find? (·.id == id)).map fun h => (0, if h.write then Nat.max 32 h.data.length else 128)
    | .port _ _ => none
    | .clean _ _ => none

/-- A request that its home has served (R371); one of a core that leaves by its port (R268), or the CLEAN of its write (R441, R446). -/
def homeActs (r : HomeReq) (s : State) : Result :=
  match r.asker with
  | .core core what => coreRequest core what r s
  | .port core what => .next (if s.wanted core what then s.sendHome core what { r with asker := .core core what } else s)
  | .clean core what => .next (s.cleaned fun d => d.core == core && d.what == what && !d.own)
  | .remote w op => remoteRequest w op r s
  | .host id => hostRequest id r s

/-- HOME_REQUEST (R371, R388): a request at its home, which serves it at once or in its turn. -/
def execHomeRequest (r : HomeReq) (s : State) : Result :=
  match s.homeJob r with
  | none => homeActs r s
  | some (f, n) =>
    match s.atHomes (.homeRequest r) f [(homeOf r.va, n)] with
    | (s, true) => homeActs r s
    | (s, false) => .next s

/-- HOST_MEM_ACCESS (R383, R427): an access within the HDM range, over a link that is ready. One that the graticule gives to no package is refused
PROTECT; one that another package homes changes nothing here (log entry 62). -/
def execHostMemAccess (offset : Nat) (write : Bool) (data : List Byte) (id : Nat) (s : State) : Result :=
  let va := hostVa s offset
  let r : HomeReq := ⟨if write then 4 else 0, va, write, false, .host id, [], 0⟩
  if !s.hostReady || s.hostHeld.any (·.id == id) then .next s
  else match s.deviceOf va with
    | none => .next (s.recordRefusal r 4 .host)
    | some _ =>
      if !s.homedHere va then .next s
      else
        let s : State := { s with hostHeld := s.hostHeld ++ [(⟨id, offset, write, data, s.now⟩ : HostHeld)] }
        .next ((s.at (s.now + 2 ^ 20) (.hostHoldTimeout id)).at s.now (.homeRequest { r with access := 0 }))

/-- HOST_HOLD_TIMEOUT (R383): a held read returns poisoned data, a held write is dropped, with a fault record. -/
def execHostHoldTimeout (id : Nat) (s : State) : Result :=
  match s.hostHeld.find? (·.id == id) with
  | none => .next s
  | some h =>
    if s.now < h.since + 2 ^ 20 then .next s
    else
      let va := hostVa s h.offset
      let access := if h.write then 4 else 0
      let code := match s.homeCheck access va h.write false none true with | 0 => 2 | n => n
      let s := (s.faultRecord (faultWords s code access va .host)).1
      .next { s with hostHeld := s.hostHeld.filter (·.id != id) }

/-- HOST_SNOOP (R384): a host-tier line is recalled from both dies. -/
def execHostSnoop (line : Nat) (s : State) : Result :=
  if (s.pageOf (line * 128)).elim false fun p => p.tier == 2 || p.hostBias then .next ((s.evictLine 0 line).evictLine 1 line) else .next s

/-! ### Bandwidth shares (R386 to R389) -/

/-- The functions active in the period that ends: those that sent a request or have one waiting (R387). -/
def State.activeFunctions (s : State) : List Nat :=
  (s.share.active ++ s.homeJobs.map (·.function) ++ (s.cores.filter fun c => !c.2.port.queue.isEmpty || !c.2.missBuf.isEmpty).map fun c => c.2.function).dedup

/-- A function was over its share at some home: charged more than 640·s(f) bytes there, while another function with a share had a request waiting there
in at least 64 clocks of the period (R389). -/
def State.wasOver (s : State) (f : Nat) : Bool :=
  s.share.charged.any fun c => c.1 % 128 == f && decide (640 * (s.funcAt f).share < c.2)
    && s.share.waited.any fun w => w.1 / 128 == c.1 / 128 && w.1 % 128 != f && (s.funcAt (w.1 % 128)).share != 0 && decide (64 ≤ w.2)

/-- The share of a function in the next period (R331). -/
def Func.nextShare (x : Func) : Nat := x.shareNext.getD x.share

/-- e(f) / 1,024 of an active function, as numerator and denominator: `sum` is S_a and n the number of active functions (R387). -/
def effShare (sum n share : Nat) : Nat × Nat := if 0 < sum then (share, sum) else (1, Nat.max 1 n)

/-- SHARE_PERIOD_BOUNDARY (R331, R387): the shares written in the period take effect, with PORTFILL of every core for the next period; the rings that waited for room, and the ring limits of the
rights entries, begin their period. -/
def execSharePeriodBoundary (s : State) : Result :=
  let act := s.activeFunctions
  let sum := (act.map fun f => (s.funcAt f).nextShare).sum
  let part (f : Nat) (x : Func) : Nat × Nat := if act.contains f then effShare sum act.length x.nextShare else (0, 1)
  let next (f : Nat) : Func :=
    let x := s.funcAt f
    let e := part f x
    { x with share := x.nextShare, shareNext := none, eff := 1024 * e.1 / e.2, halved := s.wasOver f }
  let fill (f : Nat) (x : Func) : Nat :=
    let e := part f x
    let n := 4096 * e.1 / e.2
    Nat.max 64 (if x.halved then n / 2 else n)
  let extra := (act.filter fun f => !s.funcs.any (·.1 == f)).map fun f => (f, next f)
  let s : State := { s with funcs := extra.foldl (fun (m : List (Nat × Func)) p => Kv.put m p.1 p.2) (s.funcs.map fun p => (p.1, next p.1)) }
  let s : State := { s with cores := s.cores.map fun c => (c.1, { c.2 with port := { c.2.port with fill := fill c.2.function (s.funcAt c.2.function) } })
                            share := {}
                            rights := s.rights.map fun r => (r.1, { r.2 with used := 0 }) }
  match execFaultRingRoom s.flushWake with
  | .next t => .next t
  | r => r

end Sys2Proof.Machine
end

