-- ==== Sys2Proof/Machine/KV.lean ====
section
/-! DEFINITION. The key-value cache: pools, quotas, sequences and block tables, the KV sub-ops and the allocator (R391 to R402, R462). -/

namespace Sys2Proof.Machine

open Sys2Proof

/-! ### Pools, descriptors, tables (R391 to R394) -/

/-- log2 of the bytes of a block of a pool. -/
def Pool.bs (p : Pool) : Nat := 16 + fld p.reg.toNat 2 0

/-- The address of a block as a function sees it (R391). -/
def State.kvBlock (s : State) (f tier n : Nat) : Nat :=
  let p := s.poolAt tier
  let base := fld p.reg.toNat 63 16 * 2 ^ 16
  sheetOf base * 2 ^ 52 + fld (s.funcAt f).kvkey.toNat 7 0 * 2 ^ 44 + (offsetOf base + n * 2 ^ p.bs) % 2 ^ 44

/-- The descriptor of a sequence (R393): its address, table, LENGTH, TBLN and TIER. -/
structure KvDesc where
  at' : Nat
  table : Nat
  len : Nat
  tbln : Nat
  tier : Nat
  reserved : Bool
  deriving DecidableEq, Repr

def State.kvDesc (s : State) (f seq : Nat) : KvDesc :=
  let a := fld (s.funcAt f).stab.toNat 63 6 * 64 + 64 * seq
  let w3 := s.dev32 (a + 12)
  ⟨a, s.dev64 a, s.dev32 (a + 8), fld w3 15 0, fld w3 17 16, fld w3 31 26 != 0 || (List.range 12).any fun k => s.dev32 (a + 16 + 4 * k) != 0⟩

/-- A malformed descriptor (R393, R416), one with a nonzero reserved field among them (R7). -/
def KvDesc.bad (d : KvDesc) : Bool := d.table % 8 != 0 || d.tbln == 0 || d.tier == 3 || d.reserved

/-- A table entry: number, tier, V. -/
def State.kvEntry (s : State) (d : KvDesc) (i : Nat) : Nat := s.dev64 (d.table + 8 * i)
def kvValidEntry (e : Nat) : Bool := e.testBit 34
def kvTier (e : Nat) : Nat := fld e 33 32
def kvNumber (e : Nat) : Nat := fld e 31 0

/-- LENGTH, with FMODE and FUNC as the allocator writes them. -/
def State.kvLength (s : State) (f : Nat) (d : KvDesc) (n : Nat) : State :=
  let w3 := s.dev32 (d.at' + 12)
  let w3 := fld w3 17 0 + bnat ((s.funcAt f).kvmode.getLsbD 0) * 2 ^ 18 + f % 128 * 2 ^ 19 + fld w3 31 26 * 2 ^ 26
  (s.devWrite32 (d.at' + 8) n).devWrite32 (d.at' + 12) w3

/-- Blocks that n tokens fill or touch. -/
def kvBlocks (n : Nat) : Nat := (n + 63) / 64

/-- The reference count of a block (R394). -/
def State.kvRefs (s : State) (e : Nat) : Nat := (Kv.get? s.refs (kvTier e * 2 ^ 32 + kvNumber e)).getD 0
def State.kvSetRefs (s : State) (e n : Nat) : State := { s with refs := Kv.put s.refs (kvTier e * 2 ^ 32 + kvNumber e) (n % 2 ^ 16) }

def State.modFunc (s : State) (f : Nat) (g : Func → Func) : State := { s with funcs := Kv.put s.funcs f (g (s.funcAt f)) }

def Func.used (f : Func) (tier : Nat) : Nat := (Sp.get f.u tier).toNat
def Func.quota (f : Func) (tier : Nat) : Nat := (Sp.get f.q tier).toNat
def Func.limit (f : Func) (tier : Nat) : Nat := (Sp.get f.b tier).toNat

/-- A quota refusal: 1 LIMIT, 2 EMPTY, 0 none (R392). -/
def State.kvQuota (s : State) (f tier n : Nat) : Nat :=
  let x := s.funcAt f
  if x.limit tier < x.used tier + n then 1 else if (s.poolAt tier).free.toNat < n then 2 else 0

/-- The n blocks at the top of a pool's free stack, the first popped first. -/
def State.kvTop (s : State) (tier n : Nat) : List Nat :=
  let p := s.poolAt tier
  (List.range n).map fun k => s.dev32 (fld p.stk.toNat 63 2 * 4 + 4 * (p.free.toNat - 1 - k))

/-- The reclaim rings of a tier: every borrowing function, once a period (R392). -/
def State.kvReclaim (s : State) (tier : Nat) : State :=
  let period := s.now / 1024
  s.funcs.foldl (fun s e =>
    let f := s.funcAt e.1
    if f.used tier ≤ f.quota tier || f.reclaimed.any (·.2 == period) then s
    else
      let s := s.modFunc e.1 fun g => { g with reclaimed := [(0, period)] }
      if f.kvbell.getLsbD 20 then
        s.deviceRing (fld f.kvbell.toNat 7 0) (fld f.kvbell.toNat 13 8) (tier + Nat.min (f.used tier - f.quota tier) (2 ^ 30 - 1) * 4)
      else s) s

/-- Take n blocks of a pool for a function (R392). -/
def State.kvTake (s : State) (f tier n : Nat) : State :=
  let p := s.poolAt tier
  let left := p.free.toNat - n
  let s := writeKvpfree s tier left
  let s := s.modFunc f fun g => { g with u := Sp.set g.u tier (word (g.used tier + n)) }
  if p.low.toNat ≤ p.free.toNat && decide (left < p.low.toNat) then s.kvReclaim tier else s

/-- A block comes back to its pool (R392). -/
def State.kvPush (s : State) (f e : Nat) : State :=
  let tier := kvTier e
  let p := s.poolAt tier
  let s := s.devWrite32 (fld p.stk.toNat 63 2 * 4 + 4 * p.free.toNat) (kvNumber e)
  let s := writeKvpfree s tier (p.free.toNat + 1)
  s.modFunc f fun g => { g with u := Sp.set g.u tier (word (g.used tier - 1)) }

/-! ### The sub-ops at issue (R395 to R401) -/

/-- The function of the party's core. -/
def kvFunction (s : State) (p : Party) : Nat := (s.coreAt p.core).function

/-- KVARG cause 0 (R395, R462). -/
def kvArg (s : State) (p : Party) (seqs : List Nat) : Option (Nat × Nat) :=
  let f := s.funcAt (kvFunction s p)
  if f.kvValid && seqs.all fun q => decide (q < f.scnt.toNat) then none else some (xKvArg, 0)

/-- A request to the allocator, in issue order of its gang (R395). -/
def State.kvAsk (s : State) (p : Party) (id op : Nat) (d : Reg) (seq dv dv1 : Nat) : State :=
  State.later { s with kvq := s.kvq ++ [(⟨p.core, p.slot, p.g.blk, kvFunction s p, id, p.lead, op, d, word seq, word dv, word dv1, false, []⟩ : KvReq)] } .kvAllocatorRequest

/-- KVX (R396, R397): a lane's sequence and position, then the tables at the allocator and a probe for each granule. -/
def execKvx (d a : Reg) (s : State) : Result :=
  s.issue (.kvx d a) fun p =>
    let pair (l : Nat) : Nat := s.regValue p a 2 l
    let f := s.funcAt (kvFunction s p)
    match kvArg s p ((lanesOf p.writing).map fun l => pair l % 2 ^ 32) with
    | some t => s.raise p t.1 t.2
    | none =>
      let stall := f.kvmode.getLsbD 0
      let lanes : List LoadLane := (lanesOf p.writing).map (fun l => ⟨l, pair l % 2 ^ 32 * 2 ^ 32 + pair l / 2 ^ 32, false, none, none⟩)
        ++ (lanesOf p.helping).map fun l => ⟨l, 0, true, some [], none⟩
      let id := s.fresh
      let s := s.addPend p (if stall then [] else resultCodes d 2 ++ [134]) (.kvx d stall s.now lanes)
      let s := if p.writing = 0 then s.later (.variableReturnLanding p.core p.slot id) else s.kvAsk p id 0 d 0 0 0
      if stall then (s.hold p true).at (s.now + Nat.max 1 (fld f.kvmode.toNat 20 1) * 1024) (.kvStallTimeout p.core p.slot id) else s.advance p

/-- KVAPP and KVTRIM: a request with its target and sequence. -/
def kvTarget (i : Instr) (op : Nat) (d a : Reg) (s : State) : Result :=
  s.issue i fun p =>
    if !p.once then s.advance p
    else
      let seq := s.uniform p a 1
      match kvArg s p [seq] with
      | some t => s.raise p t.1 t.2
      | none =>
        let id := s.fresh
        ((s.addPend p (resultCodes d 1) .kv).kvAsk p id op d seq (s.uniform p d 1) 0).advance p

/-- KVAPP (R398). -/
def execKvapp (d a : Reg) (s : State) : Result := kvTarget (.kvapp d a) 1 d a s

/-- KVTRIM (R399). -/
def execKvtrim (d a : Reg) (s : State) : Result := kvTarget (.kvtrim d a) 2 d a s

/-- KVPARK (R400): the party is held until its record is written. -/
def execKvpark (a : Reg) (s : State) : Result :=
  s.issue (.kvpark a) fun p =>
    if !p.once then s.advance p
    else match kvArg s p [] with
      | some t => s.raise p t.1 t.2
      | none =>
        if !p.g.kv.curh.getLsbD 31 then s.raise p xKvArg 1
        else
          let id := s.fresh
          (s.bump.kvAsk p id 3 0x7E 0 (s.uniform p a 1) 0).hold p true

/-- KVSEQ (R401). -/
def execKvseq (d a : Reg) (s : State) : Result :=
  s.issue (.kvseq d a) fun p =>
    if !p.once then s.advance p
    else
      let seq := s.uniform p a 1
      let c := s.uniform p d 2 % 2 ^ 32
      let k := s.uniform p d 2 / 2 ^ 32
      let op := fld c 31 30
      let mbz := match op with | 0 => fld c 29 16 | 1 => fld c 29 20 | 2 => fld c 29 0 | _ => 1
      match kvArg s p (seq :: if op = 1 then [fld c 19 0] else []) with
      | some t => s.raise p t.1 t.2
      | none =>
        if mbz ≠ 0 then s.raise p xKvArg 2
        else match op with
          | 0 => (s.modGang p.core p.slot fun g =>
              { g with kv := { g.kv with curs := word seq, curh := word (2 ^ 31 + fld c 15 0), curt := word k } }).advance p
          | 1 =>
            let id := s.fresh
            ((s.addPend p (resultCodes d 1) .kv).kvAsk p id 4 d seq (fld c 19 0) k).advance p
          | _ => (s.modGang p.core p.slot fun g => { g with kv := { g.kv with curh := g.kv.curh &&& 0x7FFFFFFF#32 } }).advance p

/-! ### The allocator (R391 to R401) -/

/-- A free 32-bit number, and the next (log entry 13). -/
def kvFree (s : State) : Nat := ofBytes ((List.range 4).map fun k => Config.freeByte (s.fresh + k))

/-- The result of a request is on its way to D. -/
def State.kvResult (s : State) (r : KvReq) (v : Nat) : State := s.knownResult r.core r.slot r.pend (destWrites r.d 1 0 v)

/-- KVRANGE (R416): the result is free (log entry 21). -/
def State.kvRangeTrap (s : State) (r : KvReq) (cause : Nat) : State :=
  (State.knownTrap { s with fresh := s.fresh + 4 } r.core r.slot r.pend (destWrites r.d 1 0 (kvFree s)) ⟨0x46, word cause, 0, 0, none⟩)

/-- The lanes of a KVX translated at the allocator (R396): an address, or 99 out of range, or 98 a malformed descriptor, whose result is
free (log entry 21). -/
def State.kvTranslate (s : State) (f : Nat) (l : LoadLane) : LoadLane :=
  if l.done then l
  else
    let d := s.kvDesc f (l.addr / 2 ^ 32)
    let pos := l.addr % 2 ^ 32
    if d.bad then { l with addr := ofBytes ((List.range 8).map fun k => Config.freeByte (s.fresh + 8 * l.lane + k)), refused := some 98 }
    else
      let e := s.kvEntry d (pos / 64)
      if d.len ≤ pos || !kvValidEntry e then { l with refused := some 99 }
      else { l with addr := (s.kvBlock f (kvTier e) (kvNumber e) + pos % 64 * 2 ^ ((s.poolAt (kvTier e)).bs - 6)) % 2 ^ 64 }

/-- KVX at the allocator: the tables are read, then one probe for each granule. -/
def State.kvLookup (s : State) (r : KvReq) : State :=
  let f := r.function
  match s.pendAt r.core r.slot r.pend with
  | some ⟨_, _, _, _, .kvx _ _ _ lanes⟩ =>
    let t := lanes.map (s.kvTranslate f)
    let granules := ((t.filter fun l => !l.done).map fun l => l.addr / 4096).dedup
    let s := State.modPend { s with fresh := s.fresh + 256 } r.core r.slot r.pend fun d => { d with body := d.body.withLanes t }
    let s := granules.foldl (fun s g => s.portHome r.core 0 (.pend r.slot r.pend) (readReq r.core r.slot r.pend 0 (g * 4096))) s
    if granules.isEmpty then s.at (s.now + 1) (.variableReturnLanding r.core r.slot r.pend) else s
  | _ => s

/-- The pages of a block that carry another key than the function's (R391). -/
def State.kvForeign (s : State) (f tier n : Nat) : List Page :=
  let a := keyless (s.kvBlock f tier n)
  let len := 2 ^ (s.poolAt tier).bs
  s.pages.filter fun p => decide (p.va < a + len) && decide (a < p.va + pageBytes p.size) && p.key != fld (s.funcAt f).kvkey.toNat 7 0

/-- The page change that gives a page to a function: its KEY and TENANT. -/
def kvPageCmd (s : State) (f tag : Nat) (p : Page) : HomeCmd :=
  ⟨s.fresh, 10, BitVec.ofNat 2 p.size, false, addr64 p.va, addr64 (fld (s.funcAt f).kvkey.toNat 7 0 * 2 ^ 16 + tag % 2 ^ 16 * 2 ^ 24), 0, 0, 0, 0⟩

/-- A page change that a request waits for has not completed. -/
def State.kvChanging (s : State) (r : KvReq) : Bool := s.cmds.any fun c => r.changes.contains c.cmd.id

/-- The page changes that give pages to a function begin, and the request waits for them. -/
def State.kvChange (s : State) (r : KvReq) (tag : Nat) (pages : List Page) : State :=
  let first := s.fresh + 1
  let s := pages.foldl (fun s p => s.bump.submit (kvPageCmd s.bump r.function tag p)) s
  { s with kvq := replaceFirst (fun x => x.pend == r.pend) (fun x =>
      { x with started := true, changes := (List.range pages.length).map (first + ·) }) s.kvq }

def State.dropKv (s : State) (r : KvReq) : State := { s with kvq := s.kvq.filter fun x => x.pend != r.pend }

/-- KVST of the gang that asked, while it is there. -/
def State.kvStatus (s : State) (r : KvReq) (n : Nat) : State :=
  s.modGang r.core r.slot fun g => if g.blk = r.blk then { g with kv := { g.kv with st := word n } } else g

/-- The QUOTA refusal of KVAPP (R398): D keeps the length; home and XVA of the trap are not stated and so are free (log entry 21). -/
def State.kvRefused (s : State) (r : KvReq) (cause len : Nat) : State :=
  let home := kvFree s % 64
  let va := addr64 (kvFree { s with fresh := s.fresh + 4 } + kvFree { s with fresh := s.fresh + 8 } * 2 ^ 32)
  State.knownTrap (State.kvStatus { s with fresh := s.fresh + 12 } r cause) r.core r.slot r.pend (destWrites r.d 1 0 len)
    ⟨BitVec.ofNat 8 xQuota, word (6 + home * 2 ^ 6), 0, 0, some va⟩

/-- KVAPP at the allocator (R391, R392, R398); with `false` it waits for page changes and stays first. -/
def State.kvGrow (s : State) (r : KvReq) : State × Bool :=
  let f := r.function
  let d := s.kvDesc f r.seqIdx.toNat
  let t := r.dv.toNat
  let m := kvBlocks t - kvBlocks d.len
  if d.bad then (s.kvRangeTrap r 3, true)
  else if t ≤ d.len then ((s.kvStatus r 0).kvResult r d.len, true)
  else if d.tbln < kvBlocks t then (s.kvRangeTrap r 1, true)
  else match s.kvQuota f d.tier m with
    | 0 =>
      let ns := s.kvTop d.tier m
      let pages := (ns.flatMap fun n => s.kvForeign f d.tier n).dedup
      if s.kvChanging r then (s, false)
      else if !pages.isEmpty then
        (s.kvChange r ((s.gangAt r.core r.slot).elim (s.domainAt (s.coreAt r.core).domain).tag s.tagOf) pages, false)
      else
        let s := s.kvTake f d.tier m
        let s := (ns.zipIdx).foldl (fun s n =>
          let e := n.1 + d.tier * 2 ^ 32 + 2 ^ 34
          (s.devWrite64 (d.table + 8 * (kvBlocks d.len + n.2)) e).kvSetRefs e 1) s
        (((s.kvLength f d t).kvStatus r 0).kvResult r t, true)
    | cause => (s.kvRefused r cause d.len, true)

/-- An entry of a table is emptied; its block comes back once nothing holds it (R392, R399). -/
def State.kvDrop (s : State) (f : Nat) (d : KvDesc) (i : Nat) : State :=
  let e := s.kvEntry d i
  let t := s.devWrite64 (d.table + 8 * i) 0
  if kvValidEntry e then
    let n := t.kvRefs e - 1
    let t := t.kvSetRefs e n
    if n == 0 then t.kvPush f e else t
  else t

/-- KVTRIM at the allocator (R399). -/
def State.kvShrink (s : State) (r : KvReq) : State :=
  let f := r.function
  let d := s.kvDesc f r.seqIdx.toNat
  let t := r.dv.toNat
  if d.bad then s.kvRangeTrap r 3
  else if d.len ≤ t then s.kvResult r d.len
  else
    let s := ((List.range (kvBlocks d.len - kvBlocks t)).map (kvBlocks t + ·)).foldl (fun s i => s.kvDrop f d i) s
    (s.kvLength f d t).kvResult r t

/-- KVSEQ FORK at the allocator (R401). -/
def State.kvFork (s : State) (r : KvReq) : State :=
  let f := r.function
  let dst := s.kvDesc f r.seqIdx.toNat
  let src := s.kvDesc f r.dv.toNat
  let k := r.dv1.toNat
  let m := k / 64
  let shared (e : Nat) : Nat := e - fld e 35 35 * 2 ^ 35
  let same (i : Nat) : Bool := shared (s.kvEntry dst i) == shared (s.kvEntry src i)
  if dst.bad || src.bad then s.kvRangeTrap r 3
  else if src.len < k || dst.tbln < m || (List.range m).any fun i => !same i && kvValidEntry (s.kvEntry dst i) then s.kvRangeTrap r 2
  else
    let s := ((List.range m).filter fun i => !same i).foldl (fun s i =>
      let e := shared (s.kvEntry src i) + 2 ^ 35
      ((s.devWrite64 (dst.table + 8 * i) e).devWrite64 (src.table + 8 * i) e).kvSetRefs e (s.kvRefs e + 1)) s
    let n := Nat.max dst.len (64 * m)
    (s.kvLength f dst n).kvResult r n

/-- KVPARK at the allocator (R400). -/
def State.kvRecord (s : State) (r : KvReq) : State :=
  match s.gangAt r.core r.slot with
  | none => s
  | some g =>
    let f := r.function
    let ws := [g.kv.curs.toNat, g.kv.curh.toNat % 2 ^ 16, g.kv.curt.toNat, r.dv.toNat, g.kv.rm.toNat, 1 + f % 128 * 16, 0, 0]
    s.resumeRecord ⟨f, ws.map word, r.core, r.slot, r.blk, some r.lead⟩

/-- The first request of each gang: those that may have arrived first (R395; log entry 3). -/
def kvFirsts : List KvReq → List (Nat × Nat) → List KvReq
  | [], _ => []
  | r :: rs, seen => if seen.contains (r.core, r.slot) then kvFirsts rs seen else r :: kvFirsts rs ((r.core, r.slot) :: seen)

/-- KV_ALLOCATOR_REQUEST (R395): one request, in an open order of arrival; one that waits for page changes is first. -/
def execKvAllocatorRequest (s : State) : Result :=
  let fs := kvFirsts s.kvq []
  let pick := match s.kvq.find? (·.started) with
    | some r => some r
    | none => fs[Config.latency s.fresh % Nat.max 1 fs.length]?
  match pick with
  | none => .next s
  | some r =>
    let s := s.bump
    let done (s : State) : State := let s := s.dropKv r; if s.kvq.isEmpty then s else s.later .kvAllocatorRequest
    match r.op with
    | 0 => .next (done (s.kvLookup r))
    | 1 => let x := s.kvGrow r; .next (if x.2 then done x.1 else x.1)
    | 2 => .next (done (s.kvShrink r))
    | 3 => .next (done (s.kvRecord r))
    | _ => .next (done (s.kvFork r))

/-- KVRM at the write of a resume record; as it was once the gang has gone (R400). -/
def State.resumeWords (s : State) (w : ResumeWait) : List Word :=
  match s.gangAt w.core w.slot with
  | some g => if g.blk = w.blk then w.words.set 4 g.kv.rm else w.words
  | none => w.words

/-- The waiting records of a function enter its ring while it has room; a KVPARK's party is then ready (R400). -/
def State.flushResume (s : State) (f : Nat) : List ResumeWait → State
  | [] => s
  | w :: ws =>
    if w.function ≠ f then State.flushResume { s with kvWait := s.kvWait ++ [w] } f ws
    else
      match s.appendRing (s.funcAt f).res 32 (wordBytes ((s.resumeWords w).map (·.toNat))) with
      | none => { s with kvWait := s.kvWait ++ (w :: ws) }
      | some t => State.flushResume (match w.lead with | some lead => t.endHold w.core w.slot lead | none => t) f ws

/-- RESUME_RING_ROOM (R400). -/
def execResumeRingRoom (f : Nat) (s : State) : Result :=
  let t := State.flushResume { s with kvWait := [] } f s.kvWait
  .next (if t.kvWait.any (·.function == f) then t.later (.resumeRingRoom f) else t)

/-- KV_STALL_TIMEOUT (R397): a stall-mode KVX whose probe is still parked traps at the KVX, and the probes are withdrawn. -/
def execKvStallTimeout (core slot id : Nat) (s : State) : Result :=
  match s.gangAt core slot with
  | none => .next s
  | some g =>
    match s.pendAt core slot id with
    | some ⟨_, lead, _, _, .kvx _ true _ lanes⟩ =>
      let mine := (s.coreAt core).missBuf.filter fun m => reqFor m.req (.pend slot id)
      let parked := (lanes.filter fun l => !l.done && mine.any fun m => m.req.va / 4096 == l.addr / 4096).map (·.lane)
      match (parked.insertionSort (· ≤ ·)).head? with
      | none => .next (s.at (s.now + 1) (.kvStallTimeout core slot id))
      | some l =>
        if g.trap.isSome then .next s
        else
          let s := s.modCore core fun c => { c with missBuf := c.missBuf.filter fun m => !reqFor m.req (.pend slot id) }
          let s := s.modGang core slot fun g => { g with pend := g.pend.filter (·.id != id) }
          .next (s.takeTrap core slot ⟨BitVec.ofNat 8 xKvTimeout, word l, (g.quad lead).pc, lead, none⟩)
    | _ => .next s

end Sys2Proof.Machine
end

