-- ==== Sys2Proof/Machine/System.lean ====
section
/-! DEFINITION. SYS (R317, R331 to R334): keys, way classes, shares, freezing, window grants, the journal's acknowledgement (R431), and
PREQ with the saves of a pre-empted block (R349 to R356). -/

namespace Sys2Proof.Machine

open Sys2Proof

/-! ### The common form (R317, R331, R333) -/

/-- The outcome of a sub-op's checks: SYSDENY with its bits, SYSARG with its cause, or the effect; `wait` when the party is not ready. -/
inductive SysOut where
  | deny (bits : Nat)
  | arg (cause : Nat)
  | wait
  | run (s : State)

/-- A SYS sub-op: once per party, with sel in A and val in D; SYSDENY comes before SYSARG. -/
def sysOp (i : Instr) (sub : Nat) (d a : Reg) (f : Party → Nat → Nat → SysOut) (s : State) : Result :=
  s.issue i fun p =>
    if !p.once then s.advance p
    else match f p (s.uniform p a 1) (s.uniform p d 1) with
      | .deny bits => s.raise p xSysDeny (sub + bits)
      | .arg cause => s.raise p xSysArg (sub + cause * 2 ^ 4)
      | .wait => s.stall p
      | .run t => t

/-- A sub-op whose new value must reach every holder: the party is ready again at completion (R331, R332). -/
def tableSent (p : Party) (e : TableEntry) (s : State) : State :=
  let s : State := { s with tables := s.tables ++ [⟨p.core, p.slot, p.g.blk, p.lead, true, e⟩] }
  ((s.closeMark p).hold p true).later (.systemSubopComplete p.core p.slot p.lead)

/-- Change a domain's tables and those of every core that hosts it (R332). -/
def State.setDomain (s : State) (d : Nat) (f : Domain → Domain) (g : Core → Core) : State :=
  { s with domains := Kv.put s.domains d (f (s.domainAt d)), cores := s.cores.map fun c => if c.2.domain = d then (c.1, g c.2) else c }

/-- Every holder has a new entry (R275, R278, R331, R332). -/
def State.applyTable (s : State) : TableEntry → State
  | .mask cls m lease => { s with classes := setAt s.classes cls fun _ => ⟨m, lease⟩ }
  | .ofFunction fn cls => { s with classOf := Kv.put s.classOf fn cls }
  | .rights d key v => s.setDomain d (fun x => { x with keys := Sp.set x.keys key (BitVec.ofNat 2 v) })
      fun c => { c with keys := Sp.set c.keys key (BitVec.ofNat 2 v) }
  | .grant d n w => s.setDomain d (fun x => { x with grants := x.grants.set n w }) fun c => { c with grants := c.grants.set n w }

/-- A change under way of a party. -/
def TableChange.by (core slot lead : Nat) (t : TableChange) : Bool := t.core == core && t.slot == slot && t.lead == lead

/-- SYSTEM_SUBOP_COMPLETE (R331, R332): the oldest change of the party takes effect now (R278), and the party goes on if it still waits for it. -/
def execSystemSubopComplete (core slot lead : Nat) (s : State) : Result :=
  match s.tables.find? (TableChange.by core slot lead) with
  | none => .next s
  | some t =>
    let s := State.applyTable { s with tables := s.tables.eraseP (TableChange.by core slot lead) } t.entry
    .next (if t.waits && (s.gangAt core slot).elim false (·.blk == t.blk) then s.endHold core slot lead else s)

/-- The function of a party's core is not the physical one. -/
def isVirtual (s : State) (p : Party) : Bool := (s.coreAt p.core).function != 0

/-- KEYW. -/
def execKeyw (d a : Reg) (s : State) : Result :=
  sysOp (.keyw d a) 0 d a (fun p sel val =>
    if 2 ^ 8 ≤ sel ∨ 4 ≤ val then .arg 0
    else
      let k := (s.coreAt p.core).domain
      .run (tableSent p (.rights k sel val) s)) s

/-- WAYM. -/
def execWaym (d a : Reg) (s : State) : Result :=
  sysOp (.waym d a) 1 d a (fun p sel val =>
    let lease := fld val 24 16
    if isVirtual s p then .deny 0
    else if 2 ^ 4 ≤ sel ∨ 2 ^ 25 ≤ val then .arg 0
    else if lease = 0 ∨ 256 < lease then .arg 1
    else .run (tableSent p (.mask sel (BitVec.ofNat 16 val) (lease * 256)) s)) s

/-- CLASS. -/
def execKlass (d a : Reg) (s : State) : Result :=
  sysOp (.klass d a) 2 d a (fun p sel val =>
    if isVirtual s p then .deny 0
    else if 2 ^ 7 ≤ sel ∨ 2 ^ 4 ≤ val then .arg 0
    else if 64 < sel then .arg 1
    else .run (tableSent p (.ofFunction sel val) s)) s

/-- SPLIT: a share takes effect at the next period (R331, R387). -/
def execSplit (d a : Reg) (s : State) : Result :=
  sysOp (.split d a) 3 d a (fun p sel val =>
    let others := ((s.funcs.filter (·.1 != sel)).map fun f => f.2.nextShare).sum
    if isVirtual s p then .deny 0
    else if 2 ^ 7 ≤ sel ∨ 2 ^ 11 ≤ val then .arg 0
    else if 64 < sel ∨ 1024 < val then .arg 1
    else if 1024 < others + val then .arg 2
    else .run (((s.modFunc sel fun f => { f with shareNext := some val }).closeMark p).advance p)) s

/-- FREEZE: the target's request engine stops or goes on between transfer units (R177). -/
def execFreeze (d a : Reg) (s : State) : Result :=
  sysOp (.freeze d a) 5 d a (fun p sel val =>
    let target := fld sel 13 5
    if isVirtual s p && (s.coreAt target).domain != (s.coreAt p.core).domain then .deny 8
    else if 2 ^ 14 ≤ sel ∨ 2 ≤ val then .arg 0
    else
      let t := s.modCore target fun c => { c with frozen := val == 1 }
      .run ((((if val = 0 then t.wake target else t)).closeMark p).advance p)) s

/-- WINGR. -/
def execWingr (d a : Reg) (s : State) : Result :=
  sysOp (.wingr d a) 6 d a (fun p sel val =>
    if 4 ≤ sel ∨ fld val 8 0 ≠ 0 then .arg 0
    else if val.testBit 31 && decide (fld val 12 9 < fld val 16 13) then .arg 3
    else
      let k := (s.coreAt p.core).domain
      .run (tableSent p (.grant k sel (word val)) s)) s

/-- JRNL ACK (R431). -/
def execJrnl (d a : Reg) (s : State) : Result :=
  sysOp (.jrnl d a) 7 d a (fun p sel val =>
    if isVirtual s p then .deny 0
    else if 8 ≤ sel then .arg 0
    else if sel ≠ 0 then .arg 1
    else if (s.pr.jrnltail - s.pr.jrnlack).toNat < (word val - s.pr.jrnlack).toNat then .arg 1
    else .run ((State.closeMark { s with pr := { s.pr with jrnlack := word val } } p).advance p)) s

/-! ### Pre-empting blocks (R349, R350) -/

/-- Every gang of a block takes PREEMPT at its next boundary; the lowest-numbered resident gang leads (R350, R351). -/
def State.preemptOne (s : State) (key : Nat) : State :=
  let gs := s.gangsOf key
  let low := (gs.map fun g => g.2.2.number).foldl Nat.min 4096
  gs.foldl (fun s (core, slot, g) =>
    if g.pre.pending || g.pre.saving != 0 then s
    else
      (s.modGang core slot fun x => { x with pre := { x.pre with pending := true, leader := g.number == low, waitsaved := false } }).at
        s.now (.preemptTrap core slot)) s

/-- A block is pre-empted with its span (R254, R349). -/
def State.preemptBlock (s : State) (key : Nat) : State :=
  match s.blockAt key with
  | none => s
  | some b => if b.resident then ((b :: s.spanOf b).filter (·.resident)).foldl (fun s m => s.preemptOne m.key) s else s

/-- The resident blocks of a launch. -/
def State.blocksOfLaunch (s : State) (idx : Nat) : List Block := s.blocks.filter fun b => b.launch == idx && b.resident

def State.modLaunch (s : State) (idx : Nat) (f : Launch → Launch) : State := { s with launches := replaceFirst (·.idx == idx) f s.launches }

/-- KILL: every resident block is killed, and the launch fails with status 5 (R352); its saved blocks are gone with it (R348). -/
def State.abortLaunch (s : State) (idx : Nat) : State :=
  let s := (s.blocksOfLaunch idx).foldl (fun s b => s.killBlock b.key 5 xKilled 0) s
  let saved := s.blocks.filter (·.launch == idx)
  let s := (s.failLaunch idx 0 5 0 0).at s.now (.launchCompletion idx)
  saved.foldl (fun s b => s.dropBlock b.key) s

/-! ### Saving (R351 to R354, R356) -/

/-- Bytes of a block record (R354). -/
def Block.recordBytes (b : Block) : Nat := 64 + 16 * b.ngates + 8320 * (if b.pair then 2 else 1)

/-- One bit of the CRC-32C of R356, in the usual reflected form: polynomial 0x82F63B78 (log entry 24). -/
def crcBit (c : Word) : Word := if c.getLsbD 0 then (c >>> 1) ^^^ 0x82F63B78#32 else c >>> 1

/-- One word of it, least significant bit first. -/
def crcWord (c v : Word) : Word := (List.range 32).foldl (fun c _ => crcBit c) (c ^^^ v)

/-- CRC-32C of words: all ones at the start, inverted at the end. -/
def crc32c (ws : List Word) : Word := ~~~ (ws.foldl crcWord 0xFFFFFFFF#32)

/-- The CRC of a record in memory. -/
def State.recordCrc (s : State) (va words : Nat) : Word := crc32c ((List.range words).map fun k => word (s.dev32 (va + 4 * k)))

/-- A record whose layout the manual does not give: its bytes are free (log entry 22). -/
def State.freeRecord (s : State) (va n : Nat) : State :=
  State.devWrite { s with fresh := s.fresh + n } va ((List.range n).map fun k => Config.freeByte (s.fresh + k))

/-- The context record, with its CRC at bytes 1,020 to 1,023 (R356). -/
def State.writeContext (s : State) (va : Nat) : State :=
  let s := s.freeRecord va 1020
  s.devWrite32 (va + 1020) (s.recordCrc va 255).toNat

/-- Word 0 of a recipe, where it may be read and is of the right version (R40, R353). -/
def State.recipeWord (s : State) (core : Nat) (r : Addr) : Option Nat :=
  let va := r.toNat
  if va % 32 ≠ 0 ∨ chipSheet va = true ∨ (s.coreAt core).right (keyOf va) < 1 ∨ s.homeCheck 0 va false false none false ≠ 0 then none
  else
    let w := s.dev32 va
    if fld w 31 28 ≠ 1 ∨ fld w 27 24 ≠ 0 then none else some w

/-- The park that a flashback save keeps: that of a CTRW, which is looked at again before the gang runs on from its mark (R200; log entry 101). -/
def keptPark (p : Park) : Park := match p with | .ctrw va v _ _ => .ctrw va v none true | _ => .none

/-- The held state of a flashback save: the snapshot at MARKPC, or the recompute fragment first (R353). -/
def Gang.flash (g : Gang) (m : Mark) (w : Nat) : Gang :=
  let off := BitVec.ofNat 24 w
  let now := g.held.getD g.quads
  let qs := m.quads.mapIdx fun k q => { q with pc := m.pc, park := keptPark ((now[k]?).elim .none (·.park)) }
  let lead := ((qs.find? fun q => q.present && !q.retired).elim 0 fun q => q.party.toNat)
  { g with held := some qs, heldLead := lead
           xr := { g.xr with xpc := if off = 0 then m.pc else offsetPc g.recipe off, xrep := 0, xmode := m.gmode, xroute := m.routes } }

/-- A party that waited for an operation which runs again stands at its instruction (R350). -/
def Gang.rerun (g : Gang) : Gang :=
  let fix (q : Quad) : Quad := if q.park = .hold true then { q with park := .none } else q
  { g with held := g.held.map fun h => h.map fix, bellHeld := g.bellHeld.map fun h => h.map fix }

/-- The gang's engine state: single or pair, priority; an owner returns as the first waiter (R215). -/
def State.engineOf (s : State) (core slot : Nat) : Option (Bool × Nat) :=
  let part (k : Nat) : Option (Bool × Nat) :=
    match (s.coreAt k).owner with
    | some o => if o.core = core ∧ o.slot = slot ∧ o.released = false then some (o.pair, o.prio) else none
    | none => none
  match (s.coreAt (core / 2 * 2)).mxq.find? fun r => r.core == core && r.slot == slot with
  | some r => some (r.pair, r.prio % 4)
  | none => (part core).orElse fun _ => part (core / 2 * 2 + 1 - core % 2)

/-- The last gang of a block has been saved: the block leaves its core, whose pond is free of it (R155, R353, R355). -/
def State.unplace (s : State) (key : Nat) : State :=
  match s.blockAt key with
  | none => s
  | some b =>
    let s := s.modBlock key fun b => { b with resident := false, scr := [], scrB := [], scrKiB := (0, 0) }
    let free (s : State) (k : Nat) : State := let pins := s.livePins k; s.modCore k fun c => { c with pins := pins }
    let s := if b.pair then free (free s (b.core / 2 * 2)) (b.core / 2 * 2 + 1) else free s b.core
    let s := s.modLaunch b.launch fun l => if l.state = 4 then l else { l with resume := l.resume ++ [key] }
    let dead := (s.launches.find? (·.idx == b.launch)).elim true (·.state == 4)
    let s := if dead then { s.dropSavedHandler key with blocks := s.blocks.filter (·.key != key) } else s
    ((s.syncBoard b.domain).at s.now (.launchCompletion b.launch)).at s.now (.placementStep (b.core / 256))

/-- SAVED: the records are written and the gang leaves its slot (R353). -/
def State.saveGang (s : State) (p : Party) (g : Gang) (b : Block) : State :=
  let g := g.rerun
  let ctx := fld g.xr.ctxptr.toNat 63 10 * 1024
  let s := s.writeContext ctx
  let s := if g.pre.leader then s.freeRecord (ctx + 1024) b.recordBytes else s
  let crc := if g.pre.leader then s.recordCrc (ctx + 1024) ((b.recordBytes + 3) / 4) else 0
  let k := b.domain
  let handler := s.handlerOf k == some (p.core, p.slot)
  let kept : Saved := ⟨{ g with pre := { leader := g.pre.leader } }, addr64 ctx, crc, s.engineOf p.core p.slot, handler⟩
  let s := s.modBlock b.key fun x =>
    { x with saved := x.saved ++ [kept]
             trees := if g.pre.leader then (if b.pair then [b.core / 2 * 2, b.core / 2 * 2 + 1] else [b.core]).map fun k => (s.coreAt k).trees else x.trees }
  let s := if handler then s.modBoard k fun x => { x with hres := false } else s
  let s := s.freeSlot p.core p.slot b.key
  let s := s.leaveEngines p.core p.slot
  if (s.gangsOf b.key).isEmpty then s.unplace b.key else s

/-- An engine work or record of a block has not landed (R352). -/
def State.blockWorks (s : State) (key : Nat) : Bool := s.cores.any fun c => c.2.works.any (·.blk == key) || c.2.recs.any (·.blk == key)

/-- HOLD, KILL and RELEASE name a launch of the issuer's domain, or any from the physical function (R352). -/
def preqLaunch (s : State) (p : Party) (sel val : Nat) (f : Launch → State) : SysOut :=
  match s.launches.find? (·.idx == val) with
  | none => .arg (if 2 ^ 4 ≤ sel then 0 else 1)
  | some l =>
    if isVirtual s p && l.domain != (s.coreAt p.core).domain then .deny 0
    else if 2 ^ 4 ≤ sel then .arg 0
    else .run (((f l).closeMark p).advance p)

/-- The actions issued in a handler: the condition on the issuer comes first, then val, which is 0 (R333, R352). -/
def preqHandler (ok : Bool) (sel val : Nat) (t : SysOut) : SysOut := if !ok then .deny 0 else if 2 ^ 4 ≤ sel ∨ val ≠ 0 then .arg 0 else t

/-- SAVED. -/
def preqSave (s : State) (p : Party) (sel val : Nat) : SysOut :=
  let g := p.g
  preqHandler (g.inSave && (!g.pre.leader || g.pre.waitsaved)) sel val (
    if superCopies s p.core p.slot g.blk then .wait
    else match s.blockOf p with
      | none => .run s
      | some b =>
        if sel.testBit 3 then
          match g.mark, s.recipeWord p.core g.recipe with
          | some m, some w => .run (s.saveGang p (g.flash m w) b)
          | _, _ => .arg 1
        else .run (s.saveGang p g b))

/-- The block of a gang is restored (R355): one in its RESUME handler may pass WAITREST, one that has left it goes on. -/
def State.gangRestored (s : State) (core slot : Nat) (g : Gang) : State :=
  if g.super then s.modGang core slot fun g => { g with pre := { g.pre with restored := true } }
  else (((s.modGang core slot fun g => { g with pre := { g.pre with restoring := false } }).at s.now (.delayedTrap core slot)).at
    s.now (.preemptTrap core slot)).at s.now (.bellDelivery core slot)

/-- RESTORED: the gangs in WAITREST may go on. The sub-ops that a save or restore handler issues for itself leave the mark open, which R173 and
R350 keep across the pre-emption (log entry 103). -/
def preqRestore (s : State) (p : Party) : State :=
  ((s.gangsOf p.g.blk).foldl (fun s k => s.gangRestored k.1 k.2.1 k.2.2) s).advance p

/-- PREQ: sel in A names the action (R352). -/
def preqOp (d a : Reg) (s : State) : Result :=
  sysOp (.preqHold d a) 4 d a (fun p sel val =>
    let g := p.g
    match fld sel 2 0 with
    | 0 => preqLaunch s p sel val fun l =>
        (s.blocksOfLaunch l.idx).foldl (fun s b => s.preemptBlock b.key) (s.modLaunch l.idx fun l => { l with onHold := true })
    | 1 => preqSave s p sel val
    | 2 => preqHandler (g.inSave && g.pre.leader) sel val (
        if ((s.gangsOf g.blk).length == 1) && !s.blockWorks g.blk then
          .run ((s.modGang p.core p.slot fun g => { g with pre := { g.pre with waitsaved := true } }).advance p)
        else .wait)
    | 3 => preqHandler (g.inRestore && g.pre.leader) sel val (
        if superCopies s p.core p.slot g.blk then .wait else .run (preqRestore s p))
    | 4 => preqHandler (g.inRestore && !g.pre.leader) sel val (if g.pre.restored then .run (s.advance p) else .wait)
    | 5 => preqLaunch s p sel val fun l => s.abortLaunch l.idx
    | 6 => preqLaunch s p sel val fun l =>
        (s.modLaunch l.idx fun l => { l with onHold := false }).at s.now (.placementStep l.die)
    | _ => .arg 1) s

/-- PREQ with any action: the word names none (log entry 9). -/
def execPreqHold (d a : Reg) (s : State) : Result := preqOp d a s
/-- PREQ. -/
def execPreqSaved (d a : Reg) (s : State) : Result := preqOp d a s
/-- PREQ. -/
def execPreqWaitsave (d a : Reg) (s : State) : Result := preqOp d a s
/-- PREQ. -/
def execPreqRestored (d a : Reg) (s : State) : Result := preqOp d a s
/-- PREQ. -/
def execPreqWaitrest (d a : Reg) (s : State) : Result := preqOp d a s
/-- PREQ. -/
def execPreqKill (d a : Reg) (s : State) : Result := preqOp d a s
/-- PREQ. -/
def execPreqRelease (d a : Reg) (s : State) : Result := preqOp d a s

end Sys2Proof.Machine
end

