-- ==== Sys2Proof/Machine/Distributor.lean ====
section
/-! DEFINITION. The distributors (R296, R297, R335 to R342, R349, R355 to R359, R428 to R430): launch queues, the journal, dependences,
placement in the ponds (R154 to R157, R163, R252), completion, pre-emption requests and the restoration of pre-empted blocks. -/

namespace Sys2Proof.Machine

open Sys2Proof

/-! ### The launch record (R337) -/

def Launch.w (l : Launch) (k : Nat) : Nat := (l.record.getD k 0).toNat
def Launch.prio (l : Launch) : Nat := fld (l.w 0) 5 4
def Launch.pair (l : Launch) : Bool := (l.w 0).testBit 6
def Launch.repl (l : Launch) : Bool := (l.w 0).testBit 7
def Launch.allot (l : Launch) : Nat := fld (l.w 1) 3 0
def Launch.gangs (l : Launch) : Nat := fld (l.w 1) 10 4
def Launch.span (l : Launch) : Nat := Nat.max 1 (fld (l.w 1) 15 11)
def Launch.lanes (l : Launch) : Nat := fld (l.w 1) 21 16
def Launch.gates (l : Launch) : Nat := fld (l.w 1) 30 22
def Launch.scratchKiB (l : Launch) : Nat := (fld (l.w 2) 19 0 + 1023) / 1024
def Launch.blocks (l : Launch) : Nat := l.w 3
def Launch.entry (l : Launch) : Nat := l.w 4 + l.w 5 * 2 ^ 32
def Launch.pair64 (l : Launch) (k : Nat) : Nat := l.w k + l.w (k + 1) * 2 ^ 32

/-- FORMAT (R338). -/
def badRecord (l : Launch) : Bool :=
  let counter (valid : Bool) (k : Nat) : Bool := valid && l.w k % 8 != 0
  fld (l.w 0) 3 0 != 1 || fld (l.w 0) 31 12 != 0 || fld (l.w 1) 31 31 != 0 || fld (l.w 2) 31 20 != 0 || l.w 7 != 0 || l.w 30 != 0 || l.w 31 != 0
    || l.allot == 0 || decide (12 < l.allot) || l.gangs == 0 || decide ((if l.pair then 64 else 32) < l.gangs)
    || fld (l.w 1) 15 11 == 0 || decide (16 < fld (l.w 1) 15 11) || l.lanes == 0 || decide (32 < l.lanes) || decide (256 < l.gates)
    || decide (851968 < fld (l.w 2) 19 0) || decide (fld (l.w 2) 19 0 < 16 * l.gates) || l.blocks == 0 || l.entry % 32 != 0
    || counter ((l.w 0).testBit 8) 8 || counter ((l.w 0).testBit 9) 12 || counter ((l.w 0).testBit 10) 16

/-! ### The journal (R428 to R430) -/

/-- Entries of the journal. -/
def State.jrnlSize (s : State) : Nat := 2 ^ fld s.pr.jrnlq.toNat 3 0

/-- Write a launch's journal entry: the other words first, w0 last (R428, R429). -/
def State.journal (s : State) (idx : Nat) : State :=
  match s.launches.find? (·.idx == idx) with
  | none => s
  | some l =>
    if s.pr.jrnlq = 0 then s
    else
      let base := fld s.pr.jrnlq.toNat 63 16 * 2 ^ 16 + 256 * (idx % s.jrnlSize)
      let w0 := l.state + l.status * 2 ^ 4 + l.function % 128 * 2 ^ 8 + l.die * 2 ^ 15 + l.queue * 2 ^ 16 + Nat.min 255 l.replays * 2 ^ 20
      let xva := l.xva.toNat
      let ws := [idx, l.xcode.toNat, l.xinfo.toNat, l.badBlock.toNat, l.blocksDone, xva % 2 ^ 32, xva / 2 ^ 32, l.changed % 2 ^ 32,
        l.changed / 2 ^ 32 % 2 ^ 32] ++ List.replicate 6 0 ++ (List.range 32).map l.w ++ List.replicate 16 0
      (s.devWrite (base + 4) (wordBytes ws)).devWrite32 base w0

/-- A launch enters a state (R429). -/
def State.setLaunch (s : State) (idx st status : Nat) : State :=
  (s.modLaunch idx fun l => { l with state := st, status := status, changed := s.now }).journal idx

/-- The journal index of the entry that the next slot still holds. -/
def State.slotHolds (s : State) : Nat := (s.pr.jrnltail - BitVec.ofNat 32 s.jrnlSize).toNat

/-- The next slot of the journal is free (R430): never written, or its entry acknowledged and done or failed. -/
def State.jrnlRoom (s : State) : Bool :=
  s.pr.jrnlq != 0 && (match s.launches.find? (·.idx == s.slotHolds) with
    | none => true
    | some l => l.closing && decide ((BitVec.ofNat 32 l.idx - s.pr.jrnlack).toNat ≥ 2 ^ 31))

/-! ### The pond (R154 to R157) -/

/-- The kinds of the bays. -/
def Core.bayKinds (c : Core) : List Nat := (List.range 32).map fun b => fld c.baymap.toNat (2 * b + 1) (2 * b)

def kindsMap (ks : List Nat) : Addr := addr64 (ks.zipIdx.foldl (fun v k => v + k.1 % 4 * 2 ^ (2 * k.2)) 0)

/-- A range of KiB touches a bay. -/
def touches (bay : Nat) (r : Nat × Nat) : Bool := decide (r.1 < 32 * bay + 32) && decide (32 * bay < r.1 + r.2)

/-- A pond as the distributor plans it: the kinds of its bays and the ranges held. -/
structure Pond where
  kinds : List Nat
  used : List (Nat × Nat)
  deriving DecidableEq, Repr

/-- n KiB may lie at a base: free, below the LOG bays, every bay of the kind or free to convert (R157). -/
def Pond.fits (p : Pond) (kind base n : Nat) (convert : Bool) : Bool :=
  decide (base + n ≤ 960) && p.used.all (fun r => decide (base + n ≤ r.1) || decide (r.1 + r.2 ≤ base))
    && (List.range 30).all fun b => !touches b (base, n) || p.kinds.getD b 3 == kind || (convert && !p.used.any (touches b))

/-- The first place for n KiB of a kind, without a conversion where that is possible, and the pond with it. -/
def Pond.put (p : Pond) (kind n : Nat) : Option (Nat × Pond) :=
  if n = 0 then some (0, p)
  else
    let at' := ((List.range 960).find? fun b => p.fits kind b n false).orElse fun _ => (List.range 960).find? fun b => p.fits kind b n true
    at'.map fun b => (b, ⟨p.kinds.mapIdx fun k x => if touches k (b, n) then kind else x, p.used ++ [(b, n)]⟩)

/-- Places for several areas of a kind. -/
def Pond.putAll (p : Pond) (kind n : Nat) : Nat → Option (List Nat × Pond)
  | 0 => some ([], p)
  | k + 1 => (p.put kind n).bind fun r => (Pond.putAll r.2 kind n k).map fun q => (r.1 :: q.1, q.2)

/-- The pond of a core without the ranges of some blocks. -/
def State.pondOf (s : State) (core : Nat) (excl : List Nat) : Pond :=
  ⟨(s.coreAt core).bayKinds, ((s.livePins core).filter fun r => !excl.contains (r.2.2 / 128)).map fun r => (r.1, r.2.1)⟩

/-- BAY_CONVERSION and the conversions of a placement: of the copies in the first level some leave, the device's choice (R154, R157; log
entry 23). -/
def State.dropSome (s : State) (core : Nat) : State :=
  let ls := ((s.coreAt core).l1.zipIdx.filter fun l => Config.deviceChooses (s.fresh + l.2)).map fun l => l.1.line
  let s := { s with fresh := s.fresh + (s.coreAt core).l1.length }
  ls.foldl (fun s l => s.invalidateRange core l l) s

/-- Give the bays of a core new kinds. -/
def State.setBays (s : State) (core : Nat) (kinds : List Nat) : State :=
  let old := (s.coreAt core).bayKinds
  let lost := (old.zip kinds).any fun k => k.1 == 2 && k.2 != 2
  (if lost then s.dropSome core else s).modCore core fun c => { c with baymap := kindsMap kinds }

/-- BAY_CONVERSION (R157): one free bay, neither pinned nor LOG, leaving at least 4 CACHE bays. -/
def execBayConversion (core bay kind : Nat) (s : State) : Result :=
  let ks := (s.coreAt core).bayKinds
  let new := ks.set bay kind
  let pinned := (s.bayPins core).testBit bay
  if 30 ≤ bay ∨ 3 ≤ kind ∨ pinned = true ∨ new.count 2 < 4 then .next s else .next (s.setBays core new)

/-! ### Candidates (R148, R163, R211, R252, R297, R358) -/

/-- The part of a block that a core would hold: its gangs as (number, slot, pond KiB), its scratch, the bays. -/
structure PartPlan where
  core : Nat
  gangs : List (Nat × Nat × Nat)
  scr : Nat
  kinds : List Nat
  deriving DecidableEq, Repr

/-- Whether a core hosts a domain, or can take it (R163); the blocks of `excl` count as gone. -/
def State.hosts (s : State) (core d : Nat) (excl : List Nat) : Bool :=
  let c := s.coreAt core
  (c.hosting && c.domain == d) || ((s.blocksOn core).all (fun b => excl.contains b.key) && c.leat.isEmpty && c.cpq)

/-- Slots for gangs by their quarters (R148). -/
def assignSlots (taken : List Nat) : List Nat → Option (List (Nat × Nat))
  | [] => some []
  | g :: gs =>
    match ((List.range 16).map (16 * (g % 4) + ·)).find? fun k => !taken.contains k with
    | none => none
    | some k => (assignSlots (k :: taken) gs).map fun r => (g, k) :: r

/-- A part on a core. -/
def State.planPart (s : State) (excl : List Nat) (l : Launch) (core : Nat) (nums : List Nat) : Option PartPlan :=
  if !s.clusterUp core || !s.hosts core l.domain excl then none
  else
    let taken := ((s.coreAt core).gangs.filter fun g => !excl.contains g.2.blk).map (·.1)
    (assignSlots taken nums).bind fun slots =>
      ((s.pondOf core excl).putAll 0 l.allot nums.length).bind fun r =>
        (r.2.put 1 l.scratchKiB).bind fun q =>
          if (q.2.kinds.take 30).count 2 < 4 then none
          else some ⟨core, (slots.zip r.1).map fun x => (x.1.1, x.1.2, x.2), q.1, q.2.kinds⟩

/-- A block on a core, or on the stone pair of an even core (R211). -/
def State.planBlock (s : State) (excl : List Nat) (l : Launch) (nums : List Nat) (core : Nat) : Option (List PartPlan) :=
  if l.pair then
    if core % 2 = 1 then none
    else (s.planPart excl l core (nums.filter fun g => !g.testBit 2)).bind fun r =>
      (s.planPart excl l (core + 1) (nums.filter fun g => g.testBit 2)).map fun b => [r, b]
  else (s.planPart excl l core nums).map fun p => [p]

/-- The order among candidates (R297): hosting the domain, then few gangs. -/
def State.rank (s : State) (l : Launch) (parts : List PartPlan) : Nat :=
  let other := if parts.all fun p => (s.coreAt p.core).hosting && (s.coreAt p.core).domain == l.domain then 0 else 1
  other * 1000 + (parts.map fun p => (s.coreAt p.core).gangs.length).sum

/-- The best candidate among cores given in the order of the rotation. -/
def State.bestPlan (s : State) (excl : List Nat) (l : Launch) (nums : List Nat) (cores : List Nat) : Option (List PartPlan) :=
  (cores.filterMap (s.planBlock excl l nums)).foldl (fun m p => match m with
    | none => some p
    | some q => if s.rank l p < s.rank l q then some p else some q) none

/-- A launch is ready (R339, R348, R352). -/
def Launch.ready (l : Launch) : Bool := (l.state == 1 || l.state == 2) && l.waitsHold && !l.onHold

/-- A launch has a block that is not placed. -/
def Launch.wants (l : Launch) : Bool := decide (l.nextBlock < l.blocks) || !l.resume.isEmpty

/-- The owner of a cluster, for a launch (R358): as the mailbox had set it when the launch was accepted (R426). -/
def Launch.ownerOf (l : Launch) (cluster : Nat) : Option Nat := Kv.get? l.owners cluster

/-- A launch may place blocks on a cluster (R358). -/
def State.mayUse (s : State) (l : Launch) (cluster : Nat) : Bool :=
  match l.ownerOf cluster with
  | none => true
  | some f =>
    f == l.function || (l.borrow
      && !s.blocks.any (fun b => b.resident && clusterOf b.core == cluster && (s.domainAt b.domain).function == f)
      && !s.launches.any (fun o => o.function == f && o.die == l.die && o.ready && o.wants))

/-- The clusters a launch may use, from the rotating one (R297). -/
def State.clustersFor (s : State) (l : Launch) : List Nat :=
  let rot := (s.dist.getD l.die {}).rot
  ((List.range 16).map fun k => l.die * 16 + (rot + k) % 16).filter fun c => s.pr.clumap.getLsbD c && s.mayUse l c

def coresOf (cluster : Nat) : List Nat := (List.range 16).map (cluster * 16 + ·)

/-! ### Placing (R14, R79, R155, R156, R163, R341) -/

/-- The generator of a lane at the start of a block (R79). -/
def seedOf (seed bid gang lane : Nat) : Word :=
  let v := word seed ^^^ word ((2048 * bid + 32 * gang + lane) * 0x9E3779B9)
  if v = 0 then 1 else v

/-- The quads of a gang with n live lanes, at a PC (R14). -/
def startQuads (n : Nat) (pc : Addr) (now : Nat) : List Quad :=
  (List.range 8).map fun q =>
    let live := Nat.min 4 (n - 4 * q)
    if live = 0 then {}
    else { present := true, pc := pc, active := BitVec.ofNat 4 (2 ^ live - 1), helper := BitVec.ofNat 4 (16 - 2 ^ live), wake := now + 1 }

/-- A gang at its start; the generators of its absent lanes are seeded as the others are (log entry 118). -/
def startGang (l : Launch) (key bid number base now : Nat) : Gang :=
  { launch := l.idx, blk := key, number := number, lanes := l.lanes, nquads := (l.lanes + 3) / 4, allot := 8 * l.allot, regKiB := base
    sregs := Sp.setAll [] ((List.range 8).map fun k => (k, word (l.w (20 + k))))
    rngs := Sp.setAll [] ((List.range 32).map fun k => (k, seedOf (l.w 6) bid number k))
    quads := startQuads l.lanes (addr64 (l.entry + 4)) now }

/-- The core takes the domain's key table and window grants; a new domain finds the stores cleared (R156, R163). -/
def State.takeDomain (s : State) (core d : Nat) : State :=
  let x := s.domainAt d
  let f := s.funcAt x.function
  let fill := Nat.max 64 (if f.halved then 4 * f.eff / 2 else 4 * f.eff)
  s.modCore core fun c =>
    let c := if c.hosting && c.domain == d then c
      else { c with acc := [], accBad := [], scale := [], trees := [{}, {}, {}, {}], function := x.function, port := { c.port with fill := fill } }
    { c with hosting := true, domain := d, function := x.function, keys := x.keys, grants := x.grants }

/-- The bays and pins of a part. -/
def State.placePart (s : State) (l : Launch) (key : Nat) (p : PartPlan) : State :=
  let s := (s.takeDomain p.core l.domain).setBays p.core p.kinds
  let pins := (p.gangs.map fun g => (g.2.2, l.allot, (key * 64 + g.2.1) * 2)) ++ (if l.scratchKiB = 0 then [] else [(p.scr, l.scratchKiB, key * 128 + 1)])
  let live := s.livePins p.core
  s.modCore p.core fun c => { c with pins := live ++ pins }

/-- The slot of the lowest-numbered gang of a part; no slot where the part holds no gang. -/
def PartPlan.lowSlot (p : PartPlan) : Nat := (p.gangs.head?).elim 64 fun g => g.2.1

/-- A block's key: its launch's index and its number (R253). -/
def blockKey (l : Launch) (bid : Nat) : Nat := l.idx * 2 ^ 32 + bid

def State.addGang (s : State) (core slot : Nat) (g : Gang) : State := s.modCore core fun c => { c with gangs := Kv.put c.gangs slot g }

/-- Place a new block (R341). -/
def State.placeNew (s : State) (l : Launch) (bid : Nat) (parts : List PartPlan) : State :=
  match parts with
  | [] => s
  | p :: more =>
    let key := blockKey l bid
    let b : Block :=
      { key := key, launch := l.idx, bid := bid, core := p.core, pair := l.pair, domain := l.domain, prio := l.prio, placedAt := s.now
        ngates := l.gates, slots := (p.lowSlot, (more.head?).elim 64 (·.lowSlot)), scrSize := 1024 * l.scratchKiB
        scrKiB := (p.scr, (more.head?).elim 0 (·.scr)), scr := [], scrB := [], gates := List.replicate l.gates {}, gateIn := []
        shared := [], shWrites := [], trees := [], saved := [], resident := true }
    let s := parts.foldl (fun s q => s.placePart l key q) { s with blocks := s.blocks ++ [b] }
    parts.foldl (fun s q => q.gangs.foldl (fun s g => s.addGang q.core g.2.1 (startGang l key bid g.1 g.2.2 s.now)) s) s

/-- A restored gang stands in handler context at RESTVEC; what its routine must bring back is free till then (R355; log entry 22). -/
def restoredGang (k : Saved) (base now fresh : Nat) (seq : Word) (pc : Addr) : Gang :=
  let g := k.gang
  let free (n from' : Nat) : Words := Sp.setAll [] ((List.range n).map fun i => (i, freeWord (fresh + 4 * (from' + i))))
  let lanes (m : Words) : Words := m.filter fun e => g.hasLane (e.1 % 32)
  let mask : BitVec 32 := maskOf g.hasLane
  let ctx := k.ctx.toNat
  { g with
    regKiB := base, vregs := lanes (free (32 * g.allot) 0), preds := Sp.setAll [] ((free 7 3072).map fun e => (e.1, e.2 &&& mask)), rngs := lanes (free 32 3080), lit := freeWord (fresh + 4 * 3112)
    sregs := Sp.setAll (free 24 3120) [(0, word ctx), (1, word (ctx / 2 ^ 32))]
    gmode := launchMode, routes := 0, rep := repOff g.rep, super := true, trap := none, bellWait := false, rolling := none, redo := false, entrySeq := seq
    xr := { g.xr with xcode := 0x09 }
    quads := handlerQuads { g with quads := (g.held.getD g.quads) } pc now
    inflight := [], pend := []
    pre := { leader := g.pre.leader, restoring := true, engine := k.engine.isSome } }

/-- A queue of requests with one at the head of its class, but behind a pair request that holds both engines: no later request passes that one
(R215). -/
def headOfClass (r : MxReq) (q : List MxReq) : List MxReq :=
  let first := if q.any (·.holds) then grantable q else []
  let rest := q.drop first.length
  first ++ rest.takeWhile (fun x => decide (x.prio % 4 ≠ r.prio)) ++ r :: rest.dropWhile fun x => decide (x.prio % 4 ≠ r.prio)

/-- The engine request of a restored gang goes to the head of its class (R215). -/
def State.headRequest (s : State) (core slot : Nat) (e : Bool × Nat) : State :=
  (s.modCore (core / 2 * 2) fun c => { c with mxq := headOfClass ⟨core, slot, e.1, e.2⟩ c.mxq }).at s.now (.engineGrant (core / 2 * 2))

/-- The records of a block pass their checks (R356). -/
def State.recordsOk (s : State) (b : Block) : Bool :=
  b.saved.all fun k =>
    let a := k.ctx.toNat
    word (s.dev32 (a + 1020)) == s.recordCrc a 255
      && (!k.gang.pre.leader || s.recordCrc (a + 1024) ((b.recordBytes + 3) / 4) == k.crc)

/-- Restore a pre-empted block on planned cores (R355): CTXBAD when a record fails its check, RESUME when RESTVEC is not valid. -/
def State.placeOld (s : State) (l : Launch) (b : Block) (parts : List PartPlan) : State :=
  match parts with
  | [] => s
  | p :: more =>
    if !s.recordsOk b then s.killBlock b.key 4 xCtxBad 0
    else match vectorPc (s.domainAt l.domain).restvec with
      | none => s.killBlock b.key 4 xResume 0
      | some pc =>
        let s := s.modLaunch l.idx fun x => { x with resume := x.resume.filter (· != b.key) }
        let s := s.modBlock b.key fun x =>
          { x with core := p.core, placedAt := s.now, slots := (p.lowSlot, (more.head?).elim 64 (·.lowSlot))
                   scrKiB := (p.scr, (more.head?).elim 0 (·.scr)), saved := [], resident := true }
        let s := parts.foldl (fun s q => s.placePart l b.key q) s
        let s := (parts.zip b.trees).foldl (fun s q => s.modCore q.1.core fun c => { c with trees := q.2 }) s
        let put (s : State) (core : Nat) (g : Nat × Nat × Nat) : State :=
          match b.saved.find? fun k => k.gang.number == g.1 with
          | none => s
          | some k =>
            let s := s.addGang core g.2.1 (restoredGang k g.2.2 s.now s.fresh (s.coreAt core).leatSeq pc)
            let s : State := State.modCore { s with fresh := s.fresh + 4 * 3200 } core fun c => c.reslot b.key (64 + g.1) g.2.1
            let s := if k.handler then s.modBoard l.domain fun x => { x with hgang := hgangOf core g.2.1, hres := true } else s
            let s := match k.engine with | some e => s.headRequest core g.2.1 e | none => s
            if badPc pc then s.killBlock b.key 4 xNested (pc.toNat % 2 ^ 32) else s
        (parts.foldl (fun s q => q.gangs.foldl (fun s g => put s q.core g) s) s).poke l.domain

/-- What a placement step places: new blocks by number, or pre-empted ones. -/
inductive Item where
  | new (bid : Nat)
  | old (b : Block)
  deriving DecidableEq, Repr

def Item.nums (l : Launch) : Item → List Nat
  | .new _ => List.range l.gangs
  | .old b => (b.saved.map fun k => k.gang.number).insertionSort (· ≤ ·)

def State.placeItem (s : State) (l : Launch) (i : Item) (parts : List PartPlan) : State :=
  match i with | .new bid => s.placeNew l bid parts | .old b => s.placeOld l b parts

/-- A pre-empted block that was killed meanwhile, as a mate of a span whose records are bad (R270, R356). -/
def State.itemGone (s : State) : Item → Bool
  | .new _ => false
  | .old b => (s.blockAt b.key).isNone

/-- Place items one after the other on some cores; none unless all fit. A kill on the way ends it. -/
def State.placeAll (s : State) (excl : List Nat) (l : Launch) (cores : List Nat) : List Item → Option State
  | [] => some s
  | i :: is =>
    if s.itemGone i then some s
    else (s.bestPlan excl l (i.nums l) cores).bind fun p => State.placeAll (s.placeItem l i p) excl l cores is

/-- The items of a launch's next placement: a pre-empted span first, then the next new span (R340, R355). -/
def State.nextItems (s : State) (l : Launch) : List Item :=
  match l.resume with
  | key :: _ =>
    match s.blockAt key with
    | none => []
    | some b =>
      let span := b :: s.spanOf b
      if span.any (·.resident) then [] else (span.insertionSort fun x y => x.bid ≤ y.bid).map .old
  | [] =>
    if l.blocks ≤ l.nextBlock then []
    else (List.range (Nat.min l.span (l.blocks - l.nextBlock))).map fun k => .new (l.nextBlock + k)

/-- The clusters in the order in which R297 ranks the core of a first block in each. -/
def State.byRank (s : State) (excl : List Nat) (l : Launch) (nums : List Nat) (clusters : List Nat) : List Nat :=
  ((clusters.filterMap fun c => (s.bestPlan excl l nums (coresOf c)).map fun p => (s.rank l p, c)).insertionSort fun x y => x.1 ≤ y.1).map (·.2)

/-- Try a launch's next placement: a single block on the best of all cores, a span on the first cluster, in the order of its first block,
that takes it whole (R252, R297). -/
def State.tryPlace (s : State) (excl : List Nat) (l : Launch) (clusters : List Nat) : Option State :=
  match s.nextItems l with
  | [] => none
  | i :: is =>
    if l.span = 1 then s.placeAll excl l (clusters.flatMap coresOf) (i :: is)
    else (s.byRank excl l (i.nums l) clusters).findSome? fun c => s.placeAll excl l (coresOf c) (i :: is)

/-- NOFIT (R338): a block beyond 26 bays or the slots of a quarter, or a span that an empty cluster cannot take. -/
def State.noFit (s : State) (l : Launch) : Bool :=
  let scr := (l.scratchKiB + 31) / 32
  let runner := if l.pair then ((List.range l.gangs).filter fun g => !g.testBit 2).length else l.gangs
  let bays (n : Nat) : Nat := (n * l.allot + 31) / 32 + scr
  let empty : State := { s with cores := [], blocks := [], pr := { s.pr with clumap := 0xFFFFFFFF } }
  decide (26 < bays runner) || (empty.placeAll [] l (coresOf (l.die * 16)) ((List.range (Nat.min l.span l.blocks)).map .new)).isNone

/-! ### Completion (R342, R348) -/

/-- A launch's completion counter is valid (CV). -/
def Launch.counted (l : Launch) : Bool := (l.w 0).testBit 10

/-- Add to a launch's completion counter (R342); one of another package is incremented there. -/
def State.launchCounter (s : State) (l : Launch) : State :=
  if !l.counted then s
  else if s.homedHere (l.pair64 16) then s.addCounter (l.pair64 16) (l.pair64 18)
  else (s.deviceOf (l.pair64 16)).elim s fun d => s.tellDevice d (l.pair64 16) (.increment (l.pair64 18))

/-- The launch's writes are visible and its engine work has landed (R342). -/
def State.launchVisible (s : State) (l : Launch) : Bool :=
  decide (l.stamp ≤ s.now) && s.cores.all fun c =>
    (c.2.leat.all fun e => e.launch != l.idx || e.relm.isSome) && (c.2.works.all fun w => w.blk / 2 ^ 32 != l.idx)
      && (c.2.recs.all fun r => r.blk / 2 ^ 32 != l.idx) && (c.2.atoms.all fun a => a.blk / 2 ^ 32 != l.idx)
      && (c.2.wins.all fun a => a.blk / 2 ^ 32 != l.idx) && (c.2.heldOps.all fun h => h.blk / 2 ^ 32 != l.idx)
      && (c.2.mmas.all fun m => m.blk / 2 ^ 32 != l.idx) && (c.2.moves.all fun m => m.blk / 2 ^ 32 != l.idx)

/-- A launch is failed for good: its counter where CFAIL = 1, then its journal entry (R338, R342). -/
def State.closeFailed (s : State) (l : Launch) (status : Nat) : State :=
  ((if (l.w 0).testBit 11 then s.launchCounter l else s).modLaunch l.idx fun l => { l with closing := true }).setLaunch l.idx 4 status

/-- The increment of a completion counter is a release of SYSTEM scope (R342): every write of the package is CLEAN (R316), and the dirty lines of host
pages have gone back to the host, which acknowledges at an open latency (R315; log entry 99). None when that is so. -/
def State.launchRelease (s : State) (l : Launch) : Option State :=
  if !l.counted then none
  else if !s.unclean.isEmpty then some (s.later (.launchCompletion l.idx))
  else match l.host with
    | some t => if s.now < t then some (s.at t (.launchCompletion l.idx)) else none
    | none =>
      if s.pages.all (fun p => !p.ofHost) = true then none
      else
        let t := s.now + 1 + Config.latency s.fresh
        some ((s.hostBack.bump.modLaunch l.idx fun l => { l with host := some t }).at t (.launchCompletion l.idx))

/-- LAUNCH_COMPLETION (R342, R348): the counter, then the journal entry, once the completion is visible. -/
def execLaunchCompletion (idx : Nat) (s : State) : Result :=
  match s.launches.find? (·.idx == idx) with
  | none => .next s
  | some l =>
    let s := (s.syncBoard l.domain).at s.now (.placementStep l.die)
    if l.closing || l.state == 3 then .next s
    else if l.state = 4 then
      let here := s.blocks.any fun b => b.launch == idx && b.resident
      if here then .next s
      else if !s.launchVisible l then .next (s.later (.launchCompletion idx))
      else .next (((if (l.w 0).testBit 11 then s.launchRelease l else none)).getD
        (State.closeFailed { s with blocks := s.blocks.filter (·.launch != idx) } l l.status))
    else if l.blocksDone < l.blocks then .next s
    else if !s.launchVisible l then .next (s.later (.launchCompletion idx))
    else .next ((s.launchRelease l).getD (((s.launchCounter l).modLaunch idx fun l => { l with closing := true }).setLaunch idx 3 0))

/-! ### Queues and dependences (R335 to R339) -/

/-- Fail a launch that places nothing more, with a status. -/
def State.rejectLaunch (s : State) (idx status : Nat) : State :=
  (s.modLaunch idx fun l => { l with state := 4, status := status, changed := s.now }).at s.now (.launchCompletion idx)

/-- A counter wait of an accepted launch: holds, does not hold, or is refused for good (R339). -/
def State.testWait (s : State) (va v : Nat) : Nat :=
  if (s.deviceOf va).isNone then 2
  else if !s.homedHere va then (if v ≤ s.dev64 va then 1 else 0)
  else match s.homeCheck 5 va false false none false with
    | 0 => if v ≤ s.dev64 va then 1 else 0
    | 1 => 0
    | 2 => 0
    | _ => 2

/-- Test a launch's waits; a ready launch may be placed. -/
def State.testLaunch (s : State) (l : Launch) : State :=
  if l.state ≠ 1 ∨ l.waitsHold = true then s
  else
    let t (bit k : Nat) : Nat := if (l.w 0).testBit bit then s.testWait (l.pair64 k) (l.pair64 (k + 2)) else 1
    let r := [t 8 8, t 9 12]
    let s := s.bump
    if r.contains 2 then s.rejectLaunch l.idx 3
    else if r.contains 0 then s
    else (s.modLaunch l.idx fun l => { l with waitsHold := true }).at s.now (.placementStep l.die)

/-- Test every accepted launch of a die. -/
def State.testDie (s : State) (die : Nat) : State := (s.launches.filter (·.die == die)).foldl (fun s l => s.testLaunch l) s

/-- A slice of a length begins for the function's launches that were accepted with that length, unless one runs (R349, R426; log entry 107). -/
def State.takeSlice (s : State) (f : Nat) : State :=
  let x := s.funcAt f
  if x.sliceLen = 0 ∨ x.sliceEnds.any (·.1 == x.sliceLen) = true then s
  else
    let t := s.now + x.sliceLen
    ({ s with funcs := Kv.put s.funcs f { x with sliceEnds := x.sliceEnds ++ [(x.sliceLen, t)] } }).at t (.sliceTimeEnd f)

/-- A record is read: the checks, its journal entry, and its waits (R338). -/
def State.acceptRecord (s : State) (q : Queue) (a : Nat) : State :=
  let idx := s.pr.jrnltail.toNat
  let l : Launch :=
    { idx := idx, function := q.function, die := q.die, queue := q.queue, domain := q.domain, borrow := q.borrow
      record := (List.range 32).map fun k => word (s.dev32 (a + 4 * k)), state := 1, status := 0, replays := 0, xcode := 0, xinfo := 0
      badBlock := 0, xva := 0, blocksDone := 0, changed := s.now, nextBlock := 0, waitsHold := false, waitSince := none, onHold := false
      resume := [], closing := false, stamp := 0, owners := s.pr.clusterOwner, tag := (s.domainAt q.domain).tag, slice := (s.funcAt q.function).sliceLen }
  let old := s.launches.filter fun x => x.idx != s.slotHolds
  let s : State := { s with launches := old ++ [l], pr := { s.pr with jrnltail := s.pr.jrnltail + 1 } }
  if badRecord l then s.closeFailed l 1
  else if s.noFit l then s.closeFailed l 2
  else ((s.journal idx).takeSlice q.function).testLaunch l

/-- Accepted launches of a die that are neither done nor failed (R338); a rejected record was not accepted. -/
def State.liveLaunches (s : State) (die : Nat) : Nat :=
  (s.launches.filter fun l => l.die == die && !l.closing).length

/-- Read up to n records of a queue. -/
def State.readQueue (s : State) (k : Nat) : Nat → State
  | 0 => s
  | n + 1 =>
    match s.queues[k]? with
    | none => s
    | some q =>
      let tail := s.dev32 q.base
      let size := 2 ^ q.log
      if tail = q.head ∨ s.jrnlRoom = false ∨ 1024 ≤ s.liveLaunches q.die then s
      else
        let s := s.acceptRecord q (q.base + 128 + 128 * (q.head % size))
        let head := (q.head + 1) % 2 ^ 32
        let s : State := { s with queues := setAt s.queues k fun q => { q with head := head } }
        State.readQueue (s.devWrite32 (q.base + 4) head) k n

/-- Read the queues of a die that a condition names (R336). -/
def State.readQueues (s : State) (die : Nat) (p : Queue → Bool) : State :=
  if !s.pr.ready.getLsbD die then s
  else ((List.range s.queues.length).filter fun k => (s.queues[k]?).elim false fun q => q.die == die && p q).foldl (fun s k =>
    let held := (s.queues[k]?).elim 0 fun q => Nat.min (2 ^ q.log) ((s.dev32 q.base + 2 ^ 32 - q.head) % 2 ^ 32)
    s.readQueue k held) s

/-- DISTRIBUTOR_BELL (R336, R339); when it rings is open (log entry 20). -/
def execDistributorBell (die function : Nat) (s : State) : Result :=
  .next ((s.readQueues die fun q => q.function == function).testDie die)

/-- DISTRIBUTOR_POLL (R336): every queue of the die, at least once in 65,536 clocks. -/
def execDistributorPoll (die : Nat) (s : State) : Result := .next (s.readQueues die fun _ => true)

/-- DEPENDENCE_TEST (R339): every 1,024 clocks; the distributor looks at placements again as well. -/
def execDependenceTest (die : Nat) (s : State) : Result :=
  let s := s.testDie die
  .next (if s.launches.any fun l => l.die == die && l.ready && l.wants then s.at s.now (.placementStep die) else s)

/-! ### Placement steps (R297, R340) and pre-emption requests (R349, R358, R359) -/

/-- The launches of a die whose next blocks may be placed, in acceptance order (R340). -/
def State.heads (s : State) (die : Nat) : List Launch :=
  s.launches.filter fun l =>
    l.die == die && l.ready && !(s.nextItems l).isEmpty && (!l.resume.isEmpty ||
      !s.launches.any fun o => decide (o.idx < l.idx) && o.function == l.function && o.queue == l.queue && o.die == die
        && (o.state == 1 || o.state == 2) && decide (o.nextBlock < o.blocks))

/-- The turn of a launch's queue in the rotation. -/
def queueTurn (rr : Nat) (l : Launch) : Nat := (l.function * 16 + l.queue + 2048 - rr % 2048) % 2048

/-- A launch's blocks have been placed. -/
def State.placed (s : State) (l : Launch) : State :=
  let n := if l.resume.isEmpty then Nat.min l.span (l.blocks - l.nextBlock) else 0
  let s := s.modLaunch l.idx fun x => { x with nextBlock := x.nextBlock + n, waitSince := none }
  let s := if l.state = 1 then s.setLaunch l.idx 2 0 else s
  { s with dist := setAt s.dist l.die fun d => { d with rot := (d.rot + 1) % 16, lastStep := some s.now, rr := (l.function * 16 + l.queue + 1) % 2048 } }

/-- The own clusters of a launch's function (R359). -/
def Launch.ownClusters (l : Launch) : List Nat := ((List.range 16).map (l.die * 16 + ·)).filter fun c => l.ownerOf c == some l.function

/-- Those of them that are lent. -/
def State.lentClusters (s : State) (l : Launch) : List Nat :=
  l.ownClusters.filter fun c => s.blocks.any fun b => b.resident && clusterOf b.core == c && (s.domainAt b.domain).function != l.function

/-- A ready launch's block finds no candidate on its function's own clusters (R359). -/
def State.ownBlocked (s : State) (l : Launch) : Bool :=
  (s.tryPlace [] l ((s.clustersFor l).filter fun c => l.ownerOf c == some l.function)).isNone

/-- Every borrower block of a cluster is pre-empted (R359). -/
def State.reclaim (s : State) (cluster f : Nat) : State :=
  (s.blocks.filter fun b => b.resident && clusterOf b.core == cluster && (s.domainAt b.domain).function != f).foldl (fun s b => s.preemptBlock b.key) s

/-- The first lent cluster is reclaimed for a launch whose block finds no candidate on the owner's clusters (R359). -/
def State.reclaimFor (s : State) (l : Launch) : State :=
  if s.ownBlocked l then match s.lentClusters l with | c :: _ => s.reclaim c l.function | [] => s else s

/-- A ready launch that finds no candidate: its wait begins. -/
def State.blocked (s : State) (l : Launch) : State :=
  if l.waitSince.isSome then s
  else (s.modLaunch l.idx fun x => { x with waitSince := some s.now }).at (s.now + 2048) (.preemptionRequest l.die l.idx)

/-- PLACEMENT_STEP (R297, R340): one block or span, at most every 16 clocks. -/
def execPlacementStep (die : Nat) (s : State) : Result :=
  let d := s.dist.getD die {}
  if !s.pr.ready.getLsbD die then .next s
  else if d.lastStep.elim false fun t => decide (s.now < t + 16) then .next (s.at ((d.lastStep.getD 0) + 16) (.placementStep die))
  else
    let hs := (s.heads die).insertionSort fun x y =>
      y.prio < x.prio ∨ (x.prio = y.prio ∧ (queueTurn d.rr x < queueTurn d.rr y ∨ (queueTurn d.rr x = queueTurn d.rr y ∧ x.idx ≤ y.idx)))
    let s := hs.foldl (fun s l => s.reclaimFor l) s
    let try' (l : Launch) : Option (State × Launch) := (s.tryPlace [] l (s.clustersFor l)).map fun t => (t, l)
    let none' := hs.filter fun l => (try' l).isNone
    let wait (s : State) : State := none'.foldl (fun s l => s.blocked l) s
    match hs.findSome? try' with
    | some (t, l) => .next (wait ((t.placed l).at (s.now + 16) (.placementStep die)))
    | none => .next (wait s)

/-- BLOCK_RESTORE (R355): a pre-empted block is restored at the next placement step (R297), where a candidate exists. -/
def execBlockRestore (blk : Nat) (s : State) : Result :=
  match s.launches.find? fun l => l.ready && (l.resume.head?) == some blk with
  | none => .next s
  | some l =>
    if (s.dist.getD l.die {}).lastStep.elim false fun t => decide (s.now < t + 16) then .next s
    else match s.tryPlace [] l (s.clustersFor l) with
    | some t => .next (t.placed l)
    | none => .next s

/-- The sets of whole spans with n blocks in all, each span where its first block stands in the order given. -/
def spanSets : Nat → List (List Block) → List (List Block)
  | n, [] => if n = 0 then [[]] else []
  | n, u :: us => (if u.length ≤ n then (spanSets (n - u.length) us).map (u ++ ·) else []) ++ spanSets n us

/-- The whole spans of some blocks, in their order. -/
def State.spansIn (s : State) (bs : List Block) : List (List Block) :=
  bs.foldl (fun us b => if us.any (·.any (·.key == b.key)) then us else us ++ [b :: (s.spanOf b).filter (·.resident)]) []

/-- The fewest of some blocks whose leaving makes a candidate on some cores, the first set in their order. -/
def State.fewest (s : State) (l : Launch) (cores : List Nat) (victims : List Block) : Option (List Block) :=
  let us := s.spansIn victims
  (List.range (us.map (·.length)).sum).findSome? fun n =>
    (spanSets (n + 1) us).find? fun bs => (s.placeAll (bs.map (·.key)) l cores (s.nextItems l)).isSome

/-- The order of R349: lowest priority first, then the most recently placed. -/
def victimFirst (x y : Block) : Bool := decide (x.prio < y.prio) || (x.prio == y.prio && decide (y.placedAt ≤ x.placedAt))

/-- Victims in that order. -/
def victimOrder (bs : List Block) : List Block := bs.insertionSort fun x y => victimFirst x y = true

/-- One list of victims comes before another of the same length. -/
def victimsBefore : List Block → List Block → Bool
  | x :: xs, y :: ys => if victimFirst x y && victimFirst y x then victimsBefore xs ys else victimFirst x y
  | _, _ => false

/-- The places a candidate may take: a core, a stone pair by its even core, or for a span a cluster (R252, R297). -/
def State.placesFor (s : State) (l : Launch) : List (List Nat) :=
  if l.span = 1 then (((s.clustersFor l).flatMap coresOf).filter fun k => !l.pair || k % 2 == 0).map ([·])
  else (s.clustersFor l).map coresOf

/-- A block holds something of a place. -/
def Block.inPlace (b : Block) (l : Launch) (cores : List Nat) : Bool :=
  cores.any fun k => if b.pair || l.pair then b.core / 2 == k / 2 else b.core == k

/-- Pre-empt the fewest of some blocks that free one candidate for a launch (R349; log entry 102). -/
def State.preemptFor (s : State) (l : Launch) (p : Block → Bool) : State :=
  let one (cores : List Nat) : Option (List Block) :=
    (s.fewest l cores (victimOrder (s.blocks.filter fun b => b.resident && b.inPlace l cores && p b))).map victimOrder
  let best := ((s.placesFor l).filterMap one).foldl (fun m ks => match m with
    | none => some ks
    | some b => if ks.length < b.length ∨ (ks.length = b.length ∧ victimsBefore ks b = true) then some ks else some b) (none : Option (List Block))
  (best.getD []).foldl (fun s b => s.preemptBlock b.key) s

/-- The wait of a launch without a candidate is over; the next step that finds none begins another (R349). -/
def State.waitOver (s : State) (idx : Nat) : State := s.modLaunch idx fun x => { x with waitSince := none }

/-- PREEMPTION_REQUEST (R349): a ready launch whose block has waited 2,048 clocks. One that is held back or has a candidate waits no more; a
placement step looks at it again. -/
def execPreemptionRequest (die idx : Nat) (s : State) : Result :=
  match (s.heads die).find? (·.idx == idx) with
  | none => .next (s.waitOver idx)
  | some l =>
    match l.waitSince with
    | none => .next s
    | some t =>
      if s.now < t + 2048 then .next (s.at (t + 2048) (.preemptionRequest die idx))
      else if (s.tryPlace [] l (s.clustersFor l)).isSome then .next ((s.waitOver idx).at s.now (.placementStep die))
      else .next ((s.preemptFor l fun b => decide (b.prio < l.prio)).waitOver idx)

/-- A block runs under a slice length of a function: the one its launch was accepted with (R426). -/
def State.underSlice (s : State) (function len : Nat) (b : Block) : Bool :=
  (s.domainAt b.domain).function == function && (s.launches.find? (·.idx == b.launch)).elim false (·.slice == len)

/-- A slice length of a function ends: its blocks make room for each waiting launch of another function, and the next slice begins while a launch
has that length (R349). -/
def State.endSlice (s : State) (function len : Nat) : State :=
  let waiting := ((s.heads 0) ++ (s.heads 1)).filter fun l => l.function != function && (s.tryPlace [] l (s.clustersFor l)).isNone
  let s := waiting.foldl (fun s l => s.preemptFor l fun b => s.underSlice function len b && decide (b.prio ≤ l.prio)) s
  let x := s.funcAt function
  let rest := x.sliceEnds.filter (·.1 != len)
  let goes := s.launches.any fun l => l.function == function && l.slice == len && !l.closing
  let t := s.now + len
  let s : State := { s with funcs := Kv.put s.funcs function { x with sliceEnds := if goes then rest ++ [(len, t)] else rest } }
  if goes then s.at t (.sliceTimeEnd function) else s

/-- SLICE_TIME_END (R349): the slices of a function that end by now. -/
def execSliceTimeEnd (function : Nat) (s : State) : Result :=
  .next ((((s.funcAt function).sliceEnds.filter fun e => decide (e.2 ≤ s.now)).map (·.1)).foldl (fun s len => s.endSlice function len) s)

/-- CLUSTER_RECLAIM (R359): for a ready launch of the owner that finds no candidate. -/
def execClusterReclaim (die cluster : Nat) (s : State) : Result :=
  let c := die * 16 + cluster % 16
  match (s.heads die).find? fun l => l.ownerOf c == some l.function && s.ownBlocked l with
  | some l => .next (s.reclaim c l.function)
  | none => .next s

end Sys2Proof.Machine
end

