-- ==== Sys2Proof/Machine/Signature.lean ====
section
/-! DEFINITION. The check of a firmware section's signature (R425): SHA-512 (FIPS 180-4) and the verification of Ed25519 (RFC 8032, 5.1), which
the rule names and does not repeat (log entry 126). -/

namespace Sys2Proof.Machine

open Sys2Proof

/-! ### SHA-512 -/

/-- The first 80 primes. -/
def shaPrimes : List Nat := ((List.range 410).filter fun n => decide (2 ≤ n) && (List.range 19).all fun k => decide (n < (k + 2) * (k + 2)) || n % (k + 2) != 0)

/-- The integer cube root of n below 2^bits. -/
def cubeRoot (n : Nat) : Nat → Nat → Nat
  | 0, r => r
  | bit + 1, r => let t := r + 2 ^ bit; cubeRoot n bit (if t * t * t ≤ n then t else r)

/-- The integer square root of n below 2^bits. -/
def squareRoot (n : Nat) : Nat → Nat → Nat
  | 0, r => r
  | bit + 1, r => let t := r + 2 ^ bit; squareRoot n bit (if t * t ≤ n then t else r)

/-- The round constants: 64 fraction bits of the cube roots of the primes. -/
def shaRound : List (BitVec 64) := shaPrimes.map fun p => BitVec.ofNat 64 (cubeRoot (p * 2 ^ 192) 70 0)

/-- The first hash value: 64 fraction bits of the square roots of the first eight. -/
def shaStart : List (BitVec 64) := (shaPrimes.take 8).map fun p => BitVec.ofNat 64 (squareRoot (p * 2 ^ 128) 70 0)

/-- A big-endian number of bytes. -/
def bigEndian (bs : List (BitVec 8)) : Nat := bs.foldl (fun n b => n * 256 + b.toNat) 0

/-- The big-endian bytes of a number. -/
def bigBytes (n v : Nat) : List (BitVec 8) := ((List.range n).map fun k => BitVec.ofNat 8 (v / 256 ^ k)).reverse

/-- The schedule of a block, its latest word first. -/
def shaSchedule (block : List (BitVec 8)) : List (BitVec 64) :=
  (List.range 64).foldl (fun ws _ =>
    let w (k : Nat) : BitVec 64 := ws.getD (k - 1) 0
    let s0 := (w 15).rotateRight 1 ^^^ (w 15).rotateRight 8 ^^^ w 15 >>> 7
    let s1 := (w 2).rotateRight 19 ^^^ (w 2).rotateRight 61 ^^^ w 2 >>> 6
    (s1 + w 7 + s0 + w 16) :: ws) ((List.range 16).map fun k => BitVec.ofNat 64 (bigEndian ((block.drop (8 * k)).take 8))).reverse

/-- One round. -/
def shaStep (h : List (BitVec 64)) (kw : BitVec 64 × BitVec 64) : List (BitVec 64) :=
  match h with
  | [a, b, c, d, e, f, g, x] =>
    let t1 := x + (e.rotateRight 14 ^^^ e.rotateRight 18 ^^^ e.rotateRight 41) + (e &&& f ^^^ ~~~ e &&& g) + kw.1 + kw.2
    let t2 := (a.rotateRight 28 ^^^ a.rotateRight 34 ^^^ a.rotateRight 39) + (a &&& b ^^^ a &&& c ^^^ b &&& c)
    [t1 + t2, a, b, c, d + t1, e, f, g]
  | h => h

/-- The padded message. -/
def shaPad (m : List (BitVec 8)) : List (BitVec 8) :=
  m ++ [0x80#8] ++ List.replicate ((111 + 128 - m.length % 128) % 128) 0 ++ bigBytes 16 (8 * m.length)

/-- SHA-512. -/
def sha512 (m : List (BitVec 8)) : List (BitVec 8) :=
  let p := shaPad m
  let h := (List.range (p.length / 128)).foldl (fun h k =>
    List.zipWith (· + ·) h ((shaRound.zip (shaSchedule ((p.drop (128 * k)).take 128)).reverse).foldl shaStep h)) shaStart
  h.flatMap fun w => bigBytes 8 w.toNat

/-! ### Ed25519 -/

/-- The prime of the field. -/
def edP : Nat := 2 ^ 255 - 19

/-- The order of the base point. -/
def edL : Nat := 2 ^ 252 + 27742317777372353535851937790883648493

/-- A power modulo a number, by a count of exponent bits. -/
def powMod (b e m : Nat) : Nat → Nat
  | 0 => 1 % m
  | bit + 1 => powMod (b * b % m) (e / 2) m bit * (if e % 2 = 1 then b else 1) % m

/-- The inverse in the field. -/
def edInv (x : Nat) : Nat := powMod x (edP - 2) edP 255

/-- The curve's constant d. -/
def edD : Nat := (edP - 121665) * edInv 121666 % edP

/-- A point (x, y). -/
abbrev EdPoint := Nat × Nat × Nat × Nat

/-- The sum of two points in extended coordinates. -/
def edAdd (p q : EdPoint) : EdPoint :=
  let a := (p.2.1 + edP - p.1) * (q.2.1 + edP - q.1) % edP
  let b := (p.2.1 + p.1) * (q.2.1 + q.1) % edP
  let c := p.2.2.2 * 2 % edP * edD % edP * q.2.2.2 % edP
  let d := p.2.2.1 * 2 * q.2.2.1 % edP
  let e := b + edP - a
  let f := d + edP - c
  let g := d + c
  let h := b + a
  (e * f % edP, g * h % edP, f * g % edP, e * h % edP)

/-- A multiple of a point, by a count of bits. -/
def edMul (n : Nat) (p : EdPoint) : Nat → EdPoint
  | 0 => (0, 1, 1, 0)
  | bit + 1 => let q := edMul (n / 2) (edAdd p p) bit; if n % 2 = 1 then edAdd p q else q

/-- Two points are equal. -/
def edSame (p q : EdPoint) : Bool :=
  p.1 * q.2.2.1 % edP == q.1 * p.2.2.1 % edP && p.2.1 * q.2.2.1 % edP == q.2.1 * p.2.2.1 % edP

/-- The point with a given y and sign of x (RFC 8032, 5.1.3). -/
def edPoint (y sign : Nat) : Option EdPoint :=
  let u := (y * y + edP - 1) % edP
  let v := (edD * (y * y % edP) + 1) % edP
  let x2 := u * edInv v % edP
  let r := powMod x2 ((edP + 3) / 8) edP 255
  let r := if r * r % edP = x2 then r else r * powMod 2 ((edP - 1) / 4) edP 255 % edP
  if edP ≤ y ∨ r * r % edP ≠ x2 ∨ (r = 0 ∧ sign = 1) then none
  else
    let x := if r % 2 = sign then r else edP - r
    some (x, y, 1, x * y % edP)

/-- A point from its 32 bytes. -/
def edDecode (bs : List (BitVec 8)) : Option EdPoint :=
  let n := bigEndian bs.reverse
  if bs.length = 32 then edPoint (n % 2 ^ 255) (n / 2 ^ 255) else none

/-- The base point. -/
def edBase : Option EdPoint := edPoint (4 * edInv 5 % edP) 0

/-- A signature of a message verifies under a key (RFC 8032, 5.1.7). -/
def edVerify (key message signature : List (BitVec 8)) : Bool :=
  let sN := bigEndian (signature.drop 32).reverse
  let k := bigEndian (sha512 (signature.take 32 ++ key ++ message)).reverse % edL
  match edDecode key, edDecode (signature.take 32), edBase with
  | some a, some r, some b =>
    signature.length == 64 && decide (sN < edL)
      && edSame (edMul 8 (edMul sN b 256) 4) (edMul 8 (edAdd r (edMul k a 256)) 4)
  | _, _, _ => false

/-! ### R425 -/

/-- The signing key is the one whose digest is fused into the package. -/
def keyFused (key : List (BitVec 8)) : Bool := sha512 key == Config.fusedKeyDigest

/-- A section's signature over the SHA-512 digest of its body verifies under the signing key. -/
def sectionSigned (key body signature : List (BitVec 8)) : Bool := edVerify key (sha512 body) signature

end Sys2Proof.Machine
end

