-- ==== Sys2Proof/Machine/Package.lean ====
section
/-! DEFINITION. Start-up, readiness, resets, power and the configuration mailbox (R271, R425 to R427, R432 to R436, R461). -/

namespace Sys2Proof.Machine

open Sys2Proof

/-! ### A cluster goes down (R271) -/

/-- The undrained entries of a core are lost, and with them the copies of their lines wherever they were replayed: a load elsewhere returns the
home's older value (R271). -/
def State.loseLeat (s : State) (core : Nat) : State :=
  ((s.coreAt core).leat.filter fun e => !e.applied).foldl (fun s e => s.withdraw core e) s

/-- ACQLs that wait on some cores trap LEATNAME with cause 1 (R271). -/
def State.trapAcql (s : State) (down : Nat → Bool) : State :=
  let hit (r : Promo) : Bool := r.kind == 0 && r.upto.elim false fun u => down u.1
  let ws := s.cores.flatMap fun c => (c.2.promos.filter hit).map fun r => (c.1, r.slot, r.lead)
  let s : State := { s with cores := s.cores.map fun c => (c.1, { c.2 with promos := c.2.promos.filter fun r => !hit r }) }
  ws.foldl (fun s w => match s.gangAt w.1 w.2.1 with
    | none => s
    | some g => s.takeTrap w.1 w.2.1 ⟨BitVec.ofNat 8 xLeatName, 1, (g.quad w.2.2).pc, w.2.2, none⟩) s

/-- CLUSTER_LINK_FAILURE (R271, R433). -/
def execClusterLinkFailure (cluster : Nat) (s : State) : Result :=
  let k := cluster % 32
  let pr := s.pr
  let s : State := { s with pr := { pr with clumap := pr.clumap &&& ~~~ (1#32 <<< k), down := pr.down ||| (1#32 <<< k) } }
  let s := (s.blocks.filter fun b => b.resident && clusterOf b.core == k).foldl (fun s b => s.killBlock b.key 4 xClusterDown (k / 16 + k % 16 * 2)) s
  let s := ((s.cores.map (·.1)).filter fun c => clusterOf c == k).foldl (fun s c => s.loseLeat c) s
  .next ((s.trapAcql fun c => clusterOf c == k).errorRecord 3 [k / 16 + k % 16 * 2])

/-- CLUSTER_BRING_UP (R434). -/
def execClusterBringUp (cluster : Nat) (s : State) : Result :=
  let k := cluster % 32
  let pr := s.pr
  let s : State := { s with pr := { pr with down := pr.down &&& ~~~ (1#32 <<< k), clumap := if pr.ready.getLsbD (k / 16) then pr.clumap ||| (1#32 <<< k) else pr.clumap } }
  .next (s.at s.now (.placementStep (k / 16)))

/-! ### Firmware and readiness (R425, R427) -/

/-- FIRMWARE_DOWNLOAD (R425): an image with another key or an old counter is refused; a section that fails its check does not run. -/
def execFirmwareDownload (img : FwImage) (s : State) : Result :=
  if !keyFused img.key || decide (img.counter < Config.fusedCounter) then .next s
  else
    let good (x : FwSection) : Bool := sectionSigned img.key x.body x.signature
    let inImage (k : Nat) : Bool := img.sections.any (·.kind == k)
    let pass := ((img.sections.filter good).map (·.kind)) ++ s.fw.passed.filter fun k => !inImage k
    let fw : Firmware := { counter := img.counter, passed := pass.dedup, failing := (img.sections.find? fun x => !good x).map (·.kind)
                           harvest := s.fw.harvest, trims := s.fw.trims }
    let s : State := { s with fw := fw }
    if img.sections.any fun x => x.kind == 3 && good x then
      let s : State := { s with fw := { s.fw with harvest := img.harvest, trims := img.trims } }
      let s : State := { s with pr := { s.pr with devnum := img.devnum } }
      .next ((List.range 512).foldl (fun s k => s.modCore k fun c => { c with mxchk := img.mxchk }) s)
    else .next s

/-- The sections that a function needs (R425): the management firmware, which brings it up, for all but the host link, over which the image comes;
die firmware and configuration image for a die, the logic-die firmware for a stack, the configuration image for the ports (log entry 128). -/
def needSections (bit : Nat) : List Nat := if bit < 2 then [0, 2, 3] else if bit < 18 then [0, 1] else if bit = 18 then [] else [0, 3]

/-- The physical pair of a cluster that a logical pair is: the k-th that the configuration image has not harvested (R158, R210). The manual's names
are logical, so no other definition looks at it. -/
def Firmware.physicalPair (f : Firmware) (cluster k : Nat) : Nat := if k < (Kv.get? f.harvest cluster).getD 8 then k else k + 1

/-- Every stack is ready (R427). -/
def State.stacksReady (s : State) : Bool := (List.range 16).all fun k => s.pr.ready.getLsbD (2 + k)

/-- FUNCTION_READY (R427): a die only once every stack is ready; a stack's bit resumes every page of its homes. -/
def execFunctionReady (bit : Nat) (s : State) : Result :=
  if 55 ≤ bit ∨ s.pr.ready.getLsbD bit = true ∨ (needSections bit).all (s.fw.passed.contains ·) = false ∨ (bit < 2 ∧ s.stacksReady = false) then .next s
  else
    let pr := s.pr
    let s : State := { s with pr := { pr with ready := pr.ready ||| (1#64 <<< bit) } }
    if bit < 2 then
      let s : State := { s with pr := { s.pr with clumap := pr.clumap ||| (0xFFFF#32 <<< (16 * bit) &&& ~~~ pr.down) } }
      .next ((s.at s.now (.journalWalk bit)).at s.now (.distributorPoll bit))
    else if bit < 18 then
      let held := s.hostHeld.filter fun h => homeOf (hostVa s h.offset) / 4 == bit - 2
      let s := held.foldl (fun s h => s.at s.now (.homeRequest ⟨0, hostVa s h.offset, h.write, false, .host h.id, [], 0⟩)) s
      .next ((s.parks.filter fun e => e.home / 4 == bit - 2).foldl (fun s e => s.resumeRange e.va e.size) s)
    else if bit = 18 then .next { s with hostLanes := 16 }
    else
      let near := (freeWord s.fresh).toNat % 2 ^ 20
      let s : State := { s with ports := setAt s.ports (bit - 19) fun p => { p with lanes := 4, up := true, neighbour := near, fails := 0 } }
      .next { s with fresh := s.fresh + 4 }

/-! ### Fatal die reset (R432, R461) -/

/-- The core whose state a timed step of the device acts on. -/
def stepCore : Instr → Option Nat
  | .windowAccessArrival c _ => some c
  | .regangCompletion c _ _ => some c
  | .ctrwWake c _ _ => some c
  | .promotionComplete c _ => some c
  | .releaseCompletion c _ => some c
  | .mmaBegin c _ => some c
  | .mmaRetire c _ => some c
  | .kvStallTimeout c _ _ => some c
  | .bellDelivery c _ => some c
  | .fixedResultLanding c _ _ => some c
  | .variableReturnLanding c _ _ => some c
  | .leatEntrySeal c _ => some c
  | .tailBroadcastArrival c _ => some c
  | .leatDrainStart c => some c
  | .leatDrainAck c _ _ => some c
  | .bulkRecordService c => some c
  | .transferUnitLanding c _ _ => some c
  | .bulkRecordCompletion c _ => some c
  | .recordCounterIncrement c _ => some c
  | .portRequestDepart c => some c
  | .sliceFill c _ _ _ _ => some c
  | .sliceEntryApply c _ => some c
  | .sliceMissMerge c _ => some c
  | .invalidationAck _ _ c => some c
  | .sliceAtomic c _ _ _ => some c
  | .preemptTrap c _ => some c
  | .trapEntry c _ => some c
  | .refusalTrap c _ => some c
  | .delayedTrap c _ => some c
  | .homeRequest r => match r.asker with | .core c _ => some c | _ => none
  | .refusalReplayTimer c _ => some c
  | .rerouteReplay c _ => some c
  | .fabricTimeout c _ => some c
  | .markSettle c _ _ => some c
  | .accTransferComplete c _ _ => some c
  | .systemSubopComplete c _ _ => some c
  | .eccUncorrectable c _ _ _ => some c
  | .fabricAckArrival c _ _ => some c
  | _ => none

/-- A launch whose block a die reset kills keeps the first kill in its journal entry (R428, R432). -/
def Launch.resetKill (l : Launch) (bid info : Nat) : Launch :=
  if l.xcode = 0 then { l with xcode := word xDieReset, xinfo := word info, badBlock := word bid } else l

/-- The steps of a die reset (R432): its blocks, the cores' undrained entries, the slices' lines, its records in the
memory-side caches (R381), its READY and CLUMAP bits. The check interval stays as the configuration image gave it (R225). -/
def State.resetDie (s : State) (die cause : Nat) : State :=
  let info := die + cause * 16
  let here (core : Nat) : Bool := dieOf core == die
  let s := (s.blocks.filter fun b => b.resident && here b.core).foldl (fun s b =>
    (s.modLaunch b.launch fun l => l.resetKill b.bid info).dropBlock b.key) s
  let s := ((s.cores.map (·.1)).filter here).foldl (fun s c => s.loseLeat c) s
  let s := s.trapAcql here
  -- the entries that the walk is to handle: those the journal has as accepted or placed
  let lost (i : Nat) : Bool := s.launches.any fun l => l.idx == i && l.die == die && !l.closing
  let pr := s.pr
  let s : State :=
    { s with cores := s.cores.map fun c => if here c.1 then (c.1, { mxchk := c.2.mxchk }) else c
             sliceReqs := s.sliceReqs.filter fun r => !here r.core
             homeJobs := s.homeJobs.filter fun j => !(stepCore j.ev).any here
             served := s.served.filter fun e => !(stepCore e).any here
             tables := s.tables.filter fun t => !here t.core
             slices := s.slices.map fun x => if x.1 / 4096 = die then (x.1, { x.2 with lines := [] }) else x
             memCache := s.memCache.map fun m => { m with dies := m.dies &&& ~~~ (1#2 <<< die) }
             agenda := s.agenda.filter fun e => !(stepCore e.2).any here && match e.2 with | .launchCompletion i => !lost i | _ => true
             fabric := s.fabric.filter fun m => !here m.core
             kvq := s.kvq.filter fun r => !here r.core
             kvWait := s.kvWait.filter fun w => !(w.lead.isSome && here w.core)
             dist := setAt s.dist die fun _ => { walk := true }
             cur := s.cur.filter fun c => !here c.core
             pr := { pr with ready := pr.ready &&& ~~~ (1#64 <<< die), clumap := pr.clumap &&& ~~~ (0xFFFF#32 <<< (16 * die)) } }
  s.errorRecord 4 [info]

/-- DIE_RESET (R432): cause 0 watchdog, 1 distributor, 2 network. -/
def execDieReset (die cause : Nat) (s : State) : Result := .next (s.resetDie (die % 2) (cause % 16))

/-- A launch of a die that was reset (R432): a replayable one is accepted again, another fails. -/
def State.walkLaunch (s : State) (l : Launch) : State :=
  let s : State := { s with blocks := s.blocks.filter (·.launch != l.idx) }
  if l.repl then
    (s.modLaunch l.idx fun x =>
      { x with replays := x.replays + 1, nextBlock := 0, blocksDone := 0, resume := [], waitsHold := false, waitSince := none, host := none }).setLaunch l.idx 1 0
  else s.rejectLaunch l.idx 6

/-- JOURNAL_WALK (R432): once, when the die is ready again; of each entry that the journal has as accepted or placed, also one whose launch was to be
closed as failed. -/
def execJournalWalk (die : Nat) (s : State) : Result :=
  if !(s.dist.getD die {}).walk || !s.pr.ready.getLsbD die then .next s
  else
    let s : State := { s with dist := setAt s.dist die fun d => { d with walk := false } }
    let ls := s.launches.filter fun l => l.die == die && !l.closing
    .next ((ls.foldl (fun s l => s.walkLaunch l) s).testDie die)

/-! ### Power (R435, R461) -/

/-- The state right after bring-up; the host's memory is its own, and the free values go on. -/
def State.powerUp (s : State) (st : PowerState) : State :=
  { State.reset with hostMem := s.hostMem, fresh := s.fresh, pr := { State.reset.pr with dstate := st } }

/-- BRING_UP (R461). -/
def execBringUp (s : State) : Result := .next (s.powerUp .d0)

/-- A number that the manual leaves open. -/
def State.freeNat (s : State) (k : Nat) : Nat := (freeWord (s.fresh + 4 * k)).toNat

/-- THROTTLE_CHANGE (R435, R433): a new thermal limit writes a THERMAL record, whose sensor and temperature are free. -/
def execThrottleChange (level : BitVec 4) (power thermal : Bool) (s : State) : Result :=
  let was := s.pr.thermalLimited
  let s : State := { s with pr := { s.pr with throttle := level, powerLimited := power, thermalLimited := thermal } }
  if thermal && !was then
    let t := s.errorRecord 6 [s.freeNat 0, s.freeNat 1, 1]
    .next { t with fresh := t.fresh + 8 }
  else .next s

/-- THERMAL_TRIP (R435): every die is reset, with a cause that is free, and the module powers down. -/
def execThermalTrip (s : State) : Result :=
  let cause := s.freeNat 2 % 16
  let s := { s.errorRecord 6 [s.freeNat 0, s.freeNat 1, 2] with fresh := s.fresh + 12 }
  .next (((s.resetDie 0 cause).resetDie 1 cause).powerUp .d3cold)

/-- POWER_STATE_CHANGE (R435): D3hot only with no launch accepted; D3cold loses all state. -/
def execPowerStateChange (st : PowerState) (s : State) : Result :=
  match st with
  | .d0 => if s.pr.dstate = .d3cold then .next (s.powerUp .d0) else .next { s with pr := { s.pr with dstate := .d0 } }
  | .d3hot =>
    if s.pr.dstate = .d0 ∧ s.liveLaunches 0 + s.liveLaunches 1 = 0 then .next { s with pr := { s.pr with dstate := .d3hot } } else .next s
  | .d3cold => .next (s.powerUp .d3cold)

/-! ### The configuration mailbox (R426) -/

/-- A ring descriptor: base in [63:12], size n in [3:0] from lo to hi, the bits between zero. -/
def ringOk (v : Addr) (lo hi base : Nat) : Bool :=
  fld v.toNat (base - 1) 4 == 0 && decide (lo ≤ fld v.toNat 3 0) && decide (fld v.toNat 3 0 ≤ hi)

/-- Every field of a mailbox write is in range, and package rings are written only while no launch is accepted. -/
def State.mailOk (s : State) (m : MailWrite) : Bool :=
  let idle := s.liveLaunches 0 + s.liveLaunches 1 == 0
  match m with
  | .queue f q base log die d _ =>
    decide (f ≤ 64) && decide (q < 16) && base.toNat % 4096 == 0 && decide (4 ≤ log) && decide (log ≤ 12) && decide (die < 2) && decide (d < 256)
  | .clusterOwner c f => decide (c < 32) && decide (f ≤ 64)
  | .sliceLen f _ => decide (f ≤ 64)
  | .tenantTag d tag => decide (d < 256) && decide (tag < 2 ^ 16)
  | .domainFunction d f => decide (d < 256) && decide (f ≤ 64)
  | .hcmdq v => idle && ringOk v 4 12 12
  | .hfltq v => idle && ringOk v 4 12 12
  | .errq v => idle && ringOk v 4 12 12
  | .jrnlq v => idle && ringOk v 12 16 16
  | .hsup v => idle && v.toNat < 2 ^ 15
  | .hostwin v => idle && v.toNat % 2 ^ 44 == 0
  | .route d p => decide (d < 2 ^ 20) && decide (p < 36)
  | .noRoute d p => decide (d < 2 ^ 20) && decide (p < 36)
  | .neighbour p d => decide (p < 36) && decide (d < 2 ^ 20)
  | .fabricFunction tag f => decide (tag < 2 ^ 16) && decide (f ≤ 64)
  | .pwrcap w => decide (1600 ≤ w) && decide (w ≤ 3200)

def State.modDomain (s : State) (d : Nat) (f : Domain → Domain) : State := { s with domains := Kv.put s.domains d (f (s.domainAt d)) }

/-- What an accepted mailbox write sets (R426); a launch takes its function's configuration at its acceptance. A queue's head is the one its header
holds, and a new journal has no entry written yet. -/
def State.mailSet (s : State) (m : MailWrite) : State :=
  let pr := s.pr
  match m with
  | .queue f q base log die d borrow =>
    let x : Queue := ⟨f, q, base.toNat, log, die, d, borrow, s.dev32 (base.toNat + 4)⟩
    { s with queues := (s.queues.filter fun y => !(y.function == f && y.queue == q)) ++ [x] }
  | .clusterOwner c f => { s with pr := { pr with clusterOwner := Kv.put pr.clusterOwner c f } }
  | .sliceLen f n =>
    { s with funcs := Kv.put s.funcs f { s.funcAt f with sliceLen := n } }
  | .tenantTag d tag => s.modDomain d fun x => { x with tag := tag }
  | .domainFunction d f => s.modDomain d fun x => { x with function := f }
  | .hcmdq v => { s with pr := { pr with hcmdq := v } }
  | .hfltq v => { s with pr := { pr with hfltq := v } }
  | .hsup v => { s with pr := { pr with hsup := v } }
  | .hostwin v => { s with pr := { pr with hostwin := v } }
  | .jrnlq v => { s with pr := { pr with jrnlq := v }, launches := s.launches.filter fun l => !l.closing }
  | .errq v => { s with pr := { pr with errq := v } }
  | .route d p => { s with pr := { pr with routes := if pr.routes.contains (d, p) then pr.routes else pr.routes ++ [(d, p)] } }
  | .noRoute d p => { s with pr := { pr with routes := pr.routes.filter (· != (d, p)) } }
  | .neighbour p d => { s with ports := setAt s.ports p fun x => { x with neighbour := d } }
  | .fabricFunction tag f => { s with pr := { pr with fabFunction := Kv.put pr.fabFunction tag f } }
  | .pwrcap w => { s with pr := { pr with pwrcap := word w } }

/-- CONFIG_MAILBOX_WRITE (R426): set, or refused as a whole with the mailbox status, which the manual numbers nowhere (log entry 129). -/
def execConfigMailboxWrite (m : MailWrite) (s : State) : Result :=
  let s' := if s.mailOk m then s.mailSet m else s
  .next { s' with pr := { s'.pr with mailRefused := !s.mailOk m } }

end Sys2Proof.Machine
end

