-- ==== Sys2Proof/Machine/Fabric.lean ====
section
/-! DEFINITION. The fabric: links, acknowledgements of remote writes, page tickets as their home and as their holder, and failures
(R437 to R439, R441 to R446, R452, R453). -/

namespace Sys2Proof.Machine

open Sys2Proof

/-! ### Links (R438, R439) -/

/-- FLIT_RESEND (R439): whether the resend fails is free, and one that succeeds ends the row of failures. -/
def execFlitResend (port : Nat) (s : State) : Result :=
  let failed := Config.deviceChooses s.fresh
  .next (State.bump { s with ports := setAt s.ports port fun p =>
    { p with retry := if p.retry = 0xFFFFFFFF then p.retry else p.retry + 1, fails := if failed then p.fails + 1 else 0 } })

/-- The host link retrains at no more lanes than before, x16, x8 or x4; at none it is down (R382, R427, R433). -/
def State.hostRetrain (s : State) (lanes : Nat) : State :=
  let s : State :=
    { s with hostLanes := lanes, pr := { s.pr with ready := if lanes = 0 then s.pr.ready &&& ~~~ (1#64 <<< 18) else s.pr.ready } }
  s.errorRecord 5 [63 + (if lanes = 0 then 512 else 256)]

/-- LINK_RETRAIN (R439): after 16 consecutive failed resends, at no more lanes than before; at 0 lanes the link is down. Port 63 is the host link
(R433). -/
def execLinkRetrain (port lanes : Nat) (s : State) : Result :=
  let p := s.ports.getD port {}
  if port = 63 then .next (if [0, 4, 8, 16].contains lanes && decide (lanes ≤ s.hostLanes) then s.hostRetrain lanes else s)
  else if p.fails < 16 ∨ p.lanes < lanes ∨ [0, 1, 2, 4].contains lanes = false ∨ 36 ≤ port then .next s
  else
    let pr := s.pr
    let s : State :=
      { s with ports := setAt s.ports port fun p => { p with lanes := lanes, up := lanes != 0, fails := 0 }
               pr := if lanes = 0 then { pr with ready := pr.ready &&& ~~~ (1#64 <<< (19 + port)) } else pr }
    .next (s.errorRecord 5 [port + (if lanes = 0 then 512 else 256)])

/-- A message is tried no more. -/
def State.givesUp (s : State) (m : FabMsg) : State :=
  let try' (e : Nat × Instr) : Bool := match e.2 with
    | .homeRequest r => r.asker == .core m.core m.what && r.va == m.va
    | .bellRingArrival r => r.cls == 2 && ringParked r == (m.core, m.what)
    | _ => false
  { s with fabric := s.fabric.filter (· != m), agenda := s.agenda.filter fun e => !try' e, unreached := m.dev :: s.unreached.filter (· != m.dev) }

/-- The tickets of a device's regions are discarded with their lines, dirty ones included (R453). -/
def State.loseTickets (s : State) (device : Nat) : State :=
  let of' (region : Nat) : Bool := s.deviceOf (region * 2 ^ 16) == some device
  let lost (line : Nat) : Bool := s.heldTickets.any fun t => t.region == regionOf (line * 128) && of' t.region
  { s with slices := s.slices.map fun x => (x.1, { x.2 with lines := x.2.lines.filter fun l => !lost l.line })
           cores := s.cores.map fun c => (c.1, { c.2 with l1 := c.2.l1.filter fun l => !lost l.line })
           heldTickets := s.heldTickets.filter fun t => !of' t.region }

/-- A message that was not delivered in time fails its request (R452); its device could not be reached for FABTMO clocks, and is given up as a ticket
home (R453). -/
def State.failMsg (s : State) (m : FabMsg) : State :=
  let s := (s.givesUp m).loseTickets m.dev
  let s := s.errorRecord 5 [((s.usablePorts m.dev).head?).getD 63]
  match m.what with
  | .pend slot id =>
    let r : Ring := ⟨2, 0, m.dev, 0, 0, 0, some (m.core, slot, id), id⟩
    if m.access = 15 then (s.refuseRing r 3).ringBack r 3
    else if m.what = .pend prefetchSlot 0 then s
    else s.finalRefusal m.core m.what m.access m.va 6 true
  | _ => s.finalRefusal m.core m.what m.access m.va 6 true

/-- FABRIC_TIMEOUT (R452): the messages of a request that are FABTMO clocks old. -/
def execFabricTimeout (core : Nat) (what : Parked) (s : State) : Result :=
  let tmo := s.pr.fabtmo.toNat * 1024
  .next ((s.fabric.filter fun m => m.core == core && m.what == what && decide (m.sent + tmo ≤ s.now)).foldl (fun s m => s.failMsg m) s)

/-- FABRIC_ACK_ARRIVAL (R441, R446): APPLIED ends an entry's drain; CLEAN, after APPLIED, is what a POD release waits for. -/
def execFabricAckArrival (core : Nat) (seq : Word) (clean : Bool) (s : State) : Result :=
  match (s.coreAt core).leat.find? (·.seq == seq) with
  | some e =>
    if clean then .next (s.later (.fabricAckArrival core seq true))
    else if e.applied && !s.homedHere (e.line * 128) then .next (s.entryGone core seq s.now true)
    else .next s
  | none =>
    if !clean then .next s
    else
      let note (r : Release) : Release := { r with cleans := r.cleans.filter (· != (core, .leat seq)) }
      let s : State := { s with cores := s.cores.map fun c => (c.1, { c.2 with rels := c.2.rels.map note }) }
      .next ((s.cores.map (·.1)).foldl (fun s k => s.wake k) s)

/-! ### The ticket home (R442, R444, R445, R453) -/

def State.modTicket (s : State) (region : Nat) (f : Ticket → Ticket) : State := { s with tickets := replaceFirst (·.region == region) f s.tickets }

/-- A device is given its ticket. -/
def Ticket.grant (t : Ticket) (device : Nat) (write : Bool) : Ticket :=
  if write then { t with writer := some device, readers := [], closing := false, closed := 0 }
  else { t with readers := t.readers ++ [device], closing := false, closed := 0 }

/-- The grant of a ticket: before the first, this package gives the region up and waits out its leases (R444); what waits for it goes on. -/
def State.grantTicket (s : State) (device : Nat) (t : Ticket) (write : Bool) : State :=
  let lo := t.region * 2 ^ 16
  let again (s : State) (clock : Nat) : State := s.at clock (.ticketRequest device t.region write)
  if t.held then (s.modTicket t.region fun t => t.grant device write).nextAt t.region
  else if !t.closing then (again (s.modTicket t.region fun t => { t with closing := true }) (s.now + 1)).urgeRange lo (2 ^ 16)
  else if t.closed = 0 then
    if !(s.rangeEntries lo (2 ^ 16)).isEmpty then again s (s.now + 1)
    else
      let r := s.recallRange lo (2 ^ 16)
      let hz := Nat.max (s.now + 1) r.2
      again (r.1.modTicket t.region fun t => { t with closed := hz }) hz
  else if s.now < t.closed then again s t.closed
  else (s.modTicket t.region fun t => t.grant device write).nextAt t.region

/-- TICKET_REQUEST (R444): the decision of a ticket home on a request of another package. -/
def execTicketRequest (device region : Nat) (write : Bool) (s : State) : Result :=
  let va := region * 2 ^ 16
  if !s.homedHere va || device == s.pr.devnum.toNat then .next s
  else
    let s : State := if s.tickets.any (·.region == region) then s else { s with tickets := s.tickets ++ [{ region := region }] }
    let asks := s.asksTicket device write va
    let s := s.modTicket region fun t =>
      if t.revoking.isEmpty && !t.closing then { t with asked := Kv.put t.asked device s.now } else t
    match s.tickets.find? (·.region == region) with
    | none => .next s
    | some t =>
      if t.writer = some device then .next (s.nextAt region)
      else if t.writer.isSome || !t.revoking.isEmpty then
        .next (if t.queue.isEmpty then (s.recallTicket va).later (.ticketRequest device region write) else s.recallTicket va)
      else if asks then .next (s.grantTicket device t write)
      else .next ((if write then s.staleTickets va none else s).nextAt region)

/-- A device holds a ticket of a region no longer; with the last revocation what waited for it goes on (R441, R445, R446). -/
def State.ticketBack (s : State) (device region : Nat) : State :=
  let s := s.modTicket region fun t =>
    { t with writer := t.writer.filter (· != device), readers := t.readers.filter (· != device)
             revoking := t.revoking.filter (·.1 != device), asked := Kv.put t.asked device s.now }
  match s.tickets.find? (·.region == region) with
  | none => s
  | some t =>
    if !t.revoking.isEmpty then s
    else
      let s := t.owed.foldl (fun s w => s.tellDevice w.1 w.2 .clean) (s.modTicket region fun t => { t with owed := [] })
      let s := s.cleaned fun d => d.own && d.bytes.any fun a => regionOf a == region
      (s.cmds.foldl (fun s d => s.tickCmd d.cmd.id) s).nextAt region

/-! ### This package as a holder (R442, R445) -/

/-- The steps of a hand-over by this package: no new accesses, drains, the recall, the lease horizon, the acknowledgement. -/
def State.handBack (s : State) (h : HeldTicket) : State :=
  let lo := h.region * 2 ^ 16
  let dev := s.pr.devnum.toNat
  let again (s : State) (clock : Nat) : State := s.at clock (.ticketHandover dev h.region)
  let leave (s : State) (n : Nat) : State :=
    { s with heldTickets := replaceFirst (·.region == h.region) (fun t => { t with leaving := some n }) s.heldTickets }
  match h.leaving with
  | none => (again (leave s 0) (s.now + 1)).urgeRange lo (2 ^ 16)
  | some 0 =>
    if !(s.rangeEntries lo (2 ^ 16)).isEmpty then again s (s.now + 1)
    else
      let r := s.recallRange lo (2 ^ 16)
      let hz := Nat.max (s.now + 1) r.2
      again (leave r.1 hz) hz
  | some n =>
    if s.now < n then again s n
    else State.tellDevice { s with heldTickets := s.heldTickets.filter (·.region != h.region) } ((s.deviceOf lo).getD dev) lo .handedBack

/-- TICKET_HANDOVER (R445): by this package, or the acknowledgement of another. -/
def execTicketHandover (device region : Nat) (s : State) : Result :=
  if device = s.pr.devnum.toNat then
    match s.heldTickets.find? (·.region == region) with
    | none => .next s
    | some h => .next (s.handBack h)
  else .next (s.ticketBack device region)

/-- TICKET_EVICTION (R442): with the table full, the least recently used ticket goes back. -/
def execTicketEviction (s : State) : Result :=
  let live := s.heldTickets.filter (·.leaving.isNone)
  match live with
  | [] => .next s
  | h :: hs =>
    let old := hs.foldl (fun m t => if t.used < m.used then t else m) h
    if s.heldTickets.length < 16384 then .next s else .next (s.at s.now (.ticketHandover s.pr.devnum.toNat old.region))

/-! ### Failures (R453) -/

/-- Every mapped line of a region is poisoned at its home, with an error record each. -/
def State.poisonRegion (s : State) (region : Nat) : State :=
  (List.range 512).foldl (fun s k =>
    let va := region * 2 ^ 16 + 128 * k
    match s.pageOf va with
    | none => s
    | some p => s.poisonPlace p va) s

/-- TICKET_HOLDER_LOST (R453): no acknowledgement within FABTMO. -/
def execTicketHolderLost (device region : Nat) (s : State) : Result :=
  match s.tickets.find? (·.region == region) with
  | none => .next s
  | some t =>
    if t.revoking.any fun r => r.1 == device && decide (r.2 + s.pr.fabtmo.toNat * 1024 ≤ s.now) then
      let s := if t.writer = some device then s.poisonRegion region else s
      .next (s.ticketBack device region)
    else .next s

/-- TICKET_HOME_UNREACHABLE (R453): the package knows that it has not reached the device for FABTMO clocks. -/
def execTicketHomeUnreachable (device : Nat) (s : State) : Result :=
  if device = s.pr.devnum.toNat ∨ s.unreached.contains device = false then .next s else .next (s.loseTickets device)

end Sys2Proof.Machine
end

