-- ==== Sys2Proof/Machine/Lanes.lean ====
section
/-! DEFINITION. Quad exchange, gang operations and cross-lane moves (R139 to R144). -/

namespace Sys2Proof.Machine

open Sys2Proof

/-! ### Quad exchange (R139) -/

/-- Operand a of lane j of the quad that holds lane l, after the route, as it stands. -/
def quadVal (s : State) (p : Party) (a : Reg) (ra : BitVec 2) (l j : Nat) : Nat := s.opValue p a ra p.opRegs (l / 4 * 4 + j)

/-- A QX instruction: lane l receives f of the quad's four values and its own place j. -/
def quadOp (i : Instr) (d a : Reg) (ra : BitVec 2) (f : BitVec 15 → (Nat → Nat) → Nat → Gen Nat) (s : State) : Result :=
  s.issue i fun p => s.perLane p (latencyOf p.ty i) d p.opRegs fun l => f p.g.gmode (quadVal s p a ra l) (l % 4)

/-- Packed addition, subtraction and order of whole operands. -/
def addV (gm : BitVec 15) : Nat → Nat → Gen Nat := lift2 gm (addE gm)
def subV (gm : BitVec 15) : Nat → Nat → Gen Nat := lift2 gm (subE gm)
def minV (gm : BitVec 15) : Nat → Nat → Gen Nat := lift2 gm (minE gm)
def maxV (gm : BitVec 15) : Nat → Nat → Gen Nat := lift2 gm (maxE gm)

/-- The value of one lane of the quad. -/
def quadPick (f : Nat → Nat) (_ : BitVec 15) (x : Nat → Nat) (j : Nat) : Gen Nat := pureGen (x (f j))

/-- (x0 + x1) + (x2 + x3), three additions in that order; under a packed TY each steps the generator once per element (R79; log entry 96). -/
def quadSum (gm : BitVec 15) (x : Nat → Nat) (_ : Nat) : Gen Nat := fun g =>
  let r := addV gm (x 0) (x 1) g
  let t := addV gm (x 2) (x 3) r.2
  addV gm r.1 t.1 t.2

/-- A fold of an order over the four values. -/
def quadFold (f : BitVec 15 → Nat → Nat → Gen Nat) (gm : BitVec 15) (x : Nat → Nat) (_ : Nat) : Gen Nat := fun g =>
  let r := f gm (x 0) (x 1) g
  let t := f gm r.1 (x 2) r.2
  f gm t.1 (x 3) t.2

/-- The horizontal and vertical differences. -/
def quadDdx (gm : BitVec 15) (x : Nat → Nat) (j : Nat) : Gen Nat := subV gm (x (j / 2 * 2 + 1)) (x (j / 2 * 2))
def quadDdy (gm : BitVec 15) (x : Nat → Nat) (j : Nat) : Gen Nat := subV gm (x (j % 2 + 2)) (x (j % 2))

/-- QSWH (R139). -/
def execQswh (d a : Reg) (ra : BitVec 2) (s : State) : Result := quadOp (.qswh d a ra) d a ra (quadPick (· ^^^ 1)) s

/-- QSWV (R139). -/
def execQswv (d a : Reg) (ra : BitVec 2) (s : State) : Result := quadOp (.qswv d a ra) d a ra (quadPick (· ^^^ 2)) s

/-- QSWD (R139). -/
def execQswd (d a : Reg) (ra : BitVec 2) (s : State) : Result := quadOp (.qswd d a ra) d a ra (quadPick (· ^^^ 3)) s

/-- QBC0 (R139). -/
def execQbc0 (d a : Reg) (ra : BitVec 2) (s : State) : Result := quadOp (.qbc0 d a ra) d a ra (quadPick fun _ => 0) s

/-- QBC1 (R139). -/
def execQbc1 (d a : Reg) (ra : BitVec 2) (s : State) : Result := quadOp (.qbc1 d a ra) d a ra (quadPick fun _ => 1) s

/-- QBC2 (R139). -/
def execQbc2 (d a : Reg) (ra : BitVec 2) (s : State) : Result := quadOp (.qbc2 d a ra) d a ra (quadPick fun _ => 2) s

/-- QBC3 (R139). -/
def execQbc3 (d a : Reg) (ra : BitVec 2) (s : State) : Result := quadOp (.qbc3 d a ra) d a ra (quadPick fun _ => 3) s

/-- QSUM (R139). -/
def execQsum (d a : Reg) (ra : BitVec 2) (s : State) : Result := quadOp (.qsum d a ra) d a ra quadSum s

/-- QMIN (R139). -/
def execQmin (d a : Reg) (ra : BitVec 2) (s : State) : Result := quadOp (.qmin d a ra) d a ra (quadFold minV) s

/-- QMAX (R139). -/
def execQmax (d a : Reg) (ra : BitVec 2) (s : State) : Result := quadOp (.qmax d a ra) d a ra (quadFold maxV) s

/-- QDDX (R139). -/
def execQddx (d a : Reg) (ra : BitVec 2) (s : State) : Result := quadOp (.qddx d a ra) d a ra quadDdx s

/-- QDDY (R139). -/
def execQddy (d a : Reg) (ra : BitVec 2) (s : State) : Result := quadOp (.qddy d a ra) d a ra quadDdy s

/-! ### Gang operations (R140 to R142) -/

/-- The counted lanes, ascending: active lanes that pass the guard (R140). -/
def Party.counted (p : Party) : List Nat := lanesOf p.writing

/-- The votes: the counted lanes whose operand has a nonzero bit. -/
def votes (s : State) (p : Party) (a : Reg) (ra : BitVec 2) : List Nat := p.counted.filter fun l => vote (s.opValue p a ra p.opRegs l)

/-- A left fold over values, the generator stepped at each combination, for a packed type once for each element of it (log entry 96); the
empty fold is zero (R142). -/
def foldGen (f : Nat → Nat → Gen Nat) : List Nat → Gen Nat
  | [] => pureGen 0
  | x :: xs => fun g => xs.foldl (fun r y => f r.1 y r.2) (x, g)

/-- A vote instruction: one value for an s destination, the same in every executing lane for v (R141). -/
def voteOp (i : Instr) (d a : Reg) (ra : BitVec 2) (f : List Nat → List Nat → Nat) (s : State) : Result :=
  s.issue i fun p => s.perLane p (latencyOf p.ty i) d 1 fun _ => pureGen (f p.counted (votes s p a ra))

/-- GSUM, GMIN and GMAX: one fold per issue with the lowest counted lane's generator; nothing is written when no lane counts. -/
def foldOp (i : Instr) (d a : Reg) (ra : BitVec 2) (f : BitVec 15 → Nat → Nat → Gen Nat) (s : State) : Result :=
  s.issue i fun p =>
    let n := p.opRegs
    match p.counted with
    | [] => s.advance p
    | c :: cs =>
      let r := foldGen (f p.g.gmode) ((c :: cs).map fun l => s.opValue p a ra n l) (p.g.rng c)
      let lanes := if kindOf d = .s then [c] else lanesOf p.executing
      let s := s.fixedResult p (latencyOf p.ty i) (lanes.flatMap fun l => destWrites d n l r.1)
      let s := s.modGang p.core p.slot fun g => { g with rngs := Sp.set g.rngs c r.2 }
      s.advance p

/-- GSCAN and GSCANX: each executing lane folds the counted lanes below it with its own generator. -/
def scanOp (i : Instr) (incl : Bool) (d a : Reg) (ra : BitVec 2) (s : State) : Result :=
  s.issue i fun p => s.perLane p (latencyOf p.ty i) d p.opRegs fun l =>
    foldGen (addV p.g.gmode)
      ((p.counted.filter fun c => decide (c < l) || (incl && c == l)).map fun c => s.opValue p a ra p.opRegs c)

/-- LANE (R141). -/
def execLane (d : Reg) (ra : BitVec 2) (s : State) : Result :=
  s.issue (.lane d ra) fun p => s.perLane p (latencyOf p.ty (.lane d ra)) d 1 fun l => pureGen l

/-- QIDX (R141). -/
def execQidx (d : Reg) (ra : BitVec 2) (s : State) : Result :=
  s.issue (.qidx d ra) fun p => s.perLane p (latencyOf p.ty (.qidx d ra)) d 1 fun l => pureGen (l / 4)

/-- BALLOT (R141). -/
def execBallot (d a : Reg) (ra : BitVec 2) (s : State) : Result :=
  voteOp (.ballot d a ra) d a ra (fun _ v => (maskOf v.contains).toNat) s

/-- VANY (R141). -/
def execVany (d a : Reg) (ra : BitVec 2) (s : State) : Result :=
  voteOp (.vany d a ra) d a ra (fun _ v => if v.isEmpty then 0 else 1) s

/-- VALL (R141). -/
def execVall (d a : Reg) (ra : BitVec 2) (s : State) : Result :=
  voteOp (.vall d a ra) d a ra (fun c v => if v.length = c.length then 1 else 0) s

/-- GSUM (R141, R142). -/
def execGsum (d a : Reg) (ra : BitVec 2) (s : State) : Result := foldOp (.gsum d a ra) d a ra addV s

/-- GMIN (R141, R142). -/
def execGmin (d a : Reg) (ra : BitVec 2) (s : State) : Result := foldOp (.gmin d a ra) d a ra minV s

/-- GMAX (R141, R142). -/
def execGmax (d a : Reg) (ra : BitVec 2) (s : State) : Result := foldOp (.gmax d a ra) d a ra maxV s

/-- GSCAN (R141, R142). -/
def execGscan (d a : Reg) (ra : BitVec 2) (s : State) : Result := scanOp (.gscan d a ra) true d a ra s

/-- GSCANX (R141, R142). -/
def execGscanx (d a : Reg) (ra : BitVec 2) (s : State) : Result := scanOp (.gscanx d a ra) false d a ra s

/-- ELECT (R141): the lowest counted lane into s, its mark into v. -/
def execElect (d : Reg) (ra : BitVec 2) (s : State) : Result :=
  s.issue (.elect d ra) fun p =>
    let low := p.counted.head?
    s.perLane p (latencyOf p.ty (.elect d ra)) d 1 fun l =>
      pureGen (if kindOf d = .s then low.getD 0 else if low = some l then 1 else 0)

/-- MATCH (R141). -/
def execMatch (d a : Reg) (ra : BitVec 2) (s : State) : Result :=
  s.issue (.match d a ra) fun p => s.perLane p (latencyOf p.ty (.match d a ra)) d p.opRegs fun l =>
    let v := s.opValue p a ra p.opRegs l
    pureGen (maskOf fun m => p.counted.contains m && s.opValue p a ra p.opRegs m == v).toNat

/-- POPM (R141): the count of votes into s, the votes below each lane into v. -/
def execPopm (d a : Reg) (ra : BitVec 2) (s : State) : Result :=
  s.issue (.popm d a ra) fun p => s.perLane p (latencyOf p.ty (.popm d a ra)) d p.opRegs fun l =>
    let v := votes s p a ra
    pureGen (if kindOf d = .s then v.length else (v.filter (· < l)).length)

/-! ### Cross-lane moves -/

/-- The value of a, after its route, as it stands in lane k; an absent lane gives 0 (R12, R143). -/
def laneValue (s : State) (p : Party) (a : Reg) (ra : BitVec 2) (k : Nat) : Nat :=
  if kindOf a = .v && !p.g.hasLane k then 0 else s.opValue p a ra p.opRegs k

/-- SHFL (R143). -/
def execShfl (d a : Reg) (ra : BitVec 2) (b : Reg) (rb : BitVec 2) (s : State) : Result :=
  s.issue (.shfl d a ra b rb) fun p => s.perLane p (latencyOf p.ty (.shfl d a ra b rb)) d p.opRegs fun l =>
    pureGen (laneValue s p a ra (s.opValue p b rb 1 l % 32))

/-- MOVSV (R144). -/
def execMovsv (d a : Reg) (ra : BitVec 2) (b : Reg) (rb : BitVec 2) (s : State) : Result :=
  s.issue (.movsv d a ra b rb) fun p => s.perLane p (latencyOf p.ty (.movsv d a ra b rb)) d p.opRegs fun _ =>
    pureGen (laneValue s p a ra (s.uniform p b 1 % 32))

end Sys2Proof.Machine
end

