-- ==== Sys2Proof/Machine/Rep.lean ====
section
/-! DEFINITION. The iterations of a REP sequence and words that are no instruction (R34, R35, R67, R95, R107 to R109), and the end of a
scheduler's turn (R150). -/

namespace Sys2Proof.Machine

open Sys2Proof

/-- ILLEGAL_INSTRUCTION (R67): the word at the party's PC traps with its cause and major opcode; nothing of it takes effect. -/
def execIllegalInstruction (cause : BitVec 4) (op : BitVec 7) (s : State) : Result :=
  match s.party? with
  | none => .fault .noParty
  | some p => .next (s.raise p xIllegal (cause.toNat + op.toNat * 2 ^ 25))

/-- The major opcodes that may follow a REP prefix (R95). -/
def repTarget (op : Nat) : Bool :=
  op == 0 || (decide (0x18 ≤ op) && decide (op ≤ 0x2F)) || (decide (0x30 ≤ op) && decide (op ≤ 0x3A)) || (decide (0x40 ≤ op) && decide (op ≤ 0x43))
    || (decide (0x48 ≤ op) && decide (op ≤ 0x51)) || op == 0x63 || op == 0x64

/-- The R form among them, but for CVT and MXQ (R107). -/
def repRForm (op : Nat) : Bool := (decide (0x18 ≤ op) && decide (op ≤ 0x2B)) || op == 0x2F || op == 0x42 || op == 0x43 || op == 0x63

/-- The flagged register fields of a target: the lowest bit of each and its number; NOP has none (R107, log entry 30). -/
def repFields (rep w : Word) : List (Nat × Nat) :=
  if (opcodeOf w).toNat = 0 then []
  else (if repFlagD rep then [(18, 0)] else []) ++ (if repFlagA rep then [(11, 1)] else []) ++ (if repFlagB rep then [(2, 2)] else [])

/-- A register code in a field of a word. -/
def fieldCode (w : Word) (lo : Nat) : Nat := fld w.toNat (lo + 6) lo

/-- The conditions of R107 on a target, cause 7. -/
def repContext (rep w : Word) : Bool :=
  let op := (opcodeOf w).toNat
  !repTarget op || (repFlagB rep && !repRForm op) || (repFlagD rep && (op == 0x2B || op == 0x38))
    || (repFields rep w).any fun f => decide (0x7E ≤ fieldCode w f.1)

/-- The register that a flagged field names in an iteration. -/
def steppedCode (rep w : Word) (lo : Nat) : Nat := fieldCode w lo + repIndex rep * repStride rep

/-- A stepped field passes its bank's limit (R34, R108). -/
def passesLimit (rep w : Word) (allot lo : Nat) : Bool :=
  if fieldCode w lo < 0x60 then decide (allot ≤ steppedCode rep w lo) else decide (0x7D < steppedCode rep w lo)

/-- The register code that an iteration's word holds in a flagged field: the stepped one, and past the bank's limit, where no code names it, a
register of the bank with its alignment, so that a misaligned pair or group is found before REGRANGE (R68, R108). -/
def fieldStep (rep w : Word) (allot lo : Nat) : Nat :=
  let c := steppedCode rep w lo
  if passesLimit rep w allot lo then (if fieldCode w lo < 0x60 then 0 else 0x60) + c % 8 else c

/-- The target's word in an iteration. -/
def steppedWord (rep w : Word) (allot : Nat) : Word :=
  (repFields rep w).foldl (fun v f => v + word (2 ^ f.1 * fieldStep rep w allot f.1) - word (2 ^ f.1 * fieldCode w f.1)) w

/-- The ILLEGAL cause of a word in a mode, under a REP or not. -/
def decodedCause (ty : BitVec 5) (sup : Bool) (context : Bool) (d : Decoded) : Option Nat :=
  let seven := if context then [7] else []
  match d with
  | .ok i => lowest (illegalCauses ty sup i ++ seven)
  | .bad c none => lowest (c :: seven)
  | .bad c (some i) => lowest (c :: illegalCauses ty sup i ++ seven)

/-- The privileged instruction a word stands for or resembles comes first in user mode (R68). -/
def decodedPrivileged (w : Word) : Decoded → Bool
  | .ok i => privileged i
  | .bad _ (some i) => privileged i
  | .bad _ none => privilegedOp (opcodeOf w).toNat

/-- Run an allowed target (R95); any other instruction is none and does nothing here. -/
def runTarget (i : Instr) (s : State) : Result :=
  match i with
  | .nop tag => Sys2Proof.Machine.execNop tag s
  | .add d a ra b rb => Sys2Proof.Machine.execAdd d a ra b rb s
  | .sub d a ra b rb => Sys2Proof.Machine.execSub d a ra b rb s
  | .mul d a ra b rb => Sys2Proof.Machine.execMul d a ra b rb s
  | .mulh d a ra b rb => Sys2Proof.Machine.execMulh d a ra b rb s
  | .mad d a ra b rb => Sys2Proof.Machine.execMad d a ra b rb s
  | .msb d a ra b rb => Sys2Proof.Machine.execMsb d a ra b rb s
  | .min d a ra b rb => Sys2Proof.Machine.execMin d a ra b rb s
  | .max d a ra b rb => Sys2Proof.Machine.execMax d a ra b rb s
  | .and d a ra b rb => Sys2Proof.Machine.execAnd d a ra b rb s
  | .or d a ra b rb => Sys2Proof.Machine.execOr d a ra b rb s
  | .xor d a ra b rb => Sys2Proof.Machine.execXor d a ra b rb s
  | .andn d a ra b rb => Sys2Proof.Machine.execAndn d a ra b rb s
  | .shl d a ra b rb => Sys2Proof.Machine.execShl d a ra b rb s
  | .shr d a ra b rb => Sys2Proof.Machine.execShr d a ra b rb s
  | .sha d a ra b rb => Sys2Proof.Machine.execSha d a ra b rb s
  | .rot d a ra b rb => Sys2Proof.Machine.execRot d a ra b rb s
  | .bfe d a ra b rb => Sys2Proof.Machine.execBfe d a ra b rb s
  | .bfi d a ra b rb => Sys2Proof.Machine.execBfi d a ra b rb s
  | .sel d a ra b rb => Sys2Proof.Machine.execSel d a ra b rb s
  | .cmp c p a ra b rb => Sys2Proof.Machine.execCmp c p a ra b rb s
  | .mov d a ra => Sys2Proof.Machine.execMov d a ra s
  | .not d a ra => Sys2Proof.Machine.execNot d a ra s
  | .neg d a ra => Sys2Proof.Machine.execNeg d a ra s
  | .abs d a ra => Sys2Proof.Machine.execAbs d a ra s
  | .clz d a ra => Sys2Proof.Machine.execClz d a ra s
  | .popc d a ra => Sys2Proof.Machine.execPopc d a ra s
  | .brev d a ra => Sys2Proof.Machine.execBrev d a ra s
  | .rcp d a ra => Sys2Proof.Machine.execRcp d a ra s
  | .rsq d a ra => Sys2Proof.Machine.execRsq d a ra s
  | .sqrt d a ra => Sys2Proof.Machine.execSqrt d a ra s
  | .exp2 d a ra => Sys2Proof.Machine.execExp2 d a ra s
  | .log2 d a ra => Sys2Proof.Machine.execLog2 d a ra s
  | .sint d a ra => Sys2Proof.Machine.execSint d a ra s
  | .cost d a ra => Sys2Proof.Machine.execCost d a ra s
  | .tanh d a ra => Sys2Proof.Machine.execTanh d a ra s
  | .flr d a ra => Sys2Proof.Machine.execFlr d a ra s
  | .ceil d a ra => Sys2Proof.Machine.execCeil d a ra s
  | .trnc d a ra => Sys2Proof.Machine.execTrnc d a ra s
  | .rint d a ra => Sys2Proof.Machine.execRint d a ra s
  | .frc d a ra => Sys2Proof.Machine.execFrc d a ra s
  | .fclass d a ra => Sys2Proof.Machine.execFclass d a ra s
  | .rand d ra => Sys2Proof.Machine.execRand d ra s
  | .cvt d a ra code => Sys2Proof.Machine.execCvt d a ra code s
  | .mxq d a ra fmt => Sys2Proof.Machine.execMxq d a ra fmt s
  | .absd d a ra b rb => Sys2Proof.Machine.execAbsd d a ra b rb s
  | .addi d a k => Sys2Proof.Machine.execAddi d a k s
  | .muli d a k => Sys2Proof.Machine.execMuli d a k s
  | .andi d a k => Sys2Proof.Machine.execAndi d a k s
  | .ori d a k => Sys2Proof.Machine.execOri d a k s
  | .xori d a k => Sys2Proof.Machine.execXori d a k s
  | .shli d a k => Sys2Proof.Machine.execShli d a k s
  | .shri d a k => Sys2Proof.Machine.execShri d a k s
  | .shai d a k => Sys2Proof.Machine.execShai d a k s
  | .cmpi c p a k => Sys2Proof.Machine.execCmpi c p a k s
  | .mini d a k => Sys2Proof.Machine.execMini d a k s
  | .maxi d a k => Sys2Proof.Machine.execMaxi d a k s
  | .qswh d a ra => Sys2Proof.Machine.execQswh d a ra s
  | .qswv d a ra => Sys2Proof.Machine.execQswv d a ra s
  | .qswd d a ra => Sys2Proof.Machine.execQswd d a ra s
  | .qbc0 d a ra => Sys2Proof.Machine.execQbc0 d a ra s
  | .qbc1 d a ra => Sys2Proof.Machine.execQbc1 d a ra s
  | .qbc2 d a ra => Sys2Proof.Machine.execQbc2 d a ra s
  | .qbc3 d a ra => Sys2Proof.Machine.execQbc3 d a ra s
  | .qsum d a ra => Sys2Proof.Machine.execQsum d a ra s
  | .qmin d a ra => Sys2Proof.Machine.execQmin d a ra s
  | .qmax d a ra => Sys2Proof.Machine.execQmax d a ra s
  | .qddx d a ra => Sys2Proof.Machine.execQddx d a ra s
  | .qddy d a ra => Sys2Proof.Machine.execQddy d a ra s
  | .lane d ra => Sys2Proof.Machine.execLane d ra s
  | .qidx d ra => Sys2Proof.Machine.execQidx d ra s
  | .ballot d a ra => Sys2Proof.Machine.execBallot d a ra s
  | .vany d a ra => Sys2Proof.Machine.execVany d a ra s
  | .vall d a ra => Sys2Proof.Machine.execVall d a ra s
  | .gsum d a ra => Sys2Proof.Machine.execGsum d a ra s
  | .gmin d a ra => Sys2Proof.Machine.execGmin d a ra s
  | .gmax d a ra => Sys2Proof.Machine.execGmax d a ra s
  | .gscan d a ra => Sys2Proof.Machine.execGscan d a ra s
  | .gscanx d a ra => Sys2Proof.Machine.execGscanx d a ra s
  | .elect d ra => Sys2Proof.Machine.execElect d ra s
  | .match d a ra => Sys2Proof.Machine.execMatch d a ra s
  | .popm d a ra => Sys2Proof.Machine.execPopm d a ra s
  | .shfl d a ra b rb => Sys2Proof.Machine.execShfl d a ra b rb s
  | .movsv d a ra b rb => Sys2Proof.Machine.execMovsv d a ra b rb s
  | .ld t a kind k => Sys2Proof.Machine.execLd t a kind k s
  | .st t a kind k => Sys2Proof.Machine.execSt t a kind k s
  | .lds t a kind k => Sys2Proof.Machine.execLds t a kind k s
  | .sts t a kind k => Sys2Proof.Machine.execSts t a kind k s
  | .ldx t a kind k => Sys2Proof.Machine.execLdx t a kind k s
  | .ldw t a kind k => Sys2Proof.Machine.execLdw t a kind k s
  | .stw t a kind k => Sys2Proof.Machine.execStw t a kind k s
  | .cpl t a kind k => Sys2Proof.Machine.execCpl t a kind k s
  | .atom d a scope order aop => Sys2Proof.Machine.execAtom d a scope order aop s
  | .red d a scope order aop => Sys2Proof.Machine.execRed d a scope order aop s
  | .scld d a b => Sys2Proof.Machine.execScld d a b s
  | .accz a => Sys2Proof.Machine.execAccz a s
  | .accld d a => Sys2Proof.Machine.execAccld d a s
  | .accst d a => Sys2Proof.Machine.execAccst d a s
  | .accrd d a => Sys2Proof.Machine.execAccrd d a s
  | .accwr d a => Sys2Proof.Machine.execAccwr d a s
  | _ => .next s

/-- REP_ITERATION (R34, R35, R107, R108): with i at the count the sequence ends and nothing issues; else the checks of the target and its
flagged fields, then one execution, which steps i. -/
def execRepIteration (w : Word) (s : State) : Result :=
  match s.party? with
  | none => .fault .noParty
  | some p =>
    if !p.inRep then .next s
    else
      let rep := p.g.rep
      if repCount rep ≤ repIndex rep then
        .next (s.modGang p.core p.slot fun g => { g.mapParty p.lead fun q => { q with pc := succPc p.pc } with rep := repOff g.rep })
      else
        let v := steppedWord rep w p.g.allot
        let d := decode v
        let cause := decodedCause p.ty p.g.super (repContext rep w) d
        if decodedPrivileged v d && !p.g.super then .next (s.raise p xPrivileged 0)
        else match cause with
          | some c => .next (s.raise p xIllegal (c + (opcodeOf w).toNat * 2 ^ 25))
          | none =>
            match (repFields rep w).find? fun f => passesLimit rep w p.g.allot f.1 with
            | some f => .next (s.raise p xRegRange (f.2 * 256 + steppedCode rep w f.1 % 128))
            | none => match d with
              | .ok i => runTarget i s
              | .bad _ _ => .next s

/-- SCHEDULER_TURN_END (R150): the holder of a quarter's turn gives it up. -/
def execSchedulerTurnEnd (core quarter : Nat) (s : State) : Result :=
  .next (s.modCore core fun c => { c with sched := setAt c.sched (quarter % 4) fun h => { h with ended := true } })

end Sys2Proof.Machine
end

