-- ==== Sys2Proof/Machine/Dispatch.lean ====
section
/-! DEFINITION. One arm for each instruction and step of the device: the call of its meaning, or its refusal by name. -/

namespace Sys2Proof.Machine

open Sys2Proof

/-- The meaning of an instruction. -/
def exec (i : Instr) (s : State) : Host.Outcome State Fault Refusal :=
  match i with
  | .nop tag => Sys2Proof.Machine.execNop tag s
  | .limm v => Sys2Proof.Machine.execLimm v s
  | .limh v => Sys2Proof.Machine.execLimh v s
  | .rep count fd fa fb stride => Sys2Proof.Machine.execRep count fd fa fb stride s
  | .repIteration w => Sys2Proof.Machine.execRepIteration w s
  | .mode mask image => Sys2Proof.Machine.execMode mask image s
  | .mroute slot kind k => Sys2Proof.Machine.execMroute slot kind k s
  | .setmark off => Sys2Proof.Machine.execSetmark off s
  | .trap code => Sys2Proof.Machine.execTrap code s
  | .br n p k => Sys2Proof.Machine.execBr n p k s
  | .brs n p k => Sys2Proof.Machine.execBrs n p k s
  | .bri a => Sys2Proof.Machine.execBri a s
  | .call k => Sys2Proof.Machine.execCall k s
  | .ret => Sys2Proof.Machine.execRet s
  | .mark k => Sys2Proof.Machine.execMark k s
  | .join => Sys2Proof.Machine.execJoin s
  | .part m => Sys2Proof.Machine.execPart m s
  | .regang m => Sys2Proof.Machine.execRegang m s
  | .regangCompletion core slot mask => Sys2Proof.Machine.execRegangCompletion core slot mask s
  | .exit => Sys2Proof.Machine.execExit s
  | .yield gate off => Sys2Proof.Machine.execYield gate off s
  | .waitb => Sys2Proof.Machine.execWaitb s
  | .bret => Sys2Proof.Machine.execBret s
  | .rds d k => Sys2Proof.Machine.execRds d k s
  | .wrs a k => Sys2Proof.Machine.execWrs a k s
  | .jsdepthWrite v => Sys2Proof.Machine.execJsdepthWrite v s
  | .joinStackEntryWrite k v => Sys2Proof.Machine.execJoinStackEntryWrite k v s
  | .markRegisterWrite k v => Sys2Proof.Machine.execMarkRegisterWrite k v s
  | .rngWrite a => Sys2Proof.Machine.execRngWrite a s
  | .add d a ra b rb => Sys2Proof.Machine.execAdd d a ra b rb s
  | .sub d a ra b rb => Sys2Proof.Machine.execSub d a ra b rb s
  | .mul d a ra b rb => Sys2Proof.Machine.execMul d a ra b rb s
  | .mulh d a ra b rb => Sys2Proof.Machine.execMulh d a ra b rb s
  | .mad d a ra b rb => Sys2Proof.Machine.execMad d a ra b rb s
  | .msb d a ra b rb => Sys2Proof.Machine.execMsb d a ra b rb s
  | .min d a ra b rb => Sys2Proof.Machine.execMin d a ra b rb s
  | .max d a ra b rb => Sys2Proof.Machine.execMax d a ra b rb s
  | .and d a ra b rb => Sys2Proof.Machine.execAnd d a ra b rb s
  | .or d a ra b rb => Sys2Proof.Machine.execOr d a ra b rb s
  | .xor d a ra b rb => Sys2Proof.Machine.execXor d a ra b rb s
  | .andn d a ra b rb => Sys2Proof.Machine.execAndn d a ra b rb s
  | .shl d a ra b rb => Sys2Proof.Machine.execShl d a ra b rb s
  | .shr d a ra b rb => Sys2Proof.Machine.execShr d a ra b rb s
  | .sha d a ra b rb => Sys2Proof.Machine.execSha d a ra b rb s
  | .rot d a ra b rb => Sys2Proof.Machine.execRot d a ra b rb s
  | .bfe d a ra b rb => Sys2Proof.Machine.execBfe d a ra b rb s
  | .bfi d a ra b rb => Sys2Proof.Machine.execBfi d a ra b rb s
  | .sel d a ra b rb => Sys2Proof.Machine.execSel d a ra b rb s
  | .cmp c p a ra b rb => Sys2Proof.Machine.execCmp c p a ra b rb s
  | .mov d a ra => Sys2Proof.Machine.execMov d a ra s
  | .not d a ra => Sys2Proof.Machine.execNot d a ra s
  | .neg d a ra => Sys2Proof.Machine.execNeg d a ra s
  | .abs d a ra => Sys2Proof.Machine.execAbs d a ra s
  | .clz d a ra => Sys2Proof.Machine.execClz d a ra s
  | .popc d a ra => Sys2Proof.Machine.execPopc d a ra s
  | .brev d a ra => Sys2Proof.Machine.execBrev d a ra s
  | .rcp d a ra => Sys2Proof.Machine.execRcp d a ra s
  | .rsq d a ra => Sys2Proof.Machine.execRsq d a ra s
  | .sqrt d a ra => Sys2Proof.Machine.execSqrt d a ra s
  | .exp2 d a ra => Sys2Proof.Machine.execExp2 d a ra s
  | .log2 d a ra => Sys2Proof.Machine.execLog2 d a ra s
  | .sint d a ra => Sys2Proof.Machine.execSint d a ra s
  | .cost d a ra => Sys2Proof.Machine.execCost d a ra s
  | .tanh d a ra => Sys2Proof.Machine.execTanh d a ra s
  | .flr d a ra => Sys2Proof.Machine.execFlr d a ra s
  | .ceil d a ra => Sys2Proof.Machine.execCeil d a ra s
  | .trnc d a ra => Sys2Proof.Machine.execTrnc d a ra s
  | .rint d a ra => Sys2Proof.Machine.execRint d a ra s
  | .frc d a ra => Sys2Proof.Machine.execFrc d a ra s
  | .fclass d a ra => Sys2Proof.Machine.execFclass d a ra s
  | .rand d ra => Sys2Proof.Machine.execRand d ra s
  | .cvt d a ra code => Sys2Proof.Machine.execCvt d a ra code s
  | .mxq d a ra fmt => Sys2Proof.Machine.execMxq d a ra fmt s
  | .absd d a ra b rb => Sys2Proof.Machine.execAbsd d a ra b rb s
  | .addi d a k => Sys2Proof.Machine.execAddi d a k s
  | .muli d a k => Sys2Proof.Machine.execMuli d a k s
  | .andi d a k => Sys2Proof.Machine.execAndi d a k s
  | .ori d a k => Sys2Proof.Machine.execOri d a k s
  | .xori d a k => Sys2Proof.Machine.execXori d a k s
  | .shli d a k => Sys2Proof.Machine.execShli d a k s
  | .shri d a k => Sys2Proof.Machine.execShri d a k s
  | .shai d a k => Sys2Proof.Machine.execShai d a k s
  | .cmpi c p a k => Sys2Proof.Machine.execCmpi c p a k s
  | .mini d a k => Sys2Proof.Machine.execMini d a k s
  | .maxi d a k => Sys2Proof.Machine.execMaxi d a k s
  | .qswh d a ra => Sys2Proof.Machine.execQswh d a ra s
  | .qswv d a ra => Sys2Proof.Machine.execQswv d a ra s
  | .qswd d a ra => Sys2Proof.Machine.execQswd d a ra s
  | .qbc0 d a ra => Sys2Proof.Machine.execQbc0 d a ra s
  | .qbc1 d a ra => Sys2Proof.Machine.execQbc1 d a ra s
  | .qbc2 d a ra => Sys2Proof.Machine.execQbc2 d a ra s
  | .qbc3 d a ra => Sys2Proof.Machine.execQbc3 d a ra s
  | .qsum d a ra => Sys2Proof.Machine.execQsum d a ra s
  | .qmin d a ra => Sys2Proof.Machine.execQmin d a ra s
  | .qmax d a ra => Sys2Proof.Machine.execQmax d a ra s
  | .qddx d a ra => Sys2Proof.Machine.execQddx d a ra s
  | .qddy d a ra => Sys2Proof.Machine.execQddy d a ra s
  | .lane d ra => Sys2Proof.Machine.execLane d ra s
  | .qidx d ra => Sys2Proof.Machine.execQidx d ra s
  | .ballot d a ra => Sys2Proof.Machine.execBallot d a ra s
  | .vany d a ra => Sys2Proof.Machine.execVany d a ra s
  | .vall d a ra => Sys2Proof.Machine.execVall d a ra s
  | .gsum d a ra => Sys2Proof.Machine.execGsum d a ra s
  | .gmin d a ra => Sys2Proof.Machine.execGmin d a ra s
  | .gmax d a ra => Sys2Proof.Machine.execGmax d a ra s
  | .gscan d a ra => Sys2Proof.Machine.execGscan d a ra s
  | .gscanx d a ra => Sys2Proof.Machine.execGscanx d a ra s
  | .elect d ra => Sys2Proof.Machine.execElect d ra s
  | .match d a ra => Sys2Proof.Machine.execMatch d a ra s
  | .popm d a ra => Sys2Proof.Machine.execPopm d a ra s
  | .shfl d a ra b rb => Sys2Proof.Machine.execShfl d a ra b rb s
  | .movsv d a ra b rb => Sys2Proof.Machine.execMovsv d a ra b rb s
  | .ld t a kind k => Sys2Proof.Machine.execLd t a kind k s
  | .st t a kind k => Sys2Proof.Machine.execSt t a kind k s
  | .lds t a kind k => Sys2Proof.Machine.execLds t a kind k s
  | .sts t a kind k => Sys2Proof.Machine.execSts t a kind k s
  | .ldx t a kind k => Sys2Proof.Machine.execLdx t a kind k s
  | .ldw t a kind k => Sys2Proof.Machine.execLdw t a kind k s
  | .stw t a kind k => Sys2Proof.Machine.execStw t a kind k s
  | .cpl t a kind k => Sys2Proof.Machine.execCpl t a kind k s
  | .windowAccessArrival core id => Sys2Proof.Machine.execWindowAccessArrival core id s
  | .atom d a scope order aop => Sys2Proof.Machine.execAtom d a scope order aop s
  | .red d a scope order aop => Sys2Proof.Machine.execRed d a scope order aop s
  | .kick d a b => Sys2Proof.Machine.execKick d a b s
  | .binit d a => Sys2Proof.Machine.execBinit d a s
  | .barr d a => Sys2Proof.Machine.execBarr d a s
  | .barw d a => Sys2Proof.Machine.execBarw d a s
  | .bwait d a => Sys2Proof.Machine.execBwait d a s
  | .bexp d a => Sys2Proof.Machine.execBexp d a s
  | .btest d a => Sys2Proof.Machine.execBtest d a s
  | .btile d a => Sys2Proof.Machine.execBtile d a s
  | .brd d a => Sys2Proof.Machine.execBrd d a s
  | .gateUpdate blk gate => Sys2Proof.Machine.execGateUpdate blk gate s
  | .gateWaiterWake blk gate => Sys2Proof.Machine.execGateWaiterWake blk gate s
  | .ctrw d a => Sys2Proof.Machine.execCtrw d a s
  | .ctrt d a => Sys2Proof.Machine.execCtrt d a s
  | .ctrrd d a => Sys2Proof.Machine.execCtrrd d a s
  | .ctrwWake core slot lead => Sys2Proof.Machine.execCtrwWake core slot lead s
  | .rel scope => Sys2Proof.Machine.execRel scope s
  | .acq scope => Sys2Proof.Machine.execAcq scope s
  | .acql a => Sys2Proof.Machine.execAcql a s
  | .promotionComplete core id => Sys2Proof.Machine.execPromotionComplete core id s
  | .fncr scope a b => Sys2Proof.Machine.execFncr scope a b s
  | .releaseCompletion core id => Sys2Proof.Machine.execReleaseCompletion core id s
  | .cwb d a => Sys2Proof.Machine.execCwb d a s
  | .cinv d a => Sys2Proof.Machine.execCinv d a s
  | .cpref d a => Sys2Proof.Machine.execCpref d a s
  | .cdisc d a => Sys2Proof.Machine.execCdisc d a s
  | .mxacq prio pair => Sys2Proof.Machine.execMxacq prio pair s
  | .mxrel => Sys2Proof.Machine.execMxrel s
  | .engineGrant core => Sys2Proof.Machine.execEngineGrant core s
  | .mma d a b => Sys2Proof.Machine.execMma d a b s
  | .mmaBegin core ticket => Sys2Proof.Machine.execMmaBegin core ticket s
  | .mmaRetire core ticket => Sys2Proof.Machine.execMmaRetire core ticket s
  | .bedTileArrival blk gate => Sys2Proof.Machine.execBedTileArrival blk gate s
  | .scld d a b => Sys2Proof.Machine.execScld d a b s
  | .accz a => Sys2Proof.Machine.execAccz a s
  | .accld d a => Sys2Proof.Machine.execAccld d a s
  | .accst d a => Sys2Proof.Machine.execAccst d a s
  | .accrd d a => Sys2Proof.Machine.execAccrd d a s
  | .accwr d a => Sys2Proof.Machine.execAccwr d a s
  | .mxwait => Sys2Proof.Machine.execMxwait s
  | .role base role => Sys2Proof.Machine.execRole base role s
  | .ttinit a => Sys2Proof.Machine.execTtinit a s
  | .ttadd d a => Sys2Proof.Machine.execTtadd d a s
  | .ttanc d a => Sys2Proof.Machine.execTtanc d a s
  | .ttpos d a => Sys2Proof.Machine.execTtpos d a s
  | .ttpar d a => Sys2Proof.Machine.execTtpar d a s
  | .ttstok d a => Sys2Proof.Machine.execTtstok d a s
  | .ttgtok d a => Sys2Proof.Machine.execTtgtok d a s
  | .ttssc d a => Sys2Proof.Machine.execTtssc d a s
  | .ttgsc d a => Sys2Proof.Machine.execTtgsc d a s
  | .ttprune d a => Sys2Proof.Machine.execTtprune d a s
  | .ttcnt d => Sys2Proof.Machine.execTtcnt d s
  | .kvx d a => Sys2Proof.Machine.execKvx d a s
  | .kvapp d a => Sys2Proof.Machine.execKvapp d a s
  | .kvtrim d a => Sys2Proof.Machine.execKvtrim d a s
  | .kvpark a => Sys2Proof.Machine.execKvpark a s
  | .kvseq d a => Sys2Proof.Machine.execKvseq d a s
  | .kvStallTimeout core slot id => Sys2Proof.Machine.execKvStallTimeout core slot id s
  | .ring d a b => Sys2Proof.Machine.execRing d a b s
  | .bmask d a => Sys2Proof.Machine.execBmask d a s
  | .bpend d => Sys2Proof.Machine.execBpend d s
  | .btake d a => Sys2Proof.Machine.execBtake d a s
  | .bhpc a => Sys2Proof.Machine.execBhpc a s
  | .bself a => Sys2Proof.Machine.execBself a s
  | .bellRingArrival r => Sys2Proof.Machine.execBellRingArrival r s
  | .hostBellWrite function offset size v => Sys2Proof.Machine.execHostBellWrite function offset size v s
  | .bellDelivery core slot => Sys2Proof.Machine.execBellDelivery core slot s
  | .waitbWake core slot lead => Sys2Proof.Machine.execWaitbWake core slot lead s
  | .keyw d a => Sys2Proof.Machine.execKeyw d a s
  | .waym d a => Sys2Proof.Machine.execWaym d a s
  | .klass d a => Sys2Proof.Machine.execKlass d a s
  | .split d a => Sys2Proof.Machine.execSplit d a s
  | .preqHold d a => Sys2Proof.Machine.execPreqHold d a s
  | .preqSaved d a => Sys2Proof.Machine.execPreqSaved d a s
  | .preqWaitsave d a => Sys2Proof.Machine.execPreqWaitsave d a s
  | .preqRestored d a => Sys2Proof.Machine.execPreqRestored d a s
  | .preqWaitrest d a => Sys2Proof.Machine.execPreqWaitrest d a s
  | .preqKill d a => Sys2Proof.Machine.execPreqKill d a s
  | .preqRelease d a => Sys2Proof.Machine.execPreqRelease d a s
  | .freeze d a => Sys2Proof.Machine.execFreeze d a s
  | .wingr d a => Sys2Proof.Machine.execWingr d a s
  | .jrnl d a => Sys2Proof.Machine.execJrnl d a s
  | .eret => Sys2Proof.Machine.execEret s
  | .rdp d k => Sys2Proof.Machine.execRdp d k s
  | .wrp a k => Sys2Proof.Machine.execWrp a k s
  | .haltWrite core v => Sys2Proof.Machine.execHaltWrite core v s
  | .rqerrWrite v => Sys2Proof.Machine.execRqerrWrite v s
  | .portcapWrite v => Sys2Proof.Machine.execPortcapWrite v s
  | .l2CounterClear k v => Sys2Proof.Machine.execL2CounterClear k v s
  | .kvpfreeWrite v => Sys2Proof.Machine.execKvpfreeWrite v s
  | .schedulerTurnEnd core quarter => Sys2Proof.Machine.execSchedulerTurnEnd core quarter s
  | .fixedResultLanding core slot id => Sys2Proof.Machine.execFixedResultLanding core slot id s
  | .variableReturnLanding core slot id => Sys2Proof.Machine.execVariableReturnLanding core slot id s
  | .blockSharedVisibility blk id => Sys2Proof.Machine.execBlockSharedVisibility blk id s
  | .leatEntrySeal core seq => Sys2Proof.Machine.execLeatEntrySeal core seq s
  | .tailBroadcastArrival core tail => Sys2Proof.Machine.execTailBroadcastArrival core tail s
  | .leatDrainStart core => Sys2Proof.Machine.execLeatDrainStart core s
  | .leatDrainAck core seq stamp => Sys2Proof.Machine.execLeatDrainAck core seq stamp s
  | .leatCompaction core seqA seqB => Sys2Proof.Machine.execLeatCompaction core seqA seqB s
  | .replayCursorLimit core source => Sys2Proof.Machine.execReplayCursorLimit core source s
  | .strikeReport core quarter => Sys2Proof.Machine.execStrikeReport core quarter s
  | .eccUncorrectable core slot store offset => Sys2Proof.Machine.execEccUncorrectable core slot store offset s
  | .bayConversion core bay kind => Sys2Proof.Machine.execBayConversion core bay kind s
  | .bulkRecordService core => Sys2Proof.Machine.execBulkRecordService core s
  | .transferUnitLanding core work unit => Sys2Proof.Machine.execTransferUnitLanding core work unit s
  | .bulkRecordCompletion core ticket => Sys2Proof.Machine.execBulkRecordCompletion core ticket s
  | .recordCounterIncrement core ticket => Sys2Proof.Machine.execRecordCounterIncrement core ticket s
  | .portBucketRefill core => Sys2Proof.Machine.execPortBucketRefill core s
  | .portRequestDepart core => Sys2Proof.Machine.execPortRequestDepart core s
  | .clusterLinkFailure cluster => Sys2Proof.Machine.execClusterLinkFailure cluster s
  | .sliceFill core slot pend line granted => Sys2Proof.Machine.execSliceFill core slot pend line granted s
  | .sliceEntryApply core seq => Sys2Proof.Machine.execSliceEntryApply core seq s
  | .sliceMissMerge core seq => Sys2Proof.Machine.execSliceMissMerge core seq s
  | .dirtyWriteback die line => Sys2Proof.Machine.execDirtyWriteback die line s
  | .invalidationAck die line core => Sys2Proof.Machine.execInvalidationAck die line core s
  | .leaseExpiry core line => Sys2Proof.Machine.execLeaseExpiry core line s
  | .ownershipRequest die line => Sys2Proof.Machine.execOwnershipRequest die line s
  | .sliceAtomic core slot pend granted => Sys2Proof.Machine.execSliceAtomic core slot pend granted s
  | .lineOwnershipRecall die line => Sys2Proof.Machine.execLineOwnershipRecall die line s
  | .distributorBell die function => Sys2Proof.Machine.execDistributorBell die function s
  | .distributorPoll die => Sys2Proof.Machine.execDistributorPoll die s
  | .dependenceTest die => Sys2Proof.Machine.execDependenceTest die s
  | .placementStep die => Sys2Proof.Machine.execPlacementStep die s
  | .launchCompletion idx => Sys2Proof.Machine.execLaunchCompletion idx s
  | .preemptionRequest die idx => Sys2Proof.Machine.execPreemptionRequest die idx s
  | .sliceTimeEnd function => Sys2Proof.Machine.execSliceTimeEnd function s
  | .clusterReclaim die cluster => Sys2Proof.Machine.execClusterReclaim die cluster s
  | .preemptTrap core slot => Sys2Proof.Machine.execPreemptTrap core slot s
  | .trapEntry core slot => Sys2Proof.Machine.execTrapEntry core slot s
  | .refusalTrap core slot => Sys2Proof.Machine.execRefusalTrap core slot s
  | .delayedTrap core slot => Sys2Proof.Machine.execDelayedTrap core slot s
  | .blockRestore blk => Sys2Proof.Machine.execBlockRestore blk s
  | .homeRequest r => Sys2Proof.Machine.execHomeRequest r s
  | .faultRingRoom => Sys2Proof.Machine.execFaultRingRoom s
  | .homeBell => Sys2Proof.Machine.execHomeBell s
  | .map c => Sys2Proof.Machine.execMap c s
  | .unmap c => Sys2Proof.Machine.execUnmap c s
  | .setattr c => Sys2Proof.Machine.execSetattr c s
  | .move c => Sys2Proof.Machine.execMove c s
  | .resume c => Sys2Proof.Machine.execResume c s
  | .grat c => Sys2Proof.Machine.execGrat c s
  | .query c => Sys2Proof.Machine.execQuery c s
  | .refuse c => Sys2Proof.Machine.execRefuse c s
  | .resumeMessage core va size => Sys2Proof.Machine.execResumeMessage core va size s
  | .refusalReplayTimer core what => Sys2Proof.Machine.execRefusalReplayTimer core what s
  | .rerouteReplay core what => Sys2Proof.Machine.execRerouteReplay core what s
  | .hostMemAccess offset write data id => Sys2Proof.Machine.execHostMemAccess offset write data id s
  | .hostHoldTimeout id => Sys2Proof.Machine.execHostHoldTimeout id s
  | .hostSnoop line => Sys2Proof.Machine.execHostSnoop line s
  | .sharePeriodBoundary => Sys2Proof.Machine.execSharePeriodBoundary s
  | .firmwareDownload img => Sys2Proof.Machine.execFirmwareDownload img s
  | .configMailboxWrite m => Sys2Proof.Machine.execConfigMailboxWrite m s
  | .functionReady bit => Sys2Proof.Machine.execFunctionReady bit s
  | .dieReset die cause => Sys2Proof.Machine.execDieReset die cause s
  | .journalWalk die => Sys2Proof.Machine.execJournalWalk die s
  | .clusterBringUp cluster => Sys2Proof.Machine.execClusterBringUp cluster s
  | .throttleChange level power thermal => Sys2Proof.Machine.execThrottleChange level power thermal s
  | .thermalTrip => Sys2Proof.Machine.execThermalTrip s
  | .flitResend port => Sys2Proof.Machine.execFlitResend port s
  | .linkRetrain port lanes => Sys2Proof.Machine.execLinkRetrain port lanes s
  | .fabricAckArrival core seq clean => Sys2Proof.Machine.execFabricAckArrival core seq clean s
  | .ticketRequest device region write => Sys2Proof.Machine.execTicketRequest device region write s
  | .ticketHandover device region => Sys2Proof.Machine.execTicketHandover device region s
  | .ticketEviction => Sys2Proof.Machine.execTicketEviction s
  | .fabricTimeout core what => Sys2Proof.Machine.execFabricTimeout core what s
  | .ticketHolderLost device region => Sys2Proof.Machine.execTicketHolderLost device region s
  | .ticketHomeUnreachable device => Sys2Proof.Machine.execTicketHomeUnreachable device s
  | .illegalInstruction cause op => Sys2Proof.Machine.execIllegalInstruction cause op s
  | .markSettle core slot setAt => Sys2Proof.Machine.execMarkSettle core slot setAt s
  | .firstLevelCopyDeparture core line => Sys2Proof.Machine.execFirstLevelCopyDeparture core line s
  | .accTransferComplete core slot lead => Sys2Proof.Machine.execAccTransferComplete core slot lead s
  | .systemSubopComplete core slot lead => Sys2Proof.Machine.execSystemSubopComplete core slot lead s
  | .homeCommandComplete id => Sys2Proof.Machine.execHomeCommandComplete id s
  | .kvAllocatorRequest => Sys2Proof.Machine.execKvAllocatorRequest s
  | .resumeRingRoom function => Sys2Proof.Machine.execResumeRingRoom function s
  | .wakeQueueRoom => Sys2Proof.Machine.execWakeQueueRoom s
  | .bringUp => Sys2Proof.Machine.execBringUp s
  | .powerStateChange st => Sys2Proof.Machine.execPowerStateChange st s

end Sys2Proof.Machine
end

