-- ==== Sys2Proof/Machine/Issue.lean ====
section
/-! DEFINITION. Fetch and issue (R27, R42 to R47, R67, R149 to R151, R177, R435): which party issues next, what its word is, the quarter
schedulers, and the clock. -/

namespace Sys2Proof.Machine

open Sys2Proof

/-! ### Readiness (R45, R149) -/

/-- The pace word of the bundle that holds an address. -/
def State.paceWord (s : State) (pc : Addr) : Word := s.fetchWord (pc &&& ~~~ 31#64)

/-- The pace count of a slot (R44). -/
def paceCount (w : Word) (slot : Nat) : Nat := if slot = 0 then 0 else fld w.toNat (4 * slot - 1) (4 * slot - 4)

/-- A REP iteration after the first counts no pace (R45), the one that ERET or BRET resumes neither (log entry 117). -/
def Gang.laterIteration (g : Gang) (lead : Nat) : Bool := repArmed g.rep && g.repLead == lead && repIndex g.rep != 0

/-- The party's pace count has elapsed. -/
def State.paced (s : State) (g : Gang) (lead : Nat) : Bool :=
  let q := g.quad lead
  match q.last with
  | none => true
  | some t => decide (t + 1 + (if g.laterIteration lead then 0 else paceCount (s.paceWord q.pc) (slotOf q.pc)) ≤ s.now)

/-- A party may be tried in this clock: not parked, not found waiting in this clock already, and paced. -/
def State.partyReady (s : State) (g : Gang) (lead : Nat) : Bool :=
  let q := g.quad lead
  q.park == .none && decide (q.wake ≤ s.now) && s.paced g lead

/-- A gang may issue: no trap, bell or rollback holds it back, it waits for no engine and no RESTORED after a restoration (R215, R355), and its block is resident. -/
def State.gangMay (s : State) (g : Gang) : Bool :=
  g.trap.isNone && !(g.bellWait && !g.super) && !g.pre.engine && !g.awaitsRestore && g.rolling.isNone && !g.redo && (s.blockAt g.blk).elim false (·.resident)

/-- The party that would issue for a gang: the first ready one, lowest quad first (R27); while a REP sequence runs only its own (R30). -/
def State.partyOfGang (s : State) (g : Gang) : Option Nat :=
  if !s.gangMay g then none
  else if repArmed g.rep && g.leads.contains g.repLead then (if s.partyReady g g.repLead then some g.repLead else none)
  else g.leads.find? fun lead => s.partyReady g lead

/-! ### The quarter scheduler (R150) -/

/-- The gang slots of a quarter that may issue. -/
def State.readySlots (s : State) (c : Core) (q : Nat) : List Nat :=
  if c.halted then [] else (c.gangs.filter fun g => quarterOf g.1 == q && (s.partyOfGang g.2).isSome).map (·.1)

/-- A gang has the role of matrix issuer (R244). -/
def Core.isIssuer (c : Core) (slot : Nat) : Bool := (c.gangAt slot).elim false fun g => fld g.role.toNat 3 0 == 2

/-- The first slot after the pointer, in slot order. -/
def firstAfter (ptr : Nat) (slots : List Nat) : Option Nat := (slots.find? fun k => decide (ptr < k)).orElse fun _ => slots.head?

/-- A new turn of a quarter: its holder, and the scheduler once that gang has issued; with no ready gang there is none. -/
def Sched.newTurn (h : Sched) (c : Core) (ready : List Nat) : Option Nat × Sched :=
  let left := ready.filter fun k => !h.served.getLsbD (k % 16)
  let cand := if left.isEmpty then ready else left
  let served : BitVec 16 := if left.isEmpty then 0 else h.served
  let first := cand.filter c.isIssuer
  match firstAfter h.ptr (if first.isEmpty then cand else first) with
  | none => (none, { h with holder := none, count := 0, served := 0, ended := false })
  | some k => (some k, { h with holder := some k, count := 1, ptr := k, served := served ||| (1#16 <<< (k % 16)), ended := false })

/-- The gang a quarter issues for: its holder while that is ready and its turn lasts, else the holder of a new turn. -/
def Sched.choose (h : Sched) (c : Core) (ready : List Nat) : Option Nat × Sched :=
  match h.holder with
  | some k => if ready.contains k && decide (h.count < 8) && !h.ended then (some k, { h with count := h.count + 1 }) else h.newTurn c ready
  | none => h.newTurn c ready

/-- The throttle skips this clock (R435; log entry 11). -/
def State.skipped (s : State) : Bool := decide (s.now % 16 < s.pr.throttle.toNat)

/-- What the quarters do next in this clock. -/
structure Pick where
  core : Nat
  quarter : Nat
  slot : Nat
  lead : Nat
  sched : Sched
  deriving DecidableEq, Repr

/-- The next quarter with a gang to issue for, from the place the clock has reached (numbered core * 4 + quarter). -/
def State.pickFrom (s : State) : List (Nat × Core) → Option Pick
  | [] => none
  | (k, c) :: rest =>
    let one (q : Nat) : Option Pick :=
      if 4 * k + q < s.turn then none
      else
        let r := (c.sched.getD q {}).choose c (s.readySlots c q)
        r.1.bind fun slot => (c.gangAt slot).bind fun g => (s.partyOfGang g).map fun lead => ⟨k, q, slot, lead, r.2⟩
    match (List.range 4).findSome? one with
    | some p => some p
    | none => s.pickFrom rest

/-- What issues next in this clock, if anything. -/
def State.pick (s : State) : Option Pick := if s.skipped then none else s.pickFrom s.cores

/-! ### Issue -/

/-- The context that an instruction's chapter asks for is missing (R67 cause 7): BRET outside a bell handler or in a trap handler (R413), YIELD
in a gang of several parties (R120). -/
def contextBad (p : Party) : Decoded → Bool
  | .ok .bret => p.g.super || p.g.bellHeld.isNone
  | .bad _ (some .bret) => p.g.super || p.g.bellHeld.isNone
  | .ok (.yield _ _) => decide (p.g.leads.length ≠ 1)
  | _ => false

/-- A REP sequence whose index has reached its count ends without an issue (R34). -/
def repOver (g : Gang) (lead : Nat) : Bool := repArmed g.rep && g.repLead == lead && decide (repCount g.rep ≤ repIndex g.rep)

/-- The word at the party's PC as exec runs it: the end of a REP sequence, whose target does not execute any more (R34), a privileged word in user
mode, which traps before anything else (R68; ERET stands for one that is no instruction), a word whose bundle has bits [30:28] set (R46), an
iteration of an armed REP, an instruction, or a word that is none (R67). -/
def State.toIssue (s : State) (p : Party) : Instr :=
  let w := s.fetchWord p.pc
  let op := opcodeOf w
  let v := if p.inRep then steppedWord p.g.rep w p.g.allot else w
  let d := decode v
  if repOver p.g p.lead then .repIteration w
  else if decodedPrivileged v d && !p.g.super then (match d with | .ok i => i | .bad _ _ => .eret)
  else if !zeroBits (s.paceWord p.pc) 30 28 then
    .illegalInstruction (BitVec.ofNat 4 ((decodedCause p.ty p.g.super ((p.inRep && repContext p.g.rep w) || contextBad p d) d).getD 8)) op
  else if p.inRep then .repIteration w
  else match d with
    | .ok i => i
    | .bad c _ => .illegalInstruction (BitVec.ofNat 4 ((decodedCause p.ty p.g.super (contextBad p d) d).getD c)) op

/-- The party was not ready after all: it waits for the next clock, and nothing else has changed (R149). -/
def stalled (s t : State) (p : Pick) : Bool :=
  match s.gangAt p.core p.slot, t.gangAt p.core p.slot with
  | some g, some h =>
    h.trap.isNone && decide ((h.quad p.lead).wake = s.now + 1) && decide ((h.quad p.lead).last = (g.quad p.lead).last)
      && decide ((h.quad p.lead).pc = (g.quad p.lead).pc) && decide (h.super = g.super)
  | _, _ => false

/-- After an issue: the quarter's scheduler counts it, with the turn-end bit (R47, R150), and a bell that waited for one issue after BRET may be
delivered (R413). -/
def State.issued (s t : State) (p : Pick) (ends te : Bool) (g : Gang) : State :=
  if ends || stalled s t p then t
  else
    let t := t.modCore p.core fun c => { c with sched := setAt c.sched p.quarter fun _ => { p.sched with ended := te, issued := some s.now } }
    let t : State := { t with turn := 4 * p.core + p.quarter + 1 }
    if g.bellOk then t
    else (t.modGang p.core p.slot fun g => { g with bellOk := true }).at t.now (.bellDelivery p.core p.slot)

/-- Issue for the picked party. A PC at no slot of a bundle traps PACETARGET there (R43). -/
def State.issueFor (s : State) (k : Pick) : Result :=
  let s : State := { s with cur := some ⟨k.core, k.slot, k.lead⟩, turn := 4 * k.core + k.quarter }
  match s.party? with
  | none => .next { s with turn := s.turn + 1 }
  | some p =>
    let te := (s.paceWord p.pc).getLsbD 31 && slotOf p.pc == 7
    let r : Result := if badPc p.pc then .next (s.raise p xPaceTarget (p.pc.toNat % 2 ^ 32)) else exec (s.toIssue p) s
    match r with
    | .next t => .next (s.issued t k (repOver p.g k.lead) te p.g)
    | .fault f => .fault f
    | .refused f => .refused f

/-! ### The agenda and the clock -/

/-- The earliest clock of a due entry. -/
def dueClock (now : Nat) (l : List (Nat × Instr)) : Option Nat :=
  l.foldl (fun m e => if e.1 ≤ now then some (Nat.min e.1 (m.getD e.1)) else m) none

/-- The first entry of a clock, and the agenda without it. -/
def takeAt (clock : Nat) : List (Nat × Instr) → Option (Instr × List (Nat × Instr))
  | [] => none
  | e :: es => if e.1 = clock then some (e.2, es) else (takeAt clock es).map fun r => (r.1, e :: r.2)

/-- The step of the device that is due first (log entry 2). -/
def State.due (s : State) : Option (Instr × List (Nat × Instr)) := (dueClock s.now s.agenda).bind fun c => takeAt c s.agenda

/-- The quarters that issued nothing in the clock that ends: their turns are over (R150). -/
def State.endTurns (s : State) : State :=
  if s.skipped then s
  else
    { s with cores := s.cores.map fun k =>
        (k.1, { k.2 with sched := k.2.sched.mapIdx fun q h =>
          if (s.readySlots k.2 q).isEmpty && h.issued != some s.now then { h with holder := none, count := 0, served := 0, ended := false } else h }) }

/-- The next clock, with what the device does at regular clocks: the homes' service (R388), refills, before what waits at the ports, and shares every 1,024 (R267, R387), dependence tests every 1,024
(R339), polls every 65,536 (R336). -/
def State.tick (s : State) : State :=
  let s := s.endTurns
  let s : State := State.homesServe { s with now := s.now + 1, turn := 0, cur := none }
  let s := if s.now % 1024 = 0 then
      let refills : List (Nat × Instr) := s.cores.map fun k => (s.now, .portBucketRefill k.1)
      ((State.at { s with agenda := refills ++ s.agenda } s.now .sharePeriodBoundary).at s.now (.dependenceTest 0)).at s.now (.dependenceTest 1)
    else s
  if s.now % 65536 = 0 then (s.at s.now (.distributorPoll 0)).at s.now (.distributorPoll 1) else s

end Sys2Proof.Machine
end

