-- ==== Sys2Proof/Machine/Step.lean ====
section
/-! DEFINITION. One step of the package: the step of the device that is due, else the issue of one instruction, else the next clock (log
entry 2). -/

namespace Sys2Proof.Machine

open Sys2Proof

/-- One step. -/
def step (s : State) : Host.Outcome State Fault Refusal :=
  match s.due with
  | some (e, rest) => exec e { s with agenda := rest, cur := none }
  | none =>
    match s.pick with
    | some k => s.issueFor k
    | none => .next s.tick

/-- A state in which a gang is about to issue its first instruction: a page at VA 0 of home 0, the launch's block 0 on core 0 with one
gang of 32 lanes, which stands at slot 1 of the bundle at 0 (log entry 4). -/
def State.withGang (s : State) : State :=
  let l : Launch :=
    { idx := 0, function := 0, die := 0, queue := 0, domain := 0, borrow := false, record := [], state := 2, status := 0, replays := 0, xcode := 0
      xinfo := 0, badBlock := 0, xva := 0, blocksDone := 0, changed := s.now, nextBlock := 1, waitsHold := true, waitSince := none, onHold := false
      resume := [], closing := false, stamp := 0, owners := [], tag := 0, slice := 0 }
  let b : Block :=
    { key := 0, launch := 0, bid := 0, core := 0, pair := false, domain := 0, prio := 0, placedAt := s.now, ngates := 0, slots := (0, 0), scrSize := 0
      scrKiB := (0, 0), scr := [], scrB := [], gates := [], gateIn := [], shared := [], shWrites := [], trees := [], saved := [], resident := true }
  let g : Gang := { lanes := 32, nquads := 8, allot := 96, quads := startQuads 32 4 s.now }
  let g : Gang := { g with quads := g.quads.map fun q => { q with wake := s.now } }
  let page : Page := { va := 0, size := 0, attr := 0x3#64, frame := 0, cHomes := 0, dHomes := 0, mov := none }
  let s : State :=
    { s with agenda := s.agenda.filter fun e => decide (s.now < e.1)
             turn := 0
             launches := l :: s.launches.filter (·.idx != 0)
             blocks := b :: s.blocks.filter (·.key != 0)
             pages := page :: s.pages.filter fun p => p.va != 0
             graticule := Kv.put s.graticule 0 0x8000000000000000#64
             pr := { s.pr with throttle := 0, ready := s.pr.ready ||| 0x3FFFD#64, clumap := s.pr.clumap ||| 1 } }
  s.modCore 0 fun c => { c with halted := false, gangs := Kv.put c.gangs 0 g, sched := [{}, {}, {}, {}] }

/-- The state with an instruction stored where step fetches its next one. -/
def State.withFetchWord (s : State) (nbits w : Nat) : State :=
  let w := if nbits = 0 then 0 else w % 2 ^ nbits
  match (if s.due.isSome then none else s.pick) with
  | some k => match s.gangAt k.core k.slot with
    | some g => s.devWrite32 (g.quad k.lead).pc.toNat w
    | none => s
  | none => s.withGang.devWrite32 4 w

end Sys2Proof.Machine
end

