-- ==== Sys2Proof/Safety.lean ====
section
/-! DEFINITION. What counts as a safe run, and the terms in which claims about one instruction are made: when an instruction reaches
its own effect, where its party then stands, what may have changed, and what its result will write. -/

namespace Sys2Proof

open Sys2Proof.Machine

/-! ### Runs -/

/-- A run of n steps meets no fault and no refusal. -/
def SafeRun (n : Nat) (s : State) : Prop := ∃ t, Host.Core.run core n s = .next t

namespace Machine

/-! ### An instruction that reaches its own effect -/

/-- The executing party is `p`, no pending result, marked B range or incomplete acquire holds instruction `i` back (R50, R218, R304), and no trap comes before its
own effect (R68). -/
structure Runs (s : State) (p : Party) (i : Instr) : Prop where
  party : s.party? = some p
  free : scoreboard p i = true
  unheld : heldBack (s.coreAt p.core) p i = false
  clear : preTrap s.now p i = none

/-- A gang at the end of an instruction of the party `lead` at clock `now`: the party stands at the successor, or its REP index steps, and
past the last iteration the REP is disarmed (R34, R42, R45). -/
def Gang.moved (g : Gang) (lead now : Nat) (inRep : Bool) : Gang :=
  if inRep then
    if repIndex g.rep + 1 < repCount g.rep then
      { g.mapParty lead fun q => { q with last := some now } with rep := repWith g.rep (repIndex g.rep + 1) }
    else { g.mapParty lead fun q => { q with pc := succPc (g.quad lead).pc, last := some now } with rep := repOff (repWith g.rep (repIndex g.rep + 1)) }
  else g.mapParty lead fun q => { q with pc := succPc (g.quad lead).pc, last := some now }

/-- The gang of the executing party after its instruction, where the instruction changes nothing else of it. -/
def Party.moved (p : Party) (s : State) : Gang := p.g.moved p.lead s.now p.inRep

/-- A gang whose party `lead` has issued at `now` and stands at `pc`. -/
def Gang.standsAt (g : Gang) (lead now : Nat) (pc : Addr) : Gang := g.mapParty lead fun q => { q with pc := pc, last := some now }

/-- The state with another gang in the party's slot. -/
def State.withGangOf (s : State) (p : Party) (h : Gang) : State := s.modGang p.core p.slot fun _ => h

/-- Nothing differs but the party's gang, which is `h`, what the agenda holds, and the numbering of free values. -/
structure OnlyGang (s t : State) (p : Party) (h : Gang) : Prop where
  gang : t.gangAt p.core p.slot = some h
  cores : t.cores = (s.withGangOf p h).cores
  rest : t = { s with cores := t.cores, agenda := t.agenda, fresh := t.fresh }

/-! ### Operands and results -/

/-- A 32-bit source operand of a lane with its route (R52, R55); a register of an absent lane reads zero (R12). -/
def State.source (s : State) (p : Party) (r : Reg) (route : BitVec 2) (lane : Nat) : Word :=
  match kindOf r with
  | .v => if p.g.hasLane (p.g.routeLane route lane) then p.g.vreg r.toNat (p.g.routeLane route lane) else 0
  | .s => s.scalar p.core p.slot p.g (r.toNat - 0x60)
  | .z => 0
  | .q => p.g.lit

/-- The register code of a write (predicate n as 128 + n). -/
def Dst.code : Dst → Nat
  | .v n _ => n
  | .s n => 0x60 + n
  | .p n _ => 128 + n

/-- The lane of a write; a scalar has none. -/
def Dst.lane? : Dst → Option Nat
  | .v _ l => some l
  | .s _ => none
  | .p _ l => some l

/-- The results of fixed latency `lat` that an instruction adds to its gang and to the agenda (R48); without writes there is none. -/
structure Lands (s t : State) (p : Party) (h : Gang) (lat : Nat) (ws : List RegWrite) : Prop where
  inflight : h.inflight = p.g.inflight ++ if ws = [] then [] else [⟨s.fresh, s.now + lat, codesOf ws, ws⟩]
  agenda : t.agenda = s.agenda ++ if ws = [] then [] else [(s.now + lat, .fixedResultLanding p.core p.slot s.fresh)]

/-- A result of variable latency that an instruction adds to its gang, and to the agenda at an open clock that is later than now (R50, R153;
log entry 3); without writes there is none. -/
structure Returns (s t : State) (p : Party) (h : Gang) (ws : List RegWrite) : Prop where
  pend : h.pend = p.g.pend ++ if ws = [] then [] else [⟨s.fresh, p.lead, codesOf ws, p.g.super, .value ws⟩]
  agenda : ∃ clock, s.now < clock ∧
    t.agenda = s.agenda ++ if ws = [] then [] else [(clock, .variableReturnLanding p.core p.slot s.fresh)]

/-- The writes of a one-register result into a destination of any kind: every executing lane of v, the lowest writing lane's value for s,
none for z (R54). -/
def Party.results (p : Party) (d : Reg) (f : Nat → Word) : List RegWrite :=
  match kindOf d with
  | .v => (lanesOf p.executing).map fun l => ⟨.v d.toNat l, f l⟩
  | .s => ((lanesOf p.writing).take 1).map fun l => ⟨.s (d.toNat - 0x60), f l⟩
  | _ => []

/-! ### Memory -/

/-- No byte differs: every byte of the memory that this package homes reads as before, as the coherent value, and so does every byte of
every scratch part. -/
structure SameMemory (s t : State) : Prop where
  global : ∀ va, s.homedHere va = true → t.globalByte va = s.globalByte va
  scratch : ∀ key part off, (t.blockAt key).map (·.scratchByte part off) = (s.blockAt key).map (·.scratchByte part off)

end Machine

end Sys2Proof
end

