-- ==== Sys2Proof/Certificates/Slice0/Obligations.lean ====
section
/-! DEFINITION. The statements about the machine that the provers settle. Each docstring names the rules of the manual that its statement
formalises, and the log entry where it states the model's own choice. -/

open Sys2Proof Sys2Proof.Machine

/-! ### Words -/

/-- R56 to R65: the words of the spec's worked encodings decode to the instructions they stand for. -/
def Obligations.WorkedWordsDecode : Prop :=
  decode 0x30102B98#32 = .ok (.add 4 5 1 0x66 0) ∧
  decode 0x11400008#32 = .ok (.br true 2 8) ∧
  decode 0x15FB21F8#32 = .ok (.bri 0x64) ∧
  decode 0x064E2000#32 = .ok (.rep 9 true true false 1) ∧
  decode 0x704837FB#32 = .ok (.cmpi 2 2 6 0x7FB) ∧
  decode 0x99B30502#32 = .ok (.ldx 0x6C 0x60 5 2) ∧
  decode 0x9F904607#32 = .ok (.cpl 0x64 8 6 7) ∧
  decode 0x92181502#32 = .ok (.st 6 2 5 2) ∧
  decode 0xA0201340#32 = .ok (.atom 8 2 3 1 0) ∧
  decode 0xA9972004#32 = .ok (.barr 0x65 0x64) ∧
  decode 0xAC000003#32 = .ok (.rel 3) ∧
  decode 0xB1FB29F8#32 = .ok (.acql 0x65) ∧
  decode 0xC0000005#32 = .ok (.mxacq 2 true) ∧
  decode 0xC823180C#32 = .ok (.accrd 8 0x63) ∧
  decode 0xD0142004#32 = .ok (.ttadd 5 4) ∧
  decode 0xD2282000#32 = .ok (.kvx 10 4) ∧
  decode 0xD5AB2198#32 = .ok (.ring 0x6A 0x64 0x66) ∧
  decode 0xE1A74010#32 = .ok (.preqHold 0x69 0x68) ∧
  decode 0xE2000000#32 = .ok .eret

/-- R56 to R65: no bit of a word is dropped, either way. Every instruction that has a word is what its word decodes to, at every value of
its fields; and a word that decodes to an instruction is that instruction's word. -/
def Obligations.WordsAndInstructionsAgree : Prop :=
  (∀ i : Instr, hasWord i = true → decode (encode i) = .ok i) ∧
  (∀ (w : Word) (i : Instr), decode w = .ok i → hasWord i = true ∧ encode i = w)

/-- R67: a word of an unassigned major opcode is no instruction: cause 0, and no instruction stands near it. -/
def Claim.UnassignedOpcodesRejected : Prop :=
  ∀ w : Word, (opcodeOf w).toNat ∈ [0x17, 0x3B, 0x3C, 0x3D, 0x3E, 0x3F, 0x44, 0x45, 0x46, 0x47, 0x52, 0x5B, 0x5C, 0x5D, 0x5E, 0x5F, 0x67,
      0x6C, 0x6D, 0x6E, 0x6F] ∨ 0x74 ≤ (opcodeOf w).toNat →
    decode w = .bad 0 none

/-! ### Steps -/

/-- R42 to R46, R149, R150: a step with no step of the device due runs the picked party's word: when its bytes decode to `i`, outside REP
and in a bundle with a legal pace word, the step is `exec i` of the state in which that party executes, and where that answers a next
state, the quarter's scheduler counts the issue. That the word is fetched as the coherent bytes of its address at issue, without refusal or
latency, is the model's choice (log entry 7). A due step of the device runs before any issue, and with neither the clock goes on (log
entry 2). -/
def Claim.StepRunsTheDecodedInstruction : Prop :=
  (∀ (s : State) (k : Pick) (p : Party) (i : Instr) (s' t : State),
    s.due = none → s.pick = some k →
    s' = { s with cur := some ⟨k.core, k.slot, k.lead⟩, turn := 4 * k.core + k.quarter } →
    s'.party? = some p → badPc p.pc = false → zeroBits (s'.paceWord p.pc) 30 28 = true → p.inRep = false →
    decode (s'.fetchWord p.pc) = .ok i → exec i s' = .next t →
    step s = .next (s'.issued t k (repOver p.g k.lead) ((s'.paceWord p.pc).getLsbD 31 && slotOf p.pc == 7) p.g)) ∧
  (∀ (s : State) (e : Instr) (rest : List (Nat × Instr)), s.due = some (e, rest) →
    step s = exec e { s with agenda := rest, cur := none }) ∧
  (∀ s : State, s.due = none → s.pick = none → step s = .next s.tick)

/-- R34, R35, R68: with the party's REP armed, the step runs an iteration of the word at its PC, or ends the sequence; a privileged word in user mode
that is to be executed runs as that instruction, whose trap comes before any of its fields. -/
def Claim.StepRunsARepIteration : Prop :=
  ∀ (s : State) (k : Pick) (p : Party) (s' t : State),
    s.due = none → s.pick = some k →
    s' = { s with cur := some ⟨k.core, k.slot, k.lead⟩, turn := 4 * k.core + k.quarter } →
    s'.party? = some p → badPc p.pc = false → zeroBits (s'.paceWord p.pc) 30 28 = true → p.inRep = true →
    (∀ v, v = steppedWord p.g.rep (s'.fetchWord p.pc) p.g.allot →
      if repOver p.g p.lead = false ∧ decodedPrivileged v (decode v) = true ∧ p.g.super = false then ∃ i, (decode v = .ok i ∨ (i = .eret ∧ ∀ j, decode v ≠ .ok j)) ∧ exec i s' = .next t
      else exec (.repIteration (s'.fetchWord p.pc)) s' = .next t) →
    step s = .next (s'.issued t k (repOver p.g k.lead) ((s'.paceWord p.pc).getLsbD 31 && slotOf p.pc == 7) p.g)

/-! ### Reset -/

/-- R14, R154, R275, R386, R461: what bring-up leaves, where the spec gives the value. -/
def Claim.ResetLeavesTheGivenValues : Prop :=
  let c : Core := State.reset.coreAt 0
  let g : Gang := {}
  c.baymap = 0xFAAAAAAAAAAAAAAA#64 ∧ c.leatSeq = 1 ∧ c.pubTail = 0 ∧ c.trailFloor = 0 ∧ c.cursors = [] ∧ c.rqtick = 0 ∧ c.mxtick = 0 ∧
  c.mxcount = 0 ∧ c.gangs = [] ∧ State.reset.pr.jrnltail = 0 ∧ State.reset.pr.jrnlack = 0 ∧
  (State.reset.funcAt 0).share = 1024 ∧ (∀ f, 0 < f → (State.reset.funcAt f).share = 0) ∧
  g.vregs = [] ∧ g.preds = [] ∧ g.sregs = [] ∧ g.lit = 0 ∧ g.gmode = 0x1C#15 ∧ g.routes = 0 ∧ g.rep = 0 ∧ g.yarr = 0 ∧ g.role = 0 ∧ g.tsel = 0 ∧
  g.blsel = 0 ∧ g.kv = {} ∧ g.mark = none ∧ g.markpc = 0 ∧ g.recipe = 0 ∧ g.super = false ∧
  (∀ f, Kv.get? State.reset.classOf f = none) ∧ State.reset.classes.length = 16 ∧
  (∀ k ∈ State.reset.classes, k.mask = 0xFFFF#16 ∧ k.lease = 2048) ∧
  (∀ core, (State.reset.coreAt core).port.cap = 8192 ∧ (State.reset.coreAt core).l2sel = 0 ∧ (State.reset.coreAt core).grsel = 0 ∧
    (State.reset.coreAt core).fpsel = 0) ∧
  State.reset.pr.pwrcap = 3200 ∧ State.reset.pr.fabtmo = 16384 ∧ State.reset.pr.tkquiet = 64 ∧
  ∀ d n, (State.reset.boardAt d).pend = 0 ∧ (State.reset.boardAt d).mask = 0 ∧ (State.reset.boardAt d).hpc.getLsbD 0 = false ∧
    (Kv.get? (State.reset.boardAt d).lines n).isNone

/-! ### Invariants -/

/-- R427, R434: the stack bits of a ready die are all set, and a cluster's bit of CLUMAP is clear exactly while the cluster is down or its
die is not ready. -/
def ReadyConsistent (s : State) : Prop :=
  (∀ die < 2, s.pr.ready.getLsbD die = true → ∀ k < 16, s.pr.ready.getLsbD (2 + k) = true) ∧
  (∀ c < 32, s.pr.clumap.getLsbD c = (s.pr.ready.getLsbD (c / 16) && !s.pr.down.getLsbD c))

/-- R427, R434: every step keeps the ready bits and the cluster map consistent. -/
def Obligations.StepsKeepReadyConsistent : Prop :=
  ∀ s t : State, ReadyConsistent s → step s = .next t → ReadyConsistent t

/-- R425, R427: right after bring-up they are consistent: no function is ready and no cluster is in the map. -/
def Claim.ResetIsReadyConsistent : Prop :=
  ReadyConsistent State.reset ∧ State.reset.pr.ready = 0 ∧ State.reset.pr.clumap = 0

/-- Every step keeps the DRAM and the host memory in their canonical form (log entry 5): equal memories are equal data. -/
def Obligations.StepsKeepMemoryCanonical : Prop :=
  ∀ s t : State, Memory.wf s.dram = true → Memory.wf s.hostMem = true → step s = .next t → Memory.wf t.dram = true ∧ Memory.wf t.hostMem = true

/-- R6, R369: a byte written at its home reads back there, and no other place of the same memory changes; the canonical form stays. -/
def Claim.HomeByteReadsBack : Prop :=
  ∀ (s : State) (va : Nat) (b : Byte) (pg : Page), Memory.wf s.dram = true → Memory.wf s.hostMem = true → s.homedHere va = true →
    s.pageOf va = some pg →
    (s.setHomeByte va b).homeByte va = b ∧
    Memory.wf (s.setHomeByte va b).dram = true ∧ Memory.wf (s.setHomeByte va b).hostMem = true ∧
    (∀ a, a ≠ (pg.place va).2 → Sp.get (s.setHomeByte va b).dram a = Sp.get s.dram a ∧ Sp.get (s.setHomeByte va b).hostMem a = Sp.get s.hostMem a) ∧
    ((pg.place va).1 = true → (s.setHomeByte va b).dram = s.dram) ∧ ((pg.place va).1 = false → (s.setHomeByte va b).hostMem = s.hostMem)

/-! ### Lane instructions -/

/-- The instructions of the arithmetic, conversion, quad, gang and cross-lane chapters, whose only result is of fixed latency (R123, R137 to
R144). -/
def laneInstr : Instr → Bool
  | .add .. => true | .sub .. => true | .mul .. => true | .mulh .. => true | .mad .. => true | .msb .. => true | .min .. => true
  | .max .. => true | .and .. => true | .or .. => true | .xor .. => true | .andn .. => true | .shl .. => true | .shr .. => true
  | .sha .. => true | .rot .. => true | .bfe .. => true | .bfi .. => true | .sel .. => true | .cmp .. => true | .mov .. => true
  | .not .. => true | .neg .. => true | .abs .. => true | .clz .. => true | .popc .. => true | .brev .. => true | .rcp .. => true
  | .rsq .. => true | .sqrt .. => true | .exp2 .. => true | .log2 .. => true | .sint .. => true | .cost .. => true | .tanh .. => true
  | .flr .. => true | .ceil .. => true | .trnc .. => true | .rint .. => true | .frc .. => true | .fclass .. => true | .rand .. => true
  | .cvt .. => true | .mxq .. => true | .absd .. => true | .addi .. => true | .muli .. => true | .andi .. => true | .ori .. => true
  | .xori .. => true | .shli .. => true | .shri .. => true | .shai .. => true | .cmpi .. => true | .mini .. => true | .maxi .. => true
  | .qswh .. => true | .qswv .. => true | .qswd .. => true | .qbc0 .. => true | .qbc1 .. => true | .qbc2 .. => true | .qbc3 .. => true
  | .qsum .. => true | .qmin .. => true | .qmax .. => true | .qddx .. => true | .qddy .. => true | .lane .. => true | .qidx .. => true
  | .ballot .. => true | .vany .. => true | .vall .. => true | .gsum .. => true | .gmin .. => true | .gmax .. => true | .gscan .. => true
  | .gscanx .. => true | .elect .. => true | .match .. => true | .popm .. => true | .shfl .. => true | .movsv .. => true
  | _ => false

/-- SEL reads its guard as a selector (R131). -/
def isSel : Instr → Bool
  | .sel .. => true
  | _ => false

/-- R48, R54, R79, R123: a lane instruction that runs answers a next state in which its party stands after it and the gang holds one more
result, which lands after the latency of R48 and writes only registers of its destination, in lanes that execute (SEL: in lanes that are
active or helpers, whatever the guard). No generator of another lane steps. Nothing else of the machine changes. -/
def Claim.LaneInstructionsComplete : Prop :=
  ∀ (s : State) (p : Party) (i : Instr), laneInstr i = true → Runs s p i →
    ∃ (t : State) (h : Gang) (ws : List RegWrite), exec i s = .next t ∧ OnlyGang s t p h ∧ Lands s t p h (latencyOf p.ty i) ws ∧
      h = { p.moved s with inflight := h.inflight, rngs := h.rngs } ∧
      (∀ w ∈ ws, w.dst.code ∈ writeCodes p.ty i) ∧
      (∀ w ∈ ws, ∀ l, w.dst.lane? = some l →
        l ∈ lanesOf (if isSel i then p.g.act p.lead ||| p.g.helpers p.lead else p.executing)) ∧
      (∀ l, l ∉ lanesOf p.executing → h.rng l = p.g.rng l)

/-- A lane instruction stores nothing: no byte of any memory differs after it (R123). -/
def Claim.LaneInstructionsStoreNothing : Prop :=
  ∀ (s t : State) (p : Party) (i : Instr), laneInstr i = true → Runs s p i → exec i s = .next t → SameMemory s t

/-- The word of an integer instruction under I32 or N32 with SAT = 0, by the formulas of R125, R126, R128, R129 and R133: its destination
and its value in a lane. -/
def word32 (s : State) (p : Party) : Instr → Option (Reg × (Nat → Word))
  | .add d a ra b rb => some (d, fun l => s.source p a ra l + s.source p b rb l)
  | .sub d a ra b rb => some (d, fun l => s.source p a ra l - s.source p b rb l)
  | .mul d a ra b rb => some (d, fun l => s.source p a ra l * s.source p b rb l)
  | .mad d a ra b rb => some (d, fun l => s.source p a ra l * s.source p b rb l + s.source p d 0 l)
  | .msb d a ra b rb => some (d, fun l => s.source p d 0 l - s.source p a ra l * s.source p b rb l)
  | .and d a ra b rb => some (d, fun l => s.source p a ra l &&& s.source p b rb l)
  | .or d a ra b rb => some (d, fun l => s.source p a ra l ||| s.source p b rb l)
  | .xor d a ra b rb => some (d, fun l => s.source p a ra l ^^^ s.source p b rb l)
  | .andn d a ra b rb => some (d, fun l => s.source p a ra l &&& ~~~ s.source p b rb l)
  | .shl d a ra b rb => some (d, fun l => s.source p a ra l <<< (s.source p b rb l).toNat)
  | .shr d a ra b rb => some (d, fun l => s.source p a ra l >>> (s.source p b rb l).toNat)
  | .sha d a ra b rb => some (d, fun l => (s.source p a ra l).sshiftRight (s.source p b rb l).toNat)
  | .rot d a ra b rb => some (d, fun l => (s.source p a ra l).rotateLeft (s.source p b rb l).toNat)
  | .mov d a ra => some (d, fun l => s.source p a ra l)
  | .not d a ra => some (d, fun l => ~~~ s.source p a ra l)
  | .neg d a ra => some (d, fun l => - s.source p a ra l)
  | .addi d a k => some (d, fun l => s.source p a 0 l + k.signExtend 32)
  | .muli d a k => some (d, fun l => s.source p a 0 l * k.signExtend 32)
  | .andi d a k => some (d, fun l => s.source p a 0 l &&& k.signExtend 32)
  | .ori d a k => some (d, fun l => s.source p a 0 l ||| k.signExtend 32)
  | .xori d a k => some (d, fun l => s.source p a 0 l ^^^ k.signExtend 32)
  | .shli d a k => some (d, fun l => s.source p a 0 l <<< (k.signExtend 32).toNat)
  | .shri d a k => some (d, fun l => s.source p a 0 l >>> (k.signExtend 32).toNat)
  | .shai d a k => some (d, fun l => (s.source p a 0 l).sshiftRight (k.signExtend 32).toNat)
  | _ => none

/-- R80, R125, R126, R128, R129, R133: under I32 or N32 with SAT = 0, an integer instruction delivers its 32-bit word modulo 2^32, 4 clocks
after issue, to each executing lane of a v destination, or once to an s destination; a z destination receives nothing. -/
def Claim.IntegerWordsModulo : Prop :=
  ∀ (s : State) (p : Party) (i : Instr) (d : Reg) (f : Nat → Word), word32 s p i = some (d, f) → Runs s p i → p.ty.toNat ≤ 1 →
    satOf p.g.gmode = false →
    ∃ (t : State) (h : Gang), exec i s = .next t ∧ OnlyGang s t p h ∧ Lands s t p h 4 (p.results d f) ∧
      h = { p.moved s with inflight := h.inflight }

/-- The exact sum, difference or product of an integer instruction that honours SAT, its operands read by `v` (R126). -/
def exact32 (s : State) (p : Party) (v : Word → Int) : Instr → Option (Reg × (Nat → Int))
  | .add d a ra b rb => some (d, fun l => v (s.source p a ra l) + v (s.source p b rb l))
  | .sub d a ra b rb => some (d, fun l => v (s.source p a ra l) - v (s.source p b rb l))
  | .mul d a ra b rb => some (d, fun l => v (s.source p a ra l) * v (s.source p b rb l))
  | .mad d a ra b rb => some (d, fun l => v (s.source p a ra l) * v (s.source p b rb l) + v (s.source p d 0 l))
  | .msb d a ra b rb => some (d, fun l => v (s.source p d 0 l) - v (s.source p a ra l) * v (s.source p b rb l))
  | .addi d a k => some (d, fun l => v (s.source p a 0 l) + v (k.signExtend 32))
  | .muli d a k => some (d, fun l => v (s.source p a 0 l) * v (k.signExtend 32))
  | _ => none

/-- R80, R126: with SAT = 1 the exact result is clamped to the element's range: −2^31 to 2^31 − 1 under I32, 0 to 2^32 − 1 under N32. -/
def Claim.SaturatingWordsClamp : Prop :=
  ∀ (s : State) (p : Party) (i : Instr) (d : Reg) (f : Nat → Int), Runs s p i → satOf p.g.gmode = true →
    (p.ty = 0 → exact32 s p (fun w => w.toInt) i = some (d, f) →
      ∃ (t : State) (h : Gang), exec i s = .next t ∧ OnlyGang s t p h ∧
        Lands s t p h 4 (p.results d fun l => BitVec.ofInt 32 (max (-2 ^ 31) (min (2 ^ 31 - 1) (f l)))) ∧
        h = { p.moved s with inflight := h.inflight }) ∧
    (p.ty = 1 → exact32 s p (fun w => (w.toNat : Int)) i = some (d, f) →
      ∃ (t : State) (h : Gang), exec i s = .next t ∧ OnlyGang s t p h ∧
        Lands s t p h 4 (p.results d fun l => BitVec.ofInt 32 (max 0 (min (2 ^ 32 - 1) (f l)))) ∧
        h = { p.moved s with inflight := h.inflight })

/-- A condition of R60 on an order of two integers. -/
def intCondition (c : Nat) (a b : Int) : Bool :=
  match c with
  | 0x0 => decide (a = b) | 0x1 => decide (a ≠ b) | 0x2 => decide (a < b) | 0x3 => decide (a ≤ b) | 0x4 => decide (b < a)
  | 0x5 => decide (b ≤ a) | 0x6 => true | 0x7 => false | 0x8 => decide (a = b) | 0x9 => decide (a ≠ b) | 0xA => decide (a < b)
  | 0xB => decide (a ≤ b) | 0xC => decide (b < a) | 0xD => decide (b ≤ a)
  | _ => false

/-- The condition, predicate and operands of a compare. -/
def compared (s : State) (p : Party) : Instr → Option (Nat × Nat × (Nat → Word) × (Nat → Word))
  | .cmp c q a ra b rb => some (c.toNat, q.toNat, fun l => s.source p a ra l, fun l => s.source p b rb l)
  | .cmpi c q a k => some (c.toNat, q.toNat, fun l => s.source p a 0 l, fun _ => k.signExtend 32)
  | _ => none

/-- R10, R60, R132: under I32 and N32, CMP and CMPI deliver to each executing lane the predicate bit of their condition on the operands,
signed under I32 and unsigned under N32; a p7 destination is discarded. -/
def Claim.CompareWritesThePredicate : Prop :=
  ∀ (s : State) (p : Party) (i : Instr) (c q : Nat) (a b : Nat → Word), compared s p i = some (c, q, a, b) → Runs s p i → p.ty.toNat ≤ 1 →
    ∃ (t : State) (h : Gang), exec i s = .next t ∧ OnlyGang s t p h ∧ h = { p.moved s with inflight := h.inflight } ∧
      Lands s t p h 4 (if q = 7 then [] else (lanesOf p.executing).map fun l =>
        ⟨.p q l, if (if p.ty = 0 then intCondition c (a l).toInt (b l).toInt else intCondition c (a l).toNat (b l).toNat) then 1 else 0⟩)

/-- R131: SEL takes a where the guard's predicate selects the lane and b elsewhere, in every active lane whatever the guard. -/
def Claim.SelectReadsTheGuardAsSelector : Prop :=
  ∀ (s : State) (p : Party) (d a b : Reg) (ra rb : BitVec 2), kindOf d = .v → p.ty.toNat ≤ 2 → Runs s p (.sel d a ra b rb) →
    ∃ (t : State) (h : Gang), exec (.sel d a ra b rb) s = .next t ∧ OnlyGang s t p h ∧ h = { p.moved s with inflight := h.inflight } ∧
      Lands s t p h 4 ((lanesOf (p.g.act p.lead ||| p.g.helpers p.lead)).map fun l =>
        ⟨.v d.toNat l, if p.g.guard.getLsbD l then s.source p a ra l else s.source p b rb l⟩)

/-- R139: the quad exchanges move the named lane of the quad's 2 × 2 square; R141: LANE and QIDX give the lane's and the quad's number. -/
def quadLane : Instr → Option (Reg × Reg × BitVec 2 × (Nat → Nat))
  | .qswh d a ra => some (d, a, ra, fun j => j ^^^ 1)
  | .qswv d a ra => some (d, a, ra, fun j => j ^^^ 2)
  | .qswd d a ra => some (d, a, ra, fun j => j ^^^ 3)
  | .qbc0 d a ra => some (d, a, ra, fun _ => 0)
  | .qbc1 d a ra => some (d, a, ra, fun _ => 1)
  | .qbc2 d a ra => some (d, a, ra, fun _ => 2)
  | .qbc3 d a ra => some (d, a, ra, fun _ => 3)
  | _ => none

/-- R139: a quad swap or broadcast delivers to each executing lane the operand of the named lane of the same quad, as it stands there. -/
def Claim.QuadExchangeMovesLanes : Prop :=
  ∀ (s : State) (p : Party) (i : Instr) (d a : Reg) (ra : BitVec 2) (f : Nat → Nat), quadLane i = some (d, a, ra, f) → Runs s p i →
    p.ty.toNat ≤ 2 →
    ∃ (t : State) (h : Gang), exec i s = .next t ∧ OnlyGang s t p h ∧ h = { p.moved s with inflight := h.inflight } ∧
      Lands s t p h 4 (p.results d fun l => s.source p a ra (l / 4 * 4 + f (l % 4)))

/-- The vote instructions of R141: destination, operand and result from the counted lanes and the voting lanes. -/
def voteResult : Instr → Option (Reg × Reg × BitVec 2 × (List Nat → List Nat → Nat → Word))
  | .ballot d a ra => some (d, a, ra, fun _ v _ => maskOf v.contains)
  | .vany d a ra => some (d, a, ra, fun _ v _ => if v = [] then 0 else 1)
  | .vall d a ra => some (d, a, ra, fun c v _ => if ∀ l ∈ c, l ∈ v then 1 else 0)
  | .popm d a ra => some (d, a, ra, fun _ v l => word (if kindOf d = .s then v.length else (v.filter (· < l)).length))
  | _ => none

/-- R140, R141: with C the active lanes that pass the guard and a lane's vote its operand's having a nonzero bit, BALLOT, VANY, VALL and
POPM deliver the mask, the existence, the unanimity and the count of votes, 6 clocks after issue. -/
def Claim.VotesCountActiveGuardedLanes : Prop :=
  ∀ (s : State) (p : Party) (i : Instr) (d a : Reg) (ra : BitVec 2) (f : List Nat → List Nat → Nat → Word), voteResult i = some (d, a, ra, f) →
    Runs s p i → p.ty.toNat ≤ 2 →
    ∃ (t : State) (h : Gang), exec i s = .next t ∧ OnlyGang s t p h ∧ h = { p.moved s with inflight := h.inflight } ∧
      Lands s t p h 6 (p.results d (f (lanesOf p.writing) ((lanesOf p.writing).filter fun l => s.source p a ra l ≠ 0)))

/-- R48, R152: a result lands at its clock: its writes are made in the gang's registers, the gang holds it no longer, its write slots are taken,
and nothing else moves. A result of any writes lands so, and touches no other vector register; a landing of what the gang does not hold changes
nothing. -/
def Claim.FixedResultLandsInTheRegister : Prop :=
  (∀ (s : State) (core slot id : Nat) (g : Gang) (f : Inflight) (n lane : Nat) (v : Word), s.gangAt core slot = some g →
    g.inflight.find? (·.id == id) = some f → f.writes = [⟨.v n lane, v⟩] → g.hasLane lane = true → g.trap = none → g.bellWait = false →
    exec (.fixedResultLanding core slot id) s = .next ((s.modGang core slot fun g =>
      { g with inflight := g.inflight.filter (·.id != id), vregs := Sp.set g.vregs (32 * n + lane) v }).takeSlots core (quarterOf slot)
        (writeSlots f.regs))) ∧
  (∀ (s : State) (core slot id : Nat) (g : Gang) (f : Inflight), s.gangAt core slot = some g → g.inflight.find? (·.id == id) = some f →
    ∃ (T : State) (h : Gang), exec (.fixedResultLanding core slot id) s = .next T ∧ T.gangAt core slot = some h ∧
      h.inflight = g.inflight.filter (·.id != id) ∧ h.pend = g.pend ∧ h.quads = g.quads ∧
      (∀ k, (∀ w ∈ f.writes, ∀ n l, w.dst = .v n l → 32 * n + l ≠ k) → Sp.get h.vregs k = Sp.get g.vregs k)) ∧
  (∀ (s : State) (core slot id : Nat), (∀ g, s.gangAt core slot = some g → g.inflight.find? (·.id == id) = none) →
    exec (.fixedResultLanding core slot id) s = .next s)

/-! ### Literals, modes, REP and control -/

/-- R58, R105, R106: NOP has no effect but to advance; LIMM and LIMH set L and L[31:7]; MODE writes exactly the GMODE fields whose mask
bit is set; MROUTE writes the pattern of its slot and no other. -/
def Obligations.LiteralAndModeInstructionsComplete : Prop :=
  ∀ (s : State) (p : Party),
    (∀ tag, Runs s p (.nop tag) → exec (.nop tag) s = .next (s.withGangOf p (p.moved s))) ∧
    (∀ v, Runs s p (.limm v) → exec (.limm v) s = .next (s.withGangOf p { p.moved s with lit := v.signExtend 32 })) ∧
    (∀ v, Runs s p (.limh v) → exec (.limh v) s = .next (s.withGangOf p { p.moved s with lit := v ++ p.g.lit.extractLsb' 0 7 })) ∧
    (∀ mask image, Runs s p (.mode mask image) →
      ∃ gm : BitVec 15, exec (.mode mask image) s = .next (s.withGangOf p { p.moved s with gmode := gm }) ∧
        tyOf gm = (if mask.getLsbD 5 then tyOf image else tyOf p.g.gmode) ∧ rmOf gm = (if mask.getLsbD 4 then rmOf image else rmOf p.g.gmode) ∧
        satOf gm = (if mask.getLsbD 3 then satOf image else satOf p.g.gmode) ∧
        gpInv gm = (if mask.getLsbD 2 then gpInv image else gpInv p.g.gmode) ∧
        gpPred gm = (if mask.getLsbD 2 then gpPred image else gpPred p.g.gmode) ∧
        fzOf gm = (if mask.getLsbD 1 then fzOf image else fzOf p.g.gmode) ∧ chkOf gm = (if mask.getLsbD 0 then chkOf image else chkOf p.g.gmode)) ∧
    (∀ slot kind k, Runs s p (.mroute slot kind k) →
      ∃ r : BitVec 24, exec (.mroute slot kind k) s = .next (s.withGangOf p { p.moved s with routes := r }) ∧
        ∀ j < 3, r.extractLsb' (8 * j) 8 = if j + 1 = slot.toNat then kind ++ k else p.g.routes.extractLsb' (8 * j) 8)

/-- R34, R107, R109: REP sets the REP state to its count, flags and stride at index 0, and arms it, and the party moves to the target; with a
count of 0 the state is set so too but is not armed, and the target is skipped. -/
def Claim.RepArmsOrSkips : Prop :=
  ∀ (s : State) (p : Party) (count : BitVec 6) (fd fa fb : Bool) (stride : BitVec 3), Runs s p (.rep count fd fa fb stride) →
    ∃ r : Word,
      exec (.rep count fd fa fb stride) s = .next (s.withGangOf p
        { p.g.standsAt p.lead s.now (if count = 0 then succPc (succPc p.pc) else succPc p.pc) with rep := r, repLead := p.lead }) ∧
      (repArmed r = true ↔ count ≠ 0) ∧ repIndex r = 0 ∧ repCount r = count.toNat ∧ repStride r = stride.toNat + 1 ∧ repFlagD r = fd ∧
      repFlagA r = fa ∧ repFlagB r = fb

/-- The targets of R95. -/
def repTarget : Instr → Bool
  | .nop .. => true | .ld .. => true | .st .. => true | .lds .. => true | .sts .. => true | .ldx .. => true | .ldw .. => true | .stw .. => true
  | .cpl .. => true | .atom .. => true | .red .. => true | .scld .. => true | .accz .. => true | .accld .. => true | .accst .. => true
  | .accrd .. => true | .accwr .. => true
  | i => laneInstr i

/-- R34, R35, R95, R107: in an iteration whose index is below the count, whose stepped word raises no ILLEGAL cause and whose flagged fields stay
within their banks' limits, the target decoded from the stepped word, any that R95 allows, runs as that instruction; with it the index steps, and
past the last iteration the REP is disarmed, its other fields standing, and the party stands after the target. With the index at the count
nothing runs and the sequence ends. -/
def Claim.RepIterationRunsTheSteppedTarget : Prop :=
  ∀ (s : State) (p : Party) (w : Word), s.party? = some p → p.inRep = true →
    (repCount p.g.rep ≤ repIndex p.g.rep →
      exec (.repIteration w) s = .next (s.modGang p.core p.slot fun g =>
        { g.mapParty p.lead fun q => { q with pc := succPc p.pc } with rep := g.rep &&& 0x7FFFFFFF#32 })) ∧
    (∀ i : Instr, repTarget i = true → repIndex p.g.rep < repCount p.g.rep →
      decode (steppedWord p.g.rep w p.g.allot) = .ok i → Runs s p i → repContext p.g.rep w = false →
      (repFields p.g.rep w).all (fun f => !passesLimit p.g.rep w p.g.allot f.1) = true →
      exec (.repIteration w) s = exec i s ∧
      (laneInstr i = true → ∃ (t : State) (h : Gang), exec (.repIteration w) s = .next t ∧ OnlyGang s t p h ∧
        (repIndex p.g.rep + 1 < repCount p.g.rep → h.rep = repWith p.g.rep (repIndex p.g.rep + 1) ∧ (h.quad p.lead).pc = p.pc) ∧
        (repCount p.g.rep ≤ repIndex p.g.rep + 1 →
          h.rep = repWith p.g.rep (repIndex p.g.rep + 1) &&& 0x7FFFFFFF#32 ∧ (h.quad p.lead).pc = succPc p.pc)))

/-- R22, R56, R110: BR with no passing active lane goes to the next word, but for BR with P = 7 and N = 0, which is always taken; with all passing,
it goes to its target; with some, it pushes one path entry with the passing lanes and goes on at the next word with the others. -/
def Claim.BranchDividesOverTheParty : Prop :=
  ∀ (s : State) (p : Party) (n : Bool) (q : BitVec 3) (k : BitVec 21), Runs s p (.br n q k) →
    (p.taken n q = 0 → ¬ (q = 7 ∧ n = false) → exec (.br n q k) s = .next (s.withGangOf p (p.moved s))) ∧
    (p.taken n q ≠ 0 ∨ (q = 7 ∧ n = false) → badPc (offsetPc p.pc k) = false →
      (p.taken n q = p.g.act p.lead → exec (.br n q k) s = .next (s.withGangOf p (p.g.standsAt p.lead s.now (offsetPc p.pc k)))) ∧
      (p.taken n q ≠ p.g.act p.lead → (p.g.quad p.lead).stack.length < 8 →
        exec (.br n q k) s = .next (s.withGangOf p { p.g with
          quads := p.g.quads.mapIdx fun j d =>
            if j ∈ p.g.members p.lead then
              { d with stack := d.stack ++ [⟨true, offsetPc p.pc k, quadBits (p.taken n q) j, 0⟩]
                       active := quadBits (p.g.act p.lead &&& ~~~ p.taken n q) j, pc := succPc p.pc, last := some s.now }
            else d })))

/-- R18, R111: a quad takes a BRS when one of its active lanes passes; BRS with P = 7 and N = 0 is taken by every quad. With no quad or every
quad taking it the party stays whole; else the two groups become parties named by their lowest quads, and the mark closes. -/
def Obligations.BranchPartsTheParty : Prop :=
  ∀ (s : State) (p : Party) (n : Bool) (q : BitVec 3) (k : BitVec 21) (yes no : List Nat), Runs s p (.brs n q k) →
    yes = (p.g.members p.lead).filter (fun j => decide (q = 7 ∧ n = false) || quadBits (p.taken n q) j != 0) →
    no = (p.g.members p.lead).filter (fun j => !(decide (q = 7 ∧ n = false) || quadBits (p.taken n q) j != 0)) →
    (yes = [] → exec (.brs n q k) s = .next (s.withGangOf p (p.moved s))) ∧
    (yes ≠ [] → badPc (offsetPc p.pc k) = false →
      (no = [] → exec (.brs n q k) s = .next (s.withGangOf p (p.g.standsAt p.lead s.now (offsetPc p.pc k)))) ∧
      (no ≠ [] → exec (.brs n q k) s = .next (s.withGangOf p { p.g with
        mark := none, settled := none, eccOnce := false
        quads := p.g.quads.mapIdx fun j d =>
          if j ∈ yes then { d with pc := offsetPc p.pc k, party := BitVec.ofNat 3 (yes.headD 0), last := some s.now }
          else if j ∈ no then { d with pc := succPc p.pc, party := BitVec.ofNat 3 (no.headD 0), last := some s.now }
          else d })))

/-- R112, R113: BRI by an s pair moves the party to the pair's address; CALL links its successor in s22:s23 and goes to its target; RET goes to
s22:s23. -/
def Claim.JumpsCallsAndReturns : Prop :=
  ∀ (s : State) (p : Party),
    (∀ a : Reg, Runs s p (.bri a) → kindOf a = .s → badPc (addr64 (s.uniform p a 2)) = false →
      exec (.bri a) s = .next (s.withGangOf p (p.g.standsAt p.lead s.now (addr64 (s.uniform p a 2))))) ∧
    (∀ k, Runs s p (.call k) → badPc (offsetPc p.pc k) = false →
      exec (.call k) s = .next (s.withGangOf p { p.g.standsAt p.lead s.now (offsetPc p.pc k) with
        sregs := Sp.set (Sp.set p.g.sregs 22 ((succPc p.pc).extractLsb' 0 32)) 23 ((succPc p.pc).extractLsb' 32 32) })) ∧
    (∀ target : Addr, Runs s p .ret → target = Sp.get p.g.sregs 23 ++ Sp.get p.g.sregs 22 → badPc target = false →
      exec .ret s = .next (s.withGangOf p (p.g.standsAt p.lead s.now target)))

/-- R22, R112: BRI by a v pair, with the distinct targets of the active lanes low, next, ... in rising order: the party goes on at the lowest with
its lanes, and holds one path entry more for each other target, the next lowest on top. -/
def Claim.IndirectBranchOrdersTargets : Prop :=
  ∀ (s : State) (p : Party) (a : Reg) (low : Nat × BitVec 32) (others : List (Nat × BitVec 32)), Runs s p (.bri a) → kindOf a = .v →
    briTargets s p a = low :: others → (∀ t ∈ low :: others, badPc (addr64 t.1) = false) →
    (p.g.quad p.lead).stack.length + others.length ≤ 8 →
    ∃ h : Gang, exec (.bri a) s = .next (s.withGangOf p h) ∧ h = { p.g with quads := h.quads } ∧
      (∀ j ∈ p.g.members p.lead, j < p.g.quads.length →
        h.quad j = { p.g.quad j with
          pc := addr64 low.1, last := some s.now, active := quadBits low.2 j
          stack := (p.g.quad j).stack ++ others.reverse.map fun t => ⟨true, addr64 t.1, quadBits t.2 j, 0⟩ }) ∧
      (∀ j, j ∉ p.g.members p.lead → h.quad j = p.g.quad j)

/-- R22, R114: MARK pushes a join entry that wants the active lanes, and goes on. -/
def Claim.MarkPushesAJoinEntry : Prop :=
  ∀ (s : State) (p : Party) (k : BitVec 21), Runs s p (.mark k) → p.inRep = false → badPc (offsetPc p.pc k) = false →
    (p.g.quad p.lead).stack.length < 8 →
    exec (.mark k) s = .next (s.withGangOf p { p.g with
      quads := p.g.quads.mapIdx fun j d =>
        if j ∈ p.g.members p.lead then
          { d with stack := d.stack ++ [⟨false, offsetPc p.pc k, quadBits (p.g.act p.lead) j, 0⟩], pc := succPc p.pc, last := some s.now }
        else d })

/-- R22, R114: at a JOIN whose innermost join entry is on top and wants no lane that has not arrived, the entry is popped and its lanes go on
at the rejoin PC; with a path entry on top, the arrived lanes are recorded in the innermost join entry and the path's lanes go on at its
target. -/
def Claim.JoinCompletesOrResumesThePath : Prop :=
  ∀ (s : State) (p : Party) (below : Nat → List JEntry) (pc : Addr) (want got : Nat → BitVec 4), Runs s p .join →
    p.lead ∈ p.g.members p.lead → badPc pc = false →
    ((∀ j ∈ p.g.members p.lead, (p.g.quad j).stack = below j ++ [⟨false, pc, want j, got j⟩] ∧
        want j &&& ~~~ (got j ||| (p.g.quad j).active) = 0) → (∃ j ∈ p.g.members p.lead, want j ≠ 0) →
      ∃ (t : State) (h : Gang), exec .join s = .next t ∧ OnlyGang s t p h ∧ h = { p.g with quads := h.quads } ∧
        ∀ j ∈ p.g.members p.lead, (h.quad j).pc = pc ∧ (h.quad j).active = want j ∧ (h.quad j).stack = below j ∧ (h.quad j).last = some s.now) ∧
    (∀ (base : Nat → List JEntry) (rejoin target : Addr) (taken : Nat → BitVec 4), badPc target = false →
      (∀ j ∈ p.g.members p.lead, (p.g.quad j).stack = base j ++ [⟨false, rejoin, want j, got j⟩, ⟨true, target, taken j, 0⟩]) →
      (∃ j ∈ p.g.members p.lead, taken j ≠ 0) →
      ∃ (t : State) (h : Gang), exec .join s = .next t ∧ OnlyGang s t p h ∧ h = { p.g with quads := h.quads } ∧
        ∀ j ∈ p.g.members p.lead, (h.quad j).pc = target ∧ (h.quad j).active = taken j ∧
          (h.quad j).stack = base j ++ [⟨false, rejoin, want j, got j ||| (p.g.quad j).active⟩])

/-- R15, R22, R115: EXIT of a gang's last party with empty stacks ends the gang and frees its slot; with a path entry on top in every quad of the
party, the lanes that leave become helpers, leave every join entry's masks, and the path's lanes go on. -/
def Claim.ExitEndsTheGangOrResumes : Prop :=
  ∀ (s : State) (p : Party), Runs s p .exit →
    ((∀ j < 8, p.g.unretired j = true → j ∈ p.g.members p.lead) → (∀ j ∈ p.g.members p.lead, (p.g.quad j).stack = []) →
      ∃ t : State, exec .exit s = .next t ∧ t.gangAt p.core p.slot = none) ∧
    (∀ (base : Nat → List JEntry) (target : Addr) (taken : Nat → BitVec 4), badPc target = false → p.lead ∈ p.g.members p.lead →
      (∀ j ∈ p.g.members p.lead, (p.g.quad j).stack = base j ++ [⟨true, target, taken j, 0⟩] ∧ taken j ≠ 0) →
      ∃ (t : State) (h : Gang), exec .exit s = .next t ∧ OnlyGang s t p h ∧ h = { p.g with quads := h.quads } ∧
        ∀ j ∈ p.g.members p.lead, (h.quad j).pc = target ∧ (h.quad j).active = taken j ∧
          (h.quad j).helper = (p.g.quad j).helper ||| (p.g.quad j).active ∧
          (h.quad j).stack = (base j).map fun e =>
            if e.path then e else { e with mask := e.mask &&& ~~~ (p.g.quad j).active, got := e.got &&& ~~~ (p.g.quad j).active })

/-- R17, R20, R116, R38: PART makes each named quad of the party a party of its own, the rest keep together under their lowest quad, all go on
at the next word, and the mark closes (also where the mask names none of the party's quads: log entry 92). -/
def Claim.PartNamesNewParties : Prop :=
  ∀ (s : State) (p : Party) (m : BitVec 8), Runs s p (.part m) →
    exec (.part m) s = .next (s.withGangOf p { p.g with
      mark := none, settled := none, eccOnce := false
      quads := p.g.quads.mapIdx fun j d =>
        if j ∈ p.g.members p.lead then
          { d with pc := succPc p.pc, last := some s.now
                   party := if m.getLsbD j then BitVec.ofNat 3 j else BitVec.ofNat 3 (((p.g.members p.lead).filter fun q => !m.getLsbD q).headD 0) }
        else d })

/-- R19: REGANG with a mask that names its whole party makes the party wait at the instruction; once every named quad waits there at the same
PC or is retired, and their stacks have the same shape, the waiting quads become one party at the next word. -/
def Claim.RegangMergesWaitingQuads : Prop :=
  (∀ (s : State) (p : Party) (m : BitVec 8), Runs s p (.regang m) → (∀ j ∈ p.g.members p.lead, m.getLsbD j = true) →
    exec (.regang m) s = .next ((s.withGangOf p (p.g.mapParty p.lead fun d => { d with park := .regang m, last := some s.now })).at s.now
      (.regangCompletion p.core p.slot m))) ∧
  (∀ (s : State) (core slot lead : Nat) (g : Gang) (mask : BitVec 8), s.gangAt core slot = some g → g.trap = none → lead < 8 →
    mask.getLsbD lead = true → g.unretired lead = true → (∀ j < lead, mask.getLsbD j = true → g.unretired j = false) →
    (∀ j < 8, mask.getLsbD j = true → g.unretired j = true → (g.quad j).park = .regang mask ∧ (g.quad j).pc = (g.quad lead).pc ∧
      (g.quad j).stack.map (fun e => (e.path, e.pc)) = (g.quad lead).stack.map (fun e => (e.path, e.pc))) →
    exec (.regangCompletion core slot mask) s = .next (s.modGang core slot fun g => { g with
      quads := g.quads.mapIdx fun j d =>
        if j < 8 ∧ mask.getLsbD j = true ∧ g.unretired j = true then
          { d with party := BitVec.ofNat 3 lead, park := .none, pc := succPc (g.quad lead).pc, last := some s.now, wake := s.now + 1 }
        else d }))

/-- R36, R173: SETMARK of a gang that is one party records the mark at the next word with a snapshot of the quads, GMODE and the routes, and the
recipe's address, and closes no mark; the mark is settled 96 clocks later. -/
def Claim.SetmarkRecordsASnapshot : Prop :=
  (∀ (s : State) (p : Party) (off : BitVec 25), Runs s p (.setmark off) → p.inRep = false → p.g.leads.length = 1 →
    ∃ (t : State) (h : Gang) (m : Mark), exec (.setmark off) s = .next t ∧ OnlyGang s t p h ∧
      h = { p.moved s with markpc := succPc p.pc, recipe := offsetPc p.pc off, epoch := p.g.epoch + 1, marks := p.g.marks + 1, mark := some m } ∧
      m.pc = succPc p.pc ∧ m.recipe = offsetPc p.pc off ∧ m.quads = p.g.quads ∧ m.gmode = p.g.gmode ∧ m.routes = p.g.routes ∧ m.setAt = s.now ∧
      (s.now + 96, .markSettle p.core p.slot s.now) ∈ t.agenda) ∧
  (∀ (s : State) (core slot : Nat) (g : Gang) (m : Mark), s.gangAt core slot = some g → g.mark = some m →
    ∃ (t : State) (h : Gang), exec (.markSettle core slot m.setAt) s = .next t ∧ t.gangAt core slot = some h ∧ h.settled = some m ∧
      h.mark = some m ∧ h = { g with settled := some m, copied := h.copied })

/-- R118: TRAP takes USERTRAP with its code in XINFO[7:0] and XPC at its successor. -/
def Claim.TrapRaisesUserTrap : Prop :=
  ∀ (s : State) (p : Party) (code : BitVec 8), Runs s p (.trap code) →
    exec (.trap code) s = .next (s.takeTrap p.core p.slot ⟨0x05, code.zeroExtend 32, succPc p.pc, p.lead, none⟩)

/-- R119, R120: YIELD of a gang that is one party, on a gate the block has, parks the party with its continuation and sends its wait to the gate. -/
def Claim.YieldParksOnTheGate : Prop :=
  ∀ (s : State) (p : Party) (b : Block) (gate : BitVec 8) (off : BitVec 17), Runs s p (.yield gate off) → s.blockOf p = some b →
    p.g.leads.length = 1 → gate.toNat < b.ngates →
    exec (.yield gate off) s = .next (((s.withGangOf p (p.g.mapParty p.lead fun d =>
        { d with park := .yield gate.toNat .onWay (offsetPc p.pc off), last := some s.now })).modBlock b.key fun x =>
          { x with gateIn := x.gateIn ++ [⟨s.now + gateDelay b p.core, gate.toNat, p.core, p.slot, [], .wait p.lead⟩] }).at
        (s.now + gateDelay b p.core) (.gateUpdate b.key gate.toNat))

/-! ### Every instruction word: what comes before its own effect -/

/-- WRS, WRP, ACCRD and ACCWR, of which the values of their operands too say whether they are ILLEGAL and how many registers they name
(R103, R242, R248). -/
def byValue : Instr → Bool
  | .wrs .. => true | .wrp .. => true | .accrd .. => true | .accwr .. => true
  | _ => false

/-- R68: an instruction that has a word and that a trap comes before (PRIVILEGED, ILLEGAL, REGRANGE, STALLSHORT, in that order) takes that trap
precisely, whatever its own effect. One whose operand values count too takes that trap or one that comes before it: PRIVILEGED stands, and
ILLEGAL shows the lowest cause. -/
def Claim.TrapsComeBeforeTheEffect : Prop :=
  ∀ (s : State) (p : Party) (i : Instr) (code info : Nat), hasWord i = true → s.party? = some p → scoreboard p i = true →
    heldBack (s.coreAt p.core) p i = false → preTrap s.now p i = some (code, info) →
    (byValue i = false → exec i s = .next (s.raise p code info)) ∧
    (byValue i = true → (∀ d a, i = .accrd d a → s.pairHeld p d true = false) → (∀ d a, i = .accwr d a → s.pairHeld p d false = false) →
      ∃ code' info', exec i s = .next (s.raise p code' info') ∧
        (code = 0x04 → code' = 0x04 ∧ info' = 0) ∧ (code = 0x01 → code' = 0x01 ∧ info' ≤ info) ∧
        (code = 0x10 → code' = 0x01 ∨ code' = 0x10) ∧ (code' = 0x01 ∨ code' = 0x02 ∨ code' = 0x04 ∨ code' = 0x10))

/-- R67, R68, R103: a WRS outside the lane registers that no trap of its fields comes before, and whose value gives an ILLEGAL cause, traps ILLEGAL
with the lowest cause, and ACCRD and ACCWR of a 64-bit tile trap ILLEGAL with cause 3 for q and 4 for an odd register. -/
def Claim.OperandValuesTrapIllegal : Prop :=
  (∀ (s : State) (p : Party) (a : Reg) (k : BitVec 11) (c : Nat), Runs s p (.wrs a k) → laneReg k = false → p.once = true →
    lowest (writeCauses k.toNat (s.uniform p a (if wideReg k then 2 else 1))) = some c →
    exec (.wrs a k) s = .next (s.raise p 0x01 (c + (opcode (.wrs a k)).toNat * 2 ^ 25))) ∧
  (∀ (s : State) (p : Party) (d a : Reg) (i : Instr), (i = .accrd d a ∨ i = .accwr d a) → Runs s p i → tdWide (s.uniform p a 1) = true →
    (kindOf d = .q → exec i s = .next (s.raise p 0x01 (3 + (opcode i).toNat * 2 ^ 25))) ∧
    (kindOf d = .s → d.toNat % 2 = 1 → s.pairHeld p d (decide (i = .accrd d a)) = false →
      exec i s = .next (s.raise p 0x01 (4 + (opcode i).toNat * 2 ^ 25))))

/-- R50, R94: an instruction that has a word and reads or writes a register with a pending variable-latency write, the guard's predicate among
those it reads where it obeys the guard, is not ready, whatever CHK holds: the party is tried again in the next clock, nothing else changes
and nothing traps. An instruction that writes a vector register of a marked B range is held in the same way. -/
def Obligations.PendingResultsHoldTheParty : Prop :=
  ∀ (s : State) (p : Party) (i : Instr), hasWord i = true → s.party? = some p →
    (∃ d ∈ p.g.pend, ∃ r ∈ d.regs, r ∈ readCodes p.ty i ++ writeCodes p.ty i ++ (if guarded i then [128 + gpPred p.g.gmode] else [])) ∨
      (∃ r ∈ writeCodes p.ty i, r < 96 ∧ (s.coreAt p.core).marked p.slot p.g.blk r = true) →
    exec i s = .next (s.modGang p.core p.slot fun g => g.mapParty p.lead fun q => { q with wake := s.now + 1 })

/-- R62, R100: in user mode, SYS, ERET, RDP, WRP and RDS or WRS of a supervisor register trap PRIVILEGED, before any field is checked, and in
supervisor mode none of them does. -/
def Claim.PrivilegedTrapsInUserMode : Prop :=
  ∀ (now : Nat) (p : Party) (i : Instr),
    (privileged i = true → p.g.super = false → preTrap now p i = some (0x04, 0)) ∧
    (p.g.super = true ∨ privileged i = false → ∀ info, preTrap now p i ≠ some (0x04, info)) ∧
    (∀ d a, privileged (.keyw d a) = true ∧ privileged (.jrnl d a) = true ∧ privileged (.preqHold d a) = true ∧ privileged (.freeze d a) = true) ∧
    privileged .eret = true ∧ (∀ d k, privileged (.rdp d k) = true) ∧ (∀ a k, privileged (.wrp a k) = true) ∧
    (∀ d, privileged (.rds d 0x400) = true ∧ privileged (.rds d 0x003) = false) ∧ (∀ a, privileged (.wrs a 0x003) = true)

/-- R11, R67: outside supervisor faults, an instruction whose fields give ILLEGAL causes reports the lowest with its major opcode; one that
names a vector register at or above the allotment, and gives no ILLEGAL cause, traps REGRANGE with that field's code. -/
def Claim.IllegalAndRangeTrapsReport : Prop :=
  ∀ (now : Nat) (p : Party) (i : Instr), (privileged i = true → p.g.super = true) →
    (∀ c, lowest (illegalCauses p.ty p.g.super i) = some c → preTrap now p i = some (0x01, c + (opcode i).toNat * 2 ^ 25)) ∧
    (∀ o ∈ opnds i, lowest (illegalCauses p.ty p.g.super i) = none → kindOf o.reg = .v → p.g.allot < o.reg.toNat + o.span.count p.ty →
      (∀ o' ∈ opnds i, o' = o ∨ kindOf o'.reg ≠ .v ∨ o'.reg.toNat + o'.span.count p.ty ≤ p.g.allot) →
      preTrap now p i = some (0x10, o.reg.toNat + (o.field % 3) * 256))

/-- R67, R68: a word that is no instruction traps ILLEGAL with its cause and major opcode. -/
def Claim.NoInstructionTrapsIllegal : Prop :=
  ∀ (s : State) (p : Party) (cause : BitVec 4) (op : BitVec 7), s.party? = some p →
    exec (.illegalInstruction cause op) s = .next (s.raise p 0x01 (cause.toNat + op.toNat * 2 ^ 25))

/-! ### State registers -/

/-- R9, R29, R100, R101, R414: what a few state registers read. -/
def Claim.StateRegistersRead : Prop :=
  ∀ (s : State) (p : Party),
    stateValue s p 0x000 = p.g.gmode.toNat ∧ stateValue s p 0x001 = p.g.routes.toNat ∧ stateValue s p 0x002 = p.g.lit.toNat ∧
    stateValue s p 0x003 = p.g.rep.toNat ∧ stateValue s p 0x008 = p.g.markpc.toNat ∧ stateValue s p 0x00A = p.g.recipe.toNat ∧
    stateValue s p 0x010 = (p.g.quad p.lead).stack.length ∧ stateValue s p 0x040 = (p.g.act p.lead).toNat ∧
    stateValue s p 0x046 = p.g.yarr.toNat ∧ stateValue s p 0x04C = s.now % 2 ^ 64 ∧ stateValue s p 0x082 = (s.coreAt p.core).baymap.toNat ∧
    stateValue s p 0x08D = (s.coreAt p.core).leatSeq.toNat ∧ stateValue s p 0x0C0 = (s.coreAt p.core).rqtick.toNat ∧
    stateValue s p 0x101 = (s.coreAt p.core).mxtick.toNat ∧ stateValue s p 0x106 = p.g.tsel.toNat ∧ stateValue s p 0x180 = p.g.kv.rm.toNat ∧
    stateValue s p 0x18E = p.g.bs.pc.toNat ∧ stateValue s p 0x400 = p.g.xr.xpc.toNat ∧ stateValue s p 0x402 = p.g.xr.xcode.toNat ∧
    stateValue s p 0x403 = p.g.xr.xinfo.toNat ∧ stateValue s p 0x404 = p.g.xr.xrep.toNat ∧ stateValue s p 0x405 = p.g.xr.xmode.toNat ∧
    stateValue s p 0x406 = p.g.xr.xroute.toNat

/-- R102: RDS delivers its register's value, as it stands at issue (log entry 10): once to s, to every executing lane of v, a pair for a 64-bit
register; after 4 clocks for the registers at 0x000 to 0x07F and from 0x400, and after an open latency for the others. RNG delivers each
executing lane its own generator. -/
def Claim.RdsDeliversTheRegister : Prop :=
  ∀ (s : State) (p : Party) (d : Reg) (k : BitVec 11), Runs s p (.rds d k) →
    (laneReg k = false →
      ∃ (t : State) (h : Gang) (ws : List RegWrite), exec (.rds d k) s = .next t ∧ OnlyGang s t p h ∧
        ws = p.uniformWrites d (if wideReg k then 2 else 1) (stateValue s p k.toNat) ∧
        (k.toNat < 0x080 ∨ 0x400 ≤ k.toNat → Lands s t p h 4 ws ∧ h = { p.moved s with inflight := h.inflight }) ∧
        (0x080 ≤ k.toNat ∧ k.toNat < 0x400 → Returns s t p h ws ∧ h = { p.moved s with pend := h.pend })) ∧
    (k = 0x045 → kindOf d = .v →
      ∃ (t : State) (h : Gang), exec (.rds d k) s = .next t ∧ OnlyGang s t p h ∧ h = { p.moved s with inflight := h.inflight } ∧
        Lands s t p h 4 ((lanesOf p.executing).map fun l => ⟨.v d.toNat l, p.g.rng l⟩))

/-- State registers whose whole value WRS writes. -/
def plainRegs : List Nat :=
  [0x000, 0x001, 0x002, 0x008, 0x00A, 0x046, 0x106, 0x180, 0x188, 0x18E, 0x190, 0x191, 0x192, 0x400, 0x402, 0x403, 0x404, 0x405, 0x406]

/-- R102, R103: WRS of a value that passes its register's checks, with a writing lane, makes the register read that value, and every other of
these registers reads as before; nothing but the gang changes. -/
def Claim.WrsReadsBack : Prop :=
  ∀ (s : State) (p : Party) (a : Reg) (k : BitVec 11) (v : Nat), k.toNat ∈ plainRegs → Runs s p (.wrs a k) → p.inRep = false → p.once = true →
    v = s.uniform p a (if wideReg k then 2 else 1) → lowest (writeCauses k.toNat v) = none →
    ∃ (t : State) (h : Gang), exec (.wrs a k) s = .next t ∧ OnlyGang s t p h ∧ stateValue t { p with g := h } k.toNat = v ∧
      (∀ j ∈ plainRegs, j ≠ k.toNat → stateValue t { p with g := h } j = stateValue s p j) ∧
      h.vregs = p.g.vregs ∧ h.preds = p.g.preds ∧ h.sregs = p.g.sregs ∧ h.rngs = p.g.rngs

/-- R102: WRS without a writing lane writes nothing; the party goes on. -/
def Claim.WrsWithoutALaneWritesNothing : Prop :=
  ∀ (s : State) (p : Party) (a : Reg) (k : BitVec 11), Runs s p (.wrs a k) → laneReg k = false → p.once = false →
    exec (.wrs a k) s = .next (s.withGangOf p (p.moved s))

/-- R103: a write of RNG gives every executing lane its value, 1 for a value of 0, and no other lane; nothing else of the gang changes. -/
def Claim.RngWriteStoresOneForZero : Prop :=
  ∀ (s : State) (p : Party) (a : Reg), s.party? = some p →
    ∃ (t : State) (h : Gang), exec (.rngWrite a) s = .next t ∧ OnlyGang s t p h ∧ h = { p.g with rngs := h.rngs } ∧
      (∀ l ∈ lanesOf p.executing, h.rng l = if s.source p a 0 l = 0 then 1 else s.source p a 0 l) ∧
      (∀ l, l ∉ lanesOf p.executing → h.rng l = p.g.rng l)

/-- R38, R104, R460: the writes of the join stack reach every quad of the party and close the mark: JSDEPTH cuts or fills the stack with empty
join entries; JSKIND, JSPC, JSA and JSB write entry n, a mask without its quad's helpers. MARKPC and RECIPE take their value, and MARKV
closes the mark. -/
def Claim.StackAndMarkRegisterWrites : Prop :=
  ∀ (s : State) (p : Party), s.party? = some p →
    (∀ v : Word, v.toNat ≤ 8 →
      exec (.jsdepthWrite v) s = .next (s.withGangOf p { p.g with
        mark := none, settled := none, eccOnce := false
        quads := p.g.quads.mapIdx fun j d =>
          if j ∈ p.g.members p.lead then { d with stack := (d.stack ++ List.replicate 8 (⟨false, 0, 0, 0⟩ : JEntry)).take v.toNat } else d })) ∧
    (∀ (k : BitVec 11) (v : Addr), 0x018 ≤ k.toNat → k.toNat < 0x040 → lowest (writeCauses k.toNat v.toNat) = none →
      ∃ (t : State) (h : Gang), exec (.joinStackEntryWrite k v) s = .next t ∧ OnlyGang s t p h ∧
        h = { p.g with mark := none, settled := none, eccOnce := false, quads := h.quads } ∧
        ∀ j ∈ p.g.members p.lead,
          ((h.quad j).stack.length = (p.g.quad j).stack.length) ∧
          (∀ n e, (p.g.quad j).stack[n]? = some e →
            (k.toNat = 0x018 + n → ((h.quad j).stack[n]?).map (·.path) = some (v == 1)) ∧
            (k.toNat = 0x020 + 2 * n → (h.quad j).stack[n]? = some { e with pc := v }) ∧
            (k.toNat = 0x030 + n → (h.quad j).stack[n]? = some { e with mask := quadBits (v.truncate 32) j &&& ~~~ (p.g.quad j).helper }) ∧
            (k.toNat = 0x038 + n → e.path = false →
              (h.quad j).stack[n]? = some { e with got := quadBits (v.truncate 32) j &&& ~~~ (p.g.quad j).helper }))) ∧
    (∀ v : Addr,
      exec (.markRegisterWrite 0x008 v) s = .next (s.withGangOf p { p.g with markpc := v, mark := none, settled := none, eccOnce := false }) ∧
      exec (.markRegisterWrite 0x00A v) s = .next (s.withGangOf p { p.g with recipe := v, mark := none, settled := none, eccOnce := false }) ∧
      (v.toNat ≤ 1 → exec (.markRegisterWrite 0x00C v) s = .next (s.withGangOf p { p.g with mark := none, settled := none, eccOnce := false })))

/-- R177, R208, R269, R280, R415: a write of HALT halts the core or lets it go on; of zero to RQERR clears it; of PORTCAP sets the bucket's depth
and brings its level down to it; of zero to L2FILL, L2HIT or L2HITX clears the counter of the selected slice and class; of KVPFREE sets the
free count of the selected pool. -/
def Claim.CoreRegisterWrites : Prop :=
  (∀ (s : State) (core : Nat) (v : Word), ∃ t : State, exec (.haltWrite core v) s = .next t ∧
    (t.coreAt core).halted = v.getLsbD 0 ∧ (v.getLsbD 0 = true → t = s.modCore core fun c => { c with halted := true })) ∧
  (∀ (s : State) (p : Party), s.party? = some p →
    exec (.rqerrWrite 0) s = .next (s.modCore p.core fun c => { c with rqerr := 0 })) ∧
  (∀ (s : State) (p : Party) (v : Word), s.party? = some p → v ≠ 0 → v.toNat < 2 ^ 16 →
    ∃ t : State, exec (.portcapWrite v) s = .next t ∧ (t.coreAt p.core).port.cap = v.toNat ∧
      (t.coreAt p.core).port.level = Nat.min (s.coreAt p.core).port.level v.toNat ∧ t = { s with cores := t.cores }) ∧
  (∀ (s : State) (p : Party) (k : BitVec 11) (cls : Nat), s.party? = some p → cls = (s.coreAt p.core).selClass →
    (k = 0x06A ∨ k = 0x06B ∨ k = 0x06C) →
    ∃ (t : State) (x : Slice), exec (.l2CounterClear k 0) s = .next t ∧ t = { s with slices := t.slices } ∧
      x = t.sliceAt ((s.coreAt p.core).selSlice p.core) ∧
      (k = 0x06A → Sp.get x.fill cls = 0) ∧ (k = 0x06B → Sp.get x.hit cls = 0) ∧ (k = 0x06C → Sp.get x.hitx cls = 0)) ∧
  (∀ (s : State) (p : Party) (v : Word), s.party? = some p → fld (s.coreAt p.core).kvfsel.toNat 9 8 < s.pools.length →
    ∃ t : State, exec (.kvpfreeWrite v) s = .next t ∧ t = { s with pools := t.pools } ∧
      (t.poolAt (fld (s.coreAt p.core).kvfsel.toNat 9 8)).free = v)

/-- Privileged registers whose whole value WRP writes. -/
def plainPriv : List Nat :=
  [0x061, 0x068, 0x070, 0x072, 0x074, 0x076, 0x077, 0x078, 0x079, 0x080, 0x083, 0x090, 0x091, 0x092, 0x093, 0x094, 0x096, 0x097, 0x098, 0x09A,
    0x0A2, 0x0A4, 0x0A6, 0x0A8, 0x0AA, 0x0B9, 0x0C0, 0x0C3, 0x0C4]

/-- R99, R269, R280, R357, R390, R415, R436, R454: RDP delivers its register's value, as it stands at issue (the model's choice, log entry 10), after
an open latency; WRP of a value that passes its register's checks and range, in a gang of the physical function where the register asks for it
(in which order it checks these is the model's choice, log entry 46), makes the register read that value. -/
def Claim.PrivilegedStateReadsBack : Prop :=
  (∀ (s : State) (p : Party) (d : Reg) (k : BitVec 11), Runs s p (.rdp d k) →
    ∃ (t : State) (h : Gang), exec (.rdp d k) s = .next t ∧ OnlyGang s t p h ∧ h = { p.moved s with pend := h.pend } ∧
      Returns s t p h (p.uniformWrites d (if widePriv k then 2 else 1) (privValue s p k.toNat))) ∧
  (∀ (s : State) (p : Party) (a : Reg) (k : BitVec 11) (v : Nat), k.toNat ∈ plainPriv → Runs s p (.wrp a k) → p.once = true →
    v = s.uniform p a (if widePriv k then 2 else 1) → lowest (privCauses k.toNat v) = none →
    (0x090 ≤ k.toNat → (s.coreAt p.core).function = 0) → privRange s p k.toNat v = true →
    ∃ (t : State) (h : Gang), exec (.wrp a k) s = .next t ∧ t.gangAt p.core p.slot = some h ∧ privValue t { p with g := h } k.toNat = v ∧
      h = { p.moved s with xr := h.xr })

/-- R415: KVPREG, KVPSTK and KVPLOW of the selected pool read back too. -/
def Claim.PoolRegistersReadBack : Prop :=
  ∀ (s : State) (p : Party) (a : Reg) (k : BitVec 11) (v : Nat), k.toNat ∈ [0x09C, 0x09E, 0x0A0, 0x0A1] → Runs s p (.wrp a k) → p.once = true →
    v = s.uniform p a (if widePriv k then 2 else 1) → lowest (privCauses k.toNat v) = none → (s.coreAt p.core).function = 0 →
    privRange s p k.toNat v = true → fld (s.coreAt p.core).kvfsel.toNat 9 8 < s.pools.length →
    ∃ (t : State) (h : Gang), exec (.wrp a k) s = .next t ∧ t.gangAt p.core p.slot = some h ∧ privValue t { p with g := h } k.toNat = v

/-! ### Gates -/

/-- The arrival and byte counts after one change reaches a gate, before its test (R195, R197). -/
def gateCounts (g : Gate) : GateChange → Gate
  | .binit n _ => { g with expect := n, rema := n.zeroExtend 16, remb := 0, phase := false, init := true }
  | .bexp n => { g with remb := g.remb + n.zeroExtend 48 }
  | .btile t => { g with rema := g.rema + t.truncate 16 }
  | .arrive => { g with rema := g.rema - 1 }
  | .tile => { g with rema := g.rema - 1 }
  | .land n => { g with remb := g.remb - BitVec.ofNat 48 n }
  | .addBack n => { g with remb := g.remb + BitVec.ofNat 48 n }
  | .wait _ => g
  | .test _ _ _ => g
  | .read _ _ _ => g

/-- The pending results of a gang once the value of one is known. -/
def setBody (id : Nat) (body : PendBody) (pend : List Pend) : List Pend := replaceFirst (fun x => x.id == id) (fun x => { x with body := body }) pend

/-- Two gangs that differ at most in what their parties wait for. -/
def SameButParks (h g : Gang) : Prop :=
  h = { g with quads := h.quads } ∧ h.quads.map (fun d => { d with park := .none }) = g.quads.map (fun d => { d with park := .none })

/-- R194, R195, R197: a change that reaches a gate alone in its clock changes the gate's counts; when the gate is initialised and both counts
are then zero, its phase flips, REMA is EXPECT again and ADV counts. A sender's arrival records the gate and the phase it counted toward
(R119). -/
def Claim.GateAppliesOneChange : Prop :=
  ∀ (s : State) (blk gate : Nat) (b : Block) (e : GateIn) (c : Gate), s.blockAt blk = some b → b.gateIn = [e] → e.gate = gate →
    e.clock ≤ s.now → e.after = [] → gate < b.gates.length → c = gateCounts (b.gate gate) e.chg →
    ∃ (t : State) (b' : Block), exec (.gateUpdate blk gate) s = .next t ∧ t.blockAt blk = some b' ∧
      b' = { b with gateIn := [], gates := b'.gates } ∧
      (∀ n, n ≠ gate → b'.gate n = b.gate n) ∧
      b'.gate gate = (if c.init = true ∧ c.rema = 0 ∧ c.remb = 0 then
        { c with phase := !c.phase, rema := c.expect.zeroExtend 16, adv := c.adv + 1 } else c) ∧
      (e.chg = .arrive → ∀ g, s.gangAt e.core e.slot = some g →
        ∃ h, t.gangAt e.core e.slot = some h ∧ SameButParks h { g with yarr := yarrImage gate (b.gate gate).phase }) ∧
      (∀ pend d mask, e.chg = .read pend d mask → ∀ g, s.gangAt e.core e.slot = some g → ∃ h, t.gangAt e.core e.slot = some h ∧
        SameButParks h { g with pend := setBody pend (.value (maskedWrites d mask 4 (gateImage (b.gate gate)).toNat)) g.pend }) ∧
      (∀ pend d mask, e.chg = .test pend d mask → ∀ g, s.gangAt e.core e.slot = some g →
        ∃ (h : Gang) (moved : Bool), t.gangAt e.core e.slot = some h ∧
          moved = (yarrValid g.yarr && yarrGate g.yarr == gate && ((b.gate gate).phase != yarrPhase g.yarr)) ∧
          yarrValid h.yarr = (yarrValid g.yarr && !moved) ∧
          SameButParks h { g with
            yarr := h.yarr
            pend := setBody pend (if moved then .observed (maskedWrites d mask 1 1) else .value (maskedWrites d mask 1 0)) g.pend })

/-- R120, R195, R197: once a gate's phase differs from the phase a party waits on, and the reads that its gang issued before have returned (R304), a
party parked by YIELD stands at its continuation and one parked by BWAIT with D = z at its successor, no longer parked, and the arrival record is
no longer valid. While the core is halted the party stays parked (R121), freed however the phase moves on. -/
def Claim.GateWakesItsWaiters : Prop :=
  ∀ (s : State) (blk gate core slot lead : Nat) (b : Block) (g : Gang) (ref : Bool), s.blockAt blk = some b →
    s.gangsOf blk = [(core, slot, g)] → s.gangAt core slot = some g → g.trap = none → g.rolling = none → g.redo = false →
    (∀ d ∈ g.pend, d.isRead = false) → g.leads = [lead] → lead ∈ g.members lead → ref ≠ (b.gate gate).phase →
    (∀ cont, (g.quad lead).park = .yield gate (.waits ref) cont → ∃ (T : State) (h : Gang), exec (.gateWaiterWake blk gate) s = .next T ∧
      T.gangAt core slot = some h ∧
      ((s.coreAt core).halted = true → h.yarr = g.yarr ∧ h.quad lead = { g.quad lead with park := .yield gate (.freed ref) cont }) ∧
      ((s.coreAt core).halted = false → badPc cont = false → h = { g with quads := h.quads, yarr := g.yarr &&& ~~~ (1#32 <<< 9) } ∧
        ∀ j ∈ g.members lead, h.quad j = { g.quad j with park := .none, pc := cont, wake := s.now })) ∧
    ((g.quad lead).park = .bwait gate (.waits ref) 0x7E → (s.coreAt core).halted = false →
      ∃ (T : State) (h : Gang), exec (.gateWaiterWake blk gate) s = .next T ∧ T.gangAt core slot = some h ∧
        h = { g with quads := h.quads, yarr := g.yarr &&& ~~~ (1#32 <<< 9) } ∧
        ∀ j ∈ g.members lead, h.quad j = { g.quad j with park := .none, pc := succPc (g.quad j).pc, wake := s.now })

/-- What a BAR sub-op sends to its gate: gate operand, and the change. -/
def gateSent (s : State) (p : Party) : Instr → Option (Reg × GateChange × List Nat)
  | .binit d a => some (a, .binit (BitVec.ofNat 8 (s.uniform p d 1)) s.now, [])
  | .barr _ a => some (a, .arrive, arrivalAfter s p)
  | .bexp d a => some (a, .bexp (word (s.uniform p d 1)), [])
  | .btile d a => some (a, .btile (word (s.uniform p d 1)), [])
  | _ => none

/-- The count check of a BAR sub-op (R197, R209): BINIT counts 1 to 64; an arrival names EXPECT, which an initialised gate has; BTILE at most 4,095
tiles. -/
def gateCountOk (s : State) (p : Party) (b : Block) (gate : Nat) : Instr → Bool
  | .binit d _ => decide (1 ≤ s.uniform p d 1) && decide (s.uniform p d 1 ≤ 64)
  | .barr d _ => s.uniform p d 1 == expectNow b p.core p.slot gate && expectNow b p.core p.slot gate != 0
  | .barw d _ => s.uniform p d 1 == expectNow b p.core p.slot gate && expectNow b p.core p.slot gate != 0
  | .btile d _ => decide (s.uniform p d 1 ≤ 4095)
  | _ => true

/-- R195, R196, R197: BINIT, BARR, BEXP and BTILE with a writing lane, on a gate the block has and with a count that passes, send their change
to the gate, to arrive 2 clocks later (6 from the bed core of a twin block), and go on; but for BTILE they close the mark (R38). -/
def Claim.GateSubopsSendTheirChange : Prop :=
  ∀ (s : State) (p : Party) (b : Block) (i : Instr) (a : Reg) (chg : GateChange) (after : List Nat) (gate : Nat),
    gateSent s p i = some (a, chg, after) → Runs s p i → p.inRep = false → s.blockOf p = some b → gate = s.uniform p a 1 → p.once = true →
    gate < b.ngates → gateCountOk s p b gate i = true →
    ∃ (t : State) (h : Gang), exec i s = .next t ∧ t.gangAt p.core p.slot = some h ∧ t.cores = (s.withGangOf p h).cores ∧
      h = (if (∃ d a, i = .btile d a) then p.moved s else { p.moved s with mark := none, settled := none, eccOnce := false }) ∧
      t.blocks = replaceFirst (·.key == b.key)
        (fun x => { x with gateIn := x.gateIn ++ [GateIn.mk (s.now + gateDelay b p.core) gate p.core p.slot after chg] }) s.blocks ∧
      t = { s with cores := t.cores, blocks := t.blocks, agenda := s.agenda ++ [(s.now + gateDelay b p.core, .gateUpdate b.key gate)] }

/-- R195, R196, R197: BWAIT parks the party on its gate until the phase moves; BARW arrives first, and closes the mark. -/
def Claim.GateWaitsPark : Prop :=
  ∀ (s : State) (p : Party) (b : Block) (d a : Reg) (gate : Nat), s.blockOf p = some b → gate = s.uniform p a 1 → p.once = true →
    gate < b.ngates →
    (Runs s p (.bwait d a) →
      ∃ t : State, exec (.bwait d a) s = .next t ∧
        t.gangAt p.core p.slot = some (p.g.mapParty p.lead fun q => { q with park := .bwait gate .onWay d, last := some s.now }) ∧
        (t.blockAt p.g.blk).map (·.gateIn) = some (b.gateIn ++ [⟨s.now + gateDelay b p.core, gate, p.core, p.slot, [], .wait p.lead⟩])) ∧
    (Runs s p (.barw d a) → gateCountOk s p b gate (.barw d a) = true →
      ∃ t : State, exec (.barw d a) s = .next t ∧
        t.gangAt p.core p.slot = some { p.g.mapParty p.lead fun q => { q with park := .bwait gate .onWay 0x7E, last := some s.now } with
          mark := none, settled := none, eccOnce := false } ∧
        (t.blockAt p.g.blk).map (·.gateIn) = some (b.gateIn ++
          [⟨s.now + gateDelay b p.core, gate, p.core, p.slot, arrivalAfter s p, .arrive⟩,
           ⟨s.now + gateDelay b p.core, gate, p.core, p.slot, [], .wait p.lead⟩]))

/-- R196, R197: BTEST and BRD send a read to the gate and go on; the gang holds their result as outstanding (R50). -/
def Claim.GateReadsAreOutstanding : Prop :=
  ∀ (s : State) (p : Party) (b : Block) (d a : Reg) (gate : Nat), s.blockOf p = some b → gate = s.uniform p a 1 → p.once = true →
    gate < b.ngates →
    (Runs s p (.btest d a) →
      ∃ t : State, exec (.btest d a) s = .next t ∧
        t.gangAt p.core p.slot = some { p.moved s with pend := p.g.pend ++ [⟨s.fresh, p.lead, resultCodes d 1, p.g.super, .test⟩] } ∧
        (t.blockAt p.g.blk).map (·.gateIn) = some (b.gateIn ++
          [⟨s.now + gateDelay b p.core, gate, p.core, p.slot, [], .test s.fresh d p.executing⟩])) ∧
    (Runs s p (.brd d a) →
      ∃ t : State, exec (.brd d a) s = .next t ∧
        t.gangAt p.core p.slot = some { p.moved s with pend := p.g.pend ++ [⟨s.fresh, p.lead, resultCodes d 4, p.g.super, .gate⟩] } ∧
        (t.blockAt p.g.blk).map (·.gateIn) = some (b.gateIn ++
          [⟨s.now + gateDelay b p.core, gate, p.core, p.slot, [], .read s.fresh d p.executing⟩]))

/-- R196, R209: a gate number at or above the block's gate count traps GATENUM with the number, in a lane that writes, for every BAR sub-op. -/
def Claim.GateNumberTraps : Prop :=
  ∀ (s : State) (p : Party) (b : Block) (i : Instr) (d a : Reg), s.blockOf p = some b → p.once = true →
    i ∈ [.binit d a, .barr d a, .barw d a, .bwait d a, .bexp d a, .btest d a, .btile d a, .brd d a] → Runs s p i →
    b.ngates ≤ s.uniform p a 1 → exec i s = .next (s.raise p 0x31 (s.uniform p a 1))

/-- R31, R32: once a block-shared write is visible everywhere it and every earlier write of the block stand in the shared registers, in their
order. -/
def Claim.SharedWritesBecomeVisibleInOrder : Prop :=
  ∀ (s : State) (blk id : Nat) (b : Block) (early late : List ShWrite) (w : ShWrite), s.blockAt blk = some b →
    b.shWrites = early ++ w :: late → w.id = id → (∀ x ∈ early, x.id ≠ id) →
    ∃ (t : State) (b' : Block), exec (.blockSharedVisibility blk id) s = .next t ∧ t = { s with blocks := t.blocks } ∧ t.blockAt blk = some b' ∧
      b' = { b with shared := b'.shared, shWrites := late } ∧
      (∀ x, (∀ y ∈ early, y.reg ≠ x) → x ≠ w.reg → Sp.get b'.shared x = Sp.get b.shared x) ∧
      Sp.get b'.shared w.reg = w.val

/-! ### Memory accesses -/

/-- The last byte that some writes store at an address, or what stood there. -/
def lastByte (ws : List (Nat × Byte)) (va : Nat) (old : Option Byte) : Option Byte :=
  match (ws.filter fun w => w.1 == va).getLast? with
  | some w => some w.2
  | none => old

/-- The writing lanes of a party with their addresses, from a pair (n = 2) or one register (n = 1) plus an offset (R179). -/
def laneAddrs (s : State) (p : Party) (a : Reg) (n size off : Nat) : List (Nat × Nat) :=
  (lanesOf p.writing).map fun l => (l, laneAddr s p a n size off l)

/-- R167, R182, R183: LD that traps on nothing adds one outstanding load with a lane for each writing lane, its address and the bytes of the own
view where that holds them all, and helper lanes; each line that is missing is asked for once at the port. Nothing else changes but the
party's place. -/
def Claim.LoadBecomesOutstanding : Prop :=
  ∀ (s : State) (p : Party) (t a : Reg) (kind : BitVec 3) (k : BitVec 8) (addr : Nat → Nat), Runs s p (.ld t a kind k) →
    addr = (fun l => laneAddr s p a 2 (kindSize kind) (k.toNat * kindSize kind) l) →
    globalTrap (s.coreAt p.core) 1 (kindSize kind) ((lanesOf p.writing).map fun l => (l, addr l)) = none →
    (p.executing = 0 → exec (.ld t a kind k) s = .next (s.withGangOf p (p.moved s))) ∧
    (p.executing ≠ 0 → atomOn (s.coreAt p.core) p.slot ((lanesOf p.writing ++ lanesOf p.helping).map addr) = false →
      ∃ (T : State) (h : Gang) (lanes help : List LoadLane) (missing : List Nat), exec (.ld t a kind k) s = .next T ∧
        T.gangAt p.core p.slot = some h ∧
        h = { p.moved s with pend := p.g.pend ++
          [⟨s.fresh, p.lead, resultCodes t (kindRegs kind), p.g.super, .load kind t (s.coreAt p.core).leatSeq lanes⟩] } ∧
        lanes = (lanesOf p.writing).map (fun l => (⟨l, addr l, false, (s.coreAt p.core).viewBytes s.now (addr l) (kindSize kind), none⟩ : LoadLane))
          ++ help ∧ (∀ x ∈ help, x.helper = true ∧ x.lane ∈ lanesOf p.helping ∧ x.addr = addr x.lane ∧ x.refused = none) ∧
        (∀ line, line ∈ missing ↔ ∃ x ∈ lanes, x.got = none ∧ lineOf x.addr = line) ∧ missing.Nodup ∧
        (T.coreAt p.core).port.queue.map (·.2) = (s.coreAt p.core).port.queue.map (·.2) ++
          missing.map (fun line => Instr.sliceFill p.core p.slot s.fresh line false) ∧
        (missing = [] → ∃ clock, s.now < clock ∧ (clock, .variableReturnLanding p.core p.slot s.fresh) ∈ T.agenda) ∧
        T.coreAt p.core = { s.coreAt p.core with gangs := Kv.put (s.coreAt p.core).gangs p.slot h, port := (T.coreAt p.core).port } ∧
        (∀ j, j ≠ p.core → T.coreAt j = s.coreAt j) ∧
        T = { s with cores := T.cores, agenda := T.agenda, fresh := T.fresh, share := T.share })

/-- R153, R180, R185: a load whose lanes have all returned, and for which the clock has write slots, writes each lane's bytes, extended by its
access kind, and is outstanding no longer. -/
def Claim.LoadLandsItsBytes : Prop :=
  (∀ (s : State) (core slot id : Nat) (g : Gang) (d : Pend) (seq : Word) (t : Reg) (x : LoadLane) (bs : List Byte) (kind : BitVec 3),
    s.gangAt core slot = some g → g.pend.find? (·.id == id) = some d → d.body = .load kind t seq [x] → x.got = some bs → x.refused = none →
    x.addr < 2 ^ 32 → kindOf t = .v → kind.toNat ≤ 4 → g.hasLane x.lane = true → x.lane < 32 →
    (s.coreAt core).returnMay s.now (quarterOf slot) id (writeSlots d.regs) = true →
    ∃ (T : State) (h : Gang), exec (.variableReturnLanding core slot id) s = .next T ∧ T.gangAt core slot = some h ∧
      h = { g with pend := g.pend.filter (·.id != id), vregs := h.vregs } ∧
      (∀ k, Sp.get h.vregs k = if k = 32 * t.toNat + x.lane then word (extendLoad kind bs) else Sp.get g.vregs k)) ∧
  (∀ b : Byte, extendLoad 0 [b] = b.toNat ∧ word (extendLoad 1 [b]) = b.signExtend 32) ∧
  (∀ lo hi : Byte, extendLoad 2 [lo, hi] = lo.toNat + 256 * hi.toNat ∧ word (extendLoad 3 [lo, hi]) = (hi ++ lo).signExtend 32)

/-- R153: a return of a known value lands in the first clock with write slots for it: then its writes are made, the gang and its releases wait
for it no longer, and no other vector register changes; in a clock without room it is tried again in the next one. A landing of what the gang
no longer holds, and one of lanes still to come, changes no register. -/
def Claim.VariableReturnsLand : Prop :=
  ∀ (s : State) (core slot id : Nat) (g : Gang), s.gangAt core slot = some g →
    (∀ (d : Pend) (ws : List RegWrite), g.pend.find? (·.id == id) = some d → d.body = .value ws →
      ((s.coreAt core).returnMay s.now (quarterOf slot) id (writeSlots d.regs) = true →
        ∃ (T : State) (h : Gang), exec (.variableReturnLanding core slot id) s = .next T ∧ T.gangAt core slot = some h ∧
          h.pend = g.pend.filter (·.id != id) ∧ h.inflight = g.inflight ∧ h.quads = g.quads ∧
          (∀ k, (∀ w ∈ ws, ∀ n l, w.dst = .v n l → 32 * n + l ≠ k) → Sp.get h.vregs k = Sp.get g.vregs k) ∧
          (T.coreAt core).rels = (s.coreAt core).rels.map fun r => { r with reads := r.reads.filter (· != id) }) ∧
      ((s.coreAt core).returnMay s.now (quarterOf slot) id (writeSlots d.regs) = false →
        ∃ T : State, exec (.variableReturnLanding core slot id) s = .next T ∧ T.gangAt core slot = some g ∧
          (s.now + 1, .variableReturnLanding core slot id) ∈ T.agenda)) ∧
    (g.pend.find? (·.id == id) = none → ∃ T : State, exec (.variableReturnLanding core slot id) s = .next T ∧ T.gangAt core slot = some g) ∧
    (∀ (d : Pend) (kind : BitVec 3) (t : Reg) (q : Word) (lanes : List LoadLane), g.pend.find? (·.id == id) = some d →
      d.body = .load kind t q lanes → (∃ l ∈ lanes, l.got = none ∧ l.refused = none) →
      ∃ T : State, exec (.variableReturnLanding core slot id) s = .next T ∧ T.gangAt core slot = some g)

/-- R166, R167, R171, R184: ST that traps on nothing and has room stores, for the own view of its core, exactly the bytes of its writing lanes
at their addresses; no byte of the coherent memory changes yet, and no other register. -/
def Claim.StoreEntersTheOwnView : Prop :=
  ∀ (s : State) (p : Party) (t a : Reg) (kind : BitVec 3) (k : BitVec 8) (addr : Nat → Nat) (ws : List (Nat × Byte)), Runs s p (.st t a kind k) →
    addr = (fun l => laneAddr s p a 2 (kindSize kind) (k.toNat * kindSize kind) l) → ws = storeBytes s p t kind addr →
    globalTrap (s.coreAt p.core) 2 (kindSize kind) ((lanesOf p.writing).map fun l => (l, addr l)) = none → readHeld s p = false →
    atomOn (s.coreAt p.core) p.slot ((lanesOf p.writing).map addr) = false → (s.coreAt p.core).ringHeld + needGranules ws ≤ 2048 →
    ∃ T : State, exec (.st t a kind k) s = .next T ∧ T.gangAt p.core p.slot = some (p.moved s) ∧
      (∀ va, va < 2 ^ 64 → (T.coreAt p.core).leatByte va = lastByte ws va ((s.coreAt p.core).leatByte va)) ∧
      (∀ va, s.homedHere va = true → T.globalByte va = s.globalByte va) ∧
      (∀ j, j ≠ p.core → T.coreAt j = s.coreAt j) ∧ T = { s with cores := T.cores, agenda := T.agenda }

/-- R186, R187: LDS reads its bytes in scratch as they stand, the gate area included, and holds them as an outstanding load; STS writes
exactly the bytes of its writing lanes into the scratch part of its core and no other byte. -/
def Claim.ScratchAccesses : Prop :=
  (∀ (s : State) (p : Party) (t a : Reg) (kind : BitVec 3) (k : BitVec 8) (b : Block) (addr : Nat → Nat), Runs s p (.lds t a kind k) →
    s.blockOf p = some b → addr = (fun l => laneAddr s p a 1 (kindSize kind) (k.toNat * kindSize kind) l) →
    firstTrap [misaligned (kindSize kind) 0 ((lanesOf p.writing).map fun l => (l, addr l)),
      scrTrap b (kindSize kind) false ((lanesOf p.writing).map fun l => (l, addr l))] = none → p.executing ≠ 0 →
    ∃ (T : State) (h : Gang) (lanes help : List LoadLane), exec (.lds t a kind k) s = .next T ∧ OnlyGang s T p h ∧
      h = { p.moved s with pend := p.g.pend ++
        [⟨s.fresh, p.lead, resultCodes t (kindRegs kind), p.g.super, .bridge kind t lanes⟩] } ∧
      lanes = (lanesOf p.writing).map (fun l => (⟨l, addr l, false,
        if b.partOf p.core = 1 ∧ addr l < 16 * b.ngates then none
        else some ((List.range (kindSize kind)).map fun j => b.ldsByte (b.partOf p.core) (addr l + j)), none⟩ : LoadLane)) ++ help ∧
      (∀ x ∈ help, x.helper = true ∧ x.lane ∈ lanesOf p.helping ∧ x.refused = none) ∧
      (∃ clock, s.now < clock ∧ (clock, .variableReturnLanding p.core p.slot s.fresh) ∈ T.agenda)) ∧
  (∀ (s : State) (p : Party) (t a : Reg) (kind : BitVec 3) (k : BitVec 8) (b : Block) (addr : Nat → Nat) (ws : List (Nat × Byte)),
    Runs s p (.sts t a kind k) → s.blockOf p = some b → addr = (fun l => laneAddr s p a 1 (kindSize kind) (k.toNat * kindSize kind) l) →
    ws = storeBytes s p t kind addr →
    firstTrap [misaligned (kindSize kind) 0 ((lanesOf p.writing).map fun l => (l, addr l)),
      scrTrap b (kindSize kind) true ((lanesOf p.writing).map fun l => (l, addr l))] = none → readHeld s p = false →
    ∃ (T : State) (b' : Block), exec (.sts t a kind k) s = .next T ∧ T = { s.withGangOf p (p.moved s) with blocks := T.blocks } ∧
      T.blockAt b.key = some b' ∧ b' = { b with scr := b'.scr, scrB := b'.scrB } ∧
      (∀ key, key ≠ b.key → T.blockAt key = s.blockAt key) ∧
      (∀ part < 2, ∀ off, some (b'.scratchByte part off) =
        if part = b.partOf p.core then lastByte ws off (some (b.scratchByte part off)) else some (b.scratchByte part off)))

/-- R181, R186, R209: a misaligned address traps MISALIGN with its lane, on LD, ST, LDS and STS, and a scratch range beyond the block's scratch
traps SCRRANGE, a store to the gate area with bit 5. -/
def Claim.AccessTraps : Prop :=
  (∀ (s : State) (p : Party) (t a : Reg) (kind : BitVec 3) (k : BitVec 8) (as : List (Nat × Nat)) (x : Nat × Nat),
    as = laneAddrs s p a 2 (kindSize kind) (k.toNat * kindSize kind) →
    as.find? (fun a => a.2 % kindSize kind != 0) = some x → (∀ y ∈ as, chipSheet y.2 = false ∧ 2 ≤ (s.coreAt p.core).right (keyOf y.2)) →
    (Runs s p (.ld t a kind k) → exec (.ld t a kind k) s = .next (s.raise p 0x30 x.1)) ∧
    (Runs s p (.st t a kind k) → exec (.st t a kind k) s = .next (s.raise p 0x30 x.1))) ∧
  (∀ (s : State) (p : Party) (t a : Reg) (kind : BitVec 3) (k : BitVec 8) (as : List (Nat × Nat)) (b : Block), s.blockOf p = some b →
    as = laneAddrs s p a 1 (kindSize kind) (k.toNat * kindSize kind) →
    (∀ x, as.find? (fun a => a.2 % kindSize kind != 0) = some x →
      (Runs s p (.lds t a kind k) → exec (.lds t a kind k) s = .next (s.raise p 0x30 x.1)) ∧
      (Runs s p (.sts t a kind k) → exec (.sts t a kind k) s = .next (s.raise p 0x30 x.1))) ∧
    (∀ x, as.find? (fun a => a.2 % kindSize kind != 0) = none → as.find? (fun a => decide (b.scrSize < a.2 + kindSize kind)) = some x →
      Runs s p (.lds t a kind k) → exec (.lds t a kind k) s = .next (s.raise p 0x32 x.1)) ∧
    (∀ x, as.find? (fun a => a.2 % kindSize kind != 0) = none →
      as.find? (fun a => decide (b.scrSize < a.2 + kindSize kind ∨ a.2 < 16 * b.ngates)) = some x →
      Runs s p (.sts t a kind k) → exec (.sts t a kind k) s = .next (s.raise p 0x32 (x.1 + if x.2 < 16 * b.ngates then 32 else 0))))

/-- The bytes that a window read returns (R159, R332). -/
def windowBytes (s : State) (w : WinAcc) : List Byte :=
  if s.winOpen w.phys w.domain w.addr then
    (List.range (w.size / 4)).flatMap fun k => toBytes 4 (s.winWord (s.fresh + 4 * k) (w.addr + 4 * k)).toNat
  else List.replicate w.size 0

/-- R160, R161, R188, R189: LDW and STW that trap on nothing send one window access for each lane, a read with an outstanding result and a write with
its bytes; at its target an access to a core of another domain reads zero or is discarded (R332), and a granted one reads or writes the map. -/
def Obligations.WindowAccesses : Prop :=
  (∀ (s : State) (p : Party) (t a : Reg) (kind : BitVec 3) (k : BitVec 8) (addr : Nat → Nat),
    addr = (fun l => laneAddr s p a 2 (kindSize kind) (k.toNat * kindSize kind) l) →
    (Runs s p (.ldw t a kind k) → windowTrap s p false (kindSize kind) ((lanesOf p.writing).map fun l => (l, addr l)) = none → p.helping = 0 →
      p.writing ≠ 0 →
      ∃ (T : State) (h : Gang) (ws : List WinAcc), exec (.ldw t a kind k) s = .next T ∧ T.gangAt p.core p.slot = some h ∧
        h = { p.moved s with pend := p.g.pend ++ [⟨s.fresh, p.lead, resultCodes t (kindRegs kind), p.g.super,
          .window kind t ((lanesOf p.writing).map fun l => ⟨l, addr l, false, none, none⟩)⟩] } ∧
        T.coreAt p.core = { s.coreAt p.core with gangs := Kv.put (s.coreAt p.core).gangs p.slot h, wins := (s.coreAt p.core).wins ++ ws } ∧
        ws.map (fun w => (w.lane, w.addr, w.size, w.write, w.pend)) =
          (lanesOf p.writing).map (fun l => (l, addr l, kindSize kind, none, s.fresh)) ∧
        (∀ w ∈ ws, ∃ clock, s.now < clock ∧ (clock, .windowAccessArrival p.core w.id) ∈ T.agenda)) ∧
    (Runs s p (.stw t a kind k) → windowTrap s p true (kindSize kind) ((lanesOf p.writing).map fun l => (l, addr l)) = none →
      readHeld s p = false → (s.coreAt p.core).relsOf p.slot p.g.blk = [] →
      ∃ (T : State) (ws : List WinAcc), exec (.stw t a kind k) s = .next T ∧ T.gangAt p.core p.slot = some (p.moved s) ∧
        T.coreAt p.core = { s.coreAt p.core with gangs := Kv.put (s.coreAt p.core).gangs p.slot (p.moved s),
                                                  wins := (s.coreAt p.core).wins ++ ws } ∧
        ws.map (fun w => (w.lane, w.addr, w.size, w.write)) =
          (lanesOf p.writing).map (fun l => (l, addr l, kindSize kind, some (toBytes (kindSize kind) (s.regValue p t (kindRegs kind) l)))) ∧
        (∀ w ∈ ws, ∃ clock, s.now < clock ∧ (clock, .windowAccessArrival p.core w.id) ∈ T.agenda))) ∧
  (∀ (s : State) (core : Nat) (w : WinAcc) (rest : List WinAcc), (s.coreAt core).wins = w :: rest → s.winHeld w.addr w.size w.write.isSome = false →
    (∀ (g : Gang) (d : Pend) (kind : BitVec 3) (t : Reg) (lanes : List LoadLane), w.write = none → s.gangAt core w.slot = some g →
      g.pend.find? (·.id == w.pend) = some d → d.body = .window kind t lanes →
      ∃ (T : State) (d' : Pend), exec (.windowAccessArrival core w.id) s = .next T ∧ T.pendAt core w.slot w.pend = some d' ∧
        d' = { d with body := .window kind t (lanes.map fun l => if l.lane = w.lane then { l with got := some (windowBytes s w) } else l) }) ∧
    (∀ v : Word, w.write = some (toBytes 4 v.toNat) → winKind w.addr = 3 →
      ∃ T : State, exec (.windowAccessArrival core w.id) s = .next T ∧ (∀ x ∈ (T.coreAt core).wins, x.id ≠ w.id) ∧
        (s.winOpen w.phys w.domain w.addr = true → Sp.get (T.coreAt (winCore w.addr)).acc (winOff w.addr / 4) = v) ∧
        (s.winOpen w.phys w.domain w.addr = false → (T.coreAt (winCore w.addr)).acc = (s.coreAt (winCore w.addr)).acc)))

/-- What a new copy's work holds beside its units: who issued it, the gate of its field K, and what it comes after (R191, R313, R319). -/
def copyWork (s : State) (p : Party) (k : BitVec 8) (w : Work) : Prop :=
  w.slot = p.slot ∧ w.blk = p.g.blk ∧ w.launch = p.g.launch ∧ w.super = p.g.super ∧ w.gate = (if p.g.super then none else some k.toNat) ∧
  w.rticket = none ∧ w.after = s.coveredBy p.core ∧ w.afterStamp = (s.coreAt p.core).stampAhead ∧ w.atoms = atomsOf s p ∧ w.wins = winsOf s p ∧
  w.rels = relIds s p ∧ w.mark = p.g.marks

/-- The units of a copy: together they move exactly the bytes of the writing lanes, one piece a lane, and the lanes with one 128-byte line of
source and one of destination share a unit (R190; that every such lane joins is the model's choice, log entry 12). -/
def copyUnits (p : Party) (size : Nat) (own : Bool) (src dst : Nat → Loc) (us : List XUnit) : Prop :=
  (us.flatMap (·.pieces)).Perm ((lanesOf p.writing).map fun l => ([src l], dst l, size)) ∧
  us.length = ((lanesOf p.writing).map fun l => ((src l).off / 128, (dst l).off / 128)).dedup.length ∧
  (∀ u ∈ us, u.red = none ∧ u.own = own ∧ u.st = .queued ∧ ∀ x ∈ u.pieces, ∀ y ∈ u.pieces,
    x.1.map (·.off / 128) = y.1.map (·.off / 128) ∧ x.2.1.off / 128 = y.2.1.off / 128)

/-- R190, R191, R313: LDX and CPL that trap on nothing put one engine work behind the entries of the core's leat and those it has replayed, the
gang's atomics, its window writes and its incomplete releases, with the gate of their field K (in supervisor mode the copy names no gate) and
coalesced units that move every writing lane's bytes. -/
def Claim.CopiesBecomeEngineWorks : Prop :=
  (∀ (s : State) (p : Party) (t a : Reg) (kind : BitVec 3) (k : BitVec 8) (b : Block) (src dst : Nat → Nat),
    Runs s p (.ldx t a kind k) → s.blockOf p = some b → src = (fun l => laneAddr s p a 2 (kindSize kind) 0 l) →
    dst = (fun l => laneAddr s p t 1 (kindSize kind) 0 l) → readHeld s p = false → coreAtomOut s p = false → p.writing ≠ 0 →
    firstTrap [keyViol (s.coreAt p.core) 1 ((lanesOf p.writing).map fun l => (l, src l)), sheetViol ((lanesOf p.writing).map fun l => (l, src l)),
      pairMisaligned (kindSize kind) ((lanesOf p.writing).map fun l => (l, src l)) ((lanesOf p.writing).map fun l => (l, dst l)), copyGate b p k,
      scrTrap b (kindSize kind) true ((lanesOf p.writing).map fun l => (l, dst l))] = none →
    ∃ (T : State) (w : Work), exec (.ldx t a kind k) s = .next T ∧ T.gangAt p.core p.slot = some (p.moved s) ∧
      (T.coreAt p.core).works = (s.coreAt p.core).works ++ [w] ∧ copyWork s p k w ∧
      copyUnits p (kindSize kind) false (fun l => .mem (src l)) (fun l => .scratch b.key (b.partOf p.core) (dst l)) w.units ∧
      (∀ u ∈ w.units, (s.now, .transferUnitLanding p.core w.id u.id) ∈ T.agenda) ∧
      T = { s with cores := T.cores, agenda := T.agenda, fresh := T.fresh }) ∧
  (∀ (s : State) (p : Party) (t a : Reg) (kind : BitVec 3) (k : BitVec 8) (b : Block) (src dst : Nat → Nat),
    Runs s p (.cpl t a kind k) → s.blockOf p = some b → src = (fun l => laneAddr s p a 2 (kindSize kind) 0 l) →
    dst = (fun l => laneAddr s p t 2 (kindSize kind) 0 l) → readHeld s p = false → coreAtomOut s p = false → p.writing ≠ 0 →
    firstTrap [copyTrap s p ((lanesOf p.writing).flatMap fun l => [(l, src l, false), (l, dst l, true)]),
      pairMisaligned (kindSize kind) ((lanesOf p.writing).map fun l => (l, src l)) ((lanesOf p.writing).map fun l => (l, dst l)),
      copyGate b p k] = none →
    ∃ (T : State) (w : Work), exec (.cpl t a kind k) s = .next T ∧ T.gangAt p.core p.slot = some (p.moved s) ∧
      (T.coreAt p.core).works = (s.coreAt p.core).works ++ [w] ∧ copyWork s p k w ∧
      copyUnits p (kindSize kind) true (fun l => .mem (src l)) (fun l => .mem (dst l)) w.units ∧
      (∀ u ∈ w.units, (s.now, .transferUnitLanding p.core w.id u.id) ∈ T.agenda) ∧
      T = { s with cores := T.cores, agenda := T.agenda, fresh := T.fresh })

/-! ### Atomics and counters -/

/-- R290, R319, R323, R325: AT and RED that trap on nothing and find room hand one atomic to their core, with a lane for each writing lane and its
operands, and at CORE scope with room kept for the entries it will append; AT's result is outstanding, an AT with an acquire half holds its
party, one with a release half is held behind a release of its scope (at CORE scope behind its own alone), and the mark closes. -/
def Claim.AtomicsAreHandedOver : Prop :=
  ∀ (s : State) (p : Party) (i : Instr) (ret : Bool) (d a : Reg) (scope : BitVec 3) (order : BitVec 2) (aop : BitVec 4) (w : Nat)
    (as : List (Nat × Nat)) (c : Core) (need : Nat),
    i = (if ret then .atom d a scope order aop else .red d a scope order aop) → Runs s p i → w = atomWidth aop p.ty →
    as = laneAddrs s p a 2 w 0 → c = s.coreAt p.core → p.writing ≠ 0 → globalTrap c 3 w as = none → readHeld s p = false →
    atomOn c p.slot (as.map (·.2)) = false → loadOn p.g (as.map (·.2)) = false → (order.getLsbD 1 = true → relFull s p = false ∧ relEarly s p scope = false) →
    need = (if scope = 0 then needGranules (as.flatMap fun x => (List.range w).map fun j => (x.2 + j, 0)) else 0) →
    c.ringHeld + need + (if order.getLsbD 1 = true ∧ scope ≠ 0 then 1 else 0) ≤ 2048 →
    (scope ≠ 0 → ∀ e ∈ c.leat, e.relm = none → e.line ∉ as.map fun x => lineOf x.2) →
    ∃ (T : State) (h : Gang) (op : AtomOp), exec i s = .next T ∧ T.gangAt p.core p.slot = some h ∧
      (T.coreAt p.core).atoms = c.atoms ++ [op] ∧
      op = ⟨op.id, p.slot, p.g.blk, p.lead, p.g.super, aop, p.ty, scope, order, w, ret, d, as.map fun x =>
        (if aop.toNat = 7 then ⟨x.1, x.2, s.regValue p d (Span.count p.ty (.atom aop)) x.1 % 2 ^ (8 * w),
          s.regValue p d (Span.count p.ty (.atom aop)) x.1 / 2 ^ (8 * w), none, none⟩
         else ⟨x.1, x.2, s.regValue p d (Span.count p.ty (.atom aop)) x.1, 0, none, none⟩), false, [], 0, false,
        ret && order.getLsbD 0, p.g.launch, p.g.epoch, need, 0, p.slot⟩ ∧
      h = { p.moved s with mark := none, settled := none, eccOnce := false, pend := h.pend, quads := h.quads } ∧
      h.pend = p.g.pend ++ (if ret then [⟨op.id, p.lead, resultCodes d (atomRegs w), p.g.super, .atomic⟩] else []) ∧
      (∀ j, h.quad j = if j ∈ p.g.members p.lead ∧ (ret && order.getLsbD 0) = true then { (p.moved s).quad j with park := .hold false }
        else (p.moved s).quad j) ∧
      (order.getLsbD 1 = true → ∃ r ∈ (T.coreAt p.core).rels, r.slot = p.slot ∧ r.blk = p.g.blk ∧ r.scope = scope ∧
        ∃ held ∈ (T.coreAt p.core).heldOps, r.id ∈ held.rels ∧ held.ev = .sliceAtomic p.core p.slot op.id false) ∧
      (scope = 0 → order.getLsbD 1 = false → (∀ x ∈ c.atoms, x.id ≠ op.id) →
        (s.now, .sliceAtomic p.core p.slot op.id false) ∈ T.agenda)

/-- The new word of an atomic under I32 (`sg`) or N32, none when nothing is written (R324). -/
def atomWord (sg : Bool) (aop : Nat) (old op swap : Word) : Option Word :=
  match aop with
  | 0 => some (old + op)
  | 1 => some (if (if sg then old.slt op else old.ult op) then old else op)
  | 2 => some (if (if sg then op.slt old else op.ult old) then old else op)
  | 3 => some (old &&& op)
  | 4 => some (old ||| op)
  | 5 => some (old ^^^ op)
  | 6 => some op
  | 7 => if old = op then some swap else none
  | _ => none

/-- R324: the operations of an atomic on a 32-bit word, under I32 and N32, and NIBW on a byte under every type: op[8] selects the nibble. -/
def Claim.AtomicOperations : Prop :=
  (∀ (sg : Bool) (aop : BitVec 4) (old op swap : Word), aop.toNat ≤ 7 →
    atomNew aop (if sg then 0 else 1) old.toNat op.toNat swap.toNat = (atomWord sg aop.toNat old op swap).map (·.toNat)) ∧
  (∀ (ty : BitVec 5) (old : Byte) (op : Word) (swap : Nat),
    atomNew 8 ty old.toNat op.toNat swap = some (if op.getLsbD 8 then (op.extractLsb' 0 4 ++ old.extractLsb' 0 4).toNat
      else (old.extractLsb' 4 4 ++ op.extractLsb' 0 4).toNat))

/-- R290, R294, R324: a lane of an atomic of cluster scope or wider, whose access the home has accepted and whose line its slice holds under a
leased or uncached treatment, is performed there: the line takes the new bytes, the lane the old value. Once every lane is done and none
is refused, the old values of an AT are on their way to its registers. -/
def Claim.AtomicsArePerformed : Prop :=
  (∀ (s : State) (core die : Nat) (a : AtomOp) (l : AtomLane) (rest : List AtomLane) (x : L2Line), die = dieOf core → s.atomAt core a.id = some a →
    a.scope ≠ 0 → a.lanes = l :: rest → l.old = none → l.refused = none → (∀ y ∈ (s.coreAt core).l1, y.line ≠ lineOf l.addr) →
    s.mayWrite l.addr = true → s.lineIn die (lineOf l.addr) = some x → x.treat ≠ 0 → x.coreOwner = none →
    s.lineIn (1 - die) (lineOf l.addr) = none →
    ∃ (T : State) (y : L2Line) (op : AtomOp) (old : Nat), exec (.sliceAtomic core a.slot a.id true) s = .next T ∧
      old = ofBytes (lineBytes x.data (l.addr % 128) a.w) ∧ T.lineIn die (lineOf l.addr) = some y ∧
      (∀ k, atomNew a.aop a.ty old l.op l.swap = none → Sp.get y.data k = Sp.get x.data k) ∧
      (∀ v k, atomNew a.aop a.ty old l.op l.swap = some v → Sp.get y.data k =
        if l.addr % 128 ≤ k ∧ k < l.addr % 128 + a.w then BitVec.ofNat 8 (v >>> (8 * (k - l.addr % 128))) else Sp.get x.data k) ∧
      T.atomAt core a.id = some op ∧ op.lanes = { l with old := some old } :: rest) ∧
  (∀ (s : State) (core : Nat) (a : AtomOp) (g : Gang) (d : Pend), s.atomAt core a.id = some a → a.lanes.all AtomLane.done = true →
    a.lanes.all (fun l => l.refused.isNone) = true → a.told = false → a.ret = true → s.gangAt core a.slot = some g →
    g.pend.find? (·.id == a.id) = some d →
    ∃ T : State, exec (.sliceAtomic core a.slot a.id false) s = .next T ∧
      T.pendAt core a.slot a.id = some { d with body := .value (a.lanes.flatMap fun l => destWrites a.d (Nat.max 1 (a.w / 4)) l.lane (l.old.getD 0)) } ∧
      (∃ clock, s.now < clock ∧ (clock, .variableReturnLanding core a.slot a.id) ∈ T.agenda))

/-- R200: CTRW with a writing lane parks its party on the counter; CTRT and CTRRD send one read of the counter and hold the party until its
acquire is complete; without a writing lane each only goes on. -/
def Claim.CounterSubops : Prop :=
  ∀ (s : State) (p : Party) (d a : Reg) (va : Nat), va = s.uniform p a 2 → globalTrap (s.coreAt p.core) 1 8 [(0, va)] = none →
    (p.once = false → ∀ i ∈ [Instr.ctrw d a, .ctrt d a, .ctrrd d a], Runs s p i → exec i s = .next (s.withGangOf p (p.moved s))) ∧
    (p.once = true → Runs s p (.ctrw d a) →
      ∃ T : State, exec (.ctrw d a) s = .next T ∧
        OnlyGang s T p (p.g.mapParty p.lead fun q => { q with park := .ctrw va (s.uniform p d 2) none false, last := some s.now }) ∧
        (∃ clock, s.now < clock ∧ (clock, .ctrwWake p.core p.slot p.lead) ∈ T.agenda)) ∧
    (p.once = true → ∀ i ∈ [Instr.ctrt d a, .ctrrd d a], Runs s p i →
      ∃ (T : State) (h : Gang) (codes : List Nat) (test : Option (Nat × Nat × BitVec 32)), exec i s = .next T ∧
        T.gangAt p.core p.slot = some h ∧
        (i = .ctrt d a → codes = (if d.toNat % 8 = 7 then [] else [128 + d.toNat % 8]) ∧
          test = some (d.toNat % 8, s.uniform p a 4 / 2 ^ 64, p.writing)) ∧
        (i = .ctrrd d a → codes = resultCodes d 2 ∧ test = none) ∧
        h = { p.moved s with pend := p.g.pend ++ [⟨s.fresh, p.lead, codes, p.g.super, .counter va test d⟩], quads := h.quads } ∧
        (∀ j, h.quad j = if j ∈ p.g.members p.lead then { (p.moved s).quad j with park := .hold false } else (p.moved s).quad j) ∧
        (T.coreAt p.core).port.queue = (s.coreAt p.core).port.queue ++
          [(2, .homeRequest ⟨5, va, false, false, .port p.core (.pend p.slot s.fresh), [], 0⟩)])

/-- R200, R304, R327: the first look at a local counter that its home serves tells whether it has reached the value; a counter below it leaves the
party parked until a change reaches the value (RecordCounterCounts). Once it has been reached, whatever follows, the party goes on at its
successor when no earlier read of the gang is outstanding and the acquire of device scope is complete, and is looked at again while a read is.
While the core is halted the party stays parked (R121). -/
def Claim.CounterWaitEnds : Prop :=
  ∀ (s s' : State) (core slot lead va value : Nat) (g : Gang) (seen : Option Bool) (stay : Bool), s.gangAt core slot = some g →
    (g.quad lead).park = .ctrw va value seen stay → g.trap = none →
    ((s.coreAt core).halted = true → exec (.ctrwWake core slot lead) s = .next s) ∧
    ((s.coreAt core).halted = false → seen ≠ some true → s.homedHere va = true → s.homeCheck 5 va false false none false = 0 →
      (∀ t ∈ s.tickets, t.region = regionOf va → t.writer = none) → s' = s.markPage va false →
      (s'.counterValue va < value → exec (.ctrwWake core slot lead) s = .next (s'.modGang core slot fun g =>
        g.mapParty lead fun d => { d with park := .ctrw va value (some false) stay })) ∧
      (value ≤ s'.counterValue va → exec (.ctrwWake core slot lead) s = .next ((s'.modGang core slot fun g =>
        g.mapParty lead fun d => { d with park := .ctrw va value (some true) stay }).at s.now (.ctrwWake core slot lead)))) ∧
    ((s.coreAt core).halted = false → seen = some true →
      (g.pend ≠ [] → exec (.ctrwWake core slot lead) s = .next (s.at (s.now + 1) (.ctrwWake core slot lead))) ∧
      (g.pend = [] → (s.acquire core 3).2 = true →
        exec (.ctrwWake core slot lead) s = .next ((s.acquire core 3).1.modGang core slot fun g =>
          g.mapParty lead fun q => { q with park := .none, pc := if stay then q.pc else succPc q.pc, wake := s.now + 1 })))

/-! ### The bulk engine and the port -/

/-- R201, R202: KICK with a writing lane, legal arguments and room appends COUNT records, with consecutive tickets from RQTICK and the words that
stand in scratch, advances RQTICK, delivers the first ticket, and closes the mark. Behind window writes of its gang that have not landed the
records' words and the ticket come once these have (R191). -/
def Claim.KickAppendsRecords : Prop :=
  ∀ (s : State) (p : Party) (d a b : Reg) (blk : Block) (addr count : Nat) (c : Core), Runs s p (.kick d a b) → s.blockOf p = some blk →
    p.once = true → addr = s.uniform p a 1 → count = s.uniform p b 1 → c = s.coreAt p.core → count ≤ 64 → addr % 64 = 0 →
    (count = 0 ∨ addr + 64 * count ≤ blk.scrSize ∧ 16 * blk.ngates ≤ addr) → readHeld s p = false → coreAtomOut s p = false → c.recs.length + count ≤ 64 →
    ∀ late : Bool, (late = true ↔ winsOf s p ≠ [] ∧ count ≠ 0) →
    ∃ (T : State) (h : Gang) (rs : List BulkRec), exec (.kick d a b) s = .next T ∧ T.gangAt p.core p.slot = some h ∧
      h = { p.moved s with mark := none, settled := none, eccOnce := false, pend := h.pend } ∧
      h.pend.map (fun x => (x.lead, x.regs, x.super, x.body)) = p.g.pend.map (fun x => (x.lead, x.regs, x.super, x.body)) ++
        (if p.uniformWrites d 1 c.rqtick.toNat = [] then []
         else [(p.lead, codesOf (p.uniformWrites d 1 c.rqtick.toNat), p.g.super,
           if late = true then .ticket else .value (p.uniformWrites d 1 c.rqtick.toNat))]) ∧
      (T.coreAt p.core).recs = c.recs ++ rs ∧ (T.coreAt p.core).rqtick = c.rqtick + BitVec.ofNat 32 count ∧
      rs.map (fun r => (r.ticket, r.words, r.waits, r.addr, r.slot, r.blk, r.super, r.status, r.started)) =
        (List.range count).map (fun k => (c.rqtick + BitVec.ofNat 32 k,
          if late = true then [] else recordWords blk (blk.partOf p.core) (addr + 64 * k), late, addr + 64 * k, p.slot, p.g.blk,
          p.g.super, none, false)) ∧
      (s.now, .bulkRecordService p.core) ∈ T.agenda ∧ T = { s with cores := T.cores, agenda := T.agenda, fresh := T.fresh }

/-- R191, R205, R207: the oldest record, past its fork edge and with the engine not frozen, with its words as scratch holds them where they had to
wait, ends with status 1 for a bad format, 5 for a bad alignment, 4 for a list outside its block's scratch; else it is in service with its transfer
units, from the first. That these checks are made as the record enters service, and that a list that reaches out of the scratch gives status 4
before any unit, are the model's choices (log entries 40 and 98). -/
def Claim.RecordEntersService : Prop :=
  ∀ (s : State) (core : Nat) (r r0 : BulkRec) (rest : List BulkRec) (b : Block), (s.coreAt core).recs = r :: rest → r.started = false →
    (∀ x ∈ rest, x.ticket ≠ r.ticket) →
    (s.coreAt core).frozen = false → forkReady s (s.coreAt core) r.afterEntries r.afterStamp r.atoms r.wins r.rels = true →
    s.blockAt r.blk = some b → r0 = (if r.waits then { r with words := recordWords b r.part r.addr, waits := false } else r) →
    ∃ (T : State) (r' : BulkRec) (rest' : List BulkRec), exec (.bulkRecordService core) s = .next T ∧ (T.coreAt core).recs = r' :: rest' ∧
      ((∀ x ∈ rest, x.waits = false) → rest' = rest) ∧
      r' = { r0 with started := true, status := r'.status } ∧
      (r0.badFormat b.ngates = true → r'.status = some 1 ∧ (s.now, .bulkRecordCompletion core r.ticket.toNat) ∈ T.agenda) ∧
      (r0.badFormat b.ngates = false → r0.badAlign = true → r'.status = some 5 ∧ (s.now, .bulkRecordCompletion core r.ticket.toNat) ∈ T.agenda) ∧
      (r0.badFormat b.ngates = false → r0.badAlign = false → r0.listWords ≠ 0 →
        (b.scrSize < r0.w 10 + 4 * r0.listWords ∨ r0.w 10 < 16 * b.ngates) →
        r'.status = some 4 ∧ (s.now, .bulkRecordCompletion core r.ticket.toNat) ∈ T.agenda) ∧
      (r0.badFormat b.ngates = false → r0.badAlign = false →
        (r0.listWords = 0 ∨ r0.w 10 + 4 * r0.listWords ≤ b.scrSize ∧ 16 * b.ngates ≤ r0.w 10) → ∀ us,
        us = r0.units (fun k => ofBytes ((List.range 4).map fun j => b.scratchByte r.part (r0.w 10 + 4 * k + j))) → us ≠ [] →
        r'.status = r.status ∧ (s.now, .transferUnitLanding core r.work 0) ∈ T.agenda ∧
        (T.coreAt core).works = (s.coreAt core).works ++
          [⟨r.work, r.slot, r.blk, r.super, if r0.gv then some r0.gate else none, some r.ticket, [], 0, [], [], [], 0, us,
            b.launch⟩])

/-- R189, R190, R193: a copy's unit from global memory into scratch that is past the port, meets no refusal and has been served by the homes it asks
(R388) writes the coherent bytes of each of its pieces' sources into scratch, writes no other byte, and counts its bytes on its gate; one that
its homes have not served waits there. -/
def Claim.UnitLandsItsBytes : Prop :=
  ∀ (s X : State) (core : Nat) (w : Work) (u : XUnit) (b : Block) (part gate : Nat) (served : Bool),
    (s.coreAt core).works.find? (·.id == w.id) = some w →
    w.units.find? (·.id == u.id) = some u → u.st = .sent → w.rticket = none → w.gate = some gate → u.red = none → u.own = false → u.atDst = false →
    u.held = [] →
    (∀ x ∈ u.pieces, ∃ va off n, x = ([.mem va], .scratch b.key part off, n) ∧ chipSheet va = false ∧ 16 * b.ngates ≤ off ∧
      ∀ k < n, s.homedHere (va + k) = true) →
    w.blk = b.key → s.blockAt b.key = some b → part < 2 → X = (s.arrives core (.xfer w.id u.id) 0).unitLookups core w u →
    unitSides X core w u = .ok →
    served = (X.atHomes (.transferUnitLanding core w.id u.id) (s.coreAt core).function (X.unitJobs core u)).2 →
    (served = false → ∃ T : State, exec (.transferUnitLanding core w.id u.id) s = .next T ∧ (T.coreAt core).works = (s.coreAt core).works ∧
      T.blocks = s.blocks ∧ ∃ j ∈ T.homeJobs, j.ev = .transferUnitLanding core w.id u.id) ∧
    (served = true → ∃ (T : State) (b' : Block), exec (.transferUnitLanding core w.id u.id) s = .next T ∧ T.blockAt b.key = some b' ∧
      b' = { b with scr := b'.scr, scrB := b'.scrB, gateIn := b'.gateIn } ∧
      (∀ va off n o, ([.mem va], .scratch b.key part off, n) ∈ u.pieces → off ≤ o → o < off + n →
        (∀ va' off' n', ([.mem va'], .scratch b.key part off', n') ∈ u.pieces → off' ≤ o → o < off' + n' → va' = va ∧ off' = off ∧ n' = n) →
        b'.scratchByte part o = s.globalByte (va + (o - off))) ∧
      (∀ q < 2, ∀ o, (q ≠ part ∨ ∀ va off n, ([.mem va], .scratch b.key part off, n) ∈ u.pieces → o < off ∨ off + n ≤ o) →
        b'.scratchByte q o = b.scratchByte q o) ∧
      (∃ e ∈ b'.gateIn, e.gate = gate ∧ e.chg = .land u.len))

/-- R206, R208: a record that ends reports a status other than OK in RQERR (only its "more" bit when RQERR holds one already), counts the bytes it
still owes on its gate, and leaves the queue, or, with a counter, asks for its increment. -/
def Claim.RecordCompletes : Prop :=
  ∀ (s : State) (core : Nat) (r : BulkRec) (status : Nat), (s.coreAt core).recs.find? (·.ticket.toNat == r.ticket.toNat) = some r →
    r.status = some status → status < 16 →
    ∃ (T : State) (c : Core), exec (.bulkRecordCompletion core r.ticket.toNat) s = .next T ∧ c = T.coreAt core ∧
      (status = 0 → c.rqerr = (s.coreAt core).rqerr) ∧
      (status ≠ 0 → (s.coreAt core).rqerr.getLsbD 31 = true → c.rqerr = (s.coreAt core).rqerr ||| 0x40000000#32) ∧
      (status ≠ 0 → (s.coreAt core).rqerr.getLsbD 31 = false →
        c.rqerr = 0x8#4 ++ BitVec.ofNat 4 status ++ r.ticket.extractLsb' 0 24) ∧
      (r.cv = false → ∀ x ∈ c.recs, x.ticket ≠ r.ticket) ∧
      (r.cv = true → c.recs = (s.coreAt core).recs ∧ ∃ clock, s.now < clock ∧ (clock, .recordCounterIncrement core r.ticket.toNat) ∈ T.agenda) ∧
      (∀ b, s.blockAt r.blk = some b → r.gv = true → r.gate < b.ngates → r.counted ≤ r.owed → r.counted < r.owed →
        ∃ (b' : Block) (e : GateIn), T.blockAt r.blk = some b' ∧ e ∈ b'.gateIn ∧ e.gate = r.gate ∧ e.chg = .land (r.owed - r.counted))

/-- R206, R268, R327, R450: the increment of a record's counter that its core may make, with no CLEAN to wait for, leaves by the port as an atomic of
8 flits. At the counter's home, which accepts and serves it with no WRITE ticket of its region out, it adds CINC to the counter, modulo 2^64, and
the record leaves the queue; a party that a CTRW has found below its value on that line, and whose value the counter has now reached, has been
reached. -/
def Claim.RecordCounterCounts : Prop :=
  (∀ (s : State) (core : Nat) (r : BulkRec) (va : Nat), (s.coreAt core).recs.find? (·.ticket.toNat == r.ticket.toNat) = some r → r.inc = none →
    va = r.w 12 + r.w 13 * 2 ^ 32 → chipSheet va = false → 3 ≤ (s.coreAt core).right (keyOf va) → s.recordUnclean core r va = false →
    s.holdsWrite va = false →
    ∃ T : State, exec (.recordCounterIncrement core r.ticket.toNat) s = .next T ∧ (T.coreAt core).port.queue = (s.coreAt core).port.queue ++
      [(8, .homeRequest ⟨2, va, true, false, .port core (.record r.ticket.toNat), [], 0⟩)]) ∧
  (∀ (s X : State) (core : Nat) (r : BulkRec) (va : Nat) (q : HomeReq), (s.coreAt core).recs.find? (·.ticket.toNat == r.ticket.toNat) = some r →
    r.inc = some 0 → va = r.w 12 + r.w 13 * 2 ^ 32 → q = ⟨2, va, true, false, .core core (.record r.ticket.toNat), [], 0⟩ →
    s.homedHere va = true → (∀ m ∈ s.fabric, ¬ (m.core = core ∧ m.what = .record r.ticket.toNat ∧ m.va = va)) →
    (∀ t ∈ s.tickets, t.region = regionOf va → t.writer = none ∧ t.queue = []) →
    s.homeCheck 2 va true false none false = 0 → (s.atHomes (.homeRequest q) (s.coreAt core).function [(homeOf va, 128)]).2 = true →
    X = s.markPage va true →
    ∃ T : State, exec (.homeRequest q) s = .next T ∧ (∀ x ∈ (T.coreAt core).recs, x.ticket ≠ r.ticket) ∧
      (let Y := X.devWrite64 va ((X.dev64 va + (r.w 14 + r.w 15 * 2 ^ 32)) % 2 ^ 64); T.dram = Y.dram ∧ T.hostMem = Y.hostMem ∧
        ∀ (k slot j : Nat) (g : Gang) (va' v : Nat) (stay : Bool), s.gangAt k slot = some g → j < 8 → (g.quad j).present = true →
          (g.quad j).retired = false → (g.quad j).park = .ctrw va' v (some false) stay → lineOf va' = lineOf va → va % 8 = 0 → v ≤ Y.dev64 va' →
          ∃ h : Gang, T.gangAt k slot = some h ∧ (h.quad j).park = .ctrw va' v (some true) stay))

/-- R267: at a period boundary the level rises by PORTFILL, at most to PORTCAP; a request leaves when the level covers its cost, which is taken
from the level, requests leave in the order they came, and a request that cannot leave waits with those behind it. -/
def Claim.PortBucket : Prop :=
  (∀ (s : State) (core : Nat), exec (.portBucketRefill core) s = .next (s.modCore core fun c =>
    { c with port := { c.port with level := min c.port.cap (c.port.level + c.port.fill) } })) ∧
  (∀ (s : State) (core cost : Nat) (e : Instr) (rest : List (Nat × Instr)) (q : Port), (s.coreAt core).port = q → q.queue = (cost, e) :: rest →
    ∃ (T : State) (q' : Port), exec (.portRequestDepart core) s = .next T ∧ (T.coreAt core).port = q' ∧ q'.fill = q.fill ∧ q'.cap = q.cap ∧
      (cost ≤ q.level → (∃ clock, s.now < clock ∧ (clock, e) ∈ T.agenda) ∧ q'.queue <:+ rest ∧ q'.level ≤ q.level - cost) ∧
      (cost ≤ q.level → rest = [] → q' = { q with queue := [], level := q.level - cost }) ∧
      (q.level < cost → q' = { q with wait := min (2 ^ 32 - 1) (q.wait + 1) } ∧ (s.now + 1, .portRequestDepart core) ∈ T.agenda))

/-! ### Releases, acquires, fences, cache control -/

/-- R318, R319, R320: REL with a writing lane, fewer than eight incomplete releases of its gang, nothing of the gang out that must come before its
issue, and room for its mark, starts one release of its scope that waits for the gang's outstanding reads, window writes and stores from tiles;
from scope 1 on it appends a release mark, and from scope 2 on it covers every entry of the leat and those the core has replayed, at the largest
stamp ahead. That it waits for the atomics and at scopes 0 and 1 is issued after them and the window writes (log entries 37, 98), that the
stamps of replayed entries count (log entry 111), and the CLEANs from scope 4 on (log entry 122) are the model's choices: R318's table lists
none. Without a writing lane it only goes on; else its party is not ready. -/
def Claim.ReleaseStarts : Prop :=
  ∀ (s : State) (p : Party) (scope : BitVec 3) (c : Core), Runs s p (.rel scope) → c = s.coreAt p.core →
    (p.once = false → exec (.rel scope) s = .next (s.withGangOf p (p.moved s))) ∧
    (p.once = true → (relFull s p = true ∨ relEarly s p scope = true ∨ (scope ≠ 0 ∧ 2048 < c.ringHeld + 1)) → exec (.rel scope) s = .next (s.stall p)) ∧
    (p.once = true → relFull s p = false → relEarly s p scope = false → (scope ≠ 0 → c.ringHeld + 1 ≤ 2048) →
      ∃ (T : State) (r : Release), exec (.rel scope) s = .next T ∧ T.gangAt p.core p.slot = some (p.moved s) ∧
        (T.coreAt p.core).rels = c.rels ++ [r] ∧ r.slot = p.slot ∧ r.blk = p.g.blk ∧ r.scope = scope ∧ r.fence = false ∧
        r.reads = p.g.pend.map (·.id) ∧ r.wins = winsOf s p ∧ r.moves = movesOf s p ∧
        (s.now, .releaseCompletion p.core r.id) ∈ T.agenda ∧
        (scope = 0 → r.seq = none ∧ r.works = [] ∧ (T.coreAt p.core).leat = c.leat) ∧
        (scope ≠ 0 → r.seq = some c.leatSeq ∧ r.works = atomsOf s p ∧ (T.coreAt p.core).leatSeq = c.leatSeq + 1 ∧
          ∃ e : LeatEntry, (T.coreAt p.core).leat.getLast? = some e ∧ e.seq = c.leatSeq ∧ e.relm = some scope ∧ e.bytes = [] ∧ e.sealed = false ∧
            e.sealAt = s.now + 96 ∧ (T.coreAt p.core).leat.map (·.seq) = c.leat.map (·.seq) ++ [c.leatSeq]) ∧
        (2 ≤ scope.toNat → r.entries = s.coveredBy p.core ∧ (∀ e ∈ c.leat, e.relm = none → (p.core, e.seq) ∈ r.entries) ∧
          (∀ f ∈ c.filter, ((s.coreAt f.src).leat.any (·.seq == f.seq)) = true → (f.src, f.seq) ∈ r.entries) ∧ ∀ u ∈ c.unpassed, u.stamp ≤ r.stamp) ∧
        (4 ≤ scope.toNat → r.cleans = r.entries.map (fun e => (e.1, .leat e.2)) ++ s.unclean))

/-- Whether something that a release comes after is outstanding: reads, window writes, stores from tiles, works and atomics (R318). -/
def ReleaseHeldUp (r : Release) (c : Core) : Prop :=
  (r.fence = false ∧ r.reads ≠ []) ∨ r.wins ≠ [] ∨ (∃ m ∈ c.moves, m.first ∈ r.moves) ∨
    ∃ w ∈ r.works, (∃ x ∈ c.works, x.id = w) ∨ (∃ x ∈ c.recs, x.work = w) ∨ ∃ x ∈ c.atoms, x.id = w

/-- The clock from which a release with nothing outstanding before it is complete (R257, R288, R318, R446): at cluster scope 8 clocks after the
publication of its tail, and from scope 2 on, once every entry it covers has been acknowledged (from scope 4 on, is clean), at the largest stamp. -/
def ReleaseDoneAt (r : Release) (t : Nat) : Prop :=
  (r.scope = 0 ∧ t = 0) ∨ (r.scope = 1 ∧ ∃ u, r.published = some u ∧ t = u + 8) ∨
    (2 ≤ r.scope.toNat ∧ r.entries = [] ∧ (4 ≤ r.scope.toNat → r.cleans = []) ∧ t = r.stamp)

/-- R257, R288, R315, R318, R446: with nothing outstanding before it and its clock come, a release is complete and is gone; before that clock it is
looked at again then; while something is outstanding it stays. At SYSTEM scope, where pages of the host are mapped, it first has the dirty
lines of those pages written back and waits for the host's acknowledgement (its clock is open: log entry 99). -/
def Claim.ReleaseCompletes : Prop :=
  ∀ (s : State) (core id : Nat) (c : Core), c = s.coreAt core →
    (c.rels.find? (·.id == id) = none → exec (.releaseCompletion core id) s = .next s) ∧
    (∀ r : Release, c.rels.find? (·.id == id) = some r →
      (ReleaseHeldUp r c ∨ (∀ t, ¬ ReleaseDoneAt r t) → exec (.releaseCompletion core id) s = .next s) ∧
      (∀ t, ¬ ReleaseHeldUp r c → ReleaseDoneAt r t →
        (s.now < t → exec (.releaseCompletion core id) s = .next (s.at t (.releaseCompletion core id))) ∧
        (t ≤ s.now → (r.scope ≠ 5 ∨ (∀ pg ∈ s.pages, pg.ofHost = false) ∨ ∃ h, r.host = some h ∧ h ≤ s.now) →
          ∃ T : State, exec (.releaseCompletion core id) s = .next T ∧ (T.coreAt core).rels = c.rels.filter (·.id != id)) ∧
        (t ≤ s.now → r.scope = 5 → (∃ pg ∈ s.pages, pg.ofHost = true) →
          (∀ h, r.host = some h → s.now < h → exec (.releaseCompletion core id) s = .next (s.at h (.releaseCompletion core id))) ∧
          (r.host = none → ∃ (T : State) (h : Nat), exec (.releaseCompletion core id) s = .next T ∧ s.now < h ∧
            (h, .releaseCompletion core id) ∈ T.agenda ∧
            (T.coreAt core).rels = replaceFirst (·.id == id) (fun x => { x with host := some h }) c.rels ∧
            ∀ (die line : Nat) (x : L2Line) (pg : Page), T.lineIn die line = some x → T.pageOf (line * 128) = some pg → pg.ofHost = true →
              x.dirty = false))))

/-- R258, R315, R321: ACQ with a writing lane and no earlier read outstanding does what an acquire of its scope does and goes on, once the replay
found room; each cursor of a core of the cluster in the same domain then stands at the tail that has arrived. With a read outstanding, or
while entries that found the filter full have not drained (R261), the party is not ready. At scope 0 nothing but the party's place changes. -/
def Claim.AcquireReplays : Prop :=
  ∀ (s : State) (p : Party) (scope : BitVec 3), Runs s p (.acq scope) →
    (p.once = false ∨ (p.g.pend = [] ∧ scope = 0) → exec (.acq scope) s = .next (s.withGangOf p (p.moved s))) ∧
    (p.once = true → p.g.pend = [] → (s.acquire p.core scope).2 = true →
      exec (.acq scope) s = .next ((s.acquire p.core scope).1.withGangOf p (p.moved s)) ∧
      (scope ≠ 0 → ∀ k < 16, ∀ x, x = p.core / 16 * 16 + k → x ≠ p.core → (s.coreAt x).domain = (s.coreAt p.core).domain →
        Sp.get ((s.acquire p.core scope).1.coreAt p.core).cursors x = Sp.get (s.coreAt p.core).tailSeen x)) ∧
    (p.once = true → p.g.pend = [] → (s.acquire p.core scope).2 = false → exec (.acq scope) s = .next ((s.acquire p.core scope).1.stall p)) ∧
    (p.once = true → p.g.pend ≠ [] → exec (.acq scope) s = .next (s.stall p))

/-- R263, R264, R265: ACQL of its own core or of a core of another domain goes on; of a core of the cluster it replays that leat; of a core of
another cluster it asks for the drain of that leat up to its published tail, and holds the party until the promotion is complete: its entries
acknowledged, and their stamps and those of the entries acknowledged before passed. A name with reserved bits, and a core whose cluster is
down, trap LEATNAME. -/
def Claim.AcquireOfOneLeat : Prop :=
  (∀ (s : State) (p : Party) (a : Reg) (name x : Nat), Runs s p (.acql a) → p.once = true → name = s.uniform p a 1 → x = name / 32 % 512 →
    (fld name 31 14 ≠ 0 → exec (.acql a) s = .next (s.raise p 0x3C (fld name 31 14 * 2 ^ 14))) ∧
    (fld name 31 14 = 0 → p.g.pend ≠ [] → exec (.acql a) s = .next (s.stall p)) ∧
    (fld name 31 14 = 0 → p.g.pend = [] →
      (x = p.core → exec (.acql a) s = .next (s.withGangOf p (p.moved s))) ∧
      (x ≠ p.core → s.clusterUp x = false → exec (.acql a) s = .next (s.raise p 0x3C 1)) ∧
      (x ≠ p.core → s.clusterUp x = true → (s.coreAt x).domain ≠ (s.coreAt p.core).domain →
        exec (.acql a) s = .next (s.withGangOf p (p.moved s))) ∧
      (x ≠ p.core → s.clusterUp x = true → (s.coreAt x).domain = (s.coreAt p.core).domain →
        (x / 16 = p.core / 16 → ∀ r, r = s.replayLeat p.core x (Sp.get (s.coreAt p.core).tailSeen x) →
          exec (.acql a) s = .next (if r.2 then r.1.withGangOf p (p.moved s) else r.1.stall p)) ∧
        (x / 16 ≠ p.core / 16 → ∃ (T : State) (r : Promo), exec (.acql a) s = .next T ∧
          T.gangAt p.core p.slot = some (p.g.mapParty p.lead fun q => { q with park := .hold true, last := some s.now }) ∧
          r ∈ (T.coreAt p.core).promos ∧ r.kind = 0 ∧ r.slot = p.slot ∧ r.lead = p.lead ∧ r.upto = some (x, (s.coreAt x).pubTail) ∧
          (∀ e ∈ (s.coreAt x).leat, e.relm = none → seqLe e.seq (s.coreAt x).pubTail = true → (x, e.seq) ∈ r.entries) ∧
          (∀ u ∈ (s.coreAt x).unpassed, u.core = x → seqLe u.entry.seq (s.coreAt x).pubTail = true → u.stamp ≤ r.stamp) ∧
          (s.now, .promotionComplete p.core r.id) ∈ T.agenda)))) ∧
  (∀ (s : State) (core : Nat) (r : Promo), (s.coreAt core).promos.find? (·.id == r.id) = some r →
    (r.entries ≠ [] → exec (.promotionComplete core r.id) s = .next s) ∧
    (r.entries = [] → r.kind = 0 → s.now < r.stamp → exec (.promotionComplete core r.id) s = .next (s.at r.stamp (.promotionComplete core r.id)))) ∧
  (∀ (s : State) (core : Nat) (r : Promo) (g : Gang), (s.coreAt core).promos.find? (·.id == r.id) = some r → s.gangAt core r.slot = some g →
    r.entries = [] → (r.kind = 0 → r.stamp ≤ s.now) →
    ∃ (T : State) (h : Gang), exec (.promotionComplete core r.id) s = .next T ∧ T.gangAt core r.slot = some h ∧
      (T.coreAt core).promos = (s.coreAt core).promos.filter (·.id != r.id) ∧
      (∀ j, (g.quad j).park = .hold true → j ∈ g.members r.lead →
        h.quad j = { g.quad j with park := .none, pc := succPc (g.quad j).pc, wake := s.now + 1 }) ∧
      (∀ j, j < 8 → j ∉ g.members r.lead → h.quad j = g.quad j))

/-- R312, R322: FNCR with a writing lane, fewer than eight incomplete releases, and nothing of its gang out that must come before its issue (log
entries 37, 98), starts one release of its scope; from scope 2 on it is a fence that waits for the gang's own entries, atomics and window
writes with a byte in the range, and no mark is appended. Without one of those conditions its party is not ready. -/
def Claim.RangeFenceStarts : Prop :=
  ∀ (s : State) (p : Party) (scope : BitVec 3) (a b : Reg) (c : Core), Runs s p (.fncr scope a b) → c = s.coreAt p.core →
    (p.once = false → exec (.fncr scope a b) s = .next (s.withGangOf p (p.moved s))) ∧
    (p.once = true → (relFull s p = true ∨ relEarly s p scope = true ∨ (scope = 1 ∧ 2048 < c.ringHeld + 1)) → exec (.fncr scope a b) s = .next (s.stall p)) ∧
    (p.once = true → relFull s p = false → relEarly s p scope = false → (scope = 1 → c.ringHeld + 1 ≤ 2048) →
      ∃ (T : State) (r : Release), exec (.fncr scope a b) s = .next T ∧ T.gangAt p.core p.slot = some (p.moved s) ∧
        (T.coreAt p.core).rels = c.rels ++ [r] ∧ r.slot = p.slot ∧ r.blk = p.g.blk ∧ r.scope = scope ∧ (r.fence = true ↔ 2 ≤ scope.toNat) ∧
        (s.now, .releaseCompletion p.core r.id) ∈ T.agenda ∧
        (2 ≤ scope.toNat → (T.coreAt p.core).leatSeq = c.leatSeq) ∧
        (2 ≤ scope.toNat → ∀ q, (p.core, q) ∈ r.entries ↔ ∃ e ∈ c.leat, e.seq = q ∧ e.relm = none ∧ e.slot = p.slot ∧ e.blk = p.g.blk ∧
            ∃ x ∈ e.bytes, (e.line * 128 + x.1 + 2 ^ 64 - s.uniform p a 2) % 2 ^ 64 < s.uniform p b 2) ∧
        (2 ≤ scope.toNat → ∀ x ∈ c.atoms, x.slot = p.slot → x.blk = p.g.blk →
          (∃ l ∈ x.lanes, ∃ k < x.w, (l.addr + k + 2 ^ 64 - s.uniform p a 2) % 2 ^ 64 < s.uniform p b 2) → x.id ∈ r.works) ∧
        (2 ≤ scope.toNat → ∀ x ∈ c.wins, x.slot = p.slot → x.blk = p.g.blk → ∀ bs, x.write = some bs →
          (∃ k < bs.length, (x.addr + k + 2 ^ 64 - s.uniform p a 2) % 2 ^ 64 < s.uniform p b 2) → x.id ∈ r.wins) ∧
        (2 ≤ scope.toNat → ∀ u ∈ c.unpassed, u.core = p.core → u.entry.relm = none → u.entry.slot = p.slot → u.entry.blk = p.g.blk →
          (∃ x ∈ u.entry.bytes, (u.entry.line * 128 + x.1 + 2 ^ 64 - s.uniform p a 2) % 2 ^ 64 < s.uniform p b 2) → u.stamp ≤ r.stamp))

/-- R328, R329, R330: a cache sub-op without a writing lane or with length 0 only goes on; its range traps RANGEARG past the end of its sheet,
CDISC also above 1 MiB, and KEYVIOL without right W (CPREF is dropped without right R). CWB holds its party on the entries of the range,
CINV leaves no first-level copy of the range, CPREF asks for the lines of its first 8 KiB, and CDISC leaves the lines wholly inside
neither in the core nor in its die's slices. -/
def Claim.CacheControl : Prop :=
  ∀ (s : State) (p : Party) (d a : Reg) (base len : Nat) (c : Core), base = s.uniform p a 2 → len = s.uniform p d 2 → c = s.coreAt p.core →
    (∀ i ∈ [Instr.cwb d a, .cinv d a, .cpref d a, .cdisc d a], Runs s p i →
      (p.once = false ∨ len = 0 → exec i s = .next (s.withGangOf p (p.moved s))) ∧
      (p.once = true → len ≠ 0 → 2 ^ 44 < offsetOf base + len → exec i s = .next (s.raise p 0x35 0)) ∧
      (p.once = true → len ≠ 0 → offsetOf base + len ≤ 2 ^ 44 → i = .cdisc d a → 2 ^ 20 < len → exec i s = .next (s.raise p 0x35 1)) ∧
      (p.once = true → len ≠ 0 → offsetOf base + len ≤ 2 ^ 44 → len ≤ 2 ^ 20 → chipSheet base = false → c.right (keyOf base) < 2 →
        i ≠ .cpref d a → exec i s = .next (s.raise p 0x20 (keyOf base + 2 * 2 ^ 8)))) ∧
    (p.once = true → len ≠ 0 → offsetOf base + len ≤ 2 ^ 44 → chipSheet base = false →
      (2 ≤ c.right (keyOf base) →
        (Runs s p (.cwb d a) → ∀ es, es = c.leat.filter (fun e => e.relm.isNone && decide (base / 128 ≤ e.line) && decide (e.line ≤ (base + len - 1) / 128)) →
          (es = [] → exec (.cwb d a) s = .next (s.withGangOf p (p.moved s))) ∧
          (es ≠ [] → ∃ (T : State) (r : Promo), exec (.cwb d a) s = .next T ∧
            T.gangAt p.core p.slot = some (p.g.mapParty p.lead fun q => { q with park := .hold true, last := some s.now }) ∧
            r ∈ (T.coreAt p.core).promos ∧ r.kind = 1 ∧ r.slot = p.slot ∧ r.lead = p.lead ∧ r.entries = es.map (fun e => (p.core, e.seq)))) ∧
        (Runs s p (.cinv d a) → ∃ T : State, exec (.cinv d a) s = .next T ∧ T.gangAt p.core p.slot = some (p.moved s) ∧
          ∀ l ∈ (T.coreAt p.core).l1, l.line < base / 128 ∨ (base + len - 1) / 128 < l.line) ∧
        (len ≤ 2 ^ 20 → Runs s p (.cdisc d a) → ∃ T : State, exec (.cdisc d a) s = .next T ∧ T.gangAt p.core p.slot = some (p.moved s) ∧
          ∀ l, base ≤ l * 128 → l * 128 + 128 ≤ base + len →
            T.lineIn (dieOf p.core) l = none ∧ ∀ x ∈ (T.coreAt p.core).l1, x.line ≠ l)) ∧
      (Runs s p (.cpref d a) →
        (c.right (keyOf base) = 0 → exec (.cpref d a) s = .next (s.withGangOf p (p.moved s))) ∧
        (1 ≤ c.right (keyOf base) → ∃ T : State, exec (.cpref d a) s = .next T ∧ T.gangAt p.core p.slot = some (p.moved s) ∧
          (T.coreAt p.core).port.queue.map (·.2) = c.port.queue.map (·.2) ++
            (linesOf base (min len 8192)).map fun l => Instr.sliceFill p.core prefetchSlot 0 l false)))

/-! ### The leat and the caches -/

/-- R168, R256, R257: an entry whose seal time has come is sealed, and the published tail becomes the newest release mark below which every entry
is sealed, if that is newer (nothing happens for an entry that has left, or is sealed); a tail that arrives is seen by every core of its cluster. -/
def Claim.EntriesSealAndTailsPublish : Prop :=
  (∀ (s : State) (core : Nat) (q : Word), (s.coreAt core).leat.find? (·.seq == q) = none → exec (.leatEntrySeal core q) s = .next s) ∧
  (∀ (s : State) (core : Nat) (e : LeatEntry) (c : Core), c = s.coreAt core → c.leat.find? (·.seq == e.seq) = some e →
    (e.sealed = true → exec (.leatEntrySeal core e.seq) s = .next s) ∧
    (e.sealed = false → s.now < e.sealAt → exec (.leatEntrySeal core e.seq) s = .next (s.at e.sealAt (.leatEntrySeal core e.seq))) ∧
    (e.sealed = false → e.sealAt ≤ s.now → ∃ (T : State) (l : List LeatEntry), exec (.leatEntrySeal core e.seq) s = .next T ∧ (T.coreAt core).leat = l ∧
      l = replaceFirst (·.seq == e.seq) (fun x => { x with sealed := true }) c.leat ∧
      (newestMark l none = none → (T.coreAt core).pubTail = c.pubTail) ∧
      (∀ m, newestMark l none = some m → (T.coreAt core).pubTail = if seqLe m c.pubTail then c.pubTail else m))) ∧
  (∀ (s : State) (core : Nat) (tail : Word), ∃ T : State, exec (.tailBroadcastArrival core tail) s = .next T ∧
    (∀ k < 16, ∀ x, x = core / 16 * 16 + k → T.coreAt x = { s.coreAt x with tailSeen := Sp.set (s.coreAt x).tailSeen core tail }) ∧
    T = { s with cores := T.cores })

/-- R165, R255, R267, R461: an entry that is sealed, told and due, with nothing before it, leaves for its slice through the port at its size in
granules; a sealed release mark that is first queues at the port at its size, and leaves its ring as it passes; behind an entry that is not
sealed nothing leaves. The scan answers a next state whatever the ring holds. -/
def Claim.DrainsLeaveInOrder : Prop :=
  (∀ (s : State) (core : Nat), ∃ T : State, exec (.leatDrainStart core) s = .next T ∧
    (T.coreAt core).leat.map (·.seq) = (s.coreAt core).leat.map (·.seq)) ∧
  (∀ (s : State) (core : Nat) (e : LeatEntry) (c : Core), c = s.coreAt core → c.leat = [e] → e.relm = none → e.sent = false → e.parked = none →
    e.sealed = true → (e.urged = true ∨ e.sealAt + 1024 ≤ s.now) → c.rels = [] → (seqLe e.seq c.pubTail = true ∨ c.pubClock + 8 ≤ s.now) →
    c.filter = [] →
    ∃ T : State, exec (.leatDrainStart core) s = .next T ∧ (T.coreAt core).leat = [{ e with sent := true }] ∧
      (T.coreAt core).port.queue = c.port.queue ++ [(e.granules, .sliceEntryApply core e.seq)]) ∧
  (∀ (s : State) (core : Nat) (e : LeatEntry) (rest : List LeatEntry) (c : Core), c = s.coreAt core → c.leat = e :: rest → e.sealed = false →
    e.relm.isSome = true ∨ (e.sent = false ∧ e.parked = none) → exec (.leatDrainStart core) s = .next s) ∧
  (∀ (s : State) (core : Nat) (e : LeatEntry) (scope : BitVec 3) (c : Core), c = s.coreAt core → c.leat = [e] → e.relm = some scope →
    e.sealed = true → e.sent = false →
    ∃ T : State, exec (.leatDrainStart core) s = .next T ∧ (T.coreAt core).leat = [{ e with sent := true }] ∧
      (T.coreAt core).port.queue = c.port.queue ++ [(e.granules, .leatDrainAck core e.seq s.now)]) ∧
  (∀ (s : State) (core cost stamp : Nat) (e : LeatEntry) (c : Core), c = s.coreAt core → c.leat = [e] → e.relm.isSome = true →
    c.port.queue = [(cost, .leatDrainAck core e.seq stamp)] → cost ≤ c.port.level →
    ∃ T : State, exec (.portRequestDepart core) s = .next T ∧ (T.coreAt core).leat = [] ∧ (T.coreAt core).port.queue = [] ∧
      (T.coreAt core).port.level = c.port.level - cost)

/-- R165, R167, R169, R258, R288, R461: an acknowledged entry leaves the ring with a trail record, a release mark with none, and is kept while its
stamp lies ahead; one that has left already changes nothing. Two eligible entries of one line are compacted into the older with the newer bytes on
top (its atom flag is the OR of theirs: log entry 130), for which what waited for the younger waits then, and nothing happens where one of them has
left; a cursor that has fallen 2^31 − 2^12 behind jumps to the tail and the leased copies leave. Each of the leat's own events completes in every state. -/
def Claim.EntriesLeaveAndCompact : Prop :=
  (∀ (s : State) (core source stamp : Nat) (q r tail : Word), ∀ i ∈ [Instr.leatEntrySeal core q, .tailBroadcastArrival core tail, .leatDrainStart core,
    .leatDrainAck core q stamp, .leatCompaction core q r, .replayCursorLimit core source], ∃ T : State, exec i s = .next T) ∧
  (∀ (s : State) (core stamp : Nat) (q r : Word), (s.coreAt core).leat.find? (·.seq == q) = none →
    exec (.leatDrainAck core q stamp) s = .next s ∧ exec (.leatCompaction core q r) s = .next s ∧ exec (.leatCompaction core r q) s = .next s) ∧
  (∀ (s : State) (core stamp : Nat) (e : LeatEntry) (c : Core), c = s.coreAt core → c.leat.find? (·.seq == e.seq) = some e →
    ∃ T : State, exec (.leatDrainAck core e.seq stamp) s = .next T ∧ (T.coreAt core).leat = c.leat.filter (·.seq != e.seq) ∧
      (e.relm = none → (T.coreAt core).trail.getLast? = some (e.line, e.seq)) ∧ (e.relm ≠ none → (T.coreAt core).trail = c.trail) ∧ (∀ r ∈ (T.coreAt core).rels, (core, e.seq) ∉ r.entries) ∧
      (s.now < stamp → ⟨core, e, stamp⟩ ∈ (T.coreAt core).unpassed)) ∧
  (∀ (s : State) (core : Nat) (a b : LeatEntry) (c : Core), c = s.coreAt core → c.leat = [a, b] → b.seq = a.seq + 1 → a.line = b.line →
    a.relm = none → b.relm = none → a.slot = b.slot → a.blk = b.blk → a.epoch = b.epoch → a.sealed = false → b.sealed = false →
    s.loadBetween core a.line a.seq b.seq = false →
    ∃ (T : State) (e : LeatEntry), exec (.leatCompaction core a.seq b.seq) s = .next T ∧ (T.coreAt core).leat = [e] ∧ e.seq = a.seq ∧
      e.line = a.line ∧ e.sealAt = b.sealAt ∧ e.atom = (a.atom || b.atom) ∧ (∀ va, (T.coreAt core).leatByte va = c.leatByte va) ∧
      (∀ r ∈ (T.coreAt core).rels, (core, b.seq) ∉ r.entries) ∧
      ∀ r ∈ c.rels, (core, b.seq) ∈ r.entries → ∃ q ∈ (T.coreAt core).rels, q.id = r.id ∧ (core, a.seq) ∈ q.entries) ∧
  (∀ (s : State) (core source : Nat) (c : Core) (t : Word), c = s.coreAt core → t = (s.coreAt source).pubTail →
    ((t - Sp.get c.cursors source).toNat < 2 ^ 31 - 2 ^ 12 → exec (.replayCursorLimit core source) s = .next s) ∧
    (2 ^ 31 - 2 ^ 12 ≤ (t - Sp.get c.cursors source).toNat → exec (.replayCursorLimit core source) s =
      .next (s.modCore core fun c => { c with l1 := c.l1.filter (·.treat != 1), cursors := Sp.set c.cursors source t })))

/-- R259, R276, R281, R284: a first-level miss that misses its slice too asks the line's home. One that hits a tracked line leaves a copy in the
core, which becomes a sharer, and serves a waiting load with the line's bytes. -/
def Claim.FillsServeLoads : Prop :=
  (∀ (s : State) (core slot pend line : Nat), s.sliceReqs = [] → (s.coreAt core).rerouted = [] → s.lineIn (dieOf core) line = none →
    s.homedHere (line * 128) = true →
    ∃ T : State, exec (.sliceFill core slot pend line false) s = .next T ∧ T = { s with agenda := T.agenda, fresh := T.fresh, sliceReqs := T.sliceReqs } ∧
      ∃ clock, s.now < clock ∧ (clock, .homeRequest ⟨0, line * 128, false, false, .core core (.pend slot pend), [], 0⟩) ∈ T.agenda) ∧
  (∀ (s : State) (core slot line : Nat) (x : L2Line) (g : Gang) (d : Pend) (kind : BitVec 3) (t : Reg) (seq : Word) (l : LoadLane),
    s.sliceReqs = [] → s.homedHere (line * 128) = true → s.lineIn (dieOf core) line = some x → x.treat = 0 → x.coreOwner = none → (s.coreAt core).leat = [] → (s.coreAt core).filter = [] →
    s.atomAt core d.id = none → slot ≠ prefetchSlot → (s.coreAt core).gangs = [(slot, g)] → g.pend = [d] → d.body = .load kind t seq [l] →
    l.got = none → l.refused = none → lineOf l.addr = line →
    ∃ (T : State) (y : L2Line), exec (.sliceFill core slot d.id line false) s = .next T ∧ T.lineIn (dieOf core) line = some y ∧
      y = { x with sharers := y.sharers, used := y.used } ∧ core ∈ y.sharers ∧
      (∃ copy ∈ (T.coreAt core).l1, copy.line = line ∧ copy.treat = 0 ∧ copy.owned = false ∧ copy.data = x.data) ∧
      T.pendAt core slot d.id = some { d with
        body := .load kind t seq [{ l with got := some ((List.range (kindSize kind)).map fun k => Sp.get x.data (l.addr % 128 + k)) }] })

/-- R282, R284, R285, R286: a drained entry whose line its slice holds, with the home's consent and no write of the line before it, is applied to
the line: its bytes stand there, the die owns the line, the other die's copy is gone, and with no other sharer and no invalidation out its
acknowledgement is on its way; one that misses asks the home for its line; and one whose line no slice may hold is applied at the home. -/
def Claim.EntriesApplyAtTheSlice : Prop :=
  (∀ (s : State) (core : Nat) (e : LeatEntry) (x : L2Line), (s.coreAt core).leat = [e] → e.sent = true → e.applied = false → e.parked = none →
    s.sliceReqs = [] → s.lineIn (dieOf core) e.line = some x → x.coreOwner = none → (∀ k ∈ x.sharers, k = core) → x.waits = [] →
    (x.owned = true → s.lineIn (1 - dieOf core) e.line = none) → s.homeCheck 1 (e.line * 128) true (e.bytes.length == 128) none false = 0 →
    (s.pageOf (e.line * 128)).elim false (fun pg => pg.mov.isSome) = false →
    ∃ (T : State) (y : L2Line), exec (.sliceEntryApply core e.seq) s = .next T ∧ T.lineIn (dieOf core) e.line = some y ∧
      y.owned = true ∧ y.dirty = true ∧ T.lineIn (1 - dieOf core) e.line = none ∧
      ((∀ z, s.lineIn (1 - dieOf core) e.line = some z → z.owned = false) → y.data = Sp.setAll x.data e.bytes) ∧
      (T.coreAt core).leat = [{ e with applied := true }] ∧ ∃ clock stamp, s.now < clock ∧ (clock, .leatDrainAck core e.seq stamp) ∈ T.agenda) ∧
  (∀ (s : State) (core : Nat) (e : LeatEntry), (s.coreAt core).leat = [e] → e.sent = true → e.applied = false → e.parked = none →
    s.sliceReqs = [] → (s.coreAt core).rerouted = [] → s.lineIn (dieOf core) e.line = none → s.homedHere (e.line * 128) = true →
    ∃ (T : State) (clock : Nat), exec (.sliceEntryApply core e.seq) s = .next T ∧ (T.coreAt core).leat = [e] ∧ s.now < clock ∧
      (clock, .homeRequest ⟨1, e.line * 128, true, e.bytes.length == 128, .core core (.leat e.seq), [], 0⟩) ∈ T.agenda) ∧
  (∀ (s : State) (core : Nat) (e : LeatEntry) (k : Nat) (b : Byte) (pg : Page), (s.coreAt core).leat = [e] → e.applied = false → e.bytes = [(k, b)] →
    s.mayHold (e.line * 128) = false → s.homedHere (e.line * 128) = true → s.homedHere (e.line * 128 + k) = true → s.pageOf (e.line * 128 + k) = some pg →
    ∃ T : State, exec (.sliceMissMerge core e.seq) s = .next T ∧ T.homeByte (e.line * 128 + k) = b ∧
      (T.coreAt core).leat = [{ e with applied := true }] ∧ ∃ clock, s.now < clock ∧ (clock, .leatDrainAck core e.seq s.now) ∈ T.agenda)

/-- R154, R282, R283, R285, R286, R292, R381: a line that leaves its slice leaves no copy there, its dirty bytes go home and the memory-side
cache's record of the die is cleared, as a fill sets it; a line leaves that cache with the slices its record names; a die that takes a line's
ownership leaves the other die without it; an owning core that is recalled, and a copy that departs, leave no copy in the core; an expired
lease takes the copy with it; and the last acknowledgement of a write lets the write be acknowledged. -/
def Claim.LinesLeaveTheCaches : Prop :=
  (∀ (s : State) (die line : Nat) (x : L2Line), s.lineIn die line = some x → x.coreOwner = none →
    ∃ (T X : State), exec (.dirtyWriteback die line) s = .next T ∧ T.lineIn die line = none ∧
      X = (if x.dirty then s.setHomeBytes (line * 128) (lineBytes x.data 0 128) else s) ∧ T.dram = X.dram ∧ T.hostMem = X.hostMem ∧
      (x.treat = 0 → ∀ k ∈ x.sharers, ∀ l ∈ (T.coreAt k).l1, l.line ≠ line) ∧
      ∀ m ∈ T.memCache, m.line = line → m.dies.getLsbD die = false) ∧
  (∀ (s : State) (core slot pend line : Nat) (pg : Page), core < 512 → s.sliceReqs = [] → s.lineIn (dieOf core) line = none →
    s.mayKeep (s.maskFor core (.pend slot pend) line) (line * 128) = true →
    s.homedHere (line * 128) = true → s.pageOf (line * 128) = some pg →
    ∃ T : State, exec (.sliceFill core slot pend line true) s = .next T ∧ ∃ m ∈ T.memCache, m.line = line ∧ m.dies.getLsbD (dieOf core) = true) ∧
  (∀ (s : State) (m : MemLine), (∀ x ∈ (s.memLeave m).memCache, x.line ≠ m.line) ∧
    ∀ die, m.dies.getLsbD die = true → (s.memLeave m).lineIn die m.line = none) ∧
  (∀ (s : State) (die line : Nat), (s.lineIn die line).any (·.owned) = true → exec (.ownershipRequest die line) s = .next s) ∧
  (∀ (s : State) (die line : Nat) (x : L2Line), s.lineIn die line = some x → x.owned = false →
    ∃ (T : State) (y : L2Line), exec (.ownershipRequest die line) s = .next T ∧ T.lineIn die line = some y ∧ y.owned = true ∧
      T.lineIn (1 - die) line = none) ∧
  (∀ (s : State) (die line k : Nat) (x : L2Line), s.lineIn die line = some x → x.coreOwner = some k →
    ∃ (T : State) (y : L2Line), exec (.lineOwnershipRecall die line) s = .next T ∧ T.lineIn die line = some y ∧ y.coreOwner = none ∧
      (∀ l ∈ (T.coreAt k).l1, l.line ≠ line) ∧ (∀ l, (s.coreAt k).l1.find? (·.line == line) = some l → y.data = l.raw ∧ y.dirty = true)) ∧
  (∀ (s : State) (core line : Nat), ∃ T : State, exec (.firstLevelCopyDeparture core line) s = .next T ∧ ∀ l ∈ (T.coreAt core).l1, l.line ≠ line) ∧
  (∀ (s : State) (core line : Nat), exec (.leaseExpiry core line) s = .next (s.modCore core fun c =>
    { c with l1 := c.l1.filter fun l => !(l.line == line && l.treat == 1 && decide (l.leaseEnd ≤ s.now)) })) ∧
  (∀ (s : State) (die line core : Nat) (x : L2Line) (w : SliceWait) (q : Word), s.lineIn die line = some x → x.waits = [w] → w.what = .leat q →
    w.acks = [core] →
    ∃ (T : State) (y : L2Line), exec (.invalidationAck die line core) s = .next T ∧ T.lineIn die line = some y ∧ y.waits = [] ∧
      (∀ l ∈ (T.coreAt core).l1, l.line ≠ line) ∧ ∃ clock, s.now < clock ∧ (clock, .leatDrainAck w.core q s.now) ∈ T.agenda)

/-! ### Homes -/

/-- R372: a home command joins the queue of the homes with its op and is looked at in the same clock; HOME_BELL takes every record between head
and tail, at most the ring's size, and nothing without a command queue. -/
def Claim.HomeCommandsQueue : Prop :=
  (∀ (s : State) (c : HomeCmd), ∀ x ∈ ([(.map c, 1), (.unmap c, 2), (.setattr c, 3), (.move c, 4), (.resume c, 5), (.grat c, 6), (.query c, 7),
      (.refuse c, 8)] : List (Instr × BitVec 4)), exec x.1 s =
    .next { s with cmds := s.cmds ++ [{ cmd := { c with id := s.fresh, op := x.2 } }], fresh := s.fresh + 1
                   agenda := s.agenda ++ [(s.now, .homeCommandComplete s.fresh)] }) ∧
  (∀ s : State, s.pr.hcmdq = 0 → exec .homeBell s = .next s) ∧
  (∀ (s : State) (tail head : Nat), s.pr.hcmdq ≠ 0 → tail = s.dev32 (ringBase s.pr.hcmdq) → head = s.dev32 (ringBase s.pr.hcmdq + 4) →
    ∃ T : State, exec .homeBell s = .next T ∧
      T.cmds.length = s.cmds.length + min (ringSize s.pr.hcmdq) ((tail + 2 ^ 32 - head) % 2 ^ 32) ∧ T.cmds.take s.cmds.length = s.cmds)

/-- R365, R367, R373, R374, R378: what the only command of the queue does when it begins: FORMAT (1) for a bad record, one whose page
would lie beyond a home's memory among them, a SETATTR to such a tier too (the model's choice: log entry 100); MAP ends with EXISTS (3), NOSPACE
(4) or OK, and its page comes at completion (log entry 125); NOMAP (2) for a page command without its page, which else begins its page change with
MOV set; SETATTR without such a change rewrites the page's word; RESUME frees the park entries of its range, whether a page is mapped there or
not (the model's choice: log entry 64); GRAT installs its entry; QUERY writes the page's attribute word and FRAME into its record; REFUSE marks
its range. -/
def Claim.HomeCommandsTakeEffect : Prop :=
  ∀ (s : State) (c : HomeCmd) (done : Nat → CmdRun), s.cmds = [{ cmd := c }] →
    done = (fun st => { cmd := c, begun := true, step := 9, status := st }) →
    (badCmd c = true → ∃ T : State, exec (.homeCommandComplete c.id) s = .next T ∧ T.cmds = [done 1] ∧ T.pages = s.pages) ∧
    (badCmd c = false →
      (c.op = 1 → s.pages.any (·.meets c) = true → ∃ T : State, exec (.homeCommandComplete c.id) s = .next T ∧ T.cmds = [done 3] ∧ T.pages = s.pages) ∧
      (c.op = 1 → s.pages.any (·.meets c) = false → ∃ T : State, exec (.homeCommandComplete c.id) s = .next T ∧
        ((T.cmds = [done 4] ∧ T.pages = s.pages) ∨
         (T.cmds = [done 0] ∧ T.pages = s.pages))) ∧
      (c.op = 2 ∨ c.op = 3 ∨ c.op = 4 ∨ c.op = 7 → s.cmdPage c = none →
        ∃ T : State, exec (.homeCommandComplete c.id) s = .next T ∧ T.cmds = [done 2] ∧ T.pages = s.pages) ∧
      (∀ pg, s.cmdPage c = some pg →
        (c.op = 3 → badFrame (fld c.attr.toNat 9 8) pg.size pg.frame = true →
          ∃ T : State, exec (.homeCommandComplete c.id) s = .next T ∧ T.cmds = [done 1] ∧ T.pages = s.pages) ∧
        (c.op = 2 ∨ c.op = 4 ∨
            (c.op = 3 ∧ badFrame (fld c.attr.toNat 9 8) pg.size pg.frame = false ∧ needsChange pg.attr.toNat c.attr.toNat = true) →
          ∃ (T : State) (r : CmdRun), exec (.homeCommandComplete c.id) s = .next T ∧ T.cmds = [r] ∧ r.cmd = c ∧ r.begun = true ∧ r.step = 1 ∧
            T.cmdPage c = some { pg with mov := some false }) ∧
        (c.op = 3 → badFrame (fld c.attr.toNat 9 8) pg.size pg.frame = false → needsChange pg.attr.toNat c.attr.toNat = false →
          ∃ T : State, exec (.homeCommandComplete c.id) s = .next T ∧ T.cmds = [done 0] ∧
            T.pages = replaceFirst (fun q => q.va == pg.va) (fun q => q.withAttr c.attr) s.pages) ∧
        (c.op = 7 → ∃ (T X : State) (a : Nat), exec (.homeCommandComplete c.id) s = .next T ∧ T.cmds = [done 0] ∧ T.pages = s.pages ∧
          a = pg.attr.toNat + (if pg.dHomes.getLsbD pg.lowHome then 8 else 0) + (if pg.cHomes.getLsbD pg.lowHome then 16 else 0)
            + (if pg.mov.isSome then 1024 else 0) ∧
          X = State.devWrite { s with cmds := [{ cmd := c, begun := true }] } (c.recAddr + 16) (toBytes 8 a ++ toBytes 8 pg.frame) ∧ T.dram = X.dram ∧ T.hostMem = X.hostMem)) ∧
      (c.op = 5 → ∃ T : State, exec (.homeCommandComplete c.id) s = .next T ∧ T.cmds = [done 0] ∧
        T.parks = s.parks.filter (fun e => !(decide (cmdVa c < e.va + e.size) && decide (e.va < cmdVa c + cmdBytes c)))) ∧
      (c.op = 6 → ∃ T : State, exec (.homeCommandComplete c.id) s = .next T ∧ T.cmds = [done 0] ∧
        Kv.get? T.graticule (c.va.toNat % 2 ^ 12) = some c.attr ∧
        ∀ k, k ≠ c.va.toNat % 2 ^ 12 → Kv.get? T.graticule k = Kv.get? s.graticule k) ∧
      (c.op = 8 → s.pages.any (·.meets c) = false → ∃ T : State, exec (.homeCommandComplete c.id) s = .next T ∧ T.cmds = [done 0] ∧
        T.refuseMarks = s.refuseMarks ++ [(cmdVa c, cmdBytes c)]))

/-- R373, R375, R385, R391: a page change waits for its drains, recalls the page's lines, waits out their leases, and then changes the page: an
UNMAP leaves none, a SETATTR gives it its word, a MOVE has its bytes copied to the new frame and tier, and a change that the homes begin
themselves flips its bias, which counts in HFLIPS, or gives it a KEY and a TENANT. MOV then ends, and the page's park entries are freed. A
command that is complete installs the page of a MAP, writes its status into its record, then increments its counter where it names one, and
leaves the queue. -/
def Claim.HomeCommandsFinish : Prop :=
  ∀ (s : State) (r : CmdRun), s.cmds = [r] → r.begun = true →
    (r.step = 1 → s.draining r.waits = true ∨ s.revoking (cmdVa r.cmd) (cmdBytes r.cmd) = true →
      exec (.homeCommandComplete r.cmd.id) s = .next (s.later (.homeCommandComplete r.cmd.id))) ∧
    (r.step = 1 → s.draining r.waits = false → s.revoking (cmdVa r.cmd) (cmdBytes r.cmd) = false →
      ∃ (T : State) (hz : Nat), exec (.homeCommandComplete r.cmd.id) s = .next T ∧ T.cmds = [{ r with step := 2, hz := hz }] ∧
        ∀ k ∈ s.cores, ∀ l ∈ k.2.l1, l.treat = 1 → cmdVa r.cmd ≤ keyless (l.line * 128) → keyless (l.line * 128) < cmdVa r.cmd + cmdBytes r.cmd →
          l.leaseEnd ≤ hz) ∧
    (r.step = 2 → s.now < r.hz → exec (.homeCommandComplete r.cmd.id) s = .next (s.at r.hz (.homeCommandComplete r.cmd.id))) ∧
    (r.step = 2 → r.hz ≤ s.now → ∃ T : State, exec (.homeCommandComplete r.cmd.id) s = .next T ∧ T.cmds = [{ r with step := 3 }] ∧
      (r.cmd.op = 2 → T.cmdPage r.cmd = none) ∧
      ∀ pg, s.cmdPage r.cmd = some pg →
        (r.cmd.op = 3 → T.cmdPage r.cmd = some (Page.withAttr { pg with mov := some true } r.cmd.attr)) ∧
        (r.cmd.op = 4 → ∃ (q : Page) (S X : State),
          q = { pg with attr := (pg.attr &&& ~~~ 0x300#64) ||| addr64 (fld r.cmd.attr.toNat 9 8 * 2 ^ 8), frame := r.cmd.frame.toNat, mov := some true } ∧
          T.cmdPage r.cmd = some q ∧
          S = { s with pages := replaceFirst (fun x => x.va == cmdVa r.cmd && x.size == r.cmd.size.toNat) (fun x => { x with mov := some true }) s.pages } ∧
          X = (S.recallPage (cmdVa r.cmd) (cmdBytes r.cmd)).1.copyPage { pg with mov := some true } q ∧ T.dram = X.dram ∧ T.hostMem = X.hostMem) ∧
        (r.cmd.op = 9 → T.cmdPage r.cmd = some { pg with attr := pg.attr ||| 0x80#64, mov := some true } ∧
          T.pr.hflips = if pg.hostBias ∨ s.pr.hflips = 0xFFFFFFFF#32 then s.pr.hflips else s.pr.hflips + 1) ∧
        (r.cmd.op = 10 → T.cmdPage r.cmd =
          some { pg with attr := (pg.attr &&& ~~~ 0xFFFFFF0000#64) ||| (r.cmd.attr &&& 0xFFFFFF0000#64), mov := some true })) ∧
    (r.step = 3 → ∃ T : State, exec (.homeCommandComplete r.cmd.id) s = .next T ∧ T.cmds = [] ∧
      T.cmdPage r.cmd = (s.cmdPage r.cmd).map (fun pg => { pg with mov := none }) ∧
      T.parks = s.parks.filter (fun e => !(decide (cmdVa r.cmd < e.va + e.size) && decide (e.va < cmdVa r.cmd + cmdBytes r.cmd)))) ∧
    (r.step = 9 →
      ∃ T S X Y : State, exec (.homeCommandComplete r.cmd.id) s = .next T ∧ T.cmds = [] ∧
        S = { (if r.cmd.op = 1 ∧ r.status = 0 then s.installMap r.cmd else s) with cmds := [] } ∧
        X = (if r.cmd.recAddr = 0 then S else S.devWrite32 (r.cmd.recAddr + 4) (S.dev32 (r.cmd.recAddr + 4) / 16 * 16 + r.status)) ∧
        Y = (if r.cmd.cv then X.addCounter r.cmd.caddr.toNat r.cmd.cinc.toNat else X) ∧ T.dram = Y.dram ∧ T.hostMem = Y.hostMem ∧
        T.pages = S.pages ∧
        (r.cmd.op = 1 → r.status = 0 → T.pages = s.pages ++ [⟨cmdVa r.cmd, r.cmd.size.toNat, r.cmd.attr &&& 0xFFFFFF03E7#64, r.cmd.frame.toNat,
           if r.cmd.attr.getLsbD 4 then BitVec.allOnes 64 else 0, if r.cmd.attr.getLsbD 3 then BitVec.allOnes 64 else 0, none⟩]))

/-- R388: a home serves a request as it comes when none waits there and service is left in this
clock: it is charged then. Else it waits with its charge, and a step whose request waits goes on when it has been served. -/
def Claim.HomesServeRequests : Prop :=
  ∀ (s : State) (e : Instr) (home f n : Nat),
    (e ∈ s.served → s.atHomes e f [(home, n)] = ({ s with served := s.served.filter (· != e) }, true)) ∧
    (e ∉ s.served → (∃ j ∈ s.homeJobs, j.ev = e) → s.atHomes e f [(home, n)] = (s, false)) ∧
    (e ∉ s.served → (∀ j ∈ s.homeJobs, j.ev ≠ e) →
      (s.homeOpen home = true → s.atHomes e f [(home, n)] = (s.serves home f n, true)) ∧
      (s.homeOpen home = false → s.atHomes e f [(home, n)] = ({ s with homeJobs := s.homeJobs ++ [⟨home, f, n, e, s.entryFor home f⟩] }, false)))

/-- R371, R376, R379, R388: a read waits for its home's service (charged 128 bytes, 32 for a device line); served, one that the home accepts marks the
page accessed at that home and goes on as a granted fill; NOTPRESENT and TIERMOVE park the request in its core until a replay; a final refusal
is the load's lane's. -/
def Claim.HomeRequestsAreAnswered : Prop :=
  (∀ (s Y : State) (core slot id code : Nat) (r : HomeReq) (b : Bool), r.asker = .core core (.pend slot id) → r.access = 0 → r.reroutes ≤ 16 →
    s.wanted core (.pend slot id) = true → s.kvxOf core (.pend slot id) = none → s.homedHere r.va = true →
    (∀ m ∈ s.fabric, ¬ (m.core = core ∧ m.what = .pend slot id ∧ m.va = r.va)) → code = s.homeCheck 0 r.va r.write r.wide none false →
    s.atHomes (.homeRequest r) (s.coreAt core).function [(homeOf r.va, if s.treatOf r.va = 2 then 32 else 128)] = (Y, b) →
    (b = false → exec (.homeRequest r) s = .next Y) ∧ (b = true →
    (code = 0 → (∀ t ∈ s.tickets, t.region = regionOf r.va → t.writer = none ∧ t.queue = []) →
      exec (.homeRequest r) s = exec (.sliceFill core slot id (lineOf r.va) true) ((Y.routed core (.pend slot id)).markPage r.va false)) ∧
    (code = 1 ∨ code = 2 → slot ≠ prefetchSlot →
      ∃ T : State, exec (.homeRequest r) s = .next T ∧ (T.coreAt core).missBuf = (s.coreAt core).missBuf ++ [⟨r, s.now + 65536⟩] ∧
        (s.now + 65536, .refusalReplayTimer core (.pend slot id)) ∈ T.agenda) ∧
    (code = 4 → slot ≠ prefetchSlot → s.atomAt core id = none → ∀ (d : Pend) (kind : BitVec 3) (t : Reg) (q : Word) (lanes : List LoadLane),
      s.pendAt core slot id = some d → d.body = .load kind t q lanes →
      ∃ T : State, exec (.homeRequest r) s = .next T ∧ T.pendAt core slot id = some { d with
        body := .load kind t q (lanes.map fun l => if l.got = none ∧ l.refused = none ∧ lineOf l.addr = lineOf r.va then { l with refused := some 4 } else l) }))) ∧
  (∀ (s : State) (va : Nat) (pg : Page) (write : Bool), s.pageOf va = some pg → ∃ pg' : Page, (s.markPage va write).pageOf va = some pg' ∧
    pg' = { pg with cHomes := pg'.cHomes, dHomes := pg'.dHomes } ∧ pg'.cHomes.getLsbD (homeOf va) = decide (homeOf va < 64) ∧
    (write = false → pg'.dHomes = pg.dHomes) ∧ (write = true → pg'.dHomes.getLsbD (homeOf va) = decide (homeOf va < 64)))

/-- R371: what a home answers: TIERMOVE until its stack is ready, NOTPRESENT without a present page, TIERMOVE during a page change, PROTECT for a
wrong key, for a write without W and for an atomic without W and A, POISON for a poisoned line unless the whole of it is written. -/
def Claim.HomeAnswers : Prop :=
  ∀ (s : State) (access va : Nat) (write wide : Bool), s.homedHere va = true →
    (s.pr.ready.getLsbD (2 + homeOf va / 4) = false → s.homeCheck access va write wide none false = 2) ∧
    (s.pr.ready.getLsbD (2 + homeOf va / 4) = true →
      (s.pageOf va = none → s.refuseMarks = [] → s.homeCheck access va write wide none false = 1) ∧
      (∀ pg, s.pageOf va = some pg →
        (pg.present = false → s.homeCheck access va write wide none false = 1) ∧
        (pg.present = true → pg.mov = some true → s.homeCheck access va write wide none false = 2) ∧
        (pg.present = true → pg.mov = none →
          (keyOf va ≠ pg.key → s.homeCheck access va write wide none false = 4) ∧
          (keyOf va = pg.key →
            (write = true → pg.wr = false → s.homeCheck access va write wide none false = 4) ∧
            (access = 2 → (pg.wr = false ∨ pg.atomics = false) → s.homeCheck access va write wide none false = 4) ∧
            (access ≠ 2 → (write = true → pg.wr = true) →
              s.homeCheck access va write wide none false = if pg.poisonKey va ∈ s.poison ∧ ¬ (write = true ∧ wide = true) then 5 else 0)))))

/-- R268, R378, R379: a resume message for a range, and the timers of one parked request whose clock has come, take the requests they name out
of the core's miss buffer and no others; a request of an operation sent again goes through the port, charged as when it was first sent: to the
home for a counter, a probe, or a request that was on its way to another home, else to its slice. A resume that comes from another package
goes to the cores recorded for its regions, which are free then (R448). -/
def Claim.ParkedRequestsReplay : Prop :=
  (∀ (s : State) (va size : Nat), ∃ T : State, exec (.resumeMessage interface va size) s = .next T ∧
    T.remoteParks = s.remoteParks.filter (fun e => !(decide (va < (e.1 + 1) * 2 ^ 16) && decide (e.1 * 2 ^ 16 < va + size)))) ∧
  (∀ (s : State) (core va size : Nat), core ≠ interface → ∃ T : State, exec (.resumeMessage core va size) s = .next T ∧
    (T.coreAt core).missBuf = (s.coreAt core).missBuf.filter fun m => !(decide (va ≤ keyless m.req.va) && decide (keyless m.req.va < va + size))) ∧
  (∀ (s : State) (core : Nat) (what : Parked), ∃ T : State, exec (.refusalReplayTimer core what) s = .next T ∧
    exec (.rerouteReplay core what) s = .next T ∧
    (∀ m ∈ (T.coreAt core).missBuf, ∀ k w, m.req.asker = .core k w → w ≠ what ∨ s.now < m.due) ∧
    (∀ m ∈ (s.coreAt core).missBuf, (∀ k w, m.req.asker = .core k w → w ≠ what) ∨ s.now < m.due → m ∈ (T.coreAt core).missBuf)) ∧
  (∀ (s : State) (core slot id due : Nat) (r : HomeReq), (s.coreAt core).missBuf = [⟨r, due⟩] → r.asker = .core core (.pend slot id) →
    due ≤ s.now → s.homedHere r.va = true →
    ∃ T : State, exec (.refusalReplayTimer core (.pend slot id)) s = .next T ∧ (T.coreAt core).missBuf = [] ∧
      (T.coreAt core).port.queue = (s.coreAt core).port.queue ++ [(s.againCost core slot id r,
        if s.keepsRequest core r = true ∨ 0 < r.reroutes then .homeRequest { r with asker := .port core (.pend slot id) }
        else if r.access = 2 then .sliceAtomic core slot id false else .sliceFill core slot id (lineOf r.va) false)])

/-- R377, R383, R384, R385, R427: a host access within the HDM range, over a link that is ready, is held and asked of its home; a held access that the
home serves and accepts on a host page is done and no longer held, a read leaving the line in neither die; on a device-biased page it begins
the page's flip to host bias and stays held; one held for 2^20 clocks is given up; a snoop of a host-tier line leaves it in neither die; and a
fault record held for room is written once there is room. That the homes charge it to the physical function is the model's choice (log entry
87). -/
def Claim.HostAccesses : Prop :=
  (∀ (s : State) (offset id : Nat) (write : Bool) (data : List Byte) (va : Nat), va = hostVa s offset →
    (s.hostReady = false → exec (.hostMemAccess offset write data id) s = .next s) ∧
    (s.hostReady = true → s.homedHere va = true → (∀ h ∈ s.hostHeld, h.id ≠ id) →
      exec (.hostMemAccess offset write data id) s = .next { s with
        hostHeld := s.hostHeld ++ [⟨id, offset, write, data, s.now⟩]
        agenda := s.agenda ++ [(s.now + 2 ^ 20, .hostHoldTimeout id), (s.now, .homeRequest ⟨0, va, write, false, .host id, [], 0⟩)] })) ∧
  (∀ (s Y : State) (r : HomeReq) (h : HostHeld) (pg : Page), r.asker = .host h.id → s.hostHeld = [h] → r.va = hostVa s h.offset →
    s.pageOf r.va = some pg → (∀ t ∈ s.tickets, t.region ≠ regionOf r.va) →
    s.atHomes (.homeRequest r) 0 [(homeOf r.va, if h.write then max 32 h.data.length else 128)] = (Y, true) →
    (h.write = true → s.homeCheck 4 r.va true (h.data.length == 128 && r.va % 128 == 0) none true = 0 → pg.tier = 2 ∨ pg.hostBias = true →
      ∃ (T X : State), exec (.homeRequest r) s = .next T ∧ X = (s.markPage r.va true).devWrite r.va h.data ∧ T.dram = X.dram ∧ T.hostMem = X.hostMem ∧
        T.hostHeld = []) ∧
    (h.write = false → s.homeCheck 0 r.va false (h.data.length == 128 && r.va % 128 == 0) none true = 0 →
      (pg.tier = 2 ∨ pg.hostBias = true → ∃ T : State, exec (.homeRequest r) s = .next T ∧ T.hostHeld = [] ∧
        T.lineIn 0 (lineOf r.va) = none ∧ T.lineIn 1 (lineOf r.va) = none) ∧
      (pg.tier ≠ 2 → pg.hostBias = false → s.cmds = [] → ∃ T : State, exec (.homeRequest r) s = .next T ∧ T.hostHeld = [h] ∧
        T.cmds = [{ cmd := ⟨s.fresh, 9, BitVec.ofNat 2 pg.size, false, addr64 pg.va, 0, 0, 0, 0, 0⟩ }]))) ∧
  (∀ (s : State) (h : HostHeld), s.hostHeld.find? (·.id == h.id) = some h →
    (s.now < h.since + 2 ^ 20 → exec (.hostHoldTimeout h.id) s = .next s) ∧
    (h.since + 2 ^ 20 ≤ s.now → ∃ T : State, exec (.hostHoldTimeout h.id) s = .next T ∧ T.hostHeld = s.hostHeld.filter (·.id != h.id))) ∧
  (∀ (s : State) (line : Nat) (pg : Page), s.pageOf (line * 128) = some pg → pg.tier = 2 ∨ pg.hostBias = true →
    ∃ T : State, exec (.hostSnoop line) s = .next T ∧ T.lineIn 0 line = none ∧ T.lineIn 1 line = none) ∧
  (∀ (s t : State) (w : List Word), s.pr.hfltq ≠ 0 → s.faultHeld = [w] → s.appendRing s.pr.hfltq 32 (wordBytes (w.map (·.toNat))) = some t →
    ∃ T : State, exec .faultRingRoom s = .next T ∧ T.faultHeld = [] ∧ T.dram = t.dram ∧ T.hostMem = t.hostMem)

/-- R331, R387, R406: at a share period's boundary the shares written in the period take effect, and each core's PORTFILL becomes 4,096 times its
function's effective share, rounded down from the exact share (the model's choice: log entry 56), at least 64, and half of that while the
function is held down; the charges of the period and the counts of accepted rings start again at zero. -/
def Claim.SharesSetPortFill : Prop :=
  ∀ (s : State) (act : List Nat) (sum : Nat), act = s.activeFunctions → sum = (act.map fun f => (s.funcAt f).nextShare).sum →
    ∃ T : State, exec .sharePeriodBoundary s = .next T ∧ T.share = {} ∧ (∀ e ∈ T.rights, e.2.used = 0) ∧
      (∀ f, (T.funcAt f).share = (s.funcAt f).nextShare) ∧
      ∀ (k f n : Nat) (c : Core), Kv.get? s.cores k = some c → f = c.function →
        n = (if f ∈ act then (if 0 < sum then 4096 * (s.funcAt f).nextShare / sum else 4096 / act.length) else 0) →
        (T.coreAt k).port.fill = max 64 (if (T.funcAt f).halved then n / 2 else n)

/-! ### The matrix engine -/

/-- R214, R215, R234, R235: MXACQ of an engine the gang owns in that mode goes on, in the other mode traps MXOWN 3, as a pair from any but a
runner core of a twin block traps MXOWN 2, and without a claim enters a request and waits; MXREL gives up the claim and the request. With
both engines idle and one plain request waiting, the arbiter gives its engine to it and its waiting parties go on. -/
def Obligations.EngineOwnership : Prop :=
  (∀ (s : State) (p : Party) (prio : BitVec 2) (pair : Bool) (b : Block), Runs s p (.mxacq prio pair) → s.blockOf p = some b →
    (p.once = false → exec (.mxacq prio pair) s = .next (s.withGangOf p (p.moved s))) ∧
    (p.once = true →
      (pair = true → (b.pair = false ∨ p.core % 2 = 1) → exec (.mxacq prio pair) s = .next (s.raise p 0x38 2)) ∧
      ((pair = true → b.pair = true ∧ p.core % 2 = 0) →
        (∀ o, s.owns p.core p.slot = some o → exec (.mxacq prio pair) s = .next (if o.pair = pair then s.withGangOf p (p.moved s) else s.raise p 0x38 3)) ∧
        (s.owns p.core p.slot = none → s.mxRequest p.core p.slot = none →
          ∃ T : State, exec (.mxacq prio pair) s = .next T ∧
            T.gangAt p.core p.slot = some (p.g.mapParty p.lead fun q => { q with park := .mxacq, last := some s.now }) ∧
            (T.coreAt (p.core / 2 * 2)).mxq = (s.coreAt (p.core / 2 * 2)).mxq ++ [⟨p.core, p.slot, pair, prio.toNat⟩] ∧
            (s.now, .engineGrant (p.core / 2 * 2)) ∈ T.agenda) ∧
        (∀ r, s.owns p.core p.slot = none → s.mxRequest p.core p.slot = some r → r.pair ≠ pair →
          exec (.mxacq prio pair) s = .next (s.raise p 0x38 3))))) ∧
  (∀ (s : State) (p : Party), Runs s p .mxrel →
    (p.once = false → exec .mxrel s = .next (s.withGangOf p (p.moved s))) ∧
    (p.once = true → ∃ T : State, exec .mxrel s = .next T ∧ T.gangAt p.core p.slot = some (p.moved s) ∧
      ∀ k, k = p.core / 2 * 2 ∨ k = p.core / 2 * 2 + 1 →
        (∀ r ∈ (T.coreAt k).mxq, ¬ (r.core = p.core ∧ r.slot = p.slot)) ∧
        (T.coreAt k).owner = (s.coreAt k).owner.map fun o => if o.core = p.core ∧ o.slot = p.slot then { o with released := true } else o)) ∧
  (∀ (s : State) (core : Nat) (r : MxReq) (g : Gang), core % 2 = 0 → (s.coreAt core).owner = none → (s.coreAt (core + 1)).owner = none →
    (s.coreAt core).mxq = [r] → (s.coreAt (core + 1)).mxq = [] → r.pair = false → r.prio < 4 → (r.core = core ∨ r.core = core + 1) →
    s.gangAt r.core r.slot = some g → g.trap = none →
    ∃ (T : State) (h : Gang), exec (.engineGrant core) s = .next T ∧ (T.coreAt r.core).owner = some ⟨r.core, r.slot, false, r.prio, false⟩ ∧
      (T.coreAt core).mxq = [] ∧ T.gangAt r.core r.slot = some h ∧
      ∀ j, (g.quad j).park = .mxacq → g.unretired j = true →
        h.quad j = { g.quad j with park := .none, pc := succPc (g.quad j).pc, wake := s.now + 1 })

/-- R222, R225, R239: MMA of a gang that owns no engine traps MXOWN 0; with an engine, a legal format block and room in every engine's list it is
accepted: it takes the ticket of MXTICK, counts, may begin 16 clocks later, delivers its ticket, and closes the mark. -/
def Claim.MmaIsAccepted : Prop :=
  ∀ (s : State) (p : Party) (d a b : Reg) (blk : Block) (addr gv gate : Nat) (fb : List Word) (c : Core), Runs s p (.mma d a b) →
    s.blockOf p = some blk → p.once = true → addr = s.uniform p a 1 → fb = recordWords blk (blk.partOf p.core) addr → gv = s.uniform p b 1 →
    gate = fld p.g.role.toNat 11 4 + gv → c = s.coreAt p.core →
    (s.owns p.core p.slot = none → exec (.mma d a b) s = .next (s.raise p 0x38 0)) ∧
    (∀ o, s.owns p.core p.slot = some o → addr % 64 = 0 → addr + 64 ≤ blk.scrSize → 16 * blk.ngates ≤ addr → mxFmt s blk p.core fb = none →
      ((fbW fb 0).testBit 19 = true → o.pair = true ∧ p.core % 2 = 0) → (2 ^ 31 ≤ gv ∨ gate < blk.ngates) → readHeld s p = false →
      (∀ k ∈ mmaCores p.core ((fbW fb 0).testBit 19), (s.mmasOn k).length < 4) →
      ∃ (T : State) (h : Gang) (m : Mma), exec (.mma d a b) s = .next T ∧ T.gangAt p.core p.slot = some h ∧
        h = { p.moved s with mark := none, settled := none, eccOnce := false, pend := h.pend } ∧
        h.pend.map (fun x => (x.lead, x.regs, x.super, x.body)) = p.g.pend.map (fun x => (x.lead, x.regs, x.super, x.body)) ++
          (if p.uniformWrites d 1 c.mxtick.toNat = [] then []
           else [(p.lead, codesOf (p.uniformWrites d 1 c.mxtick.toNat), p.g.super, .value (p.uniformWrites d 1 c.mxtick.toNat))]) ∧
        (T.coreAt p.core).mmas = c.mmas ++ [m] ∧ m.ticket = c.mxtick ∧ m.slot = p.slot ∧ m.blk = p.g.blk ∧ m.fb = fb ∧
        m.gate = (if gv < 2 ^ 31 then some gate else none) ∧ m.phase = 0 ∧ m.ready = s.now + 16 ∧
        (m.checked = true ↔ (c.mxcount + 1).toNat % max 1 c.mxchk.toNat = 0) ∧
        (T.coreAt p.core).mxtick = c.mxtick + 1 ∧ (T.coreAt p.core).mxcount = c.mxcount + 1 ∧
        (s.now + 16, .mmaBegin p.core c.mxtick.toNat) ∈ T.agenda)

/-- R218, R219, R222, R225, R226, R319: an accepted MMA whose predecessors have ended, whose 16 clocks have passed and whose earlier releases are
complete begins: A and B are taken as they stand, and it runs for its class's duration, once, or two or three times when it is checked. At
its end the run is over; 24 clocks later an MMA that ran once writes its tile rows, leaves the list, and its tile arrives at its gate. -/
def Claim.MmaRunsAndRetires : Prop :=
  (∀ (s : State) (core : Nat) (m : Mma), s.mmaAt core m.ticket.toNat = some m → m.phase = 0 → m.ready ≤ s.now →
    (∀ x ∈ (s.coreAt core).mmas.takeWhile (·.ticket.toNat != m.ticket.toNat), 2 ≤ x.phase) →
    (∀ r ∈ m.rels, ∀ x ∈ (s.coreAt core).rels, x.id ≠ r) →
    ∃ (T : State) (n : Nat) (rows : Cells × Cells), exec (.mmaBegin core m.ticket.toNat) s = .next T ∧
      T.mmaAt core m.ticket.toNat = some { m with phase := 1, fin := s.now + m.cls.dur * n, passes := n, aRows := rows, bRegs := s.bRegsNow core m } ∧
      (m.checked = false → n = 1) ∧ (m.checked = true → n = 2 ∨ n = 3) ∧
      (∀ b, s.blockAt m.blk = some b → ∀ k < 128 * m.cls.rowBytes, Sp.get rows.1 k = b.scratchByte (b.partOf core) (fbW m.fb 2 + k)) ∧
      (s.now + m.cls.dur * n, .mmaRetire core m.ticket.toNat) ∈ T.agenda ∧ (s.now + m.cls.dur * n + 24, .mmaRetire core m.ticket.toNat) ∈ T.agenda) ∧
  (∀ (s : State) (core : Nat) (m : Mma), s.mmaAt core m.ticket.toNat = some m →
    (m.phase = 1 → m.fin ≤ s.now → ∃ (T : State) (x : Mma), exec (.mmaRetire core m.ticket.toNat) s = .next T ∧
      T.mmaAt core m.ticket.toNat = some x ∧ x = { m with phase := 2, aRows := x.aRows, kept := x.kept }) ∧
    (m.phase = 2 → m.fin + 24 ≤ s.now → m.passes = 1 → fbPair m = false → ∃ T : State, exec (.mmaRetire core m.ticket.toNat) s = .next T ∧
      (T.coreAt core).mmas = (s.coreAt core).mmas.filter (·.ticket.toNat != m.ticket.toNat) ∧
      (T.coreAt core).acc = (List.range 4).foldl (fun acc q =>
        Sp.putRange acc (tileWord q (fbTile m)) (mmaTile m (s.coreAt core) 0 m.aRows.1 none q)) (s.coreAt core).acc ∧
      (∀ gate b, m.gate = some gate → s.blockAt m.blk = some b → b.pair = false →
        (T.blockAt m.blk).map (·.gateIn) = some (b.gateIn ++ [⟨s.now, gate, core, 64, [], .tile⟩])) ∧
      (∀ gate b, m.gate = some gate → s.blockAt m.blk = some b → b.pair = true → core % 2 = 1 →
        (s.now + 6, .bedTileArrival m.blk gate) ∈ T.agenda))) ∧
  (∀ (s : State) (blk gate : Nat) (b : Block), s.blockAt blk = some b →
    exec (.bedTileArrival blk gate) s = .next ((s.modBlock blk fun x => { x with gateIn := x.gateIn ++ [⟨s.now, gate, b.coreOf 1, 64, [], .tile⟩] }).at
      s.now (.gateUpdate blk gate)))

/-- R91: when A and B are INT8 the accumulator is INT32, and a chunk of elements adds the exact sum of its products to it, modulo 2^32 with the
saturate bit clear, clamped to −2^31 to 2^31 − 1 with it set. -/
def Obligations.IntegerChunksAccumulate : Prop :=
  (∀ c accf, mxClass 0x08 = some c → (accAllowed c.cell accf = true ↔ accf = 2)) ∧
  ∀ (sat : Bool) (acc : Word) (xs : List (Byte × Byte)) (exact : Int), exact = acc.toInt + (xs.map fun x => x.1.toInt * x.2.toInt).sum →
    accumulate 2 sat acc.toNat [⟨xs.map fun x => elemValue 0x08 x.1.toNat, 127⟩] [⟨xs.map fun x => elemValue 0x08 x.2.toNat, 127⟩] =
      (BitVec.ofInt 32 (if sat then max (-2 ^ 31) (min (2 ^ 31 - 1) exact) else exact)).toNat

/-- The words of a tile that a descriptor names: first word, and how many (R221, R242). -/
def tileSpan (t : Nat) : Nat × Nat := (2 ^ 15 * (t / 4 % 4) + 2 ^ 13 * (t % 4), if t.testBit 4 then 16384 else 8192)

/-- R233, R242, R243: ACCZ zeroes its tile and closes the mark; ACCLD and ACCST start a transfer of 256 or 512 clocks that holds the party, each word
moving at its start or its end; ACCRD delivers, and ACCWR writes, each lane's element of a row segment. A descriptor with reserved bits, or
a 64-bit tile in an odd slot, traps MXARG 4; a row of a 64-bit tile names a pair in D, with the checks of a pair. -/
def Claim.AccumulatorMoves : Prop :=
  ∀ (s : State) (p : Party) (d a : Reg) (t : Nat) (b : Block) (c : Core), s.blockOf p = some b → t = s.uniform p a 1 → c = s.coreAt p.core →
    p.once = true →
    (tdBad t = true → ∀ i ∈ [Instr.accz a, .accld d a, .accst d a], Runs s p i → exec i s = .next (s.raise p 0x3A 4)) ∧
    (tdBad t = false → s.tileBusy p.core t = false →
      (Runs s p (.accz a) → ∃ T : State, exec (.accz a) s = .next T ∧
        T.gangAt p.core p.slot = some { p.moved s with mark := none, settled := none, eccOnce := false } ∧
        ∀ k, Sp.get (T.coreAt p.core).acc k = if (tileSpan t).1 ≤ k ∧ k < (tileSpan t).1 + (tileSpan t).2 then 0 else Sp.get c.acc k) ∧
      (∀ sa, sa = s.uniform p d 1 → sa % 128 = 0 → sa + 4 * (tileSpan t).2 ≤ b.scrSize → 16 * b.ngates ≤ sa → ∀ store : Bool, ∀ i,
        i = (if store then .accst d a else .accld d a) → (store = true → readHeld s p = false) → Runs s p i →
        ∃ (T : State) (m : AccMove) (h : Gang), exec i s = .next T ∧ (T.coreAt p.core).moves = c.moves ++ [m] ∧
          m = ⟨p.slot, p.g.blk, p.lead, store, t / 4 % 4, t % 4, 4 * (tileSpan t).2, sa, s.fresh,
            s.now + (if t.testBit 4 then 512 else 256), p.g.context⟩ ∧
          (s.now + (if t.testBit 4 then 512 else 256), .accTransferComplete p.core p.slot p.lead) ∈ T.agenda ∧
          T.gangAt p.core p.slot = some h ∧
          (∀ j ∈ p.g.members p.lead, h.quad j = { (p.moved s).quad j with park := .hold false }) ∧
          (store = false → ∀ k ∈ moveWords m true, Sp.get (T.coreAt p.core).acc ((tileSpan t).1 + k) =
            word (ofBytes ((List.range 4).map fun j => b.scratchByte (b.partOf p.core) (sa + 4 * k + j)))) ∧
          (store = true → ∀ k ∈ moveWords m true, (T.blockAt p.g.blk).map (fun x => (List.range 4).map fun j => x.scratchByte (b.partOf p.core) (sa + 4 * k + j)) =
            some (toBytes 4 (Sp.get c.acc ((tileSpan t).1 + k)).toNat))) ∧
      (∀ (wide : Bool) (n : Nat) (at' : Nat → Nat), wide = t.testBit 4 → n = (if wide then 2 else 1) →
        (∀ l, at' l = (tileSpan t).1 + n * (256 * fld t 9 5 + 32 * fld t 12 10 + l)) →
        (Runs s p (.accrd d a) → (wide = true → s.pairHeld p d true = false ∧ preTrapWith s.now p (.accrd d a) (rowOpnds (.accrd d a) true) (pairCauses d) [] = none) →
          (∀ x ∈ c.accBad, ¬ (x.1 = t / 4 % 4 ∧ x.2 ∈ tdSlots t)) →
          ∃ (T : State) (h : Gang), exec (.accrd d a) s = .next T ∧ OnlyGang s T p h ∧ h = { p.moved s with pend := h.pend } ∧
            Returns s T p h ((lanesOf p.executing).flatMap fun l =>
              destWrites d n l ((Sp.get c.acc (at' l)).toNat + if wide then (Sp.get c.acc (at' l + 1)).toNat * 2 ^ 32 else 0))) ∧
        (Runs s p (.accwr d a) → (wide = true → s.pairHeld p d false = false ∧ preTrapWith s.now p (.accwr d a) (rowOpnds (.accwr d a) true) (pairCauses d) [] = none) →
          ∃ T : State, exec (.accwr d a) s = .next T ∧
            T.gangAt p.core p.slot = some { p.moved s with mark := none, settled := none, eccOnce := false } ∧
            ∀ k, Sp.get (T.coreAt p.core).acc k =
              match (lanesOf p.writing).find? (fun l => decide (at' l ≤ k) && decide (k < at' l + n)) with
              | some l => word (s.regValue p d n l / 2 ^ (32 * (k - at' l)))
              | none => Sp.get c.acc k)))

/-- R243: when a transfer is complete, the words that had not moved move, it leaves the list, and the party goes on where it stands, also where a
handler of its gang runs; every word moves at the start or then. -/
def Claim.AccTransfersComplete : Prop :=
  (∀ (s : State) (core : Nat) (m : AccMove) (b : Block) (g : Gang), (s.coreAt core).moves = [m] → m.size ≠ 0 → m.fin ≤ s.now → s.blockAt m.blk = some b →
    s.gangAt core m.slot = some g →
    ∃ (T : State) (h : Gang), exec (.accTransferComplete core m.slot m.lead) s = .next T ∧ (T.coreAt core).moves = [] ∧
      T.gangAt core m.slot = some h ∧
      (g.context = m.ctx → ∀ j ∈ g.members m.lead, (g.quad j).park = .hold false → h.quad j = { g.quad j with park := .none, wake := s.now + 1 }) ∧
      (g.context ≠ m.ctx → h.quads = g.quads) ∧
      (∀ hs, g.context = 2 → m.ctx = 0 → g.bellHeld = none → g.held = some hs → h.held = some (hs.map fun q => q.release m.lead s.now)) ∧
      (m.store = true → 16 * b.ngates ≤ m.sa → ∀ k ∈ moveWords m false,
        (T.blockAt m.blk).map (fun x => (List.range 4).map fun j => x.scratchByte (b.partOf core) (m.sa + 4 * k + j)) =
          some (toBytes 4 (Sp.get (s.coreAt core).acc (tileWord m.quarter m.tile + k)).toNat)) ∧
      (m.store = false → ∀ k ∈ moveWords m false, Sp.get (T.coreAt core).acc (tileWord m.quarter m.tile + k) =
        word (ofBytes ((List.range 4).map fun j => b.scratchByte (b.partOf core) (m.sa + 4 * k + j))))) ∧
  (∀ (m : AccMove) (k : Nat), k < m.size / 4 → k ∈ moveWords m true ∨ k ∈ moveWords m false)

/-- R236, R241, R244: MXWAIT goes on once no MMA of its gang, or on its registers, and no transfer of it is outstanding, and is not ready until
then; ROLE writes base and role; SCLD moves its columns into the scale memory and holds the party, and goes on at once with none to move. -/
def Obligations.MatrixWaitsRolesAndScales : Prop :=
  (∀ (s : State) (p : Party) (busy : Prop), Runs s p .mxwait →
    busy = ((∃ m ∈ (s.coreAt p.core).mmas, m.blk = p.g.blk ∧ (m.slot = p.slot ∨ ∃ x ∈ m.bgangs, x.1 = p.slot)) ∨
      ∃ m ∈ (s.coreAt p.core).moves, m.slot = p.slot ∧ m.blk = p.g.blk) →
    (p.once = false ∨ ¬ busy → exec .mxwait s = .next (s.withGangOf p (p.moved s))) ∧
    (p.once = true → busy → exec .mxwait s = .next (s.stall p))) ∧
  (∀ (s : State) (p : Party) (base : BitVec 8) (role : BitVec 4), Runs s p (.role base role) →
    exec (.role base role) s = .next (s.withGangOf p { p.moved s with
      role := if p.once then word (base.toNat * 16 + role.toNat) else p.g.role })) ∧
  (∀ (s : State) (p : Party) (d a b : Reg) (blk : Block) (dv sa n : Nat), Runs s p (.scld d a b) → s.blockOf p = some blk → p.once = true →
    dv = s.uniform p d 1 → sa = s.uniform p a 1 → n = s.uniform p b 1 → scldArg blk dv sa n = none →
    (scldColumns dv sa n = [] → exec (.scld d a b) s = .next (s.withGangOf p (p.moved s))) ∧
    (scldColumns dv sa n ≠ [] → (∀ m ∈ s.mmasOn p.core, ∀ x ∈ scldColumns dv sa n, usesColumn m x.2.1 = false) →
      ∃ (T : State) (h : Gang), exec (.scld d a b) s = .next T ∧ T.gangAt p.core p.slot = some h ∧
        (∀ j ∈ p.g.members p.lead, h.quad j = { (p.moved s).quad j with park := .hold false }) ∧
        (∃ clock, s.now < clock ∧ (clock, .accTransferComplete p.core p.slot p.lead) ∈ T.agenda) ∧
        ∀ x ∈ scldColumns dv sa n, ∀ k < 64, Sp.get (T.coreAt p.core).scale (2 ^ 14 * x.1 + 64 * x.2.1 + k) =
          blk.scratchByte (blk.partOf p.core) (x.2.2 + k)))

/-! ### The tree file -/

/-- What a tree read delivers of its node (R246): destination, operand, registers and value. -/
def treeReadOf : Instr → Option (Reg × Reg × Nat × (Tree → Node → Nat))
  | .ttanc d a => some (d, a, 2, fun _ n => n.mask.toNat)
  | .ttpos d a => some (d, a, 1, fun t n => (t.base + BitVec.ofNat 32 n.depth).toNat)
  | .ttpar d a => some (d, a, 1, fun _ n => n.parent)
  | .ttgtok d a => some (d, a, 1, fun _ n => n.token.toNat)
  | .ttgsc d a => some (d, a, 1, fun _ n => n.score.toNat)
  | _ => none

/-- R227, R246, R248: a tree read whose writing lanes all name nodes of the tree that TSEL selects delivers its value of each lane's node, and
changes nothing else; a lane beyond the count traps TREEARG 2 with the lowest such lane. TTCNT delivers the count. -/
def Claim.TreeReads : Prop :=
  (∀ (s : State) (p : Party) (i : Instr) (d a : Reg) (n : Nat) (f : Tree → Node → Nat), treeReadOf i = some (d, a, n, f) → Runs s p i →
    (∀ l, (lanesOf p.writing).find? (fun l => decide ((s.treeOf p).nodes.length ≤ s.regValue p a 1 l)) = some l →
      exec i s = .next (s.raise p 0x3B (2 + l * 4))) ∧
    ((∀ l ∈ lanesOf p.writing, s.regValue p a 1 l < (s.treeOf p).nodes.length) →
      ∃ (T : State) (h : Gang), exec i s = .next T ∧ OnlyGang s T p h ∧ h = { p.moved s with pend := h.pend } ∧
        Returns s T p h ((p.computing d).flatMap fun l => destWrites d n l
          (match (s.treeOf p).nodes[s.regValue p a 1 l]? with | some x => f (s.treeOf p) x | none => 0)))) ∧
  (∀ (s : State) (p : Party) (d : Reg), Runs s p (.ttcnt d) →
    (p.once = false → exec (.ttcnt d) s = .next (s.withGangOf p (p.moved s))) ∧
    (p.once = true → ∃ (T : State) (h : Gang), exec (.ttcnt d) s = .next T ∧ OnlyGang s T p h ∧ h = { p.moved s with pend := h.pend } ∧
      Returns s T p h (p.uniformWrites d 1 (s.treeOf p).nodes.length)))

/-- R228, R229, R231, R245, R246: TTINIT empties the selected tree at its base; TTADD appends one node for each writing lane, in lane order, a root
for a parent of bit 31, else a child one deeper under its parent's mask, and traps TREEARG 0 when the tree would exceed 64 nodes; TTSTOK
and TTSSC write token or score of the named nodes, the highest lane's standing, with their action; TTPRUNE keeps a node's path, root
first. -/
def Claim.TreeWrites : Prop :=
  (∀ (s : State) (p : Party) (a : Reg), Runs s p (.ttinit a) → ∃ T : State, exec (.ttinit a) s = .next T ∧
    T.gangAt p.core p.slot = some (p.moved s) ∧ (T.coreAt p.core).trees = (if p.once then
      (s.coreAt p.core).trees.modify (p.g.tsel.toNat % 4) (fun _ => ⟨word (s.uniform p a 1), []⟩) else (s.coreAt p.core).trees)) ∧
  (∀ (t : Tree) (parent : Nat), parent < 2 ^ 32 →
    (2 ^ 31 ≤ parent → (t.addNode parent).nodes = t.nodes ++ [⟨t.nodes.length, 0, 0, 0, 0, 1#64 <<< t.nodes.length⟩]) ∧
    (∀ q, parent < 2 ^ 31 → t.nodes[parent]? = some q →
      (t.addNode parent).nodes = t.nodes ++ [⟨parent, 0, 0, 0, q.depth + 1, q.mask ||| (1#64 <<< t.nodes.length)⟩])) ∧
  (∀ (s : State) (p : Party) (d a : Reg) (ls : List Nat) (n : Nat), Runs s p (.ttadd d a) → ls = lanesOf p.writing →
    n = (s.treeOf p).nodes.length →
    (64 < n + ls.length → ls ≠ [] → exec (.ttadd d a) s = .next (s.raise p 0x3B (0 + ls.headD 0 * 4))) ∧
    (n + ls.length ≤ 64 → (∀ k l, ls[k]? = some l → s.regValue p a 1 l < 2 ^ 31 → s.regValue p a 1 l < n + k) →
      ∃ (T : State) (h : Gang), exec (.ttadd d a) s = .next T ∧ T.gangAt p.core p.slot = some h ∧ h = { p.moved s with pend := h.pend } ∧
        (T.coreAt p.core).trees = (s.coreAt p.core).trees.modify (p.g.tsel.toNat % 4)
          (fun _ => (ls.map fun l => s.regValue p a 1 l).foldl Tree.addNode (s.treeOf p)) ∧
        (kindOf d = .v → p.helping = 0 → ls ≠ [] → ∃ x : Pend, h.pend = p.g.pend ++ [x] ∧
          x.body = .value (ls.zipIdx.map fun y => ⟨.v d.toNat y.1, word (n + y.2)⟩)))) ∧
  (∀ (s : State) (p : Party) (score : Bool) (d a : Reg) (i : Instr) (t : Tree), i = (if score then .ttssc d a else .ttstok d a) → Runs s p i →
    t = s.treeOf p →
    (∀ l ∈ lanesOf p.writing, fld (s.regValue p a 1 l) 7 6 = 0 ∧ fld (s.regValue p a 1 l) 31 10 = 0 ∧ s.regValue p a 1 l % 64 < t.nodes.length) →
    ∃ (T : State) (nodes : List Node), exec i s = .next T ∧ T.gangAt p.core p.slot = some (p.moved s) ∧
      (T.coreAt p.core).trees = (s.coreAt p.core).trees.modify (p.g.tsel.toNat % 4) (fun _ => { t with nodes := nodes }) ∧
      nodes.length = t.nodes.length ∧
      ∀ (k : Nat) (n : Node), t.nodes[k]? = some n →
        ((∀ l ∈ lanesOf p.writing, s.regValue p a 1 l % 64 ≠ k) → nodes[k]? = some n) ∧
        (∀ (l : Nat) (before after : List Nat), lanesOf p.writing = before ++ l :: after → s.regValue p a 1 l % 64 = k →
          (∀ y ∈ after, s.regValue p a 1 y % 64 ≠ k) → ∃ m, nodes[k]? = some m ∧
            m = (if score then { n with score := word (s.regValue p d 1 l), state := m.state }
              else { n with token := word (s.regValue p d 1 l), state := m.state }) ∧
            m.state = (match fld (s.regValue p a 1 l) 9 8 with | 0 => n.state | 1 => 1 | 2 => 2 | _ => 0))) ∧
  (∀ (s : State) (p : Party) (d a : Reg) (t : Tree) (path : List Nat), Runs s p (.ttprune d a) → p.once = true → t = s.treeOf p →
    s.uniform p a 1 < t.nodes.length → path = (t.path 64 (s.uniform p a 1)).reverse →
    ∃ (T : State) (h : Gang) (nodes : List Node), exec (.ttprune d a) s = .next T ∧ T.gangAt p.core p.slot = some h ∧
      h = { p.moved s with pend := h.pend } ∧
      (T.coreAt p.core).trees = (s.coreAt p.core).trees.modify (p.g.tsel.toNat % 4) (fun _ => { t with nodes := nodes }) ∧
      nodes.length = path.length ∧
      ∀ (k old : Nat) (n : Node), path[k]? = some old → t.nodes[old]? = some n →
        nodes[k]? = some { n with parent := k - 1, mask := BitVec.ofNat 64 (2 ^ (k + 1) - 1) })

/-! ### Bells -/

/-- A gang whose mark has closed (R38). -/
def Gang.unmarked (g : Gang) : Gang := { g with mark := none, settled := none, eccOnce := false }

/-- R404, R405, R406, R410, R451: RING checks its target, closes the mark, holds D as outstanding and sends the ring, behind the releases of its gang
that are not complete; its sender class is 0 for the party's own domain, 1 for another of this package, and 2, with the tenant tag as its
sender, for another package that a route reaches; with no route to it D receives 3 and BRTOTAL counts. Over a link that is ready a write to BAR 2
of 4 bytes at an offset with [5:0] zero sends a ring of class 3, and any other counts in BRTOTAL alone (R427: else nothing comes). -/
def Claim.RingsAreSent : Prop :=
  (∀ (s : State) (p : Party) (d a b : Reg) (target : Nat), Runs s p (.ring d a b) → p.once = true → target = s.uniform p a 2 →
    (sheetOf target ≠ 0xFFE ∨ fld target 17 0 ≠ 0 → exec (.ring d a b) s = .next (s.raise p 0x47 0)) ∧
    (sheetOf target = 0xFFE → fld target 17 0 = 0 → ∀ (dev : Nat) (r : Ring), dev = fld target 51 32 →
      (dev = s.pr.devnum.toNat ∨ Kv.get? s.pr.routes dev ≠ none) →
      r = ⟨if dev ≠ s.pr.devnum.toNat then 2 else if fld target 31 24 = (s.coreAt p.core).domain then 0 else 1,
        if dev ≠ s.pr.devnum.toNat then s.tagOf p.g else (s.coreAt p.core).domain, dev, fld target 31 24, fld target 23 18,
        word (s.uniform p b 1), some (p.core, p.slot, s.fresh), s.fresh⟩ →
      ∃ (t : State) (h : Gang), exec (.ring d a b) s = .next t ∧ t.gangAt p.core p.slot = some h ∧
        h = { Gang.unmarked (p.moved s) with pend := p.g.pend ++ [⟨s.fresh, p.lead, resultCodes d 1, p.g.super, .bell⟩] } ∧
        ((s.coreAt p.core).relsOf p.slot p.g.blk = [] → OnlyGang s t p h ∧ ∃ clock, s.now < clock ∧ t.agenda = s.agenda ++ [(clock, .bellRingArrival r)]) ∧
        ((s.coreAt p.core).relsOf p.slot p.g.blk ≠ [] → (t.coreAt p.core).heldOps = (s.coreAt p.core).heldOps ++
          [⟨p.slot, p.g.blk, ((s.coreAt p.core).relsOf p.slot p.g.blk).map (·.id), .bellRingArrival r⟩])) ∧
    (sheetOf target = 0xFFE → fld target 17 0 = 0 → ∀ dev : Nat, dev = fld target 51 32 → dev ≠ s.pr.devnum.toNat → Kv.get? s.pr.routes dev = none →
      ∃ (t : State) (h : Gang), exec (.ring d a b) s = .next t ∧ t.gangAt p.core p.slot = some h ∧
        h = { Gang.unmarked (p.moved s) with
          pend := p.g.pend ++ [⟨s.fresh, p.lead, resultCodes d 1, p.g.super, .value ((resultCodes d 1).map fun k => ⟨.s (k - 0x60), 3⟩)⟩] } ∧
        t.pr.brtotal = if s.pr.brtotal = 0xFFFFFFFF then s.pr.brtotal else s.pr.brtotal + 1)) ∧
  (∀ (s : State) (function offset size : Nat) (v : Word), s.hostReady = false → exec (.hostBellWrite function offset size v) s = .next s) ∧
  (∀ (s : State) (function offset size : Nat) (v : Word), s.hostReady = true →
    (size = 4 → offset % 64 = 0 → offset < 2 ^ 20 →
      ∃ (t : State) (clock : Nat), exec (.hostBellWrite function offset size v) s = .next t ∧ s.now < clock ∧ t = { s with
        agenda := s.agenda ++ [(clock, .bellRingArrival ⟨3, function, s.pr.devnum.toNat, fld offset 19 12, fld offset 11 6, v, none, s.fresh⟩)]
        fresh := t.fresh }) ∧
    (size ≠ 4 ∨ offset % 64 ≠ 0 ∨ 2 ^ 20 ≤ offset →
      exec (.hostBellWrite function offset size v) s =
        .next { s with pr := { s.pr with brtotal := if s.pr.brtotal = 0xFFFFFFFF then s.pr.brtotal else s.pr.brtotal + 1 } }))

/-- R404, R406, R408, R410: an accepted ring sets its line's pending bit, counts, and combines its value by the line's mode; a wake line without a
resident handler gang is marked and, with no wake queue, its record is held; a refused ring changes no line and counts in BRTOTAL and, where
the domain has a board, on it; RING's D receives the status. The status is 3 for another device or a domain without a board, 0 for the
domain's own kernels and device agents, 1 where no entry of the rights table is valid. A held wake record goes to the queue once it has
room, with its line as it then stands. -/
def Claim.RingsAreApplied : Prop :=
  (∀ (s : State) (r : Ring) (bo : Board) (l : BellLine), ringBefore s r = false → (r.cls = 2 → r.back = none) → bo = s.boardAt r.domain →
    l = bo.line r.line →
    (s.ringStatus r = 0 → ∃ (T : State) (x : Board) (y : BellLine), exec (.bellRingArrival r) s = .next T ∧ x = T.boardAt r.domain ∧
      y = x.line r.line ∧ x = { bo with pend := bo.pend ||| (1#64 <<< r.line), lines := x.lines } ∧ (∀ n, n ≠ r.line → x.line n = bo.line n) ∧
      y = { l with count := if l.count = 0xFFFF then l.count else l.count + 1
                   payload := if l.mode = 0 then l.payload ||| r.value else if l.mode = 1 then l.payload + r.value else r.value
                   out := y.out } ∧
      (l.wake = false ∨ l.out = true ∨ s.handlerOf r.domain ≠ none → y.out = l.out ∧ T.wakeHeld = s.wakeHeld) ∧
      (l.wake = true → l.out = false → s.handlerOf r.domain = none → y.out = true ∧
        (s.pr.wakeq = 0 → (∀ x ∈ s.wakeHeld, x.head? ≠ some (word (r.domain + r.line * 2 ^ 8))) → T.wakeHeld = s.wakeHeld ++ [[word (r.domain + r.line * 2 ^ 8), y.payload, y.count.zeroExtend 32, word (s.now % 2 ^ 32),
          word (s.now / 2 ^ 32 % 2 ^ 32), 0, 0, 0]]))) ∧
    (s.ringStatus r ≠ 0 → ∃ T : State, exec (.bellRingArrival r) s = .next T ∧
      T.boardAt r.domain = { bo with refused := if s.ringStatus r = 3 ∨ bo.refused = 0xFFFFFFFF then bo.refused else bo.refused + 1 } ∧
      T.pr.brtotal = if s.pr.brtotal = 0xFFFFFFFF then s.pr.brtotal else s.pr.brtotal + 1) ∧
    (∀ (core slot id : Nat) (d : Pend), r.back = some (core, slot, id) → s.pendAt core slot id = some d →
      ∃ T : State, exec (.bellRingArrival r) s = .next T ∧
        T.pendAt core slot id = some { d with body := .value (d.regs.map fun k => ⟨.s (k - 0x60), word (s.ringStatus r)⟩) })) ∧
  (∀ (s : State) (r : Ring),
    (r.device ≠ s.pr.devnum.toNat ∨ s.hasBoard r.domain = false → s.ringStatus r = 3) ∧
    (r.device = s.pr.devnum.toNat → s.hasBoard r.domain = true → r.cls = 0 → s.ringStatus r = 0) ∧
    (r.device = s.pr.devnum.toNat → s.hasBoard r.domain = true → r.cls ≠ 0 → (∀ e ∈ s.rights, e.2.lo.getLsbD 0 = false) → s.ringStatus r = 1)) ∧
  (∀ (s t : State) (w : List Word) (k n : Nat), s.pr.wakeq ≠ 0 → s.wakeHeld = [w] → k = fld (w.getD 0 0).toNat 7 0 → n = fld (w.getD 0 0).toNat 13 8 →
    s.appendRing s.pr.wakeq 32 (wordBytes (wakeRecord k n ((s.boardAt k).line n) s.now)) = some t →
    ∃ T : State, exec .wakeQueueRoom s = .next T ∧ T.wakeHeld = [] ∧ T.dram = t.dram ∧ T.hostMem = t.hostMem)

/-- A BELL sub-op of the party has taken effect on the board of its domain, which is now `b`: the mark is closed, and `ws` is on its way as a
result of variable latency (R411). -/
def BellDone (s t : State) (p : Party) (k : Nat) (b : Board) (ws : List RegWrite) : Prop :=
  ∃ h : Gang, t.gangAt p.core p.slot = some h ∧ t.cores = (s.withGangOf p h).cores ∧ t.boardAt k = b ∧
    (∀ j, j ≠ k → t.boardAt j = s.boardAt j) ∧
    t = { s with cores := t.cores, boards := t.boards, agenda := t.agenda, fresh := t.fresh } ∧
    h = { Gang.unmarked (p.moved s) with
      pend := p.g.pend ++ if ws = [] then [] else [⟨s.fresh, p.lead, codesOf ws, p.g.super, .value ws⟩] } ∧
    (ws ≠ [] → ∃ clock, s.now < clock ∧ (clock, Instr.variableReturnLanding p.core p.slot s.fresh) ∈ t.agenda)

/-- R411: BMASK exchanges MASK; BPEND reads PEND; BTAKE reads a line with its pending bit and clears it; BHPC sets the handler PC; BSELF makes the
gang the handler gang in place of another, resident or saved, or leaves the role where it has it; values out of range trap BELLARG with causes 1, 2 and 3. Without a writing lane each only goes on,
and it waits for the rings its gang has sent before. -/
def Claim.BellSubopsActOnTheBoard : Prop :=
  ∀ (s : State) (p : Party) (d a : Reg) (k : Nat) (b : Board), k = (s.coreAt p.core).domain → b = s.boardAt k →
    (∀ i ∈ [Instr.bmask d a, .bpend d, .btake d a, .bhpc a, .bself a], Runs s p i →
      (p.once = false → exec i s = .next (s.withGangOf p (p.moved s))) ∧
      (p.once = true → (∃ x ∈ p.g.pend, x.body = .bell) → exec i s = .next (s.stall p))) ∧
    (p.once = true → (∀ x ∈ p.g.pend, x.body ≠ .bell) → (∃ x ∈ s.blocks, x.resident = true ∧ x.domain = k) →
    ((Runs s p (.bmask d a) → ∃ t, exec (.bmask d a) s = .next t ∧
      BellDone s t p k { b with mask := addr64 (s.uniform p a 2) } (p.uniformWrites d 2 b.mask.toNat)) ∧
    (Runs s p (.bpend d) → ∃ t, exec (.bpend d) s = .next t ∧ BellDone s t p k b (p.uniformWrites d 2 b.pend.toNat)) ∧
    (Runs s p (.btake d a) →
      (63 < s.uniform p a 1 → exec (.btake d a) s = .next (s.raise p 0x47 1)) ∧
      (∀ (n : Nat) (l : BellLine), n = s.uniform p a 1 → n ≤ 63 → l = b.line n → ∃ (t : State) (x : Board), exec (.btake d a) s = .next t ∧
        BellDone s t p k x (p.uniformWrites d 2 (l.payload.toNat + ((if b.pend.getLsbD n then 2 ^ 31 else 0) + l.count.toNat) * 2 ^ 32)) ∧
        x = { b with pend := x.pend, lines := x.lines } ∧ (∀ j, x.pend.getLsbD j = (b.pend.getLsbD j && decide (j ≠ n))) ∧
        x.line n = { l with payload := 0, count := 0, out := false } ∧ ∀ j, j ≠ n → x.line j = b.line j)) ∧
    (Runs s p (.bhpc a) →
      (s.uniform p a 2 % 4 ≠ 0 → exec (.bhpc a) s = .next (s.raise p 0x47 2)) ∧
      (s.uniform p a 2 % 4 = 0 → ∃ t, exec (.bhpc a) s = .next t ∧
        BellDone s t p k { b with hpc := if kindOf a = .z then 0 else addr64 (s.uniform p a 2 + 1) } [])) ∧
    (Runs s p (.bself a) →
      (1 < s.uniform p a 1 → exec (.bself a) s = .next (s.raise p 0x47 3)) ∧
      (s.uniform p a 1 = 1 → ∃ t, exec (.bself a) s = .next t ∧
        BellDone (s.noSavedHandler k) t p k { b with hgang := word (2 ^ 31 + p.core * 2 ^ 21 + p.slot), hres := true } []) ∧
      (s.uniform p a 1 = 0 → ∃ t, exec (.bself a) s = .next t ∧
        BellDone s t p k { b with hgang := if b.hgang = word (2 ^ 31 + p.core * 2 ^ 21 + p.slot) ∧ b.hres = true then 0 else b.hgang } []))))

/-- R407, R412, R413: a deliverable bell enters the resident handler gang, once its register writes have landed, with the gang's state saved and held
aside; BRET restores it all, and the next delivery waits for an issue; outside a bell handler it traps ILLEGAL with cause 7. WAITB parks its
party, which goes on when the gang is not the handler gang and a line is deliverable, or after a delivery. -/
def Claim.BellsAreDelivered : Prop :=
  (∀ (s : State) (core slot k : Nat) (g : Gang) (bl : Block), s.gangAt core slot = some g → s.blockAt g.blk = some bl → k = bl.domain →
    s.handlerOf k = some (core, slot) → (s.boardAt k).pend &&& (s.boardAt k).mask ≠ 0 → (s.boardAt k).hpc.getLsbD 0 = true → bellMay s core g = true →
    badPc ((s.boardAt k).hpc &&& ~~~ 3#64) = false →
    (g.quiet = false → exec (.bellDelivery core slot) s = .next (s.modGang core slot fun g => { g with bellWait := true })) ∧
    (g.quiet = true → ∃ (T : State) (h : Gang), exec (.bellDelivery core slot) s = .next T ∧ T.gangAt core slot = some h ∧
      h = { g with bs := ⟨g.boundaryPc.1, g.gmode, g.rep, g.routes⟩, bellHeld := some (g.quads.map markWaitb), bellLead := g.boundaryPc.2
                   rep := repOff g.rep, gmode := launchMode, routes := 0, bellWait := false
                   quads := handlerQuads g ((s.boardAt k).hpc &&& ~~~ 3#64) s.now, pend := h.pend })) ∧
  (∀ (s : State) (p : Party), Runs s p .bret →
    (p.g.bellHeld = none ∨ p.g.super = true → exec .bret s = .next (s.raise p 0x01 (7 + (opcode .bret).toNat * 2 ^ 25))) ∧
    (∀ held, p.g.bellHeld = some held → p.g.super = false → badPc p.g.bs.pc = false → ∃ T : State, exec .bret s = .next T ∧
      T = { s.withGangOf p { p.g with
        rep := p.g.bs.rep, repLead := p.g.bellLead, gmode := p.g.bs.mode, routes := p.g.bs.route, bellHeld := none, bellOk := false
        quads := resumeQuads held p.g.bellLead p.g.bs.pc p.g.bs.rep s.now } with agenda := T.agenda })) ∧
  (∀ (s : State) (p : Party), Runs s p .waitb →
    exec .waitb s = .next ((s.withGangOf p (p.g.mapParty p.lead fun q => { q with park := .waitb false, last := some s.now })).at s.now
      (.waitbWake p.core p.slot p.lead))) ∧
  (∀ (s : State) (core slot lead k : Nat) (g : Gang) (bl : Block) (delivered : Bool), s.gangAt core slot = some g → s.blockAt g.blk = some bl →
    k = bl.domain → (g.quad lead).park = .waitb delivered → g.trap = none →
    ((s.coreAt core).halted = true → exec (.waitbWake core slot lead) s = .next s) ∧
    ((s.coreAt core).halted = false → delivered = true ∨ (s.handlerOf k ≠ some (core, slot) ∧ (s.boardAt k).pend &&& (s.boardAt k).mask ≠ 0) →
      exec (.waitbWake core slot lead) s = .next (s.modGang core slot fun g =>
        g.mapParty lead fun q => { q with park := .none, pc := succPc q.pc, wake := s.now + 1 })) ∧
    (delivered = false → s.handlerOf k = some (core, slot) ∨ (s.boardAt k).pend &&& (s.boardAt k).mask = 0 →
      exec (.waitbWake core slot lead) s = .next s))

/-! ### The key-value cache -/

/-- The function of the party's core. -/
def functionAt (s : State) (p : Party) : Func := s.funcAt (s.coreAt p.core).function

/-- A KV request of the party at the allocator's queue. -/
def kvRequest (s : State) (p : Party) (op : Nat) (d : Reg) (seq dv dv1 : Nat) : KvReq :=
  ⟨p.core, p.slot, p.g.blk, (s.coreAt p.core).function, s.fresh, p.lead, op, d, word seq, word dv, word dv1, false, []⟩

/-- Nothing differs but the party's gang, which is `h`, the allocator's queue, what the agenda holds and the numbering of free values. -/
structure OnlyKv (s t : State) (p : Party) (h : Gang) (q : List KvReq) : Prop where
  cores : t.cores = (s.withGangOf p h).cores
  kvq : t.kvq = s.kvq ++ q
  rest : t = { s with cores := t.cores, kvq := t.kvq, agenda := t.agenda, fresh := t.fresh }

/-- R395, R396, R398 to R401: every KV sub-op of a function without a valid configuration, or of a sequence beyond the function's count, traps KVARG
with cause 0; else KVX, KVAPP, KVTRIM and FORK hold their results as outstanding and send their request to the allocator; a stall-mode KVX holds
its party instead, until KVTMO; KVPARK holds its party, and without a current sequence traps KVARG with cause 1; SELECT and CLEAR set the current sequence; a field of KVSEQ that is not zero as
it must be traps KVARG with cause 2. -/
def Claim.KvSubopsReachTheAllocator : Prop :=
  ∀ (s : State) (p : Party) (d a : Reg), p.once = true →
    ((functionAt s p).kvValid = false → ∀ i ∈ [.kvx d a, .kvapp d a, .kvtrim d a, .kvpark a, .kvseq d a], Runs s p i →
      exec i s = .next (s.raise p 0x45 0)) ∧
    ((functionAt s p).kvValid = true →
      ((functionAt s p).scnt.toNat ≤ s.uniform p a 1 → ∀ i ∈ [.kvapp d a, .kvtrim d a, .kvseq d a], Runs s p i →
        exec i s = .next (s.raise p 0x45 0)) ∧
      (Runs s p (.kvx d a) → (functionAt s p).kvmode.getLsbD 0 = false →
        (∀ l ∈ lanesOf p.writing, s.regValue p a 2 l % 2 ^ 32 < (functionAt s p).scnt.toNat) →
        ∃ (t : State) (h : Gang), exec (.kvx d a) s = .next t ∧ OnlyKv s t p h [kvRequest s p 0 d 0 0 0] ∧
          h = { p.moved s with pend := p.g.pend ++ [⟨s.fresh, p.lead, resultCodes d 2 ++ [134], p.g.super, .kvx d false s.now
            ((lanesOf p.writing).map (fun l => (⟨l, s.regValue p a 2 l % 2 ^ 32 * 2 ^ 32 + s.regValue p a 2 l / 2 ^ 32, false, none, none⟩ : LoadLane)) ++
             (lanesOf p.helping).map fun l => ⟨l, 0, true, some [], none⟩)⟩] }) ∧
      (Runs s p (.kvx d a) → (functionAt s p).kvmode.getLsbD 0 = true →
        (∀ l ∈ lanesOf p.writing, s.regValue p a 2 l % 2 ^ 32 < (functionAt s p).scnt.toNat) →
        ∃ (t : State) (h : Gang), exec (.kvx d a) s = .next t ∧ OnlyKv s t p h [kvRequest s p 0 d 0 0 0] ∧
          h = { (p.g.mapParty p.lead fun q => { q with park := .hold true, last := some s.now }) with
            pend := p.g.pend ++ [⟨s.fresh, p.lead, [], p.g.super, .kvx d true s.now
            ((lanesOf p.writing).map (fun l => (⟨l, s.regValue p a 2 l % 2 ^ 32 * 2 ^ 32 + s.regValue p a 2 l / 2 ^ 32, false, none, none⟩ : LoadLane)) ++
             (lanesOf p.helping).map fun l => ⟨l, 0, true, some [], none⟩)⟩] } ∧
          (s.now + max 1 (fld (functionAt s p).kvmode.toNat 20 1) * 1024, .kvStallTimeout p.core p.slot s.fresh) ∈ t.agenda) ∧
      (s.uniform p a 1 < (functionAt s p).scnt.toNat →
        (∀ x ∈ ([(.kvapp d a, 1), (.kvtrim d a, 2)] : List (Instr × Nat)), Runs s p x.1 →
          ∃ (t : State) (h : Gang), exec x.1 s = .next t ∧ OnlyKv s t p h [kvRequest s p x.2 d (s.uniform p a 1) (s.uniform p d 1) 0] ∧
            h = { p.moved s with pend := p.g.pend ++ [⟨s.fresh, p.lead, resultCodes d 1, p.g.super, .kv⟩] }) ∧
        (∀ c k : Nat, Runs s p (.kvseq d a) → c = s.uniform p d 2 % 2 ^ 32 → k = s.uniform p d 2 / 2 ^ 32 →
          (c < 2 ^ 16 → exec (.kvseq d a) s = .next (s.withGangOf p { p.moved s with
            kv := { p.g.kv with curs := word (s.uniform p a 1), curh := word (2 ^ 31 + c), curt := word k } })) ∧
          (fld c 31 20 = 2 ^ 10 → fld c 19 0 < (functionAt s p).scnt.toNat →
            ∃ (t : State) (h : Gang), exec (.kvseq d a) s = .next t ∧ OnlyKv s t p h [kvRequest s p 4 d (s.uniform p a 1) (fld c 19 0) k] ∧
              h = { p.moved s with pend := p.g.pend ++ [⟨s.fresh, p.lead, resultCodes d 1, p.g.super, .kv⟩] }) ∧
          (c = 2 ^ 31 → exec (.kvseq d a) s = .next (s.withGangOf p { p.moved s with
            kv := { p.g.kv with curh := p.g.kv.curh &&& 0x7FFFFFFF#32 } })) ∧
          (fld c 31 30 = 1 → (functionAt s p).scnt.toNat ≤ fld c 19 0 → exec (.kvseq d a) s = .next (s.raise p 0x45 0)) ∧
          ((fld c 31 30 = 0 ∧ fld c 29 16 ≠ 0) ∨ (fld c 31 30 = 1 ∧ fld c 29 20 ≠ 0 ∧ fld c 19 0 < (functionAt s p).scnt.toNat) ∨ (fld c 31 30 = 2 ∧ fld c 29 0 ≠ 0) ∨ fld c 31 30 = 3 →
            exec (.kvseq d a) s = .next (s.raise p 0x45 2)))) ∧
      (Runs s p (.kvpark a) →
        (p.g.kv.curh.getLsbD 31 = false → exec (.kvpark a) s = .next (s.raise p 0x45 1)) ∧
        (p.g.kv.curh.getLsbD 31 = true → ∃ (t : State) (h : Gang), exec (.kvpark a) s = .next t ∧
          OnlyKv s t p h [kvRequest s p 3 0x7E 0 (s.uniform p a 1) 0] ∧
          h = p.g.mapParty p.lead fun q => { q with park := .hold true, last := some s.now })))

/-- R392, R396, R398 to R401, R416: what the allocator does with the only request of its queue. KVX: each lane gets its sequence's block address, or
is out of range. KVAPP: a target not above LENGTH gives LENGTH; one beyond the table KVRANGE with cause 1; a refused quota the QUOTA trap with
KVST, and D = LENGTH; else the function's count and the pool's free count move by the blocks taken, each with one reference, and D is the target.
KVTRIM: D is the smaller of target and LENGTH. KVPARK: its resume record waits for room. FORK: beyond the source's LENGTH or the
destination's table KVRANGE with cause 2, else D is the larger of LENGTH and the shared tokens. A malformed descriptor gives KVRANGE with
cause 3, a KVX lane of one the code 98. -/
def Obligations.KvAllocatorPerforms : Prop :=
  ∀ (s S : State) (r : KvReq) (f t : Nat) (d : KvDesc) (x : Pend), s.kvq = [r] → S = s.bump → f = r.function →
    d = S.kvDesc f r.seqIdx.toNat → t = r.dv.toNat → s.pendAt r.core r.slot r.pend = some x →
    ∃ T : State, exec .kvAllocatorRequest s = .next T ∧
      (r.op = 0 → ∀ (dst : Reg) (stall : Bool) (i : Nat) (lanes : List LoadLane), x.body = .kvx dst stall i lanes →
        T.kvq = [] ∧ ∃ lanes', T.pendAt r.core r.slot r.pend = some { x with body := .kvx dst stall i lanes' } ∧ lanes'.length = lanes.length ∧
          ∀ (k : Nat) (l l' : LoadLane) (e : Nat) (q : KvDesc), lanes[k]? = some l → lanes'[k]? = some l' →
            (l.done = true → l' = l) ∧
            (l.done = false → (S.kvDesc f (l.addr / 2 ^ 32)).bad = true → l'.refused = some 98) ∧
            (l.done = false → q = S.kvDesc f (l.addr / 2 ^ 32) → q.bad = false → e = S.kvEntry q (l.addr % 2 ^ 32 / 64) →
              (q.len ≤ l.addr % 2 ^ 32 ∨ e.testBit 34 = false → l' = { l with refused := some 99 }) ∧
              (l.addr % 2 ^ 32 < q.len → e.testBit 34 = true → l' = { l with addr :=
                (S.kvBlock f (fld e 33 32) (fld e 31 0) + l.addr % 2 ^ 32 % 64 * 2 ^ (10 + fld (S.poolAt (fld e 33 32)).reg.toNat 2 0)) % 2 ^ 64 }))) ∧
      (r.op = 1 ∨ r.op = 2 → d.bad = true →
        T.kvq = [] ∧ ∃ ws tr, T.pendAt r.core r.slot r.pend = some { x with body := .trap ws tr } ∧ tr.code = 0x46 ∧ tr.info = 3) ∧
      (r.op = 1 → d.bad = false →
        (t ≤ d.len → T.kvq = [] ∧ T.pendAt r.core r.slot r.pend = some { x with body := .value (destWrites r.d 1 0 d.len) }) ∧
        (d.len < t → d.tbln < (t + 63) / 64 →
          T.kvq = [] ∧ ∃ ws tr, T.pendAt r.core r.slot r.pend = some { x with body := .trap ws tr } ∧ tr.code = 0x46 ∧ tr.info = 1) ∧
        (∀ (m : Nat) (F : Func), d.len < t → (t + 63) / 64 ≤ d.tbln → m = (t + 63) / 64 - (d.len + 63) / 64 → F = S.funcAt f →
          (F.limit d.tier < F.used d.tier + m ∨ (S.poolAt d.tier).free.toNat < m →
            T.kvq = [] ∧ (∃ tr, T.pendAt r.core r.slot r.pend = some { x with body := .trap (destWrites r.d 1 0 d.len) tr } ∧ tr.code = 0x42 ∧
              fld tr.info.toNat 5 0 = 6) ∧
            ∀ g, T.gangAt r.core r.slot = some g → g.blk = r.blk → g.kv.st = if F.limit d.tier < F.used d.tier + m then 1 else 2) ∧
          (F.used d.tier + m ≤ F.limit d.tier → m ≤ (S.poolAt d.tier).free.toNat → r.started = false → r.changes = [] → d.tier < s.pools.length →
            (∀ n ∈ S.kvTop d.tier m, S.kvForeign f d.tier n = []) →
            T.kvq = [] ∧ T.pendAt r.core r.slot r.pend = some { x with body := .value (destWrites r.d 1 0 t) } ∧
            Sp.get (T.funcAt f).u d.tier = word (F.used d.tier + m) ∧ (T.poolAt d.tier).free = word ((S.poolAt d.tier).free.toNat - m) ∧
            ∀ n ∈ S.kvTop d.tier m, Kv.get? T.refs (d.tier * 2 ^ 32 + n) = some 1))) ∧
      (r.op = 2 → d.bad = false →
        T.kvq = [] ∧ T.pendAt r.core r.slot r.pend = some { x with body := .value (destWrites r.d 1 0 (min t d.len)) }) ∧
      (r.op = 3 → ∀ g, s.gangAt r.core r.slot = some g → T.kvq = [] ∧ T.kvWait = s.kvWait ++ [⟨f, [g.kv.curs, word (g.kv.curh.toNat % 2 ^ 16), g.kv.curt,
        r.dv, g.kv.rm, word (1 + f % 128 * 16), 0, 0], r.core, r.slot, r.blk, some r.lead⟩]) ∧
      (r.op = 4 → ∀ (src : KvDesc) (m : Nat), src = S.kvDesc f t → m = r.dv1.toNat / 64 → d.bad = false → src.bad = false →
        (src.len < r.dv1.toNat ∨ d.tbln < m →
          T.kvq = [] ∧ ∃ ws tr, T.pendAt r.core r.slot r.pend = some { x with body := .trap ws tr } ∧ tr.code = 0x46 ∧ tr.info = 2) ∧
        (r.dv1.toNat ≤ src.len → m ≤ d.tbln → (∀ i < m, (S.kvEntry d i).testBit 34 = false) →
          T.kvq = [] ∧ T.pendAt r.core r.slot r.pend = some { x with body := .value (destWrites r.d 1 0 (max d.len (64 * m))) }))

/-- R397, R400: a resume record that finds room in its function's ring is written with the gang's KVRM of that moment, and its KVPARK's party goes on;
without room it waits. A stall-mode KVX that still has a parked probe KVTMO after its issue is withdrawn and traps KVTIMEOUT with its lowest
parked lane. -/
def Claim.KvWaitsEnd : Prop :=
  (∀ (s S : State) (f core slot lead : Nat) (ws : List Word) (g : Gang) (r : List Byte), s.kvWait = [⟨f, ws, core, slot, g.blk, some lead⟩] →
    s.gangAt core slot = some g → S = { s with kvWait := [] } → r = wordBytes ((ws.set 4 g.kv.rm).map (·.toNat)) →
    (∀ t, S.appendRing (s.funcAt f).res 32 r = some t → exec (.resumeRingRoom f) s = .next (t.endHold core slot lead)) ∧
    (S.appendRing (s.funcAt f).res 32 r = none → exec (.resumeRingRoom f) s = .next (s.later (.resumeRingRoom f)))) ∧
  (∀ (s : State) (core slot id lead i l : Nat) (regs : List Nat) (sup : Bool) (d : Reg) (lanes : List LoadLane) (g : Gang) (parked : Nat → Prop),
    s.gangAt core slot = some g → s.pendAt core slot id = some ⟨id, lead, regs, sup, .kvx d true i lanes⟩ → g.trap = none →
    parked = (fun k => ∃ x ∈ lanes, x.done = false ∧ x.lane = k ∧ ∃ r ∈ (s.coreAt core).missBuf, (∃ c, r.req.asker = .core c (.pend slot id)) ∧
      r.req.va / 4096 = x.addr / 4096) →
    parked l → (∀ k, parked k → l ≤ k) →
    ∃ X : State, exec (.kvStallTimeout core slot id) s = .next (X.takeTrap core slot ⟨0x44, word l, (g.quad lead).pc, lead, none⟩) ∧
      X.gangAt core slot = some { g with pend := g.pend.filter (·.id != id) } ∧
      (X.coreAt core).missBuf = (s.coreAt core).missBuf.filter (fun r => !reqFor r.req (.pend slot id)) ∧ X = { s with cores := X.cores })

/-! ### SYS -/

/-- The gang of a SYS sub-op whose new value must reach every holder: its party waits, its mark closed (R331, R38). -/
def sysHeld (s : State) (p : Party) : Gang := Gang.unmarked (p.g.mapParty p.lead fun q => { q with park := .hold true, last := some s.now })

/-- A sub-op whose new entry is on its way to its holders: nothing else has changed yet, and its completion comes at an open later clock (R278,
R331). -/
def SysSent (s t : State) (p : Party) (e : TableEntry) : Prop :=
  t = { s.withGangOf p (sysHeld s p) with
    tables := s.tables ++ [⟨p.core, p.slot, p.g.blk, p.lead, true, e⟩], agenda := t.agenda, fresh := t.fresh } ∧
  ∃ clock, s.now < clock ∧ t.agenda = s.agenda ++ [(clock, .systemSubopComplete p.core p.slot p.lead)]

/-- R317, R331 to R333, R431: what each SYS sub-op but PREQ does with its sel and val, its SYSARG cases, and the SYSDENY of those that only the
physical function may issue. A SPLIT's share takes effect in the next share period. -/
def Claim.SysSubopsTakeEffect : Prop :=
  ∀ (s : State) (p : Party) (d a : Reg) (sel val k : Nat), p.once = true → sel = s.uniform p a 1 → val = s.uniform p d 1 →
    k = (s.coreAt p.core).domain →
    (Runs s p (.keyw d a) →
      (256 ≤ sel ∨ 4 ≤ val → exec (.keyw d a) s = .next (s.raise p 0x36 0)) ∧
      (sel < 256 → val < 4 → ∃ t, exec (.keyw d a) s = .next t ∧ SysSent s t p (.rights k sel val))) ∧
    (Runs s p (.wingr d a) →
      (4 ≤ sel ∨ val % 2 ^ 9 ≠ 0 → exec (.wingr d a) s = .next (s.raise p 0x36 6)) ∧
      (sel < 4 → val % 2 ^ 9 = 0 → val.testBit 31 = true → fld val 12 9 < fld val 16 13 → exec (.wingr d a) s = .next (s.raise p 0x36 (6 + 3 * 16))) ∧
      (sel < 4 → val % 2 ^ 9 = 0 → val.testBit 31 = false ∨ fld val 16 13 ≤ fld val 12 9 → ∃ t, exec (.wingr d a) s = .next t ∧
        SysSent s t p (.grant k sel (word val)))) ∧
    (∀ x ∈ ([(.waym d a, 1), (.klass d a, 2), (.split d a, 3), (.jrnl d a, 7)] : List (Instr × Nat)), Runs s p x.1 →
      (s.coreAt p.core).function ≠ 0 → exec x.1 s = .next (s.raise p 0x37 x.2)) ∧
    ((s.coreAt p.core).function = 0 →
      (Runs s p (.waym d a) →
        (16 ≤ sel ∨ 2 ^ 25 ≤ val → exec (.waym d a) s = .next (s.raise p 0x36 1)) ∧
        (sel < 16 → val < 2 ^ 25 → fld val 24 16 = 0 ∨ 256 < fld val 24 16 → exec (.waym d a) s = .next (s.raise p 0x36 (1 + 16))) ∧
        (sel < 16 → val < 2 ^ 25 → 1 ≤ fld val 24 16 → fld val 24 16 ≤ 256 → ∃ t, exec (.waym d a) s = .next t ∧
          SysSent s t p (.mask sel (BitVec.ofNat 16 val) (fld val 24 16 * 256)))) ∧
      (Runs s p (.klass d a) →
        (64 < sel ∧ sel < 128 → val < 16 → exec (.klass d a) s = .next (s.raise p 0x36 (2 + 16))) ∧
        (128 ≤ sel ∨ 16 ≤ val → exec (.klass d a) s = .next (s.raise p 0x36 2)) ∧
        (sel ≤ 64 → val < 16 → ∃ t, exec (.klass d a) s = .next t ∧ SysSent s t p (.ofFunction sel val))) ∧
      (∀ others, others = ((s.funcs.filter (·.1 != sel)).map fun f => f.2.nextShare).sum → Runs s p (.split d a) →
        (sel ≤ 64 → val ≤ 1024 → 1024 < others + val → exec (.split d a) s = .next (s.raise p 0x36 (3 + 2 * 16))) ∧
        (sel ≤ 64 → others + val ≤ 1024 → exec (.split d a) s = .next { s.withGangOf p (Gang.unmarked (p.moved s)) with
          funcs := Kv.put s.funcs sel { s.funcAt sel with shareNext := some val } })) ∧
      (Runs s p (.jrnl d a) → sel = 0 →
        ((s.pr.jrnltail - s.pr.jrnlack).toNat < (word val - s.pr.jrnlack).toNat → exec (.jrnl d a) s = .next (s.raise p 0x36 (7 + 16))) ∧
        ((word val - s.pr.jrnlack).toNat ≤ (s.pr.jrnltail - s.pr.jrnlack).toNat → exec (.jrnl d a) s =
          .next { s.withGangOf p (Gang.unmarked (p.moved s)) with pr := { s.pr with jrnlack := word val } }))) ∧
    (∀ target, target = fld sel 13 5 → Runs s p (.freeze d a) →
      ((s.coreAt p.core).function ≠ 0 → (s.coreAt target).domain ≠ k → exec (.freeze d a) s = .next (s.raise p 0x37 (5 + 8))) ∧
      ((s.coreAt p.core).function = 0 ∨ (s.coreAt target).domain = k → sel < 2 ^ 14 → val < 2 →
        ∃ t, exec (.freeze d a) s = .next t ∧ (t.coreAt target).frozen = decide (val = 1) ∧
          t.gangAt p.core p.slot = some (Gang.unmarked (p.moved s)) ∧ ∀ j, j ≠ target → j ≠ p.core → t.coreAt j = s.coreAt j))

/-- A domain's table is new, and so is that of every core that hosts the domain; no other domain's is (R332). -/
def DomainTable {α : Type} (s t : State) (k : Nat) (ofDomain : Domain → α) (ofCore : Core → α) (f : α → α) : Prop :=
  ofDomain (t.domainAt k) = f (ofDomain (s.domainAt k)) ∧ (∀ j, j ≠ k → t.domainAt j = s.domainAt j) ∧
  ∀ (j : Nat) (c : Core), Kv.get? s.cores j = some c → ofCore (t.coreAt j) = if c.domain = k then f (ofCore c) else ofCore c

/-- What holds once every holder has a new entry (R275, R331, R332). -/
def EntryHeld (s t : State) : TableEntry → Prop
  | .mask cls m lease => t.classes = s.classes.set cls ⟨m, lease⟩ ∧ t.classOf = s.classOf
  | .ofFunction fn cls => Kv.get? t.classOf fn = some cls ∧ (∀ g, g ≠ fn → Kv.get? t.classOf g = Kv.get? s.classOf g) ∧ t.classes = s.classes
  | .rights d key v => DomainTable s t d (·.keys) (·.keys) fun x => Sp.set x key (BitVec.ofNat 2 v)
  | .grant d n w => DomainTable s t d (·.grants) (·.grants) fun x => x.set n w

/-- R278, R331, R332: when a sub-op completes, every holder has its entry, and its party, if it still waits for it, goes on at its successor in the
next clock. -/
def Claim.SysSubopsComplete : Prop :=
  ∀ (s : State) (core slot lead : Nat),
    (s.tables.find? (TableChange.by core slot lead) = none → exec (.systemSubopComplete core slot lead) s = .next s) ∧
    (∀ c : TableChange, s.tables.find? (TableChange.by core slot lead) = some c →
      ∃ t : State, exec (.systemSubopComplete core slot lead) s = .next t ∧ t.tables = s.tables.eraseP (TableChange.by core slot lead) ∧
        EntryHeld s t c.entry ∧
        ∀ g : Gang, s.gangAt core slot = some g → ∃ h : Gang, t.gangAt core slot = some h ∧
          h.quads = if c.waits = true ∧ g.blk = c.blk then g.quads.map (fun q => q.release lead s.now) else g.quads)

/-- R349, R351 to R353: PREQ, whose word names no action, does what sel[2:0] says. HOLD pre-empts the resident blocks of a launch and holds it,
RELEASE ends that, KILL fails the launch and none of its blocks is left; SAVED keeps the gang's state with its block and the gang leaves its slot;
WAITSAVE waits until only the leader and no engine work is left; RESTORED lets the gangs in WAITREST go on, and those that have left their RESUME handler; these four leave the mark open (the
model's choice: log entry 103), the others close it. An action issued from outside its
handler or gang traps SYSDENY; action 7 and an unknown launch trap SYSARG with cause 1. -/
def Obligations.PreqActs : Prop :=
  ∀ (s : State) (p : Party) (d a : Reg) (i : Instr) (sel val : Nat),
    i ∈ [.preqHold d a, .preqSaved d a, .preqWaitsave d a, .preqRestored d a, .preqWaitrest d a, .preqKill d a, .preqRelease d a] →
    Runs s p (.preqHold d a) → p.once = true → sel = s.uniform p a 1 → val = s.uniform p d 1 →
    (sel = 7 → exec i s = .next (s.raise p 0x36 (4 + 16))) ∧
    (sel = 0 ∨ sel = 5 ∨ sel = 6 →
      (s.launches.find? (·.idx == val) = none → exec i s = .next (s.raise p 0x36 (4 + 16))) ∧
      (∀ l, s.launches.find? (·.idx == val) = some l →
        ((s.coreAt p.core).function ≠ 0 → l.domain ≠ (s.coreAt p.core).domain → exec i s = .next (s.raise p 0x37 4)) ∧
        ((s.coreAt p.core).function = 0 ∨ l.domain = (s.coreAt p.core).domain → ∃ t, exec i s = .next t ∧
          (sel = 0 → t.launches.find? (·.idx == val) = some { l with onHold := true } ∧
            ∀ (core slot : Nat) (g : Gang) (b : Block), s.gangAt core slot = some g → s.blockAt g.blk = some b → b.launch = val → b.resident = true →
              ∃ h, t.gangAt core slot = some h ∧ (h.pre.pending = true ∨ h.pre.saving ≠ 0)) ∧
          (sel = 6 → t = { s.withGangOf p (Gang.unmarked (p.moved s)) with launches := t.launches, agenda := s.agenda ++ [(s.now, .placementStep l.die)] } ∧
            t.launches.find? (·.idx == val) = some { l with onHold := false }) ∧
          (sel = 5 → (∀ b ∈ t.blocks, b.launch ≠ val) ∧ ∃ l', t.launches.find? (·.idx == val) = some l' ∧ l'.state = 4 ∧ (l.state ≠ 4 → l'.status = 5))))) ∧
    (sel = 1 →
      (p.g.inSave = false ∨ (p.g.pre.leader = true ∧ p.g.pre.waitsaved = false) → exec i s = .next (s.raise p 0x37 4)) ∧
      (∀ b, p.g.inSave = true → p.g.pre.leader = false ∨ p.g.pre.waitsaved = true → val = 0 → superCopies s p.core p.slot p.g.blk = false →
        s.blockOf p = some b → ∃ t, exec i s = .next t ∧ t.gangAt p.core p.slot = none ∧
          ∀ b', t.blockAt b.key = some b' → ∃ k, b'.saved = b.saved ++ [k] ∧ k.gang = { p.g.rerun with pre := { leader := p.g.pre.leader } } ∧
            k.ctx = addr64 (p.g.xr.ctxptr.toNat / 1024 * 1024))) ∧
    (sel = 2 →
      (p.g.inSave = false ∨ p.g.pre.leader = false → exec i s = .next (s.raise p 0x37 4)) ∧
      (p.g.inSave = true → p.g.pre.leader = true → val = 0 → exec i s =
        if (s.gangsOf p.g.blk).length = 1 ∧ s.blockWorks p.g.blk = false then
          .next (s.withGangOf p { p.moved s with pre := { p.g.pre with waitsaved := true } })
        else .next (s.stall p))) ∧
    (sel = 3 →
      (p.g.inRestore = false ∨ p.g.pre.leader = false → exec i s = .next (s.raise p 0x37 4)) ∧
      (p.g.inRestore = true → p.g.pre.leader = true → val = 0 → superCopies s p.core p.slot p.g.blk = false → ∃ t, exec i s = .next t ∧
        ∀ (core slot : Nat) (g : Gang), s.gangAt core slot = some g → g.blk = p.g.blk → (t.gangAt core slot).map (·.pre) =
          some (if g.super = true then { g.pre with restored := true } else { g.pre with restoring := false }))) ∧
    (sel = 4 →
      (p.g.inRestore = false ∨ p.g.pre.leader = true → exec i s = .next (s.raise p 0x37 4)) ∧
      (p.g.inRestore = true → p.g.pre.leader = false → val = 0 → exec i s =
        if p.g.pre.restored = true then .next (s.withGangOf p (p.moved s)) else .next (s.stall p)))

/-! ### Traps, handlers, strikes -/

/-- The gang `g` has entered the trap handler at `pc` for trap `t` (R101, R343); a PREEMPT is pending no more, and of several delayed traps the first is
held (R344). -/
def TrapEntered (s T : State) (core slot : Nat) (g : Gang) (t : Trap) (pc : Addr) : Prop :=
  ∃ h : Gang, T.gangAt core slot = some h ∧
    h = { g with
      xr := { g.xr with xpc := t.pc, xcode := t.code, xinfo := t.info, xrep := g.rep, xmode := g.gmode, xroute := g.routes, xva := h.xr.xva }
      rep := repOff g.rep, gmode := launchMode, routes := 0, held := some g.quads, heldLead := t.lead, super := true, trap := none, bellWait := false
      late := heldTraps g.late, pre := if t.code = 0x08 then { g.pre with pending := false, saving := 1 } else g.pre
      entrySeq := (s.coreAt core).leatSeq, quads := h.quads, pend := h.pend } ∧
    (t.xva = none → h.xr.xva = g.xr.xva) ∧ (∀ v, t.xva = some v → h.xr.xva = v) ∧
    ∀ q, (g.quad q).present = true ∧ (g.quad q).retired = false →
      (h.quad q).pc = pc ∧ (h.quad q).active = 0xF ∧ (h.quad q).stack = [] ∧ (h.quad q).park = .none

/-- R101, R343, R348: a trap that waits enters the handler at TRAPVEC once every register write of the gang has landed, and one of a gang that is
quiet enters at once, a PREEMPT behind a delayed trap (R347); without a valid TRAPVEC the block is killed with the trap's code, and in handler context with NESTED. A kill leaves no
block of its key, and its launch keeps the first kill. -/
def Claim.TrapsEnterTheHandler : Prop :=
  (∀ (s : State) (core slot : Nat) (g : Gang) (bl : Block) (v : Addr) (t : Trap), s.gangAt core slot = some g → s.blockAt g.blk = some bl →
    v = (s.domainAt bl.domain).trapvec → g.rolling = none → g.redo = false →
    (g.trap = some t → t.code = 0x08 → g.late ≠ [] → g.quiet = true → g.super = false → exec (.trapEntry core slot) s = exec (.delayedTrap core slot) s) ∧
    (g.trap = some t → (t.code = 0x08 → g.late = []) →
      (g.quiet = false → exec (.trapEntry core slot) s = .next s) ∧
      (g.quiet = true → g.super = true → exec (.trapEntry core slot) s = .next (s.killBlock g.blk 4 0x2D t.info.toNat)) ∧
      (g.quiet = true → g.super = false → v.getLsbD 0 = false → exec (.trapEntry core slot) s = .next (s.killBlock g.blk 4 t.code.toNat t.info.toNat)) ∧
      (g.quiet = true → g.super = false → v.getLsbD 0 = true → badPc (v &&& ~~~ 3#64) = false →
        ∃ T : State, exec (.trapEntry core slot) s = .next T ∧ TrapEntered s T core slot g t (v &&& ~~~ 3#64))) ∧
    (g.super = true → s.takeTrap core slot t = s.killBlock g.blk 4 0x2D t.info.toNat) ∧
    (g.super = false → g.quiet = false → s.takeTrap core slot t = s.modGang core slot fun g => { g with trap := some t }) ∧
    (g.super = false → g.quiet = true → v.getLsbD 0 = true → badPc (v &&& ~~~ 3#64) = false →
      TrapEntered s (s.takeTrap core slot t) core slot g t (v &&& ~~~ 3#64))) ∧
  (∀ (s : State) (key code info : Nat) (b : Block) (l : Launch), s.blockAt key = some b → s.launches.find? (·.idx == b.launch) = some l →
    (∀ x ∈ (s.killBlock key 4 code info).blocks, x.key ≠ key) ∧
    ∃ l', (s.killBlock key 4 code info).launches.find? (·.idx == b.launch) = some l' ∧
      (l.state = 4 → l'.xcode = l.xcode ∧ l'.xinfo = l.xinfo ∧ l'.badBlock = l.badBlock ∧ l'.status = l.status) ∧
      (l.state ≠ 4 → l'.state = 4 ∧ l'.status = 4 ∧ l'.xcode = word code ∧ l'.xinfo = word info ∧ l'.badBlock = word b.bid))

/-- R51, R173, R345, R346: ERET waits for the copies that the gang issued in supervisor mode; it then restores REP state, mode and routes from the trap
registers, every quad's held state, and user mode, with the trapping party at XPC or at the target of its REP prefix, and every
party's pace counts from now. A gang that was not saved is no saving gang any more, and one restored before RESTORED still waits for it (R355).
After a restoration the mark counts as set now, and covers the entries of the new core from now on (the
model's choice: log entry 97). -/
def Claim.EretLeavesTheHandler : Prop :=
  ∀ (s : State) (p : Party), Runs s p .eret →
    (superCopies s p.core p.slot p.g.blk = true → exec .eret s = .next (s.stall p)) ∧
    (∀ held, superCopies s p.core p.slot p.g.blk = false → p.g.held = some held → badPc p.g.xr.xpc = false →
      ∃ (T : State) (h : Gang), exec .eret s = .next T ∧ T = { s.withGangOf p h with agenda := T.agenda } ∧
        h = { p.g with
          rep := p.g.xr.xrep, repLead := p.g.heldLead, gmode := p.g.xr.xmode, routes := p.g.xr.xroute, held := none, super := false
          quads := h.quads
          mark := if p.g.pre.restoring = true then p.g.mark.map fun m => { m with setAt := s.now, seq := (s.coreAt p.core).leatSeq } else p.g.mark
          settled := if p.g.pre.restoring = true ∧ p.g.mark ≠ none then none else p.g.settled
          pre := { p.g.pre with restoring := p.g.pre.restoring && !p.g.pre.restored, restored := false, saving := 0, waitsaved := false } } ∧
        h.quads.length = held.length ∧
        (∀ (q : Nat) (x : Quad), held[q]? = some x → ∃ y, h.quads[q]? = some y ∧ y.active = x.active ∧ y.helper = x.helper ∧ y.stack = x.stack ∧
          y.party = x.party ∧ y.retired = x.retired ∧ y.last = some s.now ∧
          (x.present = true → x.retired = false → x.party.toNat = p.g.heldLead →
            y.pc = if p.g.xr.xrep.getLsbD 31 = true then succPc p.g.xr.xpc else p.g.xr.xpc) ∧
          (x.party.toNat ≠ p.g.heldLead → y.pc = x.pc ∧ (x.park ≠ .hold true → y.park = x.park))) ∧
        (p.g.pre.restoring = true → p.g.mark ≠ none → (s.now + 96, .markSettle p.core p.slot s.now) ∈ T.agenda) ∧
        (p.g.late ≠ [] → (s.now, .delayedTrap p.core p.slot) ∈ T.agenda))

/-- R150, R185, R344, R350: a pending pre-emption is taken at a user boundary, with the PC of the lowest unretired quad's party, unless an
operation that must complete still runs, and behind a delayed trap (R347), not before RESTORED where the gang is restored (R355); a delayed trap is
taken at the boundary, before a PREEMPT that waits there, is held in handler context, and kills with NESTED when the
handler caused it; the turn-end bit ends a quarter's turn. -/
def Claim.BoundaryTraps : Prop :=
  (∀ (s : State) (core slot : Nat) (g : Gang), s.gangAt core slot = some g → g.rolling = none → g.redo = false →
    (g.pre.pending = false ∨ g.super = true ∨ g.awaitsRestore = true ∨ g.trap.isSome = true ∨ g.late ≠ [] → exec (.preemptTrap core slot) s = .next s) ∧
    (g.pre.pending = true → g.super = false → g.awaitsRestore = false → g.trap = none → g.late = [] →
      (g.busyHold = true → exec (.preemptTrap core slot) s = .next (s.at (s.now + 1) (.preemptTrap core slot))) ∧
      (g.busyHold = false → exec (.preemptTrap core slot) s = .next
        (s.takeTrap core slot ⟨0x08, 0, g.boundaryPc.1, g.boundaryPc.2, none⟩))) ∧
    (∀ (t : Trap) (bySuper : Bool) (rest : List (Trap × Bool)), g.late = (t, bySuper) :: rest →
      ∀ i ∈ [Instr.refusalTrap core slot, .delayedTrap core slot],
        (g.super = true → exec i s = .next (if bySuper = true then s.killBlock g.blk 4 0x2D t.info.toNat else s)) ∧
        (g.super = false → (g.awaitsRestore = true ∨ ∃ x, g.trap = some x ∧ x.code ≠ 0x08) → exec i s = .next s) ∧
        (g.super = false → g.awaitsRestore = false → (∀ x, g.trap = some x → x.code = 0x08) →
          exec i s = .next ((s.modGang core slot fun g => { g with late := rest, trap := none }).takeTrap core slot
            { t with pc := g.boundaryPc.1, lead := g.boundaryPc.2 })))) ∧
  (∀ (s : State) (core quarter : Nat), (s.coreAt core).sched.length = 4 → ∃ t : State, exec (.schedulerTurnEnd core quarter) s = .next t ∧
    ((t.coreAt core).sched.getD (quarter % 4) {}).ended = true ∧
    (∀ q, q ≠ quarter % 4 → (t.coreAt core).sched.getD q {} = (s.coreAt core).sched.getD q {}) ∧ t = s.modCore core fun c => { c with sched := (t.coreAt core).sched })

/-- The gang `g` has been rolled back to the mark `m` (R39, R379): the snapshot, one party at MARKPC, REP disarmed, user mode; its other registers
stand, and no load of it is outstanding. -/
def RolledBack (T : State) (core slot : Nat) (g : Gang) (m : Mark) : Prop :=
  ∃ h : Gang, T.gangAt core slot = some h ∧ h.gmode = m.gmode ∧ h.routes = m.routes ∧ h.rep = repOff g.rep ∧ h.markpc = m.pc ∧ h.recipe = m.recipe ∧
    h.mark = some m ∧ h.super = false ∧ h.held = none ∧ h.bellHeld = none ∧ h.rolling = none ∧ h.vregs = g.vregs ∧ h.preds = g.preds ∧
    h.sregs = g.sregs ∧ h.rngs = g.rngs ∧ h.lit = g.lit ∧ (∀ d ∈ h.pend, d.isLoad = false) ∧ h.quads.length = m.quads.length ∧
    ∀ (q : Nat) (x : Quad), m.quads[q]? = some x → ∃ y, h.quads[q]? = some y ∧ y.pc = m.pc ∧ y.active = x.active ∧ y.helper = x.helper ∧
      y.stack = x.stack ∧ y.retired = x.retired ∧ y.park = .none

/-- R39, R172 to R175: a strike report rolls a struck gang, with its copies and MMAs landed, back to its settled mark, and kills a block that has a gang
without one; an uncorrectable error rolls back to the newest mark, and kills without a mark or at the second one before the mark closes. An
error of DRAM (store 4, the model's number: log entry 127) poisons the line of its address where it is stored (R380). -/
def Claim.RollbacksRestoreTheMark : Prop :=
  ∀ (s : State) (core slot quarter store offset : Nat) (g : Gang) (b : Block), (s.coreAt core).gangs = [(slot, g)] → quarterOf slot = quarter % 4 →
    s.gangsOf g.blk = [(core, slot, g)] → s.blockAt g.blk = some b → g.inSave = false → g.inRestore = false →
    (∀ pg, s.pageOf offset = some pg → pg.tier ≠ 2 →
      ∃ T : State, exec (.eccUncorrectable core slot 4 offset) s = .next T ∧ pg.poisonKey offset ∈ T.poison) ∧
    (∃ T : State, exec (.strikeReport core quarter) s = .next T ∧
      (g.settled = none → ∀ x ∈ T.blocks, x.key ≠ g.blk) ∧
      (∀ m, g.settled = some m → s.landed core slot g.blk = true → RolledBack T core slot g m ∧ T.blocks.map (·.key) = s.blocks.map (·.key))) ∧
    (store ≠ 4 → ∃ T : State, exec (.eccUncorrectable core slot store offset) s = .next T ∧
      (g.eccOnce = true ∨ g.mark = none → ∀ x ∈ T.blocks, x.key ≠ g.blk) ∧
      (∀ m, g.eccOnce = false → g.mark = some m → s.landed core slot g.blk = true → RolledBack T core slot g m ∧
        (T.gangAt core slot).map (·.eccOnce) = some true))

/-! ### The distributors -/

/-- R336 to R338, R428, R430: a bell, and a poll, of a ready die reads a queue that holds one record while a journal slot is free: the launch takes the
next journal index with a copy of its record (and of the cluster owners, the tag and the slice length, log entry 107), the head follows the tail, and a bad record is
failed with FORMAT at once; a good one is accepted, or failed with NOFIT or DEPFAULT. -/
def Claim.QueuesAreRead : Prop :=
  ∀ (s : State) (die : Nat) (q : Queue) (i : Instr), i ∈ [.distributorBell die q.function, .distributorPoll die] → s.queues = [q] → q.die = die →
    s.pr.ready.getLsbD die = true → s.dev32 q.base = (q.head + 1) % 2 ^ 32 → q.head < 2 ^ 32 → s.jrnlRoom = true → s.liveLaunches die < 1024 →
    (∀ l ∈ s.launches, l.idx ≠ s.pr.jrnltail.toNat) →
    ∃ (T : State) (l : Launch), exec i s = .next T ∧ T.queues = [{ q with head := (q.head + 1) % 2 ^ 32 }] ∧
      T.pr.jrnltail = s.pr.jrnltail + 1 ∧ l ∈ T.launches ∧ l.idx = s.pr.jrnltail.toNat ∧ l.function = q.function ∧ l.queue = q.queue ∧ l.die = die ∧
      l.domain = q.domain ∧ l.nextBlock = 0 ∧ l.blocksDone = 0 ∧
      l.record = (List.range 32).map (fun k => word (s.dev32 (q.base + 128 + 128 * (q.head % 2 ^ q.log) + 4 * k))) ∧
      l.owners = s.pr.clusterOwner ∧ l.tag = (s.domainAt q.domain).tag ∧
      l.slice = (s.funcAt q.function).sliceLen ∧
      (badRecord l = true → l.state = 4 ∧ l.status = 1 ∧ l.closing = true) ∧ (badRecord l = false → l.state = 1 ∨ l.state = 4 ∧ l.status ∈ [2, 3])

/-- R339: the test of the only launch of a die: without counter waits its waits hold; a wait on an address that no device homes fails it with
DEPFAULT; a wait that its home accepts holds once the counter has reached its value, and the wait is tested again on every later test. -/
def Claim.DependencesAreTested : Prop :=
  ∀ (s : State) (l : Launch), s.launches = [l] → l.state = 1 → l.waitsHold = false → ∃ T : State, exec (.dependenceTest l.die) s = .next T ∧
    ((l.w 0).testBit 8 = false → (l.w 0).testBit 9 = false → T.launches = [{ l with waitsHold := true }]) ∧
    (∀ va, va = l.w 8 + l.w 9 * 2 ^ 32 → (l.w 0).testBit 8 = true → (l.w 0).testBit 9 = false →
      (s.deviceOf va = none → T.launches = [{ l with state := 4, status := 3, changed := s.now }]) ∧
      (s.homedHere va = true → (s.deviceOf va).isSome = true → s.homeCheck 5 va false false none false = 0 →
        T.launches = [{ l with waitsHold := decide (l.w 10 + l.w 11 * 2 ^ 32 ≤ s.dev64 va) }]))

/-- What a gang is at the start of a block (R14, R79, R341); the generators of its absent lanes are seeded too, which is the model's choice (log entry
118). -/
def GangStarts (l : Launch) (key bid number base now : Nat) (g : Gang) : Prop :=
  g.launch = l.idx ∧ g.blk = key ∧ g.number = number ∧ g.allot = 8 * fld (l.w 1) 3 0 ∧ g.regKiB = base ∧ g.vregs = [] ∧ g.preds = [] ∧ g.lit = 0 ∧
  g.gmode = 0x1C#15 ∧ g.routes = 0 ∧ g.rep = 0 ∧ g.mark = none ∧ g.super = false ∧ g.held = none ∧ g.yarr = 0 ∧ g.role = 0 ∧
  (∀ k, Sp.get g.sregs k = if k < 8 then word (l.w (20 + k)) else 0) ∧
  (∀ (lane : Nat) (v : Word), lane < 32 → v = word (l.w 6) ^^^ word ((2048 * bid + 32 * number + lane) * 0x9E3779B9) →
    Sp.get g.rngs lane = if v = 0 then 1 else v) ∧
  (∀ q, q < 8 → ((g.quad q).present = decide (4 * q < fld (l.w 1) 21 16)) ∧
    (4 * q < fld (l.w 1) 21 16 → (g.quad q).pc = addr64 (l.w 4 + l.w 5 * 2 ^ 32 + 4) ∧ (g.quad q).party = 0 ∧ (g.quad q).retired = false ∧
      (g.quad q).stack = [] ∧ (g.quad q).wake = now + 1 ∧
      ∀ j, j < 4 → (g.quad q).active.getLsbD j = decide (4 * q + j < fld (l.w 1) 21 16) ∧
        (g.quad q).helper.getLsbD j = decide (fld (l.w 1) 21 16 ≤ 4 * q + j)))

/-- R14, R79, R297, R340, R341, R355: a placement step of a ready die, at least 16 clocks after the last, places the next block or span of the launch
of the only waiting launch where a candidate exists, and begins its wait of 2,048 clocks where none does, while none of its clusters is lent; a
single-core block starts its gangs as the launch says; BLOCK_RESTORE, under the same 16 clocks, restores the pre-empted block at the head of a
launch's resume order, killing with CTXBAD on a bad record and with RESUME without a valid RESTVEC. -/
def Claim.BlocksArePlaced : Prop :=
  (∀ (s : State) (die : Nat) (l : Launch), s.heads die = [l] →
    (s.pr.ready.getLsbD die = false → exec (.placementStep die) s = .next s) ∧
    (∀ t0, s.pr.ready.getLsbD die = true → (s.dist.getD die {}).lastStep = some t0 → s.now < t0 + 16 →
      exec (.placementStep die) s = .next (s.at (t0 + 16) (.placementStep die))) ∧
    (s.pr.ready.getLsbD die = true → (∀ t0, (s.dist.getD die {}).lastStep = some t0 → t0 + 16 ≤ s.now) → s.lentClusters l = [] →
      (∀ t, s.tryPlace [] l (s.clustersFor l) = some t → exec (.placementStep die) s = .next ((t.placed l).at (s.now + 16) (.placementStep die))) ∧
      (s.tryPlace [] l (s.clustersFor l) = none → l.waitSince = none →
        ∃ T : State, exec (.placementStep die) s = .next T ∧ T = { s with
          launches := replaceFirst (fun x => x.idx == l.idx) (fun x => { x with waitSince := some s.now }) s.launches
          agenda := s.agenda ++ [(s.now + 2048, .preemptionRequest l.die l.idx)] }))) ∧
  (∀ (s : State) (l : Launch) (bid core slot number base : Nat) (p : PartPlan), p.core = core → p.gangs = [(number, slot, base)] →
    (∀ b ∈ s.blocks, b.key ≠ l.idx * 2 ^ 32 + bid) →
    ∃ (b : Block) (g : Gang), (s.placeNew l bid [p]).blockAt (l.idx * 2 ^ 32 + bid) = some b ∧ (s.placeNew l bid [p]).gangAt core slot = some g ∧
      b.bid = bid ∧ b.core = core ∧ b.domain = l.domain ∧ b.ngates = fld (l.w 1) 30 22 ∧ b.shared = [] ∧ b.scr = [] ∧ b.resident = true ∧
      GangStarts l (l.idx * 2 ^ 32 + bid) bid number base s.now g) ∧
  (∀ (s : State) (blk : Nat) (l : Launch), s.launches.find? (fun l => l.ready && (l.resume.head?) == some blk) = some l →
    (∀ t0, (s.dist.getD l.die {}).lastStep = some t0 → s.now < t0 + 16 → exec (.blockRestore blk) s = .next s) ∧
    ((∀ t0, (s.dist.getD l.die {}).lastStep = some t0 → t0 + 16 ≤ s.now) →
      (∀ t, s.tryPlace [] l (s.clustersFor l) = some t → exec (.blockRestore blk) s = .next (t.placed l)) ∧
      (s.tryPlace [] l (s.clustersFor l) = none → exec (.blockRestore blk) s = .next s))) ∧
  (∀ (s : State) (l : Launch) (b : Block) (p : PartPlan) (k : Saved) (core slot base : Nat) (v : Addr), p.core = core → b.saved = [k] →
    p.gangs = [(k.gang.number, slot, base)] → s.blockAt b.key = some b → v = (s.domainAt l.domain).restvec →
    (s.recordsOk b = false → s.placeOld l b [p] = s.killBlock b.key 4 0x2E 0) ∧
    (s.recordsOk b = true → v.getLsbD 0 = false → s.placeOld l b [p] = s.killBlock b.key 4 0x09 0) ∧
    (s.recordsOk b = true → v.getLsbD 0 = true → badPc (v &&& ~~~ 3#64) = false → ∃ g, (s.placeOld l b [p]).gangAt core slot = some g ∧
      g.super = true ∧ g.xr.xcode = 0x09 ∧ g.xr.xpc = k.gang.xr.xpc ∧ g.held = k.gang.held ∧ g.kv = k.gang.kv ∧ g.yarr = k.gang.yarr ∧ g.role = k.gang.role ∧
      g.bs = k.gang.bs ∧ g.bellHeld = k.gang.bellHeld ∧ g.late = k.gang.late ∧ g.pre.restoring = true ∧
      Sp.get g.sregs 0 = word k.ctx.toNat ∧ Sp.get g.sregs 1 = word (k.ctx.toNat / 2 ^ 32)))

/-- R315, R316, R342, R348: a launch whose blocks are all done is done once its writes are visible, and a failed one is closed once none of its blocks
is resident and its writes are visible; before that neither is. A completion counter is incremented first, as a release of SYSTEM scope, which
comes after every CLEAN and the host's acknowledgement (the model's form of it: log entries 99, 122). -/
def Claim.LaunchesComplete : Prop :=
  ∀ (s : State) (l : Launch) (released : Prop), s.launches.find? (·.idx == l.idx) = some l → (s.domainAt l.domain).board.getLsbD 0 = false →
    l.closing = false →
    released = (l.counted = false ∨ (s.cleanDue = [] ∧ ((∃ t, l.host = some t ∧ t ≤ s.now) ∨ (l.host = none ∧ ∀ pg ∈ s.pages, pg.ofHost = false)))) →
    ∃ T : State, exec (.launchCompletion l.idx) s = .next T ∧
    (l.state = 1 ∨ l.state = 2 →
      (l.blocksDone < l.blocks ∨ s.launchVisible l = false → T.launches = s.launches) ∧
      (l.blocks ≤ l.blocksDone → s.launchVisible l = true →
        (released → T.launches.find? (·.idx == l.idx) = some { l with state := 3, status := 0, changed := s.now, closing := true } ∧
          (s.pr.jrnlq = 0 → ∃ X : State, X = State.launchCounter (s.at s.now (.placementStep l.die)) l ∧ T.dram = X.dram ∧ T.hostMem = X.hostMem)) ∧
        (¬ released → ∃ h, T.launches.find? (·.idx == l.idx) = some { l with host := h }))) ∧
    (l.state = 4 →
      (s.blocks.any (fun b => b.launch == l.idx && b.resident) = true → T.launches = s.launches) ∧
      (s.launchVisible l = false → T.launches = s.launches) ∧
      (s.blocks.any (fun b => b.launch == l.idx && b.resident) = false → s.launchVisible l = true → (l.w 0).testBit 11 = false ∨ released →
        T.launches.find? (·.idx == l.idx) = some { l with changed := s.now, closing := true }))

/-- R154, R157: a conversion changes the kind of one bay that is neither LOG nor pinned while at least 4 CACHE bays remain, and of no other; else
nothing changes. -/
def Claim.BaysConvert : Prop :=
  ∀ (s : State) (core bay kind : Nat),
    (30 ≤ bay ∨ 3 ≤ kind ∨ (s.bayPins core).testBit bay = true ∨ ((s.coreAt core).bayKinds.set bay kind).count 2 < 4 →
      exec (.bayConversion core bay kind) s = .next s) ∧
    (bay < 30 → kind < 3 → (s.bayPins core).testBit bay = false → 4 ≤ ((s.coreAt core).bayKinds.set bay kind).count 2 →
      ∃ T : State, exec (.bayConversion core bay kind) s = .next T ∧ ∀ b, b < 32 →
        fld (T.coreAt core).baymap.toNat (2 * b + 1) (2 * b) = if b = bay then kind else fld (s.coreAt core).baymap.toNat (2 * b + 1) (2 * b))

/-- R349, R359: a launch that has waited 2,048 clocks without a candidate asks for pre-emptions, which take no block when none has a lower priority;
one that is no longer the head of its queue, or has a candidate, waits no more; the end of a slice takes none when no other function's launch
waits, and begins the next while a launch was accepted with its length (R426; log entry 107); the reclaim of a cluster pre-empts every borrower
block on it for a launch of its owner whose block finds no candidate on the owner's clusters, and does nothing else. -/
def Claim.PreemptionsAreRequested : Prop :=
  (∀ (s : State) (die : Nat) (l : Launch) (t0 : Nat), (s.heads die).find? (·.idx == l.idx) = some l → l.waitSince = some t0 →
    (s.now < t0 + 2048 → exec (.preemptionRequest die l.idx) s = .next (s.at (t0 + 2048) (.preemptionRequest die l.idx))) ∧
    (t0 + 2048 ≤ s.now →
      ((s.tryPlace [] l (s.clustersFor l)).isSome = true → exec (.preemptionRequest die l.idx) s = .next ((s.waitOver l.idx).at s.now (.placementStep die))) ∧
      (s.tryPlace [] l (s.clustersFor l) = none → (∀ b ∈ s.blocks, l.prio ≤ b.prio) →
        exec (.preemptionRequest die l.idx) s = .next { s with
          launches := replaceFirst (fun x => x.idx == l.idx) (fun x => { x with waitSince := none }) s.launches }))) ∧
  (∀ (s : State) (die idx : Nat), (s.heads die).find? (·.idx == idx) = none → exec (.preemptionRequest die idx) s =
    .next { s with launches := replaceFirst (fun x => x.idx == idx) (fun x => { x with waitSince := none }) s.launches }) ∧
  (∀ (s : State) (f : Nat), (∀ e ∈ (s.funcAt f).sliceEnds, s.now < e.2) → exec (.sliceTimeEnd f) s = .next s) ∧
  (∀ (s : State) (f len t0 : Nat), (s.funcAt f).sliceEnds = [(len, t0)] → t0 ≤ s.now →
    (∀ l ∈ s.heads 0 ++ s.heads 1, l.function ≠ f → (s.tryPlace [] l (s.clustersFor l)).isSome = true) →
    exec (.sliceTimeEnd f) s = .next (if ∃ l ∈ s.launches, l.function = f ∧ l.slice = len ∧ l.closing = false then
        State.at { s with funcs := Kv.put s.funcs f { s.funcAt f with sliceEnds := [(len, s.now + len)] } } (s.now + len) (.sliceTimeEnd f)
      else { s with funcs := Kv.put s.funcs f { s.funcAt f with sliceEnds := [] } })) ∧
  (∀ (s : State) (die cluster c : Nat), c = die * 16 + cluster % 16 →
    ((∀ l ∈ s.heads die, l.ownerOf c = some l.function → s.ownBlocked l = false) → exec (.clusterReclaim die cluster) s = .next s) ∧
    ((∃ l ∈ s.heads die, l.ownerOf c = some l.function ∧ s.ownBlocked l = true) → ∃ l ∈ s.heads die, l.ownerOf c = some l.function ∧
      s.ownBlocked l = true ∧ ∃ T : State, exec (.clusterReclaim die cluster) s = .next T ∧
        ∀ (core slot : Nat) (g : Gang) (b : Block), s.gangAt core slot = some g → s.blockAt g.blk = some b → b.resident = true →
          b.core / 16 = c → (s.domainAt b.domain).function ≠ l.function →
          ∃ h, T.gangAt core slot = some h ∧ (h.pre.pending = true ∨ h.pre.saving ≠ 0)))

/-! ### The package -/

/-- R271, R425 to R427, R434: a cluster whose link fails is down, with no block resident on it and no undrained entry in its cores, until firmware
brings it up. An image with another key or an old counter changes nothing; of another, exactly the sections that pass their check run. A
function that becomes ready sets its bit in READY, a die's only after every stack's, and a die's journal walk follows; that the management firmware
is among the sections it needs is the model's choice (log entry 128). A mailbox write out of range, or of a package ring while a launch is
accepted, changes nothing but the mailbox's status, which is one bit here (the model's choice: log entry 129); another sets what it names. -/
def Claim.ClustersAndFunctionsComeUp : Prop :=
  (∀ (s : State) (k : Nat), k < 32 →
    (∃ T : State, exec (.clusterLinkFailure k) s = .next T ∧ T.pr.clumap = s.pr.clumap &&& ~~~ (1#32 <<< k) ∧ T.pr.down = s.pr.down ||| (1#32 <<< k) ∧
      (∀ b ∈ T.blocks, b.resident = true → b.core / 16 ≠ k) ∧ ∀ c, c / 16 = k → ∀ e ∈ (T.coreAt c).leat, e.applied = true) ∧
    exec (.clusterBringUp k) s = .next { s with
      pr := { s.pr with down := s.pr.down &&& ~~~ (1#32 <<< k)
                        clumap := if s.pr.ready.getLsbD (k / 16) = true then s.pr.clumap ||| (1#32 <<< k) else s.pr.clumap }
      agenda := s.agenda ++ [(s.now, .placementStep (k / 16))] }) ∧
  (∀ (s : State) (img : FwImage),
    (keyFused img.key = false ∨ img.counter < Config.fusedCounter → exec (.firmwareDownload img) s = .next s) ∧
    (keyFused img.key = true → Config.fusedCounter ≤ img.counter → ∃ T : State, exec (.firmwareDownload img) s = .next T ∧
      T.fw.counter = img.counter ∧ T.fw.failing = (img.sections.find? fun x => !sectionSigned img.key x.body x.signature).map (·.kind) ∧
      (∀ k, k ∈ T.fw.passed ↔ (∃ x ∈ img.sections, x.kind = k ∧ sectionSigned img.key x.body x.signature = true) ∨
        (k ∈ s.fw.passed ∧ ∀ x ∈ img.sections, x.kind ≠ k)) ∧
      ((∃ x ∈ img.sections, x.kind = 3 ∧ sectionSigned img.key x.body x.signature = true) → T.pr.devnum = img.devnum ∧ T.fw.harvest = img.harvest ∧ T.fw.trims = img.trims))) ∧
  (∀ (s : State) (bit : Nat),
    (55 ≤ bit ∨ s.pr.ready.getLsbD bit = true ∨ (∃ k ∈ needSections bit, k ∉ s.fw.passed) ∨
      (bit < 2 ∧ ∃ k, k < 16 ∧ s.pr.ready.getLsbD (2 + k) = false) → exec (.functionReady bit) s = .next s) ∧
    (bit < 55 → s.pr.ready.getLsbD bit = false → (∀ k ∈ needSections bit, k ∈ s.fw.passed) →
      (bit < 2 → ∀ k, k < 16 → s.pr.ready.getLsbD (2 + k) = true) → ∃ T : State, exec (.functionReady bit) s = .next T ∧
        T.pr.ready = s.pr.ready ||| (1#64 <<< bit) ∧
        (bit < 2 → T.pr.clumap = (s.pr.clumap ||| (0xFFFF#32 <<< (16 * bit) &&& ~~~ s.pr.down)) ∧ (s.now, .journalWalk bit) ∈ T.agenda))) ∧
  (∀ (s : State) (m : MailWrite), s.mailOk m = false → exec (.configMailboxWrite m) s = .next { s with pr := { s.pr with mailRefused := true } }) ∧
  (∀ (s : State) (v : Addr), 0 < s.liveLaunches 0 + s.liveLaunches 1 → ∀ m ∈ [MailWrite.hcmdq v, .hfltq v, .jrnlq v, .errq v, .hostwin v],
    exec (.configMailboxWrite m) s = .next { s with pr := { s.pr with mailRefused := true } }) ∧
  (∀ (s : State) (v : Addr), s.liveLaunches 0 + s.liveLaunches 1 = 0 → fld v.toNat 11 4 = 0 → 4 ≤ fld v.toNat 3 0 → fld v.toNat 3 0 ≤ 12 →
    exec (.configMailboxWrite (.hcmdq v)) s = .next { s with pr := { s.pr with hcmdq := v, mailRefused := false } } ∧
    exec (.configMailboxWrite (.hfltq v)) s = .next { s with pr := { s.pr with hfltq := v, mailRefused := false } } ∧
    exec (.configMailboxWrite (.errq v)) s = .next { s with pr := { s.pr with errq := v, mailRefused := false } }) ∧
  (∀ (s : State) (d n c f : Nat), d < 256 → n < 2 ^ 16 → c < 32 → f ≤ 64 →
    exec (.configMailboxWrite (.tenantTag d n)) s = .next { s with domains := Kv.put s.domains d { s.domainAt d with tag := n }, pr := { s.pr with mailRefused := false } } ∧
    exec (.configMailboxWrite (.domainFunction d f)) s = .next { s with domains := Kv.put s.domains d { s.domainAt d with function := f }, pr := { s.pr with mailRefused := false } } ∧
    exec (.configMailboxWrite (.clusterOwner c f)) s = .next { s with pr := { s.pr with clusterOwner := Kv.put s.pr.clusterOwner c f, mailRefused := false } } ∧
    exec (.configMailboxWrite (.sliceLen f n)) s = .next { s with funcs := Kv.put s.funcs f { s.funcAt f with sliceLen := n }, pr := { s.pr with mailRefused := false } })

/-- R432, R435, R461: the reset of a die leaves no block resident on it, its cores as bring-up left them with the check interval of the image (R225), its slices without lines and no memory-side
record of it, its READY bit
clear and the journal's counters as they were; the journal walk takes a replayable launch that is not closed back to accepted and fails another with status
6. Throttling and the power states change what R435 says; after a trip, D3cold or bring-up the package is as after reset, but for the host's
memory. -/
def Claim.DiesResetAndPowerChanges : Prop :=
  (∀ (s : State) (die cause : Nat), die < 2 → s.pr.errq = 0 → ∃ T : State, exec (.dieReset die cause) s = .next T ∧
    (∀ b ∈ T.blocks, b.resident = true → b.core / 256 ≠ die) ∧ (∀ k, k / 256 = die → T.coreAt k = { mxchk := (s.coreAt k).mxchk }) ∧
    (∀ x ∈ T.slices, x.1 / 4096 = die → x.2.lines = []) ∧ (∀ m ∈ T.memCache, m.dies.getLsbD die = false) ∧ T.pr.ready = s.pr.ready &&& ~~~ (1#64 <<< die) ∧
    T.pr.jrnltail = s.pr.jrnltail ∧ T.pr.jrnlack = s.pr.jrnlack ∧ T.pages = s.pages) ∧
  (∀ (s : State) (die : Nat) (l : Launch), s.launches = [l] → l.die = die →
    ((s.dist.getD die {}).walk = false ∨ s.pr.ready.getLsbD die = false → exec (.journalWalk die) s = .next s) ∧
    ((s.dist.getD die {}).walk = true → s.pr.ready.getLsbD die = true → ∃ T : State, exec (.journalWalk die) s = .next T ∧
      (l.closing = true → T.launches = [l]) ∧
      (l.closing = false → (l.w 0).testBit 7 = false → ∃ x, T.launches = [x] ∧ x.state = 4 ∧ x.status = 6 ∧ x.record = l.record) ∧
      (l.closing = false → (l.w 0).testBit 7 = true → ∃ x, T.launches = [x] ∧ x.replays = l.replays + 1 ∧ x.nextBlock = 0 ∧
        x.blocksDone = 0 ∧ x.record = l.record ∧ (x.state = 1 ∨ (x.state = 4 ∧ x.status = 3))))) ∧
  (∀ (s : State) (level : BitVec 4) (power thermal : Bool), thermal = false ∨ s.pr.thermalLimited = true →
    exec (.throttleChange level power thermal) s =
      .next { s with pr := { s.pr with throttle := level, powerLimited := power, thermalLimited := thermal } }) ∧
  (∀ s : State,
    (∃ T : State, exec .thermalTrip s = .next T ∧
      T = { State.reset with hostMem := T.hostMem, fresh := T.fresh, pr := { State.reset.pr with dstate := .d3cold } } ∧ (s.pr.errq = 0 → T.hostMem = s.hostMem)) ∧
    exec .bringUp s = .next { State.reset with hostMem := s.hostMem, fresh := s.fresh, pr := { State.reset.pr with dstate := .d0 } } ∧
    exec (.powerStateChange .d3cold) s = .next { State.reset with hostMem := s.hostMem, fresh := s.fresh, pr := { State.reset.pr with dstate := .d3cold } } ∧
    (s.pr.dstate = .d3hot → exec (.powerStateChange .d0) s = .next { s with pr := { s.pr with dstate := .d0 } }) ∧
    (s.pr.dstate = .d0 → exec (.powerStateChange .d3hot) s =
      .next (if s.liveLaunches 0 + s.liveLaunches 1 = 0 then { s with pr := { s.pr with dstate := .d3hot } } else s)))

/-! ### The fabric -/

/-- R438, R439, R441, R446, R452: a resend counts on its port, and one that succeeds ends a row of failures; a retrain after 16 failed ones leaves at most as many lanes, and none takes the link
down with its READY bit, the host link's too; APPLIED removes the entry of a remote line from its leat, and CLEAN what releases wait for; a message that is FABTMO
clocks old is withdrawn, the lanes of a load that wait for its line are refused with FABDOWN, and the others stay. -/
def Claim.FabricEvents : Prop :=
  (∀ (s : State) (port : Nat) (p : FabPort), s.ports[port]? = some p → ∃ n, (n = 0 ∨ n = p.fails + 1) ∧
    exec (.flitResend port) s = .next { s with
      ports := s.ports.set port { p with retry := if p.retry = 0xFFFFFFFF then p.retry else p.retry + 1, fails := n }, fresh := s.fresh + 1 }) ∧
  (∀ (s : State) (lanes : Nat),
    (lanes ∉ [0, 4, 8, 16] ∨ s.hostLanes < lanes → exec (.linkRetrain 63 lanes) s = .next s) ∧
    (lanes ∈ [0, 4, 8, 16] → lanes ≤ s.hostLanes → ∃ T : State, exec (.linkRetrain 63 lanes) s = .next T ∧ T.hostLanes = lanes ∧
      T.pr.ready = if lanes = 0 then s.pr.ready &&& ~~~ (1#64 <<< 18) else s.pr.ready)) ∧
  (∀ (s : State) (port lanes : Nat) (p : FabPort), s.ports[port]? = some p → port < 36 →
    (p.fails < 16 ∨ p.lanes < lanes ∨ lanes ∉ [0, 1, 2, 4] → exec (.linkRetrain port lanes) s = .next s) ∧
    (16 ≤ p.fails → lanes ≤ p.lanes → lanes ∈ [0, 1, 2, 4] → ∃ T : State, exec (.linkRetrain port lanes) s = .next T ∧
      T.ports = s.ports.set port { p with lanes := lanes, up := decide (lanes ≠ 0), fails := 0 } ∧
      T.pr.ready = if lanes = 0 then s.pr.ready &&& ~~~ (1#64 <<< (19 + port)) else s.pr.ready)) ∧
  (∀ (s : State) (core : Nat) (seq : Word) (e : LeatEntry), (s.coreAt core).leat.find? (·.seq == seq) = some e → e.applied = true →
    s.homedHere (e.line * 128) = false → ∃ T : State, exec (.fabricAckArrival core seq false) s = .next T ∧
      (T.coreAt core).leat = (s.coreAt core).leat.filter (·.seq != seq)) ∧
  (∀ (s : State) (core : Nat) (seq : Word), (∀ e ∈ (s.coreAt core).leat, e.seq ≠ seq) → ∃ T : State,
    exec (.fabricAckArrival core seq true) s = .next T ∧ ∀ k ∈ T.cores, ∀ r ∈ k.2.rels, (core, Parked.leat seq) ∉ r.cleans) ∧
  (∀ (s : State) (core : Nat) (what : Parked) (tmo : Nat), tmo = s.pr.fabtmo.toNat * 1024 → ∃ T : State, exec (.fabricTimeout core what) s = .next T ∧
    T.fabric = s.fabric.filter (fun m => !(m.core == core && m.what == what && decide (m.sent + tmo ≤ s.now))) ∧
    ∀ (m : FabMsg) (slot id : Nat) (d : Pend) (kind : BitVec 3) (t : Reg) (q : Word) (lanes : List LoadLane), s.fabric = [m] → m.core = core → m.what = what →
      m.sent + tmo ≤ s.now → what = .pend slot id → slot ≠ prefetchSlot → m.access ≠ 15 → (∀ a ∈ (s.coreAt core).atoms, a.id ≠ id) →
      s.pendAt core slot id = some d → d.body = .load kind t q lanes →
      T.pendAt core slot id = some { d with body := .load kind t q (lanes.map fun l =>
        if l.got = none ∧ l.refused = none ∧ lineOf l.addr = lineOf m.va then { l with refused := some 6 } else l) })

/-- R442, R444, R445, R453: a ticket home of this package lends a READ ticket while there is room, a WRITE ticket where no other device is busy with the
region, and hands over from a WRITE holder first; an acknowledged or lost holder has no ticket, and the lines of a lost writer are poisoned; this
package hands a ticket back after its entries have drained and its leases have passed, gives the least recently used one when its table is
full, and drops those of a home that it cannot reach. -/
def Claim.TicketsAreLentAndReturned : Prop :=
  (∀ (s : State) (t : Ticket) (dev : Nat) (pg : Page), s.tickets = [t] → s.homedHere (t.region * 2 ^ 16) = true → dev ≠ s.pr.devnum.toNat →
    s.pageOf (t.region * 2 ^ 16) = some pg → pg.treat ≠ 2 → t.revoking = [] → t.closing = false →
    (t.writer = none → t.readers ≠ [] → dev ∉ t.readers → t.readers.length < 15 → ∃ (T : State) (x : Ticket),
      exec (.ticketRequest dev t.region false) s = .next T ∧ T.tickets = [x] ∧ x.region = t.region ∧ x.writer = none ∧ x.readers = t.readers ++ [dev]) ∧
    (t.writer = none → t.readers = [dev] → (∀ a ∈ t.asked, a.1 = dev ∨ a.2 + s.pr.tkquiet.toNat * 256 ≤ s.now) → ∃ (T : State) (x : Ticket),
      exec (.ticketRequest dev t.region true) s = .next T ∧ T.tickets = [x] ∧ x.region = t.region ∧ x.writer = some dev ∧ x.readers = []) ∧
    (∀ (w : Nat) (write : Bool), t.writer = some w → w ≠ dev → regionOf (t.region * 2 ^ 16) = t.region → ∃ (T : State) (x : Ticket), exec (.ticketRequest dev t.region write) s = .next T ∧
      T.tickets = [x] ∧ x.writer = some w ∧ x.readers = t.readers ∧ x.revoking = [(w, s.now)] ∧
      (s.now + s.pr.fabtmo.toNat * 1024, .ticketHolderLost w t.region) ∈ T.agenda)) ∧
  (∀ (s : State) (t : Ticket) (dev t0 tmo : Nat), s.tickets = [t] → s.cmds = [] → dev ≠ s.pr.devnum.toNat → s.pr.errq = 0 → tmo = s.pr.fabtmo.toNat * 1024 →
    (∃ (T : State) (x : Ticket), exec (.ticketHandover dev t.region) s = .next T ∧ T.tickets = [x] ∧ x.region = t.region ∧
      x.readers = t.readers.filter (· != dev) ∧ (x.writer = if t.writer = some dev then none else t.writer) ∧ x.revoking = t.revoking.filter (·.1 != dev)) ∧
    (t.revoking = [(dev, t0)] →
      (s.now < t0 + tmo → exec (.ticketHolderLost dev t.region) s = .next s) ∧
      (t0 + tmo ≤ s.now → ∃ (T : State) (x : Ticket), exec (.ticketHolderLost dev t.region) s = .next T ∧ T.tickets = [x] ∧
        x.readers = t.readers.filter (· != dev) ∧ x.writer ≠ some dev ∧ x.revoking = [] ∧
        (t.writer = some dev → ∀ (k : Nat) (p : Page), k < 512 → s.pageOf (t.region * 2 ^ 16 + 128 * k) = some p →
          p.poisonKey (t.region * 2 ^ 16 + 128 * k) ∈ T.poison)))) ∧
  (∀ (s : State) (h : HeldTicket), s.heldTickets = [h] → ∃ T : State, exec (.ticketHandover s.pr.devnum.toNat h.region) s = .next T ∧
    (h.leaving = none → T.heldTickets = [{ h with leaving := some 0 }]) ∧
    (h.leaving = some 0 → s.rangeEntries (h.region * 2 ^ 16) (2 ^ 16) ≠ [] → T.heldTickets = [h]) ∧
    (h.leaving = some 0 → s.rangeEntries (h.region * 2 ^ 16) (2 ^ 16) = [] → ∃ n, T.heldTickets = [{ h with leaving := some n }] ∧ s.now < n ∧
      ∀ k ∈ s.cores, ∀ l ∈ k.2.l1, l.treat = 1 → h.region * 2 ^ 16 ≤ keyless (l.line * 128) → keyless (l.line * 128) < (h.region + 1) * 2 ^ 16 → l.leaseEnd ≤ n) ∧
    (∀ n, h.leaving = some (n + 1) → (s.now < n + 1 → T.heldTickets = [h]) ∧ (n + 1 ≤ s.now → T.heldTickets = []))) ∧
  (∀ s : State, (s.heldTickets.length < 16384 → exec .ticketEviction s = .next s) ∧
    (16384 ≤ s.heldTickets.length → (∃ h ∈ s.heldTickets, h.leaving = none) → ∃ h ∈ s.heldTickets, h.leaving = none ∧
      (∀ x ∈ s.heldTickets, x.leaving = none → h.used ≤ x.used) ∧ exec .ticketEviction s = .next (s.at s.now (.ticketHandover s.pr.devnum.toNat h.region)))) ∧
  (∀ (s : State) (dev : Nat),
    (dev = s.pr.devnum.toNat ∨ dev ∉ s.unreached → exec (.ticketHomeUnreachable dev) s = .next s) ∧
    (dev ≠ s.pr.devnum.toNat → dev ∈ s.unreached → ∃ T : State, exec (.ticketHomeUnreachable dev) s = .next T ∧
      T.heldTickets = s.heldTickets.filter (fun t => s.deviceOf (t.region * 2 ^ 16) != some dev) ∧
      ∀ (h : HeldTicket) (die line : Nat), h ∈ s.heldTickets → s.deviceOf (h.region * 2 ^ 16) = some dev → h.region = regionOf (line * 128) →
        T.lineIn die line = none))

/-! ### The statements made of several claims -/

/-- A step runs the due device step, else the decoded instruction of the picked party (bytes as fetched at issue: the model's choice, log
7), or the clock goes on. -/
def Obligations.StepsRunWhatIsDue : Prop :=
  Claim.StepRunsTheDecodedInstruction ∧ Claim.StepRunsARepIteration

/-- After bring-up the registers whose value the rules give hold it, and no function is ready. -/
def Obligations.ResetLeavesWhatTheRulesGive : Prop :=
  Claim.ResetLeavesTheGivenValues ∧ Claim.ResetIsReadyConsistent

/-- Every lane instruction answers a next state, writes only its destination after its latency, and stores nothing. -/
def Obligations.LaneInstructionsRun : Prop :=
  Claim.LaneInstructionsComplete ∧ Claim.LaneInstructionsStoreNothing

/-- Integer instructions deliver their word modulo 2^32, or clamped to the element's range under SAT. -/
def Obligations.IntegerResults : Prop :=
  Claim.IntegerWordsModulo ∧ Claim.SaturatingWordsClamp

/-- Compares deliver their condition's bit, and SEL takes the lane's operand that the guard selects. -/
def Obligations.ComparesAndSelects : Prop :=
  Claim.CompareWritesThePredicate ∧ Claim.SelectReadsTheGuardAsSelector

/-- Quad exchanges move lanes of a quad, and votes count the active lanes that pass the guard. -/
def Obligations.QuadsAndVotes : Prop :=
  Claim.QuadExchangeMovesLanes ∧ Claim.VotesCountActiveGuardedLanes

/-- Results land in their registers at their clock, and block-shared writes become visible in their order. -/
def Obligations.ResultsLand : Prop :=
  Claim.FixedResultLandsInTheRegister ∧ Claim.SharedWritesBecomeVisibleInOrder ∧ Claim.LoadLandsItsBytes ∧ Claim.VariableReturnsLand

/-- REP arms its state or skips its target, and each iteration runs the stepped target. -/
def Obligations.RepsIterateTheirTarget : Prop :=
  Claim.RepArmsOrSkips ∧ Claim.RepIterationRunsTheSteppedTarget

/-- BR divides lanes over the join stack, and BRI, CALL and RET move the party to their targets. -/
def Obligations.BranchesAndJumpsMoveTheParty : Prop :=
  Claim.BranchDividesOverTheParty ∧ Claim.JumpsCallsAndReturns ∧ Claim.IndirectBranchOrdersTargets

/-- MARK pushes a join entry, and JOIN completes it or goes on with the path on top. -/
def Obligations.JoinsFollowTheirMarks : Prop :=
  Claim.MarkPushesAJoinEntry ∧ Claim.JoinCompletesOrResumesThePath

/-- EXIT ends the gang or resumes a path, and PART makes the named quads parties of their own. -/
def Obligations.ExitsAndParts : Prop :=
  Claim.ExitEndsTheGangOrResumes ∧ Claim.PartNamesNewParties

/-- REGANG merges waiting quads of the same stack shape, and SETMARK records the rollback snapshot. -/
def Obligations.RegangsAndMarks : Prop :=
  Claim.RegangMergesWaitingQuads ∧ Claim.SetmarkRecordsASnapshot

/-- TRAP takes USERTRAP with its code, and YIELD parks the party on its gate. -/
def Obligations.TrapAndYield : Prop :=
  Claim.TrapRaisesUserTrap ∧ Claim.YieldParksOnTheGate

/-- PRIVILEGED, ILLEGAL, REGRANGE and STALLSHORT come before an instruction's own effect, with their codes. -/
def Obligations.TrapsBeforeTheEffect : Prop :=
  Claim.TrapsComeBeforeTheEffect ∧ Claim.OperandValuesTrapIllegal ∧ Claim.PrivilegedTrapsInUserMode ∧ Claim.IllegalAndRangeTrapsReport ∧
    Claim.NoInstructionTrapsIllegal ∧ Claim.UnassignedOpcodesRejected

/-- RDS delivers the register it names, as it stands at issue (the moment is the model's choice, log entry 10). -/
def Obligations.StateRegistersAreDelivered : Prop :=
  Claim.StateRegistersRead ∧ Claim.RdsDeliversTheRegister

/-- WRS writes the register it names and no other, and nothing without a writing lane. -/
def Obligations.StateRegistersAreWritten : Prop :=
  Claim.WrsReadsBack ∧ Claim.WrsWithoutALaneWritesNothing ∧ Claim.RngWriteStoresOneForZero ∧ Claim.StackAndMarkRegisterWrites

/-- Core, privileged and pool registers read back what a checked write gave them (moment and order of checks: the model's choice, logs 10
and 46). -/
def Obligations.CoreAndPackageRegisters : Prop :=
  Claim.CoreRegisterWrites ∧ Claim.PrivilegedStateReadsBack ∧ Claim.PoolRegistersReadBack

/-- A gate applies a change and advances when both counts are zero, and an advance wakes its waiters. -/
def Obligations.GatesCountAndWake : Prop :=
  Claim.GateAppliesOneChange ∧ Claim.GateWakesItsWaiters

/-- Every BAR sub-op sends its change, parks, or reads its gate, and traps GATENUM beyond the count. -/
def Obligations.GateSubops : Prop :=
  Claim.GateSubopsSendTheirChange ∧ Claim.GateWaitsPark ∧ Claim.GateReadsAreOutstanding ∧ Claim.GateNumberTraps

/-- LD adds one outstanding load with its lanes, and misaligned or out-of-range accesses trap with their lane. -/
def Obligations.LoadsBecomeOutstanding : Prop :=
  Claim.LoadBecomesOutstanding ∧ Claim.AccessTraps

/-- ST enters the own view with exactly its bytes; LDS and STS access exactly theirs in scratch. -/
def Obligations.StoresEnterTheirMemory : Prop :=
  Claim.StoreEntersTheOwnView ∧ Claim.ScratchAccesses

/-- LDX and CPL become engine works, and a unit lands the coherent bytes of its source. -/
def Obligations.CopiesMoveBytes : Prop :=
  Claim.CopiesBecomeEngineWorks ∧ Claim.UnitLandsItsBytes

/-- AT and RED hand their atomic to the core, which is performed at the slice with the old value returned. -/
def Obligations.AtomicsArePerformedAtTheirScope : Prop :=
  Claim.AtomicsAreHandedOver ∧ Claim.AtomicOperations ∧ Claim.AtomicsArePerformed

/-- CTRW waits until its counter has reached the value; CTRT and CTRRD read it and acquire. -/
def Obligations.CountersAreReadAndAwaited : Prop :=
  Claim.CounterSubops ∧ Claim.CounterWaitEnds

/-- KICK appends its records with consecutive tickets, and the oldest enters service or ends with its status (checks at that moment: log 40;
status 4: log 98). -/
def Obligations.KicksAndService : Prop :=
  Claim.KickAppendsRecords ∧ Claim.RecordEntersService

/-- A record that ends reports and counts, and requests leave the port in order as its bucket covers them. -/
def Obligations.RecordsComplete : Prop :=
  Claim.RecordCompletes ∧ Claim.RecordCounterCounts ∧ Claim.PortBucket

/-- REL starts a release of its scope (what it waits for beyond R318's table: log 37, 98, 111, 122), which completes when what it covers is
visible. -/
def Obligations.ReleasesCompleteInOrder : Prop :=
  Claim.ReleaseStarts ∧ Claim.ReleaseCompletes

/-- ACQ replays the leats of the cluster, and ACQL acquires from one core. -/
def Obligations.AcquiresReplay : Prop :=
  Claim.AcquireReplays ∧ Claim.AcquireOfOneLeat

/-- FNCR fences the entries of its range; CWB, CINV, CPREF and CDISC act on theirs. -/
def Obligations.FencesAndCacheControl : Prop :=
  Claim.RangeFenceStarts ∧ Claim.CacheControl

/-- Entries seal, publish, drain in order and leave on acknowledgement, or are compacted. -/
def Obligations.TheLeatDrainsInOrder : Prop :=
  Claim.EntriesSealAndTailsPublish ∧ Claim.DrainsLeaveInOrder ∧ Claim.EntriesLeaveAndCompact

/-- Fills serve waiting loads, drained entries are applied at the slice, and lines leave the caches whole. -/
def Obligations.SlicesServeAndOrder : Prop :=
  Claim.FillsServeLoads ∧ Claim.EntriesApplyAtTheSlice ∧ Claim.LinesLeaveTheCaches

/-- Home commands queue, take the effect of their op (RESUME of an unmapped page: log 64), wait out a page change, and report their status.
-/
def Obligations.HomeCommands : Prop :=
  Claim.HomeCommandsQueue ∧ Claim.HomeCommandsTakeEffect ∧ Claim.HomeCommandsFinish

/-- A home answers by page, key, right and poison; parked requests replay; home bytes read back. -/
def Obligations.HomesAnswerRequests : Prop :=
  Claim.HomesServeRequests ∧ Claim.HomeRequestsAreAnswered ∧ Claim.HomeAnswers ∧ Claim.HomeByteReadsBack ∧ Claim.ParkedRequestsReplay

/-- Host accesses are held and answered by their home, and share periods set PORTFILL (rounded down: the model's choice, log 56). -/
def Obligations.HostAndShares : Prop :=
  Claim.HostAccesses ∧ Claim.SharesSetPortFill

/-- MMA is accepted with its ticket, runs for its class's duration, and writes its tile rows. -/
def Obligations.MatrixMultiplies : Prop :=
  Claim.MmaIsAccepted ∧ Claim.MmaRunsAndRetires

/-- ACCZ, ACCLD, ACCST, ACCRD and ACCWR zero, move, read and write the words of their tile. -/
def Obligations.AccumulatorAccesses : Prop :=
  Claim.AccumulatorMoves ∧ Claim.AccTransfersComplete

/-- Tree reads deliver their nodes' values, and tree writes append, set and prune nodes. -/
def Obligations.TreeFile : Prop :=
  Claim.TreeReads ∧ Claim.TreeWrites

/-- RING and a host write send a ring, and an accepted ring combines into its line. -/
def Obligations.RingsReachTheirLine : Prop :=
  Claim.RingsAreSent ∧ Claim.RingsAreApplied

/-- BELL sub-ops act on the domain's board, and a deliverable bell enters the handler and returns. -/
def Obligations.BellBoardsAndHandlers : Prop :=
  Claim.BellSubopsActOnTheBoard ∧ Claim.BellsAreDelivered

/-- KV sub-ops check their arguments and reach the allocator, and its waits end or time out. -/
def Obligations.KvSubopsAndWaits : Prop :=
  Claim.KvSubopsReachTheAllocator ∧ Claim.KvWaitsEnd

/-- SYS sub-ops write the tables they name, or trap SYSARG and SYSDENY, and complete. -/
def Obligations.SysSubops : Prop :=
  Claim.SysSubopsTakeEffect ∧ Claim.SysSubopsComplete

/-- A trap saves and enters the handler or kills the block, and ERET restores what was saved. -/
def Obligations.TrapsEnterAndReturn : Prop :=
  Claim.TrapsEnterTheHandler ∧ Claim.EretLeavesTheHandler

/-- Pre-emptions and delayed traps are taken at a boundary, and a rollback restores the mark. -/
def Obligations.BoundariesAndRollback : Prop :=
  Claim.BoundaryTraps ∧ Claim.RollbacksRestoreTheMark

/-- Queues become journalled launches, their counter waits are tested, and complete launches close. -/
def Obligations.DistributorReadsAndCloses : Prop :=
  Claim.QueuesAreRead ∧ Claim.DependencesAreTested ∧ Claim.LaunchesComplete

/-- Blocks are placed and restored, bays converted, and pre-emptions requested. -/
def Obligations.DistributorPlacesAndPreempts : Prop :=
  Claim.BlocksArePlaced ∧ Claim.BaysConvert ∧ Claim.PreemptionsAreRequested

/-- Clusters and functions come up and fail, dies reset, and power states change. -/
def Obligations.PackageComesUpAndResets : Prop :=
  Claim.ClustersAndFunctionsComeUp ∧ Claim.DiesResetAndPowerChanges

/-- Fabric resends, retrains and timeouts, and tickets lent, handed over, lost and evicted. -/
def Obligations.FabricAndTickets : Prop :=
  Claim.FabricEvents ∧ Claim.TicketsAreLentAndReturned
end

