-- ==== Sys2Proof/Laws/Encoding.lean ====
section
/-! SUPPORT. The fields of a word that is put together from fields, for each form of R56. -/

namespace Sys2Proof

open Sys2Proof.Machine

theorem field_low {m n lo k : Nat} (h : lo + k ≤ n) {x : BitVec m} {y : BitVec n} : (x ++ y).extractLsb' lo k = y.extractLsb' lo k := by
  ext i hi
  simp [BitVec.getLsbD_append, show lo + i < n by omega]

theorem field_high {m n lo k : Nat} (h : n ≤ lo) {x : BitVec m} {y : BitVec n} :
    (x ++ y).extractLsb' lo k = x.extractLsb' (lo - n) k := by
  ext i hi
  simp [BitVec.getLsbD_append, show ¬ (lo + i < n) by omega, show lo + i - n = lo - n + i by omega]

theorem field_all {k : Nat} {x : BitVec k} : x.extractLsb' 0 k = x := by
  ext i hi
  simp

/-- A field of a field. -/
theorem field_field {n lo k l w : Nat} {x : BitVec n} (h : l + w ≤ k) : (x.extractLsb' lo k).extractLsb' l w = x.extractLsb' (lo + l) w := by
  ext i hi
  simp [show l + i < k by omega, Nat.add_assoc]

/-- A bit of a field. -/
theorem bit_field {n lo k l : Nat} {x : BitVec n} (h : l < k) : (x.extractLsb' lo k).getLsbD l = x.getLsbD (lo + l) := by
  simp [h]

/-- A one-bit field as a bit. -/
theorem bit_of_field {n lo : Nat} {x : BitVec n} {b : Bool} (h : x.extractLsb' lo 1 = bit b) : x.getLsbD lo = b := by
  have := congrArg (·.getLsbD 0) h
  simpa [bit] using this

/-! ### Fields of 7, 25 bits -/

theorem form_25_op (op : BitVec 7) (a : BitVec 25) : BitVec.extractLsb' (n := 32) 25 7 (op ++ a) = op := by
  repeat refine (field_high (by decide)).trans ?_
  exact field_all

theorem form_25_a (op : BitVec 7) (a : BitVec 25) : BitVec.extractLsb' (n := 32) 0 25 (op ++ a) = a := by
  refine (field_low (by decide)).trans ?_
  exact field_all

/-! ### Fields of 7, 6, 1, 1, 1, 3, 13 bits -/

theorem form_6_1_1_1_3_13_op (op : BitVec 7) (a : BitVec 6) (b : Bool) (c : Bool) (d : Bool) (e : BitVec 3) (f : BitVec 13) : BitVec.extractLsb' (n := 32) 25 7 (op ++ a ++ bit b ++ bit c ++ bit d ++ e ++ f) = op := by
  repeat refine (field_high (by decide)).trans ?_
  exact field_all

theorem form_6_1_1_1_3_13_a (op : BitVec 7) (a : BitVec 6) (b : Bool) (c : Bool) (d : Bool) (e : BitVec 3) (f : BitVec 13) : BitVec.extractLsb' (n := 32) 19 6 (op ++ a ++ bit b ++ bit c ++ bit d ++ e ++ f) = a := by
  repeat refine (field_high (by decide)).trans ?_
  refine (field_low (by decide)).trans ?_
  exact field_all

theorem form_6_1_1_1_3_13_b (op : BitVec 7) (a : BitVec 6) (b : Bool) (c : Bool) (d : Bool) (e : BitVec 3) (f : BitVec 13) : BitVec.extractLsb' (n := 32) 18 1 (op ++ a ++ bit b ++ bit c ++ bit d ++ e ++ f) = bit b := by
  repeat refine (field_high (by decide)).trans ?_
  refine (field_low (by decide)).trans ?_
  exact field_all

theorem form_6_1_1_1_3_13_b_bit (op : BitVec 7) (a : BitVec 6) (b : Bool) (c : Bool) (d : Bool) (e : BitVec 3) (f : BitVec 13) : BitVec.getLsbD (w := 32) (op ++ a ++ bit b ++ bit c ++ bit d ++ e ++ f) 18 = b := bit_of_field (form_6_1_1_1_3_13_b op a b c d e f)

theorem form_6_1_1_1_3_13_c (op : BitVec 7) (a : BitVec 6) (b : Bool) (c : Bool) (d : Bool) (e : BitVec 3) (f : BitVec 13) : BitVec.extractLsb' (n := 32) 17 1 (op ++ a ++ bit b ++ bit c ++ bit d ++ e ++ f) = bit c := by
  repeat refine (field_high (by decide)).trans ?_
  refine (field_low (by decide)).trans ?_
  exact field_all

theorem form_6_1_1_1_3_13_c_bit (op : BitVec 7) (a : BitVec 6) (b : Bool) (c : Bool) (d : Bool) (e : BitVec 3) (f : BitVec 13) : BitVec.getLsbD (w := 32) (op ++ a ++ bit b ++ bit c ++ bit d ++ e ++ f) 17 = c := bit_of_field (form_6_1_1_1_3_13_c op a b c d e f)

theorem form_6_1_1_1_3_13_d (op : BitVec 7) (a : BitVec 6) (b : Bool) (c : Bool) (d : Bool) (e : BitVec 3) (f : BitVec 13) : BitVec.extractLsb' (n := 32) 16 1 (op ++ a ++ bit b ++ bit c ++ bit d ++ e ++ f) = bit d := by
  repeat refine (field_high (by decide)).trans ?_
  refine (field_low (by decide)).trans ?_
  exact field_all

theorem form_6_1_1_1_3_13_d_bit (op : BitVec 7) (a : BitVec 6) (b : Bool) (c : Bool) (d : Bool) (e : BitVec 3) (f : BitVec 13) : BitVec.getLsbD (w := 32) (op ++ a ++ bit b ++ bit c ++ bit d ++ e ++ f) 16 = d := bit_of_field (form_6_1_1_1_3_13_d op a b c d e f)

theorem form_6_1_1_1_3_13_e (op : BitVec 7) (a : BitVec 6) (b : Bool) (c : Bool) (d : Bool) (e : BitVec 3) (f : BitVec 13) : BitVec.extractLsb' (n := 32) 13 3 (op ++ a ++ bit b ++ bit c ++ bit d ++ e ++ f) = e := by
  repeat refine (field_high (by decide)).trans ?_
  refine (field_low (by decide)).trans ?_
  exact field_all

theorem form_6_1_1_1_3_13_f (op : BitVec 7) (a : BitVec 6) (b : Bool) (c : Bool) (d : Bool) (e : BitVec 3) (f : BitVec 13) : BitVec.extractLsb' (n := 32) 0 13 (op ++ a ++ bit b ++ bit c ++ bit d ++ e ++ f) = f := by
  refine (field_low (by decide)).trans ?_
  exact field_all

/-! ### Fields of 7, 6, 4, 15 bits -/

theorem form_6_4_15_op (op : BitVec 7) (a : BitVec 6) (b : BitVec 4) (c : BitVec 15) : BitVec.extractLsb' (n := 32) 25 7 (op ++ a ++ b ++ c) = op := by
  repeat refine (field_high (by decide)).trans ?_
  exact field_all

theorem form_6_4_15_a (op : BitVec 7) (a : BitVec 6) (b : BitVec 4) (c : BitVec 15) : BitVec.extractLsb' (n := 32) 19 6 (op ++ a ++ b ++ c) = a := by
  repeat refine (field_high (by decide)).trans ?_
  refine (field_low (by decide)).trans ?_
  exact field_all

theorem form_6_4_15_b (op : BitVec 7) (a : BitVec 6) (b : BitVec 4) (c : BitVec 15) : BitVec.extractLsb' (n := 32) 15 4 (op ++ a ++ b ++ c) = b := by
  repeat refine (field_high (by decide)).trans ?_
  refine (field_low (by decide)).trans ?_
  exact field_all

theorem form_6_4_15_c (op : BitVec 7) (a : BitVec 6) (b : BitVec 4) (c : BitVec 15) : BitVec.extractLsb' (n := 32) 0 15 (op ++ a ++ b ++ c) = c := by
  refine (field_low (by decide)).trans ?_
  exact field_all

/-! ### Fields of 7, 2, 3, 5, 15 bits -/

theorem form_2_3_5_15_op (op : BitVec 7) (a : BitVec 2) (b : BitVec 3) (c : BitVec 5) (d : BitVec 15) : BitVec.extractLsb' (n := 32) 25 7 (op ++ a ++ b ++ c ++ d) = op := by
  repeat refine (field_high (by decide)).trans ?_
  exact field_all

theorem form_2_3_5_15_a (op : BitVec 7) (a : BitVec 2) (b : BitVec 3) (c : BitVec 5) (d : BitVec 15) : BitVec.extractLsb' (n := 32) 23 2 (op ++ a ++ b ++ c ++ d) = a := by
  repeat refine (field_high (by decide)).trans ?_
  refine (field_low (by decide)).trans ?_
  exact field_all

theorem form_2_3_5_15_b (op : BitVec 7) (a : BitVec 2) (b : BitVec 3) (c : BitVec 5) (d : BitVec 15) : BitVec.extractLsb' (n := 32) 20 3 (op ++ a ++ b ++ c ++ d) = b := by
  repeat refine (field_high (by decide)).trans ?_
  refine (field_low (by decide)).trans ?_
  exact field_all

theorem form_2_3_5_15_c (op : BitVec 7) (a : BitVec 2) (b : BitVec 3) (c : BitVec 5) (d : BitVec 15) : BitVec.extractLsb' (n := 32) 15 5 (op ++ a ++ b ++ c ++ d) = c := by
  repeat refine (field_high (by decide)).trans ?_
  refine (field_low (by decide)).trans ?_
  exact field_all

theorem form_2_3_5_15_d (op : BitVec 7) (a : BitVec 2) (b : BitVec 3) (c : BitVec 5) (d : BitVec 15) : BitVec.extractLsb' (n := 32) 0 15 (op ++ a ++ b ++ c ++ d) = d := by
  refine (field_low (by decide)).trans ?_
  exact field_all

/-! ### Fields of 7, 17, 8 bits -/

theorem form_17_8_op (op : BitVec 7) (a : BitVec 17) (b : BitVec 8) : BitVec.extractLsb' (n := 32) 25 7 (op ++ a ++ b) = op := by
  repeat refine (field_high (by decide)).trans ?_
  exact field_all

theorem form_17_8_a (op : BitVec 7) (a : BitVec 17) (b : BitVec 8) : BitVec.extractLsb' (n := 32) 8 17 (op ++ a ++ b) = a := by
  repeat refine (field_high (by decide)).trans ?_
  refine (field_low (by decide)).trans ?_
  exact field_all

theorem form_17_8_b (op : BitVec 7) (a : BitVec 17) (b : BitVec 8) : BitVec.extractLsb' (n := 32) 0 8 (op ++ a ++ b) = b := by
  refine (field_low (by decide)).trans ?_
  exact field_all

/-! ### Fields of 7, 1, 3, 21 bits -/

theorem form_1_3_21_op (op : BitVec 7) (a : Bool) (b : BitVec 3) (c : BitVec 21) : BitVec.extractLsb' (n := 32) 25 7 (op ++ bit a ++ b ++ c) = op := by
  repeat refine (field_high (by decide)).trans ?_
  exact field_all

theorem form_1_3_21_a (op : BitVec 7) (a : Bool) (b : BitVec 3) (c : BitVec 21) : BitVec.extractLsb' (n := 32) 24 1 (op ++ bit a ++ b ++ c) = bit a := by
  repeat refine (field_high (by decide)).trans ?_
  refine (field_low (by decide)).trans ?_
  exact field_all

theorem form_1_3_21_a_bit (op : BitVec 7) (a : Bool) (b : BitVec 3) (c : BitVec 21) : BitVec.getLsbD (w := 32) (op ++ bit a ++ b ++ c) 24 = a := bit_of_field (form_1_3_21_a op a b c)

theorem form_1_3_21_b (op : BitVec 7) (a : Bool) (b : BitVec 3) (c : BitVec 21) : BitVec.extractLsb' (n := 32) 21 3 (op ++ bit a ++ b ++ c) = b := by
  repeat refine (field_high (by decide)).trans ?_
  refine (field_low (by decide)).trans ?_
  exact field_all

theorem form_1_3_21_c (op : BitVec 7) (a : Bool) (b : BitVec 3) (c : BitVec 21) : BitVec.extractLsb' (n := 32) 0 21 (op ++ bit a ++ b ++ c) = c := by
  refine (field_low (by decide)).trans ?_
  exact field_all

/-! ### Fields of 7, 7, 7, 2, 7, 2 bits -/

theorem form_7_7_2_7_2_op (op : BitVec 7) (a : BitVec 7) (b : BitVec 7) (c : BitVec 2) (d : BitVec 7) (e : BitVec 2) : BitVec.extractLsb' (n := 32) 25 7 (op ++ a ++ b ++ c ++ d ++ e) = op := by
  repeat refine (field_high (by decide)).trans ?_
  exact field_all

theorem form_7_7_2_7_2_a (op : BitVec 7) (a : BitVec 7) (b : BitVec 7) (c : BitVec 2) (d : BitVec 7) (e : BitVec 2) : BitVec.extractLsb' (n := 32) 18 7 (op ++ a ++ b ++ c ++ d ++ e) = a := by
  repeat refine (field_high (by decide)).trans ?_
  refine (field_low (by decide)).trans ?_
  exact field_all

theorem form_7_7_2_7_2_b (op : BitVec 7) (a : BitVec 7) (b : BitVec 7) (c : BitVec 2) (d : BitVec 7) (e : BitVec 2) : BitVec.extractLsb' (n := 32) 11 7 (op ++ a ++ b ++ c ++ d ++ e) = b := by
  repeat refine (field_high (by decide)).trans ?_
  refine (field_low (by decide)).trans ?_
  exact field_all

theorem form_7_7_2_7_2_c (op : BitVec 7) (a : BitVec 7) (b : BitVec 7) (c : BitVec 2) (d : BitVec 7) (e : BitVec 2) : BitVec.extractLsb' (n := 32) 9 2 (op ++ a ++ b ++ c ++ d ++ e) = c := by
  repeat refine (field_high (by decide)).trans ?_
  refine (field_low (by decide)).trans ?_
  exact field_all

theorem form_7_7_2_7_2_d (op : BitVec 7) (a : BitVec 7) (b : BitVec 7) (c : BitVec 2) (d : BitVec 7) (e : BitVec 2) : BitVec.extractLsb' (n := 32) 2 7 (op ++ a ++ b ++ c ++ d ++ e) = d := by
  repeat refine (field_high (by decide)).trans ?_
  refine (field_low (by decide)).trans ?_
  exact field_all

theorem form_7_7_2_7_2_e (op : BitVec 7) (a : BitVec 7) (b : BitVec 7) (c : BitVec 2) (d : BitVec 7) (e : BitVec 2) : BitVec.extractLsb' (n := 32) 0 2 (op ++ a ++ b ++ c ++ d ++ e) = e := by
  refine (field_low (by decide)).trans ?_
  exact field_all

/-! ### Fields of 7, 4, 21 bits -/

theorem form_4_21_op (op : BitVec 7) (a : BitVec 4) (b : BitVec 21) : BitVec.extractLsb' (n := 32) 25 7 (op ++ a ++ b) = op := by
  repeat refine (field_high (by decide)).trans ?_
  exact field_all

theorem form_4_21_a (op : BitVec 7) (a : BitVec 4) (b : BitVec 21) : BitVec.extractLsb' (n := 32) 21 4 (op ++ a ++ b) = a := by
  repeat refine (field_high (by decide)).trans ?_
  refine (field_low (by decide)).trans ?_
  exact field_all

theorem form_4_21_b (op : BitVec 7) (a : BitVec 4) (b : BitVec 21) : BitVec.extractLsb' (n := 32) 0 21 (op ++ a ++ b) = b := by
  refine (field_low (by decide)).trans ?_
  exact field_all

/-! ### Fields of 7, 8, 17 bits -/

theorem form_8_17_op (op : BitVec 7) (a : BitVec 8) (b : BitVec 17) : BitVec.extractLsb' (n := 32) 25 7 (op ++ a ++ b) = op := by
  repeat refine (field_high (by decide)).trans ?_
  exact field_all

theorem form_8_17_a (op : BitVec 7) (a : BitVec 8) (b : BitVec 17) : BitVec.extractLsb' (n := 32) 17 8 (op ++ a ++ b) = a := by
  repeat refine (field_high (by decide)).trans ?_
  refine (field_low (by decide)).trans ?_
  exact field_all

theorem form_8_17_b (op : BitVec 7) (a : BitVec 8) (b : BitVec 17) : BitVec.extractLsb' (n := 32) 0 17 (op ++ a ++ b) = b := by
  refine (field_low (by decide)).trans ?_
  exact field_all

/-! ### Fields of 7, 7, 7, 11 bits -/

theorem form_7_7_11_op (op : BitVec 7) (a : BitVec 7) (b : BitVec 7) (c : BitVec 11) : BitVec.extractLsb' (n := 32) 25 7 (op ++ a ++ b ++ c) = op := by
  repeat refine (field_high (by decide)).trans ?_
  exact field_all

theorem form_7_7_11_a (op : BitVec 7) (a : BitVec 7) (b : BitVec 7) (c : BitVec 11) : BitVec.extractLsb' (n := 32) 18 7 (op ++ a ++ b ++ c) = a := by
  repeat refine (field_high (by decide)).trans ?_
  refine (field_low (by decide)).trans ?_
  exact field_all

theorem form_7_7_11_b (op : BitVec 7) (a : BitVec 7) (b : BitVec 7) (c : BitVec 11) : BitVec.extractLsb' (n := 32) 11 7 (op ++ a ++ b ++ c) = b := by
  repeat refine (field_high (by decide)).trans ?_
  refine (field_low (by decide)).trans ?_
  exact field_all

theorem form_7_7_11_c (op : BitVec 7) (a : BitVec 7) (b : BitVec 7) (c : BitVec 11) : BitVec.extractLsb' (n := 32) 0 11 (op ++ a ++ b ++ c) = c := by
  refine (field_low (by decide)).trans ?_
  exact field_all

/-! ### Fields of 7, 4, 3, 7, 2, 7, 2 bits -/

theorem form_4_3_7_2_7_2_op (op : BitVec 7) (a : BitVec 4) (b : BitVec 3) (c : BitVec 7) (d : BitVec 2) (e : BitVec 7) (f : BitVec 2) : BitVec.extractLsb' (n := 32) 25 7 (op ++ a ++ b ++ c ++ d ++ e ++ f) = op := by
  repeat refine (field_high (by decide)).trans ?_
  exact field_all

theorem form_4_3_7_2_7_2_a (op : BitVec 7) (a : BitVec 4) (b : BitVec 3) (c : BitVec 7) (d : BitVec 2) (e : BitVec 7) (f : BitVec 2) : BitVec.extractLsb' (n := 32) 21 4 (op ++ a ++ b ++ c ++ d ++ e ++ f) = a := by
  repeat refine (field_high (by decide)).trans ?_
  refine (field_low (by decide)).trans ?_
  exact field_all

theorem form_4_3_7_2_7_2_b (op : BitVec 7) (a : BitVec 4) (b : BitVec 3) (c : BitVec 7) (d : BitVec 2) (e : BitVec 7) (f : BitVec 2) : BitVec.extractLsb' (n := 32) 18 3 (op ++ a ++ b ++ c ++ d ++ e ++ f) = b := by
  repeat refine (field_high (by decide)).trans ?_
  refine (field_low (by decide)).trans ?_
  exact field_all

theorem form_4_3_7_2_7_2_c (op : BitVec 7) (a : BitVec 4) (b : BitVec 3) (c : BitVec 7) (d : BitVec 2) (e : BitVec 7) (f : BitVec 2) : BitVec.extractLsb' (n := 32) 11 7 (op ++ a ++ b ++ c ++ d ++ e ++ f) = c := by
  repeat refine (field_high (by decide)).trans ?_
  refine (field_low (by decide)).trans ?_
  exact field_all

theorem form_4_3_7_2_7_2_d (op : BitVec 7) (a : BitVec 4) (b : BitVec 3) (c : BitVec 7) (d : BitVec 2) (e : BitVec 7) (f : BitVec 2) : BitVec.extractLsb' (n := 32) 9 2 (op ++ a ++ b ++ c ++ d ++ e ++ f) = d := by
  repeat refine (field_high (by decide)).trans ?_
  refine (field_low (by decide)).trans ?_
  exact field_all

theorem form_4_3_7_2_7_2_e (op : BitVec 7) (a : BitVec 4) (b : BitVec 3) (c : BitVec 7) (d : BitVec 2) (e : BitVec 7) (f : BitVec 2) : BitVec.extractLsb' (n := 32) 2 7 (op ++ a ++ b ++ c ++ d ++ e ++ f) = e := by
  repeat refine (field_high (by decide)).trans ?_
  refine (field_low (by decide)).trans ?_
  exact field_all

theorem form_4_3_7_2_7_2_f (op : BitVec 7) (a : BitVec 4) (b : BitVec 3) (c : BitVec 7) (d : BitVec 2) (e : BitVec 7) (f : BitVec 2) : BitVec.extractLsb' (n := 32) 0 2 (op ++ a ++ b ++ c ++ d ++ e ++ f) = f := by
  refine (field_low (by decide)).trans ?_
  exact field_all

/-! ### Fields of 7, 4, 3, 7, 11 bits -/

theorem form_4_3_7_11_op (op : BitVec 7) (a : BitVec 4) (b : BitVec 3) (c : BitVec 7) (d : BitVec 11) : BitVec.extractLsb' (n := 32) 25 7 (op ++ a ++ b ++ c ++ d) = op := by
  repeat refine (field_high (by decide)).trans ?_
  exact field_all

theorem form_4_3_7_11_a (op : BitVec 7) (a : BitVec 4) (b : BitVec 3) (c : BitVec 7) (d : BitVec 11) : BitVec.extractLsb' (n := 32) 21 4 (op ++ a ++ b ++ c ++ d) = a := by
  repeat refine (field_high (by decide)).trans ?_
  refine (field_low (by decide)).trans ?_
  exact field_all

theorem form_4_3_7_11_b (op : BitVec 7) (a : BitVec 4) (b : BitVec 3) (c : BitVec 7) (d : BitVec 11) : BitVec.extractLsb' (n := 32) 18 3 (op ++ a ++ b ++ c ++ d) = b := by
  repeat refine (field_high (by decide)).trans ?_
  refine (field_low (by decide)).trans ?_
  exact field_all

theorem form_4_3_7_11_c (op : BitVec 7) (a : BitVec 4) (b : BitVec 3) (c : BitVec 7) (d : BitVec 11) : BitVec.extractLsb' (n := 32) 11 7 (op ++ a ++ b ++ c ++ d) = c := by
  repeat refine (field_high (by decide)).trans ?_
  refine (field_low (by decide)).trans ?_
  exact field_all

theorem form_4_3_7_11_d (op : BitVec 7) (a : BitVec 4) (b : BitVec 3) (c : BitVec 7) (d : BitVec 11) : BitVec.extractLsb' (n := 32) 0 11 (op ++ a ++ b ++ c ++ d) = d := by
  refine (field_low (by decide)).trans ?_
  exact field_all

/-! ### Fields of 7, 7, 7, 3, 8 bits -/

theorem form_7_7_3_8_op (op : BitVec 7) (a : BitVec 7) (b : BitVec 7) (c : BitVec 3) (d : BitVec 8) : BitVec.extractLsb' (n := 32) 25 7 (op ++ a ++ b ++ c ++ d) = op := by
  repeat refine (field_high (by decide)).trans ?_
  exact field_all

theorem form_7_7_3_8_a (op : BitVec 7) (a : BitVec 7) (b : BitVec 7) (c : BitVec 3) (d : BitVec 8) : BitVec.extractLsb' (n := 32) 18 7 (op ++ a ++ b ++ c ++ d) = a := by
  repeat refine (field_high (by decide)).trans ?_
  refine (field_low (by decide)).trans ?_
  exact field_all

theorem form_7_7_3_8_b (op : BitVec 7) (a : BitVec 7) (b : BitVec 7) (c : BitVec 3) (d : BitVec 8) : BitVec.extractLsb' (n := 32) 11 7 (op ++ a ++ b ++ c ++ d) = b := by
  repeat refine (field_high (by decide)).trans ?_
  refine (field_low (by decide)).trans ?_
  exact field_all

theorem form_7_7_3_8_c (op : BitVec 7) (a : BitVec 7) (b : BitVec 7) (c : BitVec 3) (d : BitVec 8) : BitVec.extractLsb' (n := 32) 8 3 (op ++ a ++ b ++ c ++ d) = c := by
  repeat refine (field_high (by decide)).trans ?_
  refine (field_low (by decide)).trans ?_
  exact field_all

theorem form_7_7_3_8_d (op : BitVec 7) (a : BitVec 7) (b : BitVec 7) (c : BitVec 3) (d : BitVec 8) : BitVec.extractLsb' (n := 32) 0 8 (op ++ a ++ b ++ c ++ d) = d := by
  refine (field_low (by decide)).trans ?_
  exact field_all

/-! ### Fields of 7, 7, 7, 3, 2, 4, 2 bits -/

theorem form_7_7_3_2_4_2_op (op : BitVec 7) (a : BitVec 7) (b : BitVec 7) (c : BitVec 3) (d : BitVec 2) (e : BitVec 4) (f : BitVec 2) : BitVec.extractLsb' (n := 32) 25 7 (op ++ a ++ b ++ c ++ d ++ e ++ f) = op := by
  repeat refine (field_high (by decide)).trans ?_
  exact field_all

theorem form_7_7_3_2_4_2_a (op : BitVec 7) (a : BitVec 7) (b : BitVec 7) (c : BitVec 3) (d : BitVec 2) (e : BitVec 4) (f : BitVec 2) : BitVec.extractLsb' (n := 32) 18 7 (op ++ a ++ b ++ c ++ d ++ e ++ f) = a := by
  repeat refine (field_high (by decide)).trans ?_
  refine (field_low (by decide)).trans ?_
  exact field_all

theorem form_7_7_3_2_4_2_b (op : BitVec 7) (a : BitVec 7) (b : BitVec 7) (c : BitVec 3) (d : BitVec 2) (e : BitVec 4) (f : BitVec 2) : BitVec.extractLsb' (n := 32) 11 7 (op ++ a ++ b ++ c ++ d ++ e ++ f) = b := by
  repeat refine (field_high (by decide)).trans ?_
  refine (field_low (by decide)).trans ?_
  exact field_all

theorem form_7_7_3_2_4_2_c (op : BitVec 7) (a : BitVec 7) (b : BitVec 7) (c : BitVec 3) (d : BitVec 2) (e : BitVec 4) (f : BitVec 2) : BitVec.extractLsb' (n := 32) 8 3 (op ++ a ++ b ++ c ++ d ++ e ++ f) = c := by
  repeat refine (field_high (by decide)).trans ?_
  refine (field_low (by decide)).trans ?_
  exact field_all

theorem form_7_7_3_2_4_2_d (op : BitVec 7) (a : BitVec 7) (b : BitVec 7) (c : BitVec 3) (d : BitVec 2) (e : BitVec 4) (f : BitVec 2) : BitVec.extractLsb' (n := 32) 6 2 (op ++ a ++ b ++ c ++ d ++ e ++ f) = d := by
  repeat refine (field_high (by decide)).trans ?_
  refine (field_low (by decide)).trans ?_
  exact field_all

theorem form_7_7_3_2_4_2_e (op : BitVec 7) (a : BitVec 7) (b : BitVec 7) (c : BitVec 3) (d : BitVec 2) (e : BitVec 4) (f : BitVec 2) : BitVec.extractLsb' (n := 32) 2 4 (op ++ a ++ b ++ c ++ d ++ e ++ f) = e := by
  repeat refine (field_high (by decide)).trans ?_
  refine (field_low (by decide)).trans ?_
  exact field_all

theorem form_7_7_3_2_4_2_f (op : BitVec 7) (a : BitVec 7) (b : BitVec 7) (c : BitVec 3) (d : BitVec 2) (e : BitVec 4) (f : BitVec 2) : BitVec.extractLsb' (n := 32) 0 2 (op ++ a ++ b ++ c ++ d ++ e ++ f) = f := by
  refine (field_low (by decide)).trans ?_
  exact field_all

/-! ### Fields of 7, 22, 3 bits -/

theorem form_22_3_op (op : BitVec 7) (a : BitVec 22) (b : BitVec 3) : BitVec.extractLsb' (n := 32) 25 7 (op ++ a ++ b) = op := by
  repeat refine (field_high (by decide)).trans ?_
  exact field_all

theorem form_22_3_a (op : BitVec 7) (a : BitVec 22) (b : BitVec 3) : BitVec.extractLsb' (n := 32) 3 22 (op ++ a ++ b) = a := by
  repeat refine (field_high (by decide)).trans ?_
  refine (field_low (by decide)).trans ?_
  exact field_all

theorem form_22_3_b (op : BitVec 7) (a : BitVec 22) (b : BitVec 3) : BitVec.extractLsb' (n := 32) 0 3 (op ++ a ++ b) = b := by
  refine (field_low (by decide)).trans ?_
  exact field_all

/-! ### Fields of 7, 22, 2, 1 bits -/

theorem form_22_2_1_op (op : BitVec 7) (a : BitVec 22) (b : BitVec 2) (c : Bool) : BitVec.extractLsb' (n := 32) 25 7 (op ++ a ++ b ++ bit c) = op := by
  repeat refine (field_high (by decide)).trans ?_
  exact field_all

theorem form_22_2_1_a (op : BitVec 7) (a : BitVec 22) (b : BitVec 2) (c : Bool) : BitVec.extractLsb' (n := 32) 3 22 (op ++ a ++ b ++ bit c) = a := by
  repeat refine (field_high (by decide)).trans ?_
  refine (field_low (by decide)).trans ?_
  exact field_all

theorem form_22_2_1_b (op : BitVec 7) (a : BitVec 22) (b : BitVec 2) (c : Bool) : BitVec.extractLsb' (n := 32) 1 2 (op ++ a ++ b ++ bit c) = b := by
  repeat refine (field_high (by decide)).trans ?_
  refine (field_low (by decide)).trans ?_
  exact field_all

theorem form_22_2_1_c (op : BitVec 7) (a : BitVec 22) (b : BitVec 2) (c : Bool) : BitVec.extractLsb' (n := 32) 0 1 (op ++ a ++ b ++ bit c) = bit c := by
  refine (field_low (by decide)).trans ?_
  exact field_all

theorem form_22_2_1_c_bit (op : BitVec 7) (a : BitVec 22) (b : BitVec 2) (c : Bool) : BitVec.getLsbD (w := 32) (op ++ a ++ b ++ bit c) 0 = c := bit_of_field (form_22_2_1_c op a b c)

/-! ### Fields of 7, 13, 8, 4 bits -/

theorem form_13_8_4_op (op : BitVec 7) (a : BitVec 13) (b : BitVec 8) (c : BitVec 4) : BitVec.extractLsb' (n := 32) 25 7 (op ++ a ++ b ++ c) = op := by
  repeat refine (field_high (by decide)).trans ?_
  exact field_all

theorem form_13_8_4_a (op : BitVec 7) (a : BitVec 13) (b : BitVec 8) (c : BitVec 4) : BitVec.extractLsb' (n := 32) 12 13 (op ++ a ++ b ++ c) = a := by
  repeat refine (field_high (by decide)).trans ?_
  refine (field_low (by decide)).trans ?_
  exact field_all

theorem form_13_8_4_b (op : BitVec 7) (a : BitVec 13) (b : BitVec 8) (c : BitVec 4) : BitVec.extractLsb' (n := 32) 4 8 (op ++ a ++ b ++ c) = b := by
  repeat refine (field_high (by decide)).trans ?_
  refine (field_low (by decide)).trans ?_
  exact field_all

theorem form_13_8_4_c (op : BitVec 7) (a : BitVec 13) (b : BitVec 8) (c : BitVec 4) : BitVec.extractLsb' (n := 32) 0 4 (op ++ a ++ b ++ c) = c := by
  refine (field_low (by decide)).trans ?_
  exact field_all

/-! ### Decoding by major opcode -/

theorem decode_00 {w : Word} (h : opcodeOf w = 0x00#7) : decode w = fixed [] (.nop (fieldsOf w).k25) := by
  unfold decode
  rw [h]
  rfl

theorem decode_01 {w : Word} (h : opcodeOf w = 0x01#7) : decode w = fixed [] (.limm (fieldsOf w).k25) := by
  unfold decode
  rw [h]
  rfl

theorem decode_02 {w : Word} (h : opcodeOf w = 0x02#7) : decode w = fixed [] (.limh (fieldsOf w).k25) := by
  unfold decode
  rw [h]
  rfl

theorem decode_03 {w : Word} (h : opcodeOf w = 0x03#7) : decode w = fixed (when ((fieldsOf w).k25.extractLsb' 0 13 != 0) 2) (.rep ((fieldsOf w).k25.extractLsb' 19 6) ((fieldsOf w).k25.getLsbD 18) ((fieldsOf w).k25.getLsbD 17) ((fieldsOf w).k25.getLsbD 16) ((fieldsOf w).k25.extractLsb' 13 3)) := by
  unfold decode
  rw [h]
  rfl

theorem decode_04 {w : Word} (h : opcodeOf w = 0x04#7) : decode w = fixed (when ((fieldsOf w).k25.extractLsb' 15 4 != 0) 2) (.mode ((fieldsOf w).k25.extractLsb' 19 6) ((fieldsOf w).k25.extractLsb' 0 15)) := by
  unfold decode
  rw [h]
  rfl

theorem decode_05 {w : Word} (h : opcodeOf w = 0x05#7) : decode w = fixed (when ((fieldsOf w).k25.extractLsb' 0 15 != 0) 2) (.mroute ((fieldsOf w).k25.extractLsb' 23 2) ((fieldsOf w).k25.extractLsb' 20 3) ((fieldsOf w).k25.extractLsb' 15 5)) := by
  unfold decode
  rw [h]
  rfl

theorem decode_06 {w : Word} (h : opcodeOf w = 0x06#7) : decode w = fixed [] (.setmark (fieldsOf w).k25) := by
  unfold decode
  rw [h]
  rfl

theorem decode_07 {w : Word} (h : opcodeOf w = 0x07#7) : decode w = fixed (when ((fieldsOf w).k25.extractLsb' 8 17 != 0) 2) (.trap ((fieldsOf w).k25.extractLsb' 0 8)) := by
  unfold decode
  rw [h]
  rfl

theorem decode_08 {w : Word} (h : opcodeOf w = 0x08#7) : decode w = fixed [] (.br ((fieldsOf w).k25.getLsbD 24) ((fieldsOf w).k25.extractLsb' 21 3) ((fieldsOf w).k25.extractLsb' 0 21)) := by
  unfold decode
  rw [h]
  rfl

theorem decode_09 {w : Word} (h : opcodeOf w = 0x09#7) : decode w = fixed [] (.brs ((fieldsOf w).k25.getLsbD 24) ((fieldsOf w).k25.extractLsb' 21 3) ((fieldsOf w).k25.extractLsb' 0 21)) := by
  unfold decode
  rw [h]
  rfl

theorem decode_0A {w : Word} (h : opcodeOf w = 0x0A#7) : decode w = fixed (when ((fieldsOf w).d != 0x7E#7) 2 ++ when ((fieldsOf w).b != 0x7E#7) 2 ++ when ((fieldsOf w).ra != 0) 5 ++ when ((fieldsOf w).rb != 0) 5) (.bri (fieldsOf w).a) := by
  unfold decode
  rw [h]
  rfl

theorem decode_0B {w : Word} (h : opcodeOf w = 0x0B#7) : decode w = fixed (when ((fieldsOf w).k25.extractLsb' 21 4 != 7) 2) (.call ((fieldsOf w).k25.extractLsb' 0 21)) := by
  unfold decode
  rw [h]
  rfl

theorem decode_0C {w : Word} (h : opcodeOf w = 0x0C#7) : decode w = fixed (when ((fieldsOf w).k25 != 0) 2) .ret := by
  unfold decode
  rw [h]
  rfl

theorem decode_0D {w : Word} (h : opcodeOf w = 0x0D#7) : decode w = fixed (when ((fieldsOf w).k25.extractLsb' 21 4 != 7) 2) (.mark ((fieldsOf w).k25.extractLsb' 0 21)) := by
  unfold decode
  rw [h]
  rfl

theorem decode_0E {w : Word} (h : opcodeOf w = 0x0E#7) : decode w = fixed (when ((fieldsOf w).k25 != 0) 2) .join := by
  unfold decode
  rw [h]
  rfl

theorem decode_0F {w : Word} (h : opcodeOf w = 0x0F#7) : decode w = fixed (when ((fieldsOf w).k25.extractLsb' 8 17 != 0) 2) (.part ((fieldsOf w).k25.extractLsb' 0 8)) := by
  unfold decode
  rw [h]
  rfl

theorem decode_10 {w : Word} (h : opcodeOf w = 0x10#7) : decode w = fixed (when ((fieldsOf w).k25.extractLsb' 8 17 != 0) 2) (.regang ((fieldsOf w).k25.extractLsb' 0 8)) := by
  unfold decode
  rw [h]
  rfl

theorem decode_11 {w : Word} (h : opcodeOf w = 0x11#7) : decode w = fixed (when ((fieldsOf w).k25 != 0) 2) .exit := by
  unfold decode
  rw [h]
  rfl

theorem decode_12 {w : Word} (h : opcodeOf w = 0x12#7) : decode w = fixed [] (.yield ((fieldsOf w).k25.extractLsb' 17 8) ((fieldsOf w).k25.extractLsb' 0 17)) := by
  unfold decode
  rw [h]
  rfl

theorem decode_13 {w : Word} (h : opcodeOf w = 0x13#7) : decode w = fixed (when ((fieldsOf w).k25 != 0) 2) .waitb := by
  unfold decode
  rw [h]
  rfl

theorem decode_14 {w : Word} (h : opcodeOf w = 0x14#7) : decode w = fixed (when ((fieldsOf w).k25 != 0) 2) .bret := by
  unfold decode
  rw [h]
  rfl

theorem decode_15 {w : Word} (h : opcodeOf w = 0x15#7) : decode w = fixed (when ((fieldsOf w).a != 0x7E#7) 2) (.rds (fieldsOf w).d (fieldsOf w).k11) := by
  unfold decode
  rw [h]
  rfl

theorem decode_16 {w : Word} (h : opcodeOf w = 0x16#7) : decode w = fixed (when ((fieldsOf w).d != 0x7E#7) 2) (.wrs (fieldsOf w).a (fieldsOf w).k11) := by
  unfold decode
  rw [h]
  rfl

theorem decode_18 {w : Word} (h : opcodeOf w = 0x18#7) : decode w = fixed [] (.add (fieldsOf w).d (fieldsOf w).a (fieldsOf w).ra (fieldsOf w).b (fieldsOf w).rb) := by
  unfold decode
  rw [h]
  rfl

theorem decode_19 {w : Word} (h : opcodeOf w = 0x19#7) : decode w = fixed [] (.sub (fieldsOf w).d (fieldsOf w).a (fieldsOf w).ra (fieldsOf w).b (fieldsOf w).rb) := by
  unfold decode
  rw [h]
  rfl

theorem decode_1A {w : Word} (h : opcodeOf w = 0x1A#7) : decode w = fixed [] (.mul (fieldsOf w).d (fieldsOf w).a (fieldsOf w).ra (fieldsOf w).b (fieldsOf w).rb) := by
  unfold decode
  rw [h]
  rfl

theorem decode_1B {w : Word} (h : opcodeOf w = 0x1B#7) : decode w = fixed [] (.mulh (fieldsOf w).d (fieldsOf w).a (fieldsOf w).ra (fieldsOf w).b (fieldsOf w).rb) := by
  unfold decode
  rw [h]
  rfl

theorem decode_1C {w : Word} (h : opcodeOf w = 0x1C#7) : decode w = fixed [] (.mad (fieldsOf w).d (fieldsOf w).a (fieldsOf w).ra (fieldsOf w).b (fieldsOf w).rb) := by
  unfold decode
  rw [h]
  rfl

theorem decode_1D {w : Word} (h : opcodeOf w = 0x1D#7) : decode w = fixed [] (.msb (fieldsOf w).d (fieldsOf w).a (fieldsOf w).ra (fieldsOf w).b (fieldsOf w).rb) := by
  unfold decode
  rw [h]
  rfl

theorem decode_1E {w : Word} (h : opcodeOf w = 0x1E#7) : decode w = fixed [] (.min (fieldsOf w).d (fieldsOf w).a (fieldsOf w).ra (fieldsOf w).b (fieldsOf w).rb) := by
  unfold decode
  rw [h]
  rfl

theorem decode_1F {w : Word} (h : opcodeOf w = 0x1F#7) : decode w = fixed [] (.max (fieldsOf w).d (fieldsOf w).a (fieldsOf w).ra (fieldsOf w).b (fieldsOf w).rb) := by
  unfold decode
  rw [h]
  rfl

theorem decode_20 {w : Word} (h : opcodeOf w = 0x20#7) : decode w = fixed [] (.and (fieldsOf w).d (fieldsOf w).a (fieldsOf w).ra (fieldsOf w).b (fieldsOf w).rb) := by
  unfold decode
  rw [h]
  rfl

theorem decode_21 {w : Word} (h : opcodeOf w = 0x21#7) : decode w = fixed [] (.or (fieldsOf w).d (fieldsOf w).a (fieldsOf w).ra (fieldsOf w).b (fieldsOf w).rb) := by
  unfold decode
  rw [h]
  rfl

theorem decode_22 {w : Word} (h : opcodeOf w = 0x22#7) : decode w = fixed [] (.xor (fieldsOf w).d (fieldsOf w).a (fieldsOf w).ra (fieldsOf w).b (fieldsOf w).rb) := by
  unfold decode
  rw [h]
  rfl

theorem decode_23 {w : Word} (h : opcodeOf w = 0x23#7) : decode w = fixed [] (.andn (fieldsOf w).d (fieldsOf w).a (fieldsOf w).ra (fieldsOf w).b (fieldsOf w).rb) := by
  unfold decode
  rw [h]
  rfl

theorem decode_24 {w : Word} (h : opcodeOf w = 0x24#7) : decode w = fixed [] (.shl (fieldsOf w).d (fieldsOf w).a (fieldsOf w).ra (fieldsOf w).b (fieldsOf w).rb) := by
  unfold decode
  rw [h]
  rfl

theorem decode_25 {w : Word} (h : opcodeOf w = 0x25#7) : decode w = fixed [] (.shr (fieldsOf w).d (fieldsOf w).a (fieldsOf w).ra (fieldsOf w).b (fieldsOf w).rb) := by
  unfold decode
  rw [h]
  rfl

theorem decode_26 {w : Word} (h : opcodeOf w = 0x26#7) : decode w = fixed [] (.sha (fieldsOf w).d (fieldsOf w).a (fieldsOf w).ra (fieldsOf w).b (fieldsOf w).rb) := by
  unfold decode
  rw [h]
  rfl

theorem decode_27 {w : Word} (h : opcodeOf w = 0x27#7) : decode w = fixed [] (.rot (fieldsOf w).d (fieldsOf w).a (fieldsOf w).ra (fieldsOf w).b (fieldsOf w).rb) := by
  unfold decode
  rw [h]
  rfl

theorem decode_28 {w : Word} (h : opcodeOf w = 0x28#7) : decode w = fixed [] (.bfe (fieldsOf w).d (fieldsOf w).a (fieldsOf w).ra (fieldsOf w).b (fieldsOf w).rb) := by
  unfold decode
  rw [h]
  rfl

theorem decode_29 {w : Word} (h : opcodeOf w = 0x29#7) : decode w = fixed [] (.bfi (fieldsOf w).d (fieldsOf w).a (fieldsOf w).ra (fieldsOf w).b (fieldsOf w).rb) := by
  unfold decode
  rw [h]
  rfl

theorem decode_2A {w : Word} (h : opcodeOf w = 0x2A#7) : decode w = fixed [] (.sel (fieldsOf w).d (fieldsOf w).a (fieldsOf w).ra (fieldsOf w).b (fieldsOf w).rb) := by
  unfold decode
  rw [h]
  rfl

theorem decode_2B {w : Word} (h : opcodeOf w = 0x2B#7) : decode w = fixed [] (.cmp ((fieldsOf w).d.extractLsb' 3 4) ((fieldsOf w).d.extractLsb' 0 3) (fieldsOf w).a (fieldsOf w).ra (fieldsOf w).b (fieldsOf w).rb) := by
  unfold decode
  rw [h]
  rfl

theorem decode_2C {w : Word} (h : opcodeOf w = 0x2C#7) : decode w = (unSub (fieldsOf w)).getD (.bad 1 none) := by
  unfold decode
  rw [h]
  rfl

theorem decode_2D {w : Word} (h : opcodeOf w = 0x2D#7) : decode w = fixed (when ((fieldsOf w).rb != 0) 5) (.cvt (fieldsOf w).d (fieldsOf w).a (fieldsOf w).ra (fieldsOf w).b) := by
  unfold decode
  rw [h]
  rfl

theorem decode_2E {w : Word} (h : opcodeOf w = 0x2E#7) : decode w = fixed (when ((fieldsOf w).rb != 0) 5) (.mxq (fieldsOf w).d (fieldsOf w).a (fieldsOf w).ra (fieldsOf w).b) := by
  unfold decode
  rw [h]
  rfl

theorem decode_2F {w : Word} (h : opcodeOf w = 0x2F#7) : decode w = fixed [] (.absd (fieldsOf w).d (fieldsOf w).a (fieldsOf w).ra (fieldsOf w).b (fieldsOf w).rb) := by
  unfold decode
  rw [h]
  rfl

theorem decode_30 {w : Word} (h : opcodeOf w = 0x30#7) : decode w = fixed [] (.addi (fieldsOf w).d (fieldsOf w).a (fieldsOf w).k11) := by
  unfold decode
  rw [h]
  rfl

theorem decode_31 {w : Word} (h : opcodeOf w = 0x31#7) : decode w = fixed [] (.muli (fieldsOf w).d (fieldsOf w).a (fieldsOf w).k11) := by
  unfold decode
  rw [h]
  rfl

theorem decode_32 {w : Word} (h : opcodeOf w = 0x32#7) : decode w = fixed [] (.andi (fieldsOf w).d (fieldsOf w).a (fieldsOf w).k11) := by
  unfold decode
  rw [h]
  rfl

theorem decode_33 {w : Word} (h : opcodeOf w = 0x33#7) : decode w = fixed [] (.ori (fieldsOf w).d (fieldsOf w).a (fieldsOf w).k11) := by
  unfold decode
  rw [h]
  rfl

theorem decode_34 {w : Word} (h : opcodeOf w = 0x34#7) : decode w = fixed [] (.xori (fieldsOf w).d (fieldsOf w).a (fieldsOf w).k11) := by
  unfold decode
  rw [h]
  rfl

theorem decode_35 {w : Word} (h : opcodeOf w = 0x35#7) : decode w = fixed [] (.shli (fieldsOf w).d (fieldsOf w).a (fieldsOf w).k11) := by
  unfold decode
  rw [h]
  rfl

theorem decode_36 {w : Word} (h : opcodeOf w = 0x36#7) : decode w = fixed [] (.shri (fieldsOf w).d (fieldsOf w).a (fieldsOf w).k11) := by
  unfold decode
  rw [h]
  rfl

theorem decode_37 {w : Word} (h : opcodeOf w = 0x37#7) : decode w = fixed [] (.shai (fieldsOf w).d (fieldsOf w).a (fieldsOf w).k11) := by
  unfold decode
  rw [h]
  rfl

theorem decode_38 {w : Word} (h : opcodeOf w = 0x38#7) : decode w = fixed [] (.cmpi ((fieldsOf w).d.extractLsb' 3 4) ((fieldsOf w).d.extractLsb' 0 3) (fieldsOf w).a (fieldsOf w).k11) := by
  unfold decode
  rw [h]
  rfl

theorem decode_39 {w : Word} (h : opcodeOf w = 0x39#7) : decode w = fixed [] (.mini (fieldsOf w).d (fieldsOf w).a (fieldsOf w).k11) := by
  unfold decode
  rw [h]
  rfl

theorem decode_3A {w : Word} (h : opcodeOf w = 0x3A#7) : decode w = fixed [] (.maxi (fieldsOf w).d (fieldsOf w).a (fieldsOf w).k11) := by
  unfold decode
  rw [h]
  rfl

theorem decode_40 {w : Word} (h : opcodeOf w = 0x40#7) : decode w = (qxSub (fieldsOf w)).getD (.bad 1 none) := by
  unfold decode
  rw [h]
  rfl

theorem decode_41 {w : Word} (h : opcodeOf w = 0x41#7) : decode w = (gxSub (fieldsOf w)).getD (.bad 1 none) := by
  unfold decode
  rw [h]
  rfl

theorem decode_42 {w : Word} (h : opcodeOf w = 0x42#7) : decode w = fixed [] (.shfl (fieldsOf w).d (fieldsOf w).a (fieldsOf w).ra (fieldsOf w).b (fieldsOf w).rb) := by
  unfold decode
  rw [h]
  rfl

theorem decode_43 {w : Word} (h : opcodeOf w = 0x43#7) : decode w = fixed [] (.movsv (fieldsOf w).d (fieldsOf w).a (fieldsOf w).ra (fieldsOf w).b (fieldsOf w).rb) := by
  unfold decode
  rw [h]
  rfl

theorem decode_48 {w : Word} (h : opcodeOf w = 0x48#7) : decode w = fixed [] (.ld (fieldsOf w).d (fieldsOf w).a (fieldsOf w).kind (fieldsOf w).k8) := by
  unfold decode
  rw [h]
  rfl

theorem decode_49 {w : Word} (h : opcodeOf w = 0x49#7) : decode w = fixed [] (.st (fieldsOf w).d (fieldsOf w).a (fieldsOf w).kind (fieldsOf w).k8) := by
  unfold decode
  rw [h]
  rfl

theorem decode_4A {w : Word} (h : opcodeOf w = 0x4A#7) : decode w = fixed [] (.lds (fieldsOf w).d (fieldsOf w).a (fieldsOf w).kind (fieldsOf w).k8) := by
  unfold decode
  rw [h]
  rfl

theorem decode_4B {w : Word} (h : opcodeOf w = 0x4B#7) : decode w = fixed [] (.sts (fieldsOf w).d (fieldsOf w).a (fieldsOf w).kind (fieldsOf w).k8) := by
  unfold decode
  rw [h]
  rfl

theorem decode_4C {w : Word} (h : opcodeOf w = 0x4C#7) : decode w = fixed [] (.ldx (fieldsOf w).d (fieldsOf w).a (fieldsOf w).kind (fieldsOf w).k8) := by
  unfold decode
  rw [h]
  rfl

theorem decode_4D {w : Word} (h : opcodeOf w = 0x4D#7) : decode w = fixed [] (.ldw (fieldsOf w).d (fieldsOf w).a (fieldsOf w).kind (fieldsOf w).k8) := by
  unfold decode
  rw [h]
  rfl

theorem decode_4E {w : Word} (h : opcodeOf w = 0x4E#7) : decode w = fixed [] (.stw (fieldsOf w).d (fieldsOf w).a (fieldsOf w).kind (fieldsOf w).k8) := by
  unfold decode
  rw [h]
  rfl

theorem decode_4F {w : Word} (h : opcodeOf w = 0x4F#7) : decode w = fixed [] (.cpl (fieldsOf w).d (fieldsOf w).a (fieldsOf w).kind (fieldsOf w).k8) := by
  unfold decode
  rw [h]
  rfl

theorem decode_50 {w : Word} (h : opcodeOf w = 0x50#7) : decode w = fixed (when ((fieldsOf w).rb != 0) 2) (.atom (fieldsOf w).d (fieldsOf w).a (fieldsOf w).kind (fieldsOf w).order (fieldsOf w).aop) := by
  unfold decode
  rw [h]
  rfl

theorem decode_51 {w : Word} (h : opcodeOf w = 0x51#7) : decode w = fixed (when ((fieldsOf w).rb != 0) 2) (.red (fieldsOf w).d (fieldsOf w).a (fieldsOf w).kind (fieldsOf w).order (fieldsOf w).aop) := by
  unfold decode
  rw [h]
  rfl

theorem decode_53 {w : Word} (h : opcodeOf w = 0x53#7) : decode w = fixed (when ((fieldsOf w).ra != 0) 5 ++ when ((fieldsOf w).rb != 0) 5) (.kick (fieldsOf w).d (fieldsOf w).a (fieldsOf w).b) := by
  unfold decode
  rw [h]
  rfl

theorem decode_54 {w : Word} (h : opcodeOf w = 0x54#7) : decode w = (barSub (fieldsOf w)).getD (.bad 1 none) := by
  unfold decode
  rw [h]
  rfl

theorem decode_55 {w : Word} (h : opcodeOf w = 0x55#7) : decode w = (ctrSub (fieldsOf w)).getD (.bad 1 none) := by
  unfold decode
  rw [h]
  rfl

theorem decode_56 {w : Word} (h : opcodeOf w = 0x56#7) : decode w = fixed (when ((fieldsOf w).k25.extractLsb' 3 22 != 0) 2) (.rel ((fieldsOf w).k25.extractLsb' 0 3)) := by
  unfold decode
  rw [h]
  rfl

theorem decode_57 {w : Word} (h : opcodeOf w = 0x57#7) : decode w = fixed (when ((fieldsOf w).k25.extractLsb' 3 22 != 0) 2) (.acq ((fieldsOf w).k25.extractLsb' 0 3)) := by
  unfold decode
  rw [h]
  rfl

theorem decode_58 {w : Word} (h : opcodeOf w = 0x58#7) : decode w = fixed (when ((fieldsOf w).d != 0x7E#7) 2 ++ when ((fieldsOf w).b != 0x7E#7) 2 ++ when ((fieldsOf w).ra != 0) 5 ++ when ((fieldsOf w).rb != 0) 5) (.acql (fieldsOf w).a) := by
  unfold decode
  rw [h]
  rfl

theorem decode_59 {w : Word} (h : opcodeOf w = 0x59#7) : decode w = fixed (when ((fieldsOf w).d.extractLsb' 3 4 != 0) 2 ++ when ((fieldsOf w).ra != 0) 5 ++ when ((fieldsOf w).rb != 0) 5) (.fncr ((fieldsOf w).d.extractLsb' 0 3) (fieldsOf w).a (fieldsOf w).b) := by
  unfold decode
  rw [h]
  rfl

theorem decode_5A {w : Word} (h : opcodeOf w = 0x5A#7) : decode w = (cflSub (fieldsOf w)).getD (.bad 1 none) := by
  unfold decode
  rw [h]
  rfl

theorem decode_60 {w : Word} (h : opcodeOf w = 0x60#7) : decode w = fixed (when ((fieldsOf w).k25.extractLsb' 3 22 != 0) 2) (.mxacq ((fieldsOf w).k25.extractLsb' 1 2) ((fieldsOf w).k25.getLsbD 0)) := by
  unfold decode
  rw [h]
  rfl

theorem decode_61 {w : Word} (h : opcodeOf w = 0x61#7) : decode w = fixed (when ((fieldsOf w).k25 != 0) 2) .mxrel := by
  unfold decode
  rw [h]
  rfl

theorem decode_62 {w : Word} (h : opcodeOf w = 0x62#7) : decode w = fixed (when ((fieldsOf w).ra != 0) 5 ++ when ((fieldsOf w).rb != 0) 5) (.mma (fieldsOf w).d (fieldsOf w).a (fieldsOf w).b) := by
  unfold decode
  rw [h]
  rfl

theorem decode_63 {w : Word} (h : opcodeOf w = 0x63#7) : decode w = fixed (when ((fieldsOf w).ra != 0) 5 ++ when ((fieldsOf w).rb != 0) 5) (.scld (fieldsOf w).d (fieldsOf w).a (fieldsOf w).b) := by
  unfold decode
  rw [h]
  rfl

theorem decode_64 {w : Word} (h : opcodeOf w = 0x64#7) : decode w = (accSub (fieldsOf w)).getD (.bad 1 none) := by
  unfold decode
  rw [h]
  rfl

theorem decode_65 {w : Word} (h : opcodeOf w = 0x65#7) : decode w = fixed (when ((fieldsOf w).k25 != 0) 2) .mxwait := by
  unfold decode
  rw [h]
  rfl

theorem decode_66 {w : Word} (h : opcodeOf w = 0x66#7) : decode w = fixed (when ((fieldsOf w).k25.extractLsb' 12 13 != 0) 2) (.role ((fieldsOf w).k25.extractLsb' 4 8) ((fieldsOf w).k25.extractLsb' 0 4)) := by
  unfold decode
  rw [h]
  rfl

theorem decode_68 {w : Word} (h : opcodeOf w = 0x68#7) : decode w = (ttSub (fieldsOf w)).getD (.bad 1 none) := by
  unfold decode
  rw [h]
  rfl

theorem decode_69 {w : Word} (h : opcodeOf w = 0x69#7) : decode w = (kvSub (fieldsOf w)).getD (.bad 1 none) := by
  unfold decode
  rw [h]
  rfl

theorem decode_6A {w : Word} (h : opcodeOf w = 0x6A#7) : decode w = fixed (when ((fieldsOf w).ra != 0) 5 ++ when ((fieldsOf w).rb != 0) 5) (.ring (fieldsOf w).d (fieldsOf w).a (fieldsOf w).b) := by
  unfold decode
  rw [h]
  rfl

theorem decode_6B {w : Word} (h : opcodeOf w = 0x6B#7) : decode w = (bellSub (fieldsOf w)).getD (.bad 1 none) := by
  unfold decode
  rw [h]
  rfl

theorem decode_70 {w : Word} (h : opcodeOf w = 0x70#7) : decode w = (sysSub (fieldsOf w)).getD (.bad 1 none) := by
  unfold decode
  rw [h]
  rfl

theorem decode_71 {w : Word} (h : opcodeOf w = 0x71#7) : decode w = fixed (when ((fieldsOf w).k25 != 0) 2) .eret := by
  unfold decode
  rw [h]
  rfl

theorem decode_72 {w : Word} (h : opcodeOf w = 0x72#7) : decode w = fixed (when ((fieldsOf w).a != 0x7E#7) 2) (.rdp (fieldsOf w).d (fieldsOf w).k11) := by
  unfold decode
  rw [h]
  rfl

theorem decode_73 {w : Word} (h : opcodeOf w = 0x73#7) : decode w = fixed (when ((fieldsOf w).d != 0x7E#7) 2) (.wrp (fieldsOf w).a (fieldsOf w).k11) := by
  unfold decode
  rw [h]
  rfl

/-! ### Decoding by sub-op -/

theorem unSub_00 {f : Fields} (h : f.b = 0x00#7) : unSub f = some (fixed (when (f.rb != 0) 2) (.mov f.d f.a f.ra)) := by
  unfold unSub
  rw [h]
  rfl

theorem unSub_01 {f : Fields} (h : f.b = 0x01#7) : unSub f = some (fixed (when (f.rb != 0) 2) (.not f.d f.a f.ra)) := by
  unfold unSub
  rw [h]
  rfl

theorem unSub_02 {f : Fields} (h : f.b = 0x02#7) : unSub f = some (fixed (when (f.rb != 0) 2) (.neg f.d f.a f.ra)) := by
  unfold unSub
  rw [h]
  rfl

theorem unSub_03 {f : Fields} (h : f.b = 0x03#7) : unSub f = some (fixed (when (f.rb != 0) 2) (.abs f.d f.a f.ra)) := by
  unfold unSub
  rw [h]
  rfl

theorem unSub_04 {f : Fields} (h : f.b = 0x04#7) : unSub f = some (fixed (when (f.rb != 0) 2) (.clz f.d f.a f.ra)) := by
  unfold unSub
  rw [h]
  rfl

theorem unSub_05 {f : Fields} (h : f.b = 0x05#7) : unSub f = some (fixed (when (f.rb != 0) 2) (.popc f.d f.a f.ra)) := by
  unfold unSub
  rw [h]
  rfl

theorem unSub_06 {f : Fields} (h : f.b = 0x06#7) : unSub f = some (fixed (when (f.rb != 0) 2) (.brev f.d f.a f.ra)) := by
  unfold unSub
  rw [h]
  rfl

theorem unSub_10 {f : Fields} (h : f.b = 0x10#7) : unSub f = some (fixed (when (f.rb != 0) 2) (.rcp f.d f.a f.ra)) := by
  unfold unSub
  rw [h]
  rfl

theorem unSub_11 {f : Fields} (h : f.b = 0x11#7) : unSub f = some (fixed (when (f.rb != 0) 2) (.rsq f.d f.a f.ra)) := by
  unfold unSub
  rw [h]
  rfl

theorem unSub_12 {f : Fields} (h : f.b = 0x12#7) : unSub f = some (fixed (when (f.rb != 0) 2) (.sqrt f.d f.a f.ra)) := by
  unfold unSub
  rw [h]
  rfl

theorem unSub_13 {f : Fields} (h : f.b = 0x13#7) : unSub f = some (fixed (when (f.rb != 0) 2) (.exp2 f.d f.a f.ra)) := by
  unfold unSub
  rw [h]
  rfl

theorem unSub_14 {f : Fields} (h : f.b = 0x14#7) : unSub f = some (fixed (when (f.rb != 0) 2) (.log2 f.d f.a f.ra)) := by
  unfold unSub
  rw [h]
  rfl

theorem unSub_15 {f : Fields} (h : f.b = 0x15#7) : unSub f = some (fixed (when (f.rb != 0) 2) (.sint f.d f.a f.ra)) := by
  unfold unSub
  rw [h]
  rfl

theorem unSub_16 {f : Fields} (h : f.b = 0x16#7) : unSub f = some (fixed (when (f.rb != 0) 2) (.cost f.d f.a f.ra)) := by
  unfold unSub
  rw [h]
  rfl

theorem unSub_17 {f : Fields} (h : f.b = 0x17#7) : unSub f = some (fixed (when (f.rb != 0) 2) (.tanh f.d f.a f.ra)) := by
  unfold unSub
  rw [h]
  rfl

theorem unSub_18 {f : Fields} (h : f.b = 0x18#7) : unSub f = some (fixed (when (f.rb != 0) 2) (.flr f.d f.a f.ra)) := by
  unfold unSub
  rw [h]
  rfl

theorem unSub_19 {f : Fields} (h : f.b = 0x19#7) : unSub f = some (fixed (when (f.rb != 0) 2) (.ceil f.d f.a f.ra)) := by
  unfold unSub
  rw [h]
  rfl

theorem unSub_1A {f : Fields} (h : f.b = 0x1A#7) : unSub f = some (fixed (when (f.rb != 0) 2) (.trnc f.d f.a f.ra)) := by
  unfold unSub
  rw [h]
  rfl

theorem unSub_1B {f : Fields} (h : f.b = 0x1B#7) : unSub f = some (fixed (when (f.rb != 0) 2) (.rint f.d f.a f.ra)) := by
  unfold unSub
  rw [h]
  rfl

theorem unSub_1C {f : Fields} (h : f.b = 0x1C#7) : unSub f = some (fixed (when (f.rb != 0) 2) (.frc f.d f.a f.ra)) := by
  unfold unSub
  rw [h]
  rfl

theorem unSub_1D {f : Fields} (h : f.b = 0x1D#7) : unSub f = some (fixed (when (f.rb != 0) 2) (.fclass f.d f.a f.ra)) := by
  unfold unSub
  rw [h]
  rfl

theorem unSub_1E {f : Fields} (h : f.b = 0x1E#7) : unSub f = some (fixed (when (f.rb != 0) 2 ++ when (f.a != 0x7E#7) 2) (.rand f.d f.ra)) := by
  unfold unSub
  rw [h]
  rfl

theorem qxSub_00 {f : Fields} (h : f.b = 0x00#7) : qxSub f = some (fixed (when (f.rb != 0) 2) (.qswh f.d f.a f.ra)) := by
  unfold qxSub
  rw [h]
  rfl

theorem qxSub_01 {f : Fields} (h : f.b = 0x01#7) : qxSub f = some (fixed (when (f.rb != 0) 2) (.qswv f.d f.a f.ra)) := by
  unfold qxSub
  rw [h]
  rfl

theorem qxSub_02 {f : Fields} (h : f.b = 0x02#7) : qxSub f = some (fixed (when (f.rb != 0) 2) (.qswd f.d f.a f.ra)) := by
  unfold qxSub
  rw [h]
  rfl

theorem qxSub_03 {f : Fields} (h : f.b = 0x03#7) : qxSub f = some (fixed (when (f.rb != 0) 2) (.qbc0 f.d f.a f.ra)) := by
  unfold qxSub
  rw [h]
  rfl

theorem qxSub_04 {f : Fields} (h : f.b = 0x04#7) : qxSub f = some (fixed (when (f.rb != 0) 2) (.qbc1 f.d f.a f.ra)) := by
  unfold qxSub
  rw [h]
  rfl

theorem qxSub_05 {f : Fields} (h : f.b = 0x05#7) : qxSub f = some (fixed (when (f.rb != 0) 2) (.qbc2 f.d f.a f.ra)) := by
  unfold qxSub
  rw [h]
  rfl

theorem qxSub_06 {f : Fields} (h : f.b = 0x06#7) : qxSub f = some (fixed (when (f.rb != 0) 2) (.qbc3 f.d f.a f.ra)) := by
  unfold qxSub
  rw [h]
  rfl

theorem qxSub_07 {f : Fields} (h : f.b = 0x07#7) : qxSub f = some (fixed (when (f.rb != 0) 2) (.qsum f.d f.a f.ra)) := by
  unfold qxSub
  rw [h]
  rfl

theorem qxSub_08 {f : Fields} (h : f.b = 0x08#7) : qxSub f = some (fixed (when (f.rb != 0) 2) (.qmin f.d f.a f.ra)) := by
  unfold qxSub
  rw [h]
  rfl

theorem qxSub_09 {f : Fields} (h : f.b = 0x09#7) : qxSub f = some (fixed (when (f.rb != 0) 2) (.qmax f.d f.a f.ra)) := by
  unfold qxSub
  rw [h]
  rfl

theorem qxSub_0A {f : Fields} (h : f.b = 0x0A#7) : qxSub f = some (fixed (when (f.rb != 0) 2) (.qddx f.d f.a f.ra)) := by
  unfold qxSub
  rw [h]
  rfl

theorem qxSub_0B {f : Fields} (h : f.b = 0x0B#7) : qxSub f = some (fixed (when (f.rb != 0) 2) (.qddy f.d f.a f.ra)) := by
  unfold qxSub
  rw [h]
  rfl

theorem gxSub_00 {f : Fields} (h : f.b = 0x00#7) : gxSub f = some (fixed (when (f.rb != 0) 2 ++ when (f.a != 0x7E#7) 2) (.lane f.d f.ra)) := by
  unfold gxSub
  rw [h]
  rfl

theorem gxSub_01 {f : Fields} (h : f.b = 0x01#7) : gxSub f = some (fixed (when (f.rb != 0) 2 ++ when (f.a != 0x7E#7) 2) (.qidx f.d f.ra)) := by
  unfold gxSub
  rw [h]
  rfl

theorem gxSub_02 {f : Fields} (h : f.b = 0x02#7) : gxSub f = some (fixed (when (f.rb != 0) 2) (.ballot f.d f.a f.ra)) := by
  unfold gxSub
  rw [h]
  rfl

theorem gxSub_03 {f : Fields} (h : f.b = 0x03#7) : gxSub f = some (fixed (when (f.rb != 0) 2) (.vany f.d f.a f.ra)) := by
  unfold gxSub
  rw [h]
  rfl

theorem gxSub_04 {f : Fields} (h : f.b = 0x04#7) : gxSub f = some (fixed (when (f.rb != 0) 2) (.vall f.d f.a f.ra)) := by
  unfold gxSub
  rw [h]
  rfl

theorem gxSub_05 {f : Fields} (h : f.b = 0x05#7) : gxSub f = some (fixed (when (f.rb != 0) 2) (.gsum f.d f.a f.ra)) := by
  unfold gxSub
  rw [h]
  rfl

theorem gxSub_06 {f : Fields} (h : f.b = 0x06#7) : gxSub f = some (fixed (when (f.rb != 0) 2) (.gmin f.d f.a f.ra)) := by
  unfold gxSub
  rw [h]
  rfl

theorem gxSub_07 {f : Fields} (h : f.b = 0x07#7) : gxSub f = some (fixed (when (f.rb != 0) 2) (.gmax f.d f.a f.ra)) := by
  unfold gxSub
  rw [h]
  rfl

theorem gxSub_08 {f : Fields} (h : f.b = 0x08#7) : gxSub f = some (fixed (when (f.rb != 0) 2) (.gscan f.d f.a f.ra)) := by
  unfold gxSub
  rw [h]
  rfl

theorem gxSub_09 {f : Fields} (h : f.b = 0x09#7) : gxSub f = some (fixed (when (f.rb != 0) 2) (.gscanx f.d f.a f.ra)) := by
  unfold gxSub
  rw [h]
  rfl

theorem gxSub_0A {f : Fields} (h : f.b = 0x0A#7) : gxSub f = some (fixed (when (f.rb != 0) 2 ++ when (f.a != 0x7E#7) 2) (.elect f.d f.ra)) := by
  unfold gxSub
  rw [h]
  rfl

theorem gxSub_0B {f : Fields} (h : f.b = 0x0B#7) : gxSub f = some (fixed (when (f.rb != 0) 2) (.match f.d f.a f.ra)) := by
  unfold gxSub
  rw [h]
  rfl

theorem gxSub_0C {f : Fields} (h : f.b = 0x0C#7) : gxSub f = some (fixed (when (f.rb != 0) 2) (.popm f.d f.a f.ra)) := by
  unfold gxSub
  rw [h]
  rfl

theorem barSub_00 {f : Fields} (h : f.b = 0x00#7) : barSub f = some (fixed (when (f.rb != 0) 2 ++ when (f.ra != 0) 5) (.binit f.d f.a)) := by
  unfold barSub
  rw [h]
  rfl

theorem barSub_01 {f : Fields} (h : f.b = 0x01#7) : barSub f = some (fixed (when (f.rb != 0) 2 ++ when (f.ra != 0) 5) (.barr f.d f.a)) := by
  unfold barSub
  rw [h]
  rfl

theorem barSub_02 {f : Fields} (h : f.b = 0x02#7) : barSub f = some (fixed (when (f.rb != 0) 2 ++ when (f.ra != 0) 5) (.barw f.d f.a)) := by
  unfold barSub
  rw [h]
  rfl

theorem barSub_03 {f : Fields} (h : f.b = 0x03#7) : barSub f = some (fixed (when (f.rb != 0) 2 ++ when (f.ra != 0) 5) (.bwait f.d f.a)) := by
  unfold barSub
  rw [h]
  rfl

theorem barSub_04 {f : Fields} (h : f.b = 0x04#7) : barSub f = some (fixed (when (f.rb != 0) 2 ++ when (f.ra != 0) 5) (.bexp f.d f.a)) := by
  unfold barSub
  rw [h]
  rfl

theorem barSub_05 {f : Fields} (h : f.b = 0x05#7) : barSub f = some (fixed (when (f.rb != 0) 2 ++ when (f.ra != 0) 5) (.btest f.d f.a)) := by
  unfold barSub
  rw [h]
  rfl

theorem barSub_06 {f : Fields} (h : f.b = 0x06#7) : barSub f = some (fixed (when (f.rb != 0) 2 ++ when (f.ra != 0) 5) (.btile f.d f.a)) := by
  unfold barSub
  rw [h]
  rfl

theorem barSub_07 {f : Fields} (h : f.b = 0x07#7) : barSub f = some (fixed (when (f.rb != 0) 2 ++ when (f.ra != 0) 5) (.brd f.d f.a)) := by
  unfold barSub
  rw [h]
  rfl

theorem ctrSub_00 {f : Fields} (h : f.b = 0x00#7) : ctrSub f = some (fixed (when (f.rb != 0) 2 ++ when (f.ra != 0) 5) (.ctrw f.d f.a)) := by
  unfold ctrSub
  rw [h]
  rfl

theorem ctrSub_01 {f : Fields} (h : f.b = 0x01#7) : ctrSub f = some (fixed (when (f.rb != 0) 2 ++ when (f.ra != 0) 5) (.ctrt f.d f.a)) := by
  unfold ctrSub
  rw [h]
  rfl

theorem ctrSub_02 {f : Fields} (h : f.b = 0x02#7) : ctrSub f = some (fixed (when (f.rb != 0) 2 ++ when (f.ra != 0) 5) (.ctrrd f.d f.a)) := by
  unfold ctrSub
  rw [h]
  rfl

theorem cflSub_00 {f : Fields} (h : f.b = 0x00#7) : cflSub f = some (fixed (when (f.rb != 0) 2 ++ when (f.ra != 0) 5) (.cwb f.d f.a)) := by
  unfold cflSub
  rw [h]
  rfl

theorem cflSub_01 {f : Fields} (h : f.b = 0x01#7) : cflSub f = some (fixed (when (f.rb != 0) 2 ++ when (f.ra != 0) 5) (.cinv f.d f.a)) := by
  unfold cflSub
  rw [h]
  rfl

theorem cflSub_02 {f : Fields} (h : f.b = 0x02#7) : cflSub f = some (fixed (when (f.rb != 0) 2 ++ when (f.ra != 0) 5) (.cpref f.d f.a)) := by
  unfold cflSub
  rw [h]
  rfl

theorem cflSub_03 {f : Fields} (h : f.b = 0x03#7) : cflSub f = some (fixed (when (f.rb != 0) 2 ++ when (f.ra != 0) 5) (.cdisc f.d f.a)) := by
  unfold cflSub
  rw [h]
  rfl

theorem accSub_00 {f : Fields} (h : f.b = 0x00#7) : accSub f = some (fixed (when (f.rb != 0) 2 ++ when (f.ra != 0) 5 ++ when (f.d != 0x7E#7) 3) (.accz f.a)) := by
  unfold accSub
  rw [h]
  rfl

theorem accSub_01 {f : Fields} (h : f.b = 0x01#7) : accSub f = some (fixed (when (f.rb != 0) 2 ++ when (f.ra != 0) 5) (.accld f.d f.a)) := by
  unfold accSub
  rw [h]
  rfl

theorem accSub_02 {f : Fields} (h : f.b = 0x02#7) : accSub f = some (fixed (when (f.rb != 0) 2 ++ when (f.ra != 0) 5) (.accst f.d f.a)) := by
  unfold accSub
  rw [h]
  rfl

theorem accSub_03 {f : Fields} (h : f.b = 0x03#7) : accSub f = some (fixed (when (f.rb != 0) 2 ++ when (f.ra != 0) 5) (.accrd f.d f.a)) := by
  unfold accSub
  rw [h]
  rfl

theorem accSub_04 {f : Fields} (h : f.b = 0x04#7) : accSub f = some (fixed (when (f.rb != 0) 2 ++ when (f.ra != 0) 5) (.accwr f.d f.a)) := by
  unfold accSub
  rw [h]
  rfl

theorem ttSub_00 {f : Fields} (h : f.b = 0x00#7) : ttSub f = some (fixed (when (f.rb != 0) 2 ++ when (f.ra != 0) 5 ++ when (f.d != 0x7E#7) 3) (.ttinit f.a)) := by
  unfold ttSub
  rw [h]
  rfl

theorem ttSub_01 {f : Fields} (h : f.b = 0x01#7) : ttSub f = some (fixed (when (f.rb != 0) 2 ++ when (f.ra != 0) 5) (.ttadd f.d f.a)) := by
  unfold ttSub
  rw [h]
  rfl

theorem ttSub_02 {f : Fields} (h : f.b = 0x02#7) : ttSub f = some (fixed (when (f.rb != 0) 2 ++ when (f.ra != 0) 5) (.ttanc f.d f.a)) := by
  unfold ttSub
  rw [h]
  rfl

theorem ttSub_03 {f : Fields} (h : f.b = 0x03#7) : ttSub f = some (fixed (when (f.rb != 0) 2 ++ when (f.ra != 0) 5) (.ttpos f.d f.a)) := by
  unfold ttSub
  rw [h]
  rfl

theorem ttSub_04 {f : Fields} (h : f.b = 0x04#7) : ttSub f = some (fixed (when (f.rb != 0) 2 ++ when (f.ra != 0) 5) (.ttpar f.d f.a)) := by
  unfold ttSub
  rw [h]
  rfl

theorem ttSub_05 {f : Fields} (h : f.b = 0x05#7) : ttSub f = some (fixed (when (f.rb != 0) 2 ++ when (f.ra != 0) 5) (.ttstok f.d f.a)) := by
  unfold ttSub
  rw [h]
  rfl

theorem ttSub_06 {f : Fields} (h : f.b = 0x06#7) : ttSub f = some (fixed (when (f.rb != 0) 2 ++ when (f.ra != 0) 5) (.ttgtok f.d f.a)) := by
  unfold ttSub
  rw [h]
  rfl

theorem ttSub_07 {f : Fields} (h : f.b = 0x07#7) : ttSub f = some (fixed (when (f.rb != 0) 2 ++ when (f.ra != 0) 5) (.ttssc f.d f.a)) := by
  unfold ttSub
  rw [h]
  rfl

theorem ttSub_08 {f : Fields} (h : f.b = 0x08#7) : ttSub f = some (fixed (when (f.rb != 0) 2 ++ when (f.ra != 0) 5) (.ttgsc f.d f.a)) := by
  unfold ttSub
  rw [h]
  rfl

theorem ttSub_09 {f : Fields} (h : f.b = 0x09#7) : ttSub f = some (fixed (when (f.rb != 0) 2 ++ when (f.ra != 0) 5) (.ttprune f.d f.a)) := by
  unfold ttSub
  rw [h]
  rfl

theorem ttSub_0A {f : Fields} (h : f.b = 0x0A#7) : ttSub f = some (fixed (when (f.rb != 0) 2 ++ when (f.ra != 0) 5 ++ when (f.a != 0x7E#7) 3) (.ttcnt f.d)) := by
  unfold ttSub
  rw [h]
  rfl

theorem kvSub_00 {f : Fields} (h : f.b = 0x00#7) : kvSub f = some (fixed (when (f.rb != 0) 2 ++ when (f.ra != 0) 5) (.kvx f.d f.a)) := by
  unfold kvSub
  rw [h]
  rfl

theorem kvSub_01 {f : Fields} (h : f.b = 0x01#7) : kvSub f = some (fixed (when (f.rb != 0) 2 ++ when (f.ra != 0) 5) (.kvapp f.d f.a)) := by
  unfold kvSub
  rw [h]
  rfl

theorem kvSub_02 {f : Fields} (h : f.b = 0x02#7) : kvSub f = some (fixed (when (f.rb != 0) 2 ++ when (f.ra != 0) 5) (.kvtrim f.d f.a)) := by
  unfold kvSub
  rw [h]
  rfl

theorem kvSub_03 {f : Fields} (h : f.b = 0x03#7) : kvSub f = some (fixed (when (f.rb != 0) 2 ++ when (f.ra != 0) 5 ++ when (f.d != 0x7E#7) 3) (.kvpark f.a)) := by
  unfold kvSub
  rw [h]
  rfl

theorem kvSub_04 {f : Fields} (h : f.b = 0x04#7) : kvSub f = some (fixed (when (f.rb != 0) 2 ++ when (f.ra != 0) 5) (.kvseq f.d f.a)) := by
  unfold kvSub
  rw [h]
  rfl

theorem bellSub_00 {f : Fields} (h : f.b = 0x00#7) : bellSub f = some (fixed (when (f.rb != 0) 2 ++ when (f.ra != 0) 5) (.bmask f.d f.a)) := by
  unfold bellSub
  rw [h]
  rfl

theorem bellSub_01 {f : Fields} (h : f.b = 0x01#7) : bellSub f = some (fixed (when (f.rb != 0) 2 ++ when (f.ra != 0) 5 ++ when (f.a != 0x7E#7) 3) (.bpend f.d)) := by
  unfold bellSub
  rw [h]
  rfl

theorem bellSub_02 {f : Fields} (h : f.b = 0x02#7) : bellSub f = some (fixed (when (f.rb != 0) 2 ++ when (f.ra != 0) 5) (.btake f.d f.a)) := by
  unfold bellSub
  rw [h]
  rfl

theorem bellSub_03 {f : Fields} (h : f.b = 0x03#7) : bellSub f = some (fixed (when (f.rb != 0) 2 ++ when (f.ra != 0) 5 ++ when (f.d != 0x7E#7) 3) (.bhpc f.a)) := by
  unfold bellSub
  rw [h]
  rfl

theorem bellSub_04 {f : Fields} (h : f.b = 0x04#7) : bellSub f = some (fixed (when (f.rb != 0) 2 ++ when (f.ra != 0) 5 ++ when (f.d != 0x7E#7) 3) (.bself f.a)) := by
  unfold bellSub
  rw [h]
  rfl

theorem sysSub_00 {f : Fields} (h : f.b = 0x00#7) : sysSub f = some (fixed (when (f.rb != 0) 2 ++ when (f.ra != 0) 5) (.keyw f.d f.a)) := by
  unfold sysSub
  rw [h]
  rfl

theorem sysSub_01 {f : Fields} (h : f.b = 0x01#7) : sysSub f = some (fixed (when (f.rb != 0) 2 ++ when (f.ra != 0) 5) (.waym f.d f.a)) := by
  unfold sysSub
  rw [h]
  rfl

theorem sysSub_02 {f : Fields} (h : f.b = 0x02#7) : sysSub f = some (fixed (when (f.rb != 0) 2 ++ when (f.ra != 0) 5) (.klass f.d f.a)) := by
  unfold sysSub
  rw [h]
  rfl

theorem sysSub_03 {f : Fields} (h : f.b = 0x03#7) : sysSub f = some (fixed (when (f.rb != 0) 2 ++ when (f.ra != 0) 5) (.split f.d f.a)) := by
  unfold sysSub
  rw [h]
  rfl

theorem sysSub_04 {f : Fields} (h : f.b = 0x04#7) : sysSub f = some (fixed (when (f.rb != 0) 2 ++ when (f.ra != 0) 5) (.preqHold f.d f.a)) := by
  unfold sysSub
  rw [h]
  rfl

theorem sysSub_05 {f : Fields} (h : f.b = 0x05#7) : sysSub f = some (fixed (when (f.rb != 0) 2 ++ when (f.ra != 0) 5) (.freeze f.d f.a)) := by
  unfold sysSub
  rw [h]
  rfl

theorem sysSub_06 {f : Fields} (h : f.b = 0x06#7) : sysSub f = some (fixed (when (f.rb != 0) 2 ++ when (f.ra != 0) 5) (.wingr f.d f.a)) := by
  unfold sysSub
  rw [h]
  rfl

theorem sysSub_07 {f : Fields} (h : f.b = 0x07#7) : sysSub f = some (fixed (when (f.rb != 0) 2 ++ when (f.ra != 0) 5) (.jrnl f.d f.a)) := by
  unfold sysSub
  rw [h]
  rfl

end Sys2Proof
end

