-- ==== Sys2Proof/Laws/State.lean ====
section
/-! SUPPORT. What each update of the state leaves in every field, true by unfolding it once. -/

namespace Sys2Proof.Machine

open Sys2Proof

/-! ### Putting an entry on the agenda. -/

@[simp] theorem State.at_now (s : State) (clock : Nat) (e : Instr) : (s.at clock e).now = s.now := rfl
@[simp] theorem State.at_turn (s : State) (clock : Nat) (e : Instr) : (s.at clock e).turn = s.turn := rfl
@[simp] theorem State.at_cur (s : State) (clock : Nat) (e : Instr) : (s.at clock e).cur = s.cur := rfl
@[simp] theorem State.at_fresh (s : State) (clock : Nat) (e : Instr) : (s.at clock e).fresh = s.fresh := rfl
@[simp] theorem State.at_agenda (s : State) (clock : Nat) (e : Instr) : (s.at clock e).agenda = s.agenda ++ [(clock, e)] := rfl
@[simp] theorem State.at_dram (s : State) (clock : Nat) (e : Instr) : (s.at clock e).dram = s.dram := rfl
@[simp] theorem State.at_hostMem (s : State) (clock : Nat) (e : Instr) : (s.at clock e).hostMem = s.hostMem := rfl
@[simp] theorem State.at_cores (s : State) (clock : Nat) (e : Instr) : (s.at clock e).cores = s.cores := rfl
@[simp] theorem State.at_blocks (s : State) (clock : Nat) (e : Instr) : (s.at clock e).blocks = s.blocks := rfl
@[simp] theorem State.at_launches (s : State) (clock : Nat) (e : Instr) : (s.at clock e).launches = s.launches := rfl
@[simp] theorem State.at_queues (s : State) (clock : Nat) (e : Instr) : (s.at clock e).queues = s.queues := rfl
@[simp] theorem State.at_dist (s : State) (clock : Nat) (e : Instr) : (s.at clock e).dist = s.dist := rfl
@[simp] theorem State.at_slices (s : State) (clock : Nat) (e : Instr) : (s.at clock e).slices = s.slices := rfl
@[simp] theorem State.at_sliceReqs (s : State) (clock : Nat) (e : Instr) : (s.at clock e).sliceReqs = s.sliceReqs := rfl
@[simp] theorem State.at_memCache (s : State) (clock : Nat) (e : Instr) : (s.at clock e).memCache = s.memCache := rfl
@[simp] theorem State.at_classOf (s : State) (clock : Nat) (e : Instr) : (s.at clock e).classOf = s.classOf := rfl
@[simp] theorem State.at_classes (s : State) (clock : Nat) (e : Instr) : (s.at clock e).classes = s.classes := rfl
@[simp] theorem State.at_tables (s : State) (clock : Nat) (e : Instr) : (s.at clock e).tables = s.tables := rfl
@[simp] theorem State.at_graticule (s : State) (clock : Nat) (e : Instr) : (s.at clock e).graticule = s.graticule := rfl
@[simp] theorem State.at_pages (s : State) (clock : Nat) (e : Instr) : (s.at clock e).pages = s.pages := rfl
@[simp] theorem State.at_refuseMarks (s : State) (clock : Nat) (e : Instr) : (s.at clock e).refuseMarks = s.refuseMarks := rfl
@[simp] theorem State.at_parks (s : State) (clock : Nat) (e : Instr) : (s.at clock e).parks = s.parks := rfl
@[simp] theorem State.at_poison (s : State) (clock : Nat) (e : Instr) : (s.at clock e).poison = s.poison := rfl
@[simp] theorem State.at_faultHeld (s : State) (clock : Nat) (e : Instr) : (s.at clock e).faultHeld = s.faultHeld := rfl
@[simp] theorem State.at_cmds (s : State) (clock : Nat) (e : Instr) : (s.at clock e).cmds = s.cmds := rfl
@[simp] theorem State.at_tickets (s : State) (clock : Nat) (e : Instr) : (s.at clock e).tickets = s.tickets := rfl
@[simp] theorem State.at_heldTickets (s : State) (clock : Nat) (e : Instr) : (s.at clock e).heldTickets = s.heldTickets := rfl
@[simp] theorem State.at_remoteParks (s : State) (clock : Nat) (e : Instr) : (s.at clock e).remoteParks = s.remoteParks := rfl
@[simp] theorem State.at_ports (s : State) (clock : Nat) (e : Instr) : (s.at clock e).ports = s.ports := rfl
@[simp] theorem State.at_fabric (s : State) (clock : Nat) (e : Instr) : (s.at clock e).fabric = s.fabric := rfl
@[simp] theorem State.at_flows (s : State) (clock : Nat) (e : Instr) : (s.at clock e).flows = s.flows := rfl
@[simp] theorem State.at_unreached (s : State) (clock : Nat) (e : Instr) : (s.at clock e).unreached = s.unreached := rfl
@[simp] theorem State.at_cleanDue (s : State) (clock : Nat) (e : Instr) : (s.at clock e).cleanDue = s.cleanDue := rfl
@[simp] theorem State.at_fabOut (s : State) (clock : Nat) (e : Instr) : (s.at clock e).fabOut = s.fabOut := rfl
@[simp] theorem State.at_hostLanes (s : State) (clock : Nat) (e : Instr) : (s.at clock e).hostLanes = s.hostLanes := rfl
@[simp] theorem State.at_hostHeld (s : State) (clock : Nat) (e : Instr) : (s.at clock e).hostHeld = s.hostHeld := rfl
@[simp] theorem State.at_domains (s : State) (clock : Nat) (e : Instr) : (s.at clock e).domains = s.domains := rfl
@[simp] theorem State.at_funcs (s : State) (clock : Nat) (e : Instr) : (s.at clock e).funcs = s.funcs := rfl
@[simp] theorem State.at_pools (s : State) (clock : Nat) (e : Instr) : (s.at clock e).pools = s.pools := rfl
@[simp] theorem State.at_refs (s : State) (clock : Nat) (e : Instr) : (s.at clock e).refs = s.refs := rfl
@[simp] theorem State.at_kvq (s : State) (clock : Nat) (e : Instr) : (s.at clock e).kvq = s.kvq := rfl
@[simp] theorem State.at_kvWait (s : State) (clock : Nat) (e : Instr) : (s.at clock e).kvWait = s.kvWait := rfl
@[simp] theorem State.at_boards (s : State) (clock : Nat) (e : Instr) : (s.at clock e).boards = s.boards := rfl
@[simp] theorem State.at_rights (s : State) (clock : Nat) (e : Instr) : (s.at clock e).rights = s.rights := rfl
@[simp] theorem State.at_wakeHeld (s : State) (clock : Nat) (e : Instr) : (s.at clock e).wakeHeld = s.wakeHeld := rfl
@[simp] theorem State.at_share (s : State) (clock : Nat) (e : Instr) : (s.at clock e).share = s.share := rfl
@[simp] theorem State.at_homeJobs (s : State) (clock : Nat) (e : Instr) : (s.at clock e).homeJobs = s.homeJobs := rfl
@[simp] theorem State.at_homeServers (s : State) (clock : Nat) (e : Instr) : (s.at clock e).homeServers = s.homeServers := rfl
@[simp] theorem State.at_served (s : State) (clock : Nat) (e : Instr) : (s.at clock e).served = s.served := rfl
@[simp] theorem State.at_fw (s : State) (clock : Nat) (e : Instr) : (s.at clock e).fw = s.fw := rfl
@[simp] theorem State.at_pr (s : State) (clock : Nat) (e : Instr) : (s.at clock e).pr = s.pr := rfl

/-! ### Putting an entry of open latency on the agenda. -/

@[simp] theorem State.later_now (s : State) (e : Instr) : (s.later e).now = s.now := rfl
@[simp] theorem State.later_turn (s : State) (e : Instr) : (s.later e).turn = s.turn := rfl
@[simp] theorem State.later_cur (s : State) (e : Instr) : (s.later e).cur = s.cur := rfl
@[simp] theorem State.later_fresh (s : State) (e : Instr) : (s.later e).fresh = s.fresh + 1 := rfl
@[simp] theorem State.later_agenda (s : State) (e : Instr) : (s.later e).agenda = s.agenda ++ [(s.now + 1 + Config.latency s.fresh, e)] := rfl
@[simp] theorem State.later_dram (s : State) (e : Instr) : (s.later e).dram = s.dram := rfl
@[simp] theorem State.later_hostMem (s : State) (e : Instr) : (s.later e).hostMem = s.hostMem := rfl
@[simp] theorem State.later_cores (s : State) (e : Instr) : (s.later e).cores = s.cores := rfl
@[simp] theorem State.later_blocks (s : State) (e : Instr) : (s.later e).blocks = s.blocks := rfl
@[simp] theorem State.later_launches (s : State) (e : Instr) : (s.later e).launches = s.launches := rfl
@[simp] theorem State.later_queues (s : State) (e : Instr) : (s.later e).queues = s.queues := rfl
@[simp] theorem State.later_dist (s : State) (e : Instr) : (s.later e).dist = s.dist := rfl
@[simp] theorem State.later_slices (s : State) (e : Instr) : (s.later e).slices = s.slices := rfl
@[simp] theorem State.later_sliceReqs (s : State) (e : Instr) : (s.later e).sliceReqs = s.sliceReqs := rfl
@[simp] theorem State.later_memCache (s : State) (e : Instr) : (s.later e).memCache = s.memCache := rfl
@[simp] theorem State.later_classOf (s : State) (e : Instr) : (s.later e).classOf = s.classOf := rfl
@[simp] theorem State.later_classes (s : State) (e : Instr) : (s.later e).classes = s.classes := rfl
@[simp] theorem State.later_tables (s : State) (e : Instr) : (s.later e).tables = s.tables := rfl
@[simp] theorem State.later_graticule (s : State) (e : Instr) : (s.later e).graticule = s.graticule := rfl
@[simp] theorem State.later_pages (s : State) (e : Instr) : (s.later e).pages = s.pages := rfl
@[simp] theorem State.later_refuseMarks (s : State) (e : Instr) : (s.later e).refuseMarks = s.refuseMarks := rfl
@[simp] theorem State.later_parks (s : State) (e : Instr) : (s.later e).parks = s.parks := rfl
@[simp] theorem State.later_poison (s : State) (e : Instr) : (s.later e).poison = s.poison := rfl
@[simp] theorem State.later_faultHeld (s : State) (e : Instr) : (s.later e).faultHeld = s.faultHeld := rfl
@[simp] theorem State.later_cmds (s : State) (e : Instr) : (s.later e).cmds = s.cmds := rfl
@[simp] theorem State.later_tickets (s : State) (e : Instr) : (s.later e).tickets = s.tickets := rfl
@[simp] theorem State.later_heldTickets (s : State) (e : Instr) : (s.later e).heldTickets = s.heldTickets := rfl
@[simp] theorem State.later_remoteParks (s : State) (e : Instr) : (s.later e).remoteParks = s.remoteParks := rfl
@[simp] theorem State.later_ports (s : State) (e : Instr) : (s.later e).ports = s.ports := rfl
@[simp] theorem State.later_fabric (s : State) (e : Instr) : (s.later e).fabric = s.fabric := rfl
@[simp] theorem State.later_flows (s : State) (e : Instr) : (s.later e).flows = s.flows := rfl
@[simp] theorem State.later_unreached (s : State) (e : Instr) : (s.later e).unreached = s.unreached := rfl
@[simp] theorem State.later_cleanDue (s : State) (e : Instr) : (s.later e).cleanDue = s.cleanDue := rfl
@[simp] theorem State.later_fabOut (s : State) (e : Instr) : (s.later e).fabOut = s.fabOut := rfl
@[simp] theorem State.later_hostLanes (s : State) (e : Instr) : (s.later e).hostLanes = s.hostLanes := rfl
@[simp] theorem State.later_hostHeld (s : State) (e : Instr) : (s.later e).hostHeld = s.hostHeld := rfl
@[simp] theorem State.later_domains (s : State) (e : Instr) : (s.later e).domains = s.domains := rfl
@[simp] theorem State.later_funcs (s : State) (e : Instr) : (s.later e).funcs = s.funcs := rfl
@[simp] theorem State.later_pools (s : State) (e : Instr) : (s.later e).pools = s.pools := rfl
@[simp] theorem State.later_refs (s : State) (e : Instr) : (s.later e).refs = s.refs := rfl
@[simp] theorem State.later_kvq (s : State) (e : Instr) : (s.later e).kvq = s.kvq := rfl
@[simp] theorem State.later_kvWait (s : State) (e : Instr) : (s.later e).kvWait = s.kvWait := rfl
@[simp] theorem State.later_boards (s : State) (e : Instr) : (s.later e).boards = s.boards := rfl
@[simp] theorem State.later_rights (s : State) (e : Instr) : (s.later e).rights = s.rights := rfl
@[simp] theorem State.later_wakeHeld (s : State) (e : Instr) : (s.later e).wakeHeld = s.wakeHeld := rfl
@[simp] theorem State.later_share (s : State) (e : Instr) : (s.later e).share = s.share := rfl
@[simp] theorem State.later_homeJobs (s : State) (e : Instr) : (s.later e).homeJobs = s.homeJobs := rfl
@[simp] theorem State.later_homeServers (s : State) (e : Instr) : (s.later e).homeServers = s.homeServers := rfl
@[simp] theorem State.later_served (s : State) (e : Instr) : (s.later e).served = s.served := rfl
@[simp] theorem State.later_fw (s : State) (e : Instr) : (s.later e).fw = s.fw := rfl
@[simp] theorem State.later_pr (s : State) (e : Instr) : (s.later e).pr = s.pr := rfl

/-! ### A fresh number. -/

@[simp] theorem State.bump_now (s : State) : (s.bump).now = s.now := rfl
@[simp] theorem State.bump_turn (s : State) : (s.bump).turn = s.turn := rfl
@[simp] theorem State.bump_cur (s : State) : (s.bump).cur = s.cur := rfl
@[simp] theorem State.bump_fresh (s : State) : (s.bump).fresh = s.fresh + 1 := rfl
@[simp] theorem State.bump_agenda (s : State) : (s.bump).agenda = s.agenda := rfl
@[simp] theorem State.bump_dram (s : State) : (s.bump).dram = s.dram := rfl
@[simp] theorem State.bump_hostMem (s : State) : (s.bump).hostMem = s.hostMem := rfl
@[simp] theorem State.bump_cores (s : State) : (s.bump).cores = s.cores := rfl
@[simp] theorem State.bump_blocks (s : State) : (s.bump).blocks = s.blocks := rfl
@[simp] theorem State.bump_launches (s : State) : (s.bump).launches = s.launches := rfl
@[simp] theorem State.bump_queues (s : State) : (s.bump).queues = s.queues := rfl
@[simp] theorem State.bump_dist (s : State) : (s.bump).dist = s.dist := rfl
@[simp] theorem State.bump_slices (s : State) : (s.bump).slices = s.slices := rfl
@[simp] theorem State.bump_sliceReqs (s : State) : (s.bump).sliceReqs = s.sliceReqs := rfl
@[simp] theorem State.bump_memCache (s : State) : (s.bump).memCache = s.memCache := rfl
@[simp] theorem State.bump_classOf (s : State) : (s.bump).classOf = s.classOf := rfl
@[simp] theorem State.bump_classes (s : State) : (s.bump).classes = s.classes := rfl
@[simp] theorem State.bump_tables (s : State) : (s.bump).tables = s.tables := rfl
@[simp] theorem State.bump_graticule (s : State) : (s.bump).graticule = s.graticule := rfl
@[simp] theorem State.bump_pages (s : State) : (s.bump).pages = s.pages := rfl
@[simp] theorem State.bump_refuseMarks (s : State) : (s.bump).refuseMarks = s.refuseMarks := rfl
@[simp] theorem State.bump_parks (s : State) : (s.bump).parks = s.parks := rfl
@[simp] theorem State.bump_poison (s : State) : (s.bump).poison = s.poison := rfl
@[simp] theorem State.bump_faultHeld (s : State) : (s.bump).faultHeld = s.faultHeld := rfl
@[simp] theorem State.bump_cmds (s : State) : (s.bump).cmds = s.cmds := rfl
@[simp] theorem State.bump_tickets (s : State) : (s.bump).tickets = s.tickets := rfl
@[simp] theorem State.bump_heldTickets (s : State) : (s.bump).heldTickets = s.heldTickets := rfl
@[simp] theorem State.bump_remoteParks (s : State) : (s.bump).remoteParks = s.remoteParks := rfl
@[simp] theorem State.bump_ports (s : State) : (s.bump).ports = s.ports := rfl
@[simp] theorem State.bump_fabric (s : State) : (s.bump).fabric = s.fabric := rfl
@[simp] theorem State.bump_flows (s : State) : (s.bump).flows = s.flows := rfl
@[simp] theorem State.bump_unreached (s : State) : (s.bump).unreached = s.unreached := rfl
@[simp] theorem State.bump_cleanDue (s : State) : (s.bump).cleanDue = s.cleanDue := rfl
@[simp] theorem State.bump_fabOut (s : State) : (s.bump).fabOut = s.fabOut := rfl
@[simp] theorem State.bump_hostLanes (s : State) : (s.bump).hostLanes = s.hostLanes := rfl
@[simp] theorem State.bump_hostHeld (s : State) : (s.bump).hostHeld = s.hostHeld := rfl
@[simp] theorem State.bump_domains (s : State) : (s.bump).domains = s.domains := rfl
@[simp] theorem State.bump_funcs (s : State) : (s.bump).funcs = s.funcs := rfl
@[simp] theorem State.bump_pools (s : State) : (s.bump).pools = s.pools := rfl
@[simp] theorem State.bump_refs (s : State) : (s.bump).refs = s.refs := rfl
@[simp] theorem State.bump_kvq (s : State) : (s.bump).kvq = s.kvq := rfl
@[simp] theorem State.bump_kvWait (s : State) : (s.bump).kvWait = s.kvWait := rfl
@[simp] theorem State.bump_boards (s : State) : (s.bump).boards = s.boards := rfl
@[simp] theorem State.bump_rights (s : State) : (s.bump).rights = s.rights := rfl
@[simp] theorem State.bump_wakeHeld (s : State) : (s.bump).wakeHeld = s.wakeHeld := rfl
@[simp] theorem State.bump_share (s : State) : (s.bump).share = s.share := rfl
@[simp] theorem State.bump_homeJobs (s : State) : (s.bump).homeJobs = s.homeJobs := rfl
@[simp] theorem State.bump_homeServers (s : State) : (s.bump).homeServers = s.homeServers := rfl
@[simp] theorem State.bump_served (s : State) : (s.bump).served = s.served := rfl
@[simp] theorem State.bump_fw (s : State) : (s.bump).fw = s.fw := rfl
@[simp] theorem State.bump_pr (s : State) : (s.bump).pr = s.pr := rfl

/-! ### Changing a core. -/

@[simp] theorem State.modCore_now (s : State) (k : Nat) (f : Core → Core) : (s.modCore k f).now = s.now := rfl
@[simp] theorem State.modCore_turn (s : State) (k : Nat) (f : Core → Core) : (s.modCore k f).turn = s.turn := rfl
@[simp] theorem State.modCore_cur (s : State) (k : Nat) (f : Core → Core) : (s.modCore k f).cur = s.cur := rfl
@[simp] theorem State.modCore_fresh (s : State) (k : Nat) (f : Core → Core) : (s.modCore k f).fresh = s.fresh := rfl
@[simp] theorem State.modCore_agenda (s : State) (k : Nat) (f : Core → Core) : (s.modCore k f).agenda = s.agenda := rfl
@[simp] theorem State.modCore_dram (s : State) (k : Nat) (f : Core → Core) : (s.modCore k f).dram = s.dram := rfl
@[simp] theorem State.modCore_hostMem (s : State) (k : Nat) (f : Core → Core) : (s.modCore k f).hostMem = s.hostMem := rfl
@[simp] theorem State.modCore_cores (s : State) (k : Nat) (f : Core → Core) : (s.modCore k f).cores = Kv.put s.cores k (f (s.coreAt k)) := rfl
@[simp] theorem State.modCore_blocks (s : State) (k : Nat) (f : Core → Core) : (s.modCore k f).blocks = s.blocks := rfl
@[simp] theorem State.modCore_launches (s : State) (k : Nat) (f : Core → Core) : (s.modCore k f).launches = s.launches := rfl
@[simp] theorem State.modCore_queues (s : State) (k : Nat) (f : Core → Core) : (s.modCore k f).queues = s.queues := rfl
@[simp] theorem State.modCore_dist (s : State) (k : Nat) (f : Core → Core) : (s.modCore k f).dist = s.dist := rfl
@[simp] theorem State.modCore_slices (s : State) (k : Nat) (f : Core → Core) : (s.modCore k f).slices = s.slices := rfl
@[simp] theorem State.modCore_sliceReqs (s : State) (k : Nat) (f : Core → Core) : (s.modCore k f).sliceReqs = s.sliceReqs := rfl
@[simp] theorem State.modCore_memCache (s : State) (k : Nat) (f : Core → Core) : (s.modCore k f).memCache = s.memCache := rfl
@[simp] theorem State.modCore_classOf (s : State) (k : Nat) (f : Core → Core) : (s.modCore k f).classOf = s.classOf := rfl
@[simp] theorem State.modCore_classes (s : State) (k : Nat) (f : Core → Core) : (s.modCore k f).classes = s.classes := rfl
@[simp] theorem State.modCore_tables (s : State) (k : Nat) (f : Core → Core) : (s.modCore k f).tables = s.tables := rfl
@[simp] theorem State.modCore_graticule (s : State) (k : Nat) (f : Core → Core) : (s.modCore k f).graticule = s.graticule := rfl
@[simp] theorem State.modCore_pages (s : State) (k : Nat) (f : Core → Core) : (s.modCore k f).pages = s.pages := rfl
@[simp] theorem State.modCore_refuseMarks (s : State) (k : Nat) (f : Core → Core) : (s.modCore k f).refuseMarks = s.refuseMarks := rfl
@[simp] theorem State.modCore_parks (s : State) (k : Nat) (f : Core → Core) : (s.modCore k f).parks = s.parks := rfl
@[simp] theorem State.modCore_poison (s : State) (k : Nat) (f : Core → Core) : (s.modCore k f).poison = s.poison := rfl
@[simp] theorem State.modCore_faultHeld (s : State) (k : Nat) (f : Core → Core) : (s.modCore k f).faultHeld = s.faultHeld := rfl
@[simp] theorem State.modCore_cmds (s : State) (k : Nat) (f : Core → Core) : (s.modCore k f).cmds = s.cmds := rfl
@[simp] theorem State.modCore_tickets (s : State) (k : Nat) (f : Core → Core) : (s.modCore k f).tickets = s.tickets := rfl
@[simp] theorem State.modCore_heldTickets (s : State) (k : Nat) (f : Core → Core) : (s.modCore k f).heldTickets = s.heldTickets := rfl
@[simp] theorem State.modCore_remoteParks (s : State) (k : Nat) (f : Core → Core) : (s.modCore k f).remoteParks = s.remoteParks := rfl
@[simp] theorem State.modCore_ports (s : State) (k : Nat) (f : Core → Core) : (s.modCore k f).ports = s.ports := rfl
@[simp] theorem State.modCore_fabric (s : State) (k : Nat) (f : Core → Core) : (s.modCore k f).fabric = s.fabric := rfl
@[simp] theorem State.modCore_flows (s : State) (k : Nat) (f : Core → Core) : (s.modCore k f).flows = s.flows := rfl
@[simp] theorem State.modCore_unreached (s : State) (k : Nat) (f : Core → Core) : (s.modCore k f).unreached = s.unreached := rfl
@[simp] theorem State.modCore_cleanDue (s : State) (k : Nat) (f : Core → Core) : (s.modCore k f).cleanDue = s.cleanDue := rfl
@[simp] theorem State.modCore_fabOut (s : State) (k : Nat) (f : Core → Core) : (s.modCore k f).fabOut = s.fabOut := rfl
@[simp] theorem State.modCore_hostLanes (s : State) (k : Nat) (f : Core → Core) : (s.modCore k f).hostLanes = s.hostLanes := rfl
@[simp] theorem State.modCore_hostHeld (s : State) (k : Nat) (f : Core → Core) : (s.modCore k f).hostHeld = s.hostHeld := rfl
@[simp] theorem State.modCore_domains (s : State) (k : Nat) (f : Core → Core) : (s.modCore k f).domains = s.domains := rfl
@[simp] theorem State.modCore_funcs (s : State) (k : Nat) (f : Core → Core) : (s.modCore k f).funcs = s.funcs := rfl
@[simp] theorem State.modCore_pools (s : State) (k : Nat) (f : Core → Core) : (s.modCore k f).pools = s.pools := rfl
@[simp] theorem State.modCore_refs (s : State) (k : Nat) (f : Core → Core) : (s.modCore k f).refs = s.refs := rfl
@[simp] theorem State.modCore_kvq (s : State) (k : Nat) (f : Core → Core) : (s.modCore k f).kvq = s.kvq := rfl
@[simp] theorem State.modCore_kvWait (s : State) (k : Nat) (f : Core → Core) : (s.modCore k f).kvWait = s.kvWait := rfl
@[simp] theorem State.modCore_boards (s : State) (k : Nat) (f : Core → Core) : (s.modCore k f).boards = s.boards := rfl
@[simp] theorem State.modCore_rights (s : State) (k : Nat) (f : Core → Core) : (s.modCore k f).rights = s.rights := rfl
@[simp] theorem State.modCore_wakeHeld (s : State) (k : Nat) (f : Core → Core) : (s.modCore k f).wakeHeld = s.wakeHeld := rfl
@[simp] theorem State.modCore_share (s : State) (k : Nat) (f : Core → Core) : (s.modCore k f).share = s.share := rfl
@[simp] theorem State.modCore_homeJobs (s : State) (k : Nat) (f : Core → Core) : (s.modCore k f).homeJobs = s.homeJobs := rfl
@[simp] theorem State.modCore_homeServers (s : State) (k : Nat) (f : Core → Core) : (s.modCore k f).homeServers = s.homeServers := rfl
@[simp] theorem State.modCore_served (s : State) (k : Nat) (f : Core → Core) : (s.modCore k f).served = s.served := rfl
@[simp] theorem State.modCore_fw (s : State) (k : Nat) (f : Core → Core) : (s.modCore k f).fw = s.fw := rfl
@[simp] theorem State.modCore_pr (s : State) (k : Nat) (f : Core → Core) : (s.modCore k f).pr = s.pr := rfl

/-! ### Changing a block. -/

@[simp] theorem State.modBlock_now (s : State) (key : Nat) (f : Block → Block) : (s.modBlock key f).now = s.now := rfl
@[simp] theorem State.modBlock_turn (s : State) (key : Nat) (f : Block → Block) : (s.modBlock key f).turn = s.turn := rfl
@[simp] theorem State.modBlock_cur (s : State) (key : Nat) (f : Block → Block) : (s.modBlock key f).cur = s.cur := rfl
@[simp] theorem State.modBlock_fresh (s : State) (key : Nat) (f : Block → Block) : (s.modBlock key f).fresh = s.fresh := rfl
@[simp] theorem State.modBlock_agenda (s : State) (key : Nat) (f : Block → Block) : (s.modBlock key f).agenda = s.agenda := rfl
@[simp] theorem State.modBlock_dram (s : State) (key : Nat) (f : Block → Block) : (s.modBlock key f).dram = s.dram := rfl
@[simp] theorem State.modBlock_hostMem (s : State) (key : Nat) (f : Block → Block) : (s.modBlock key f).hostMem = s.hostMem := rfl
@[simp] theorem State.modBlock_cores (s : State) (key : Nat) (f : Block → Block) : (s.modBlock key f).cores = s.cores := rfl
@[simp] theorem State.modBlock_blocks (s : State) (key : Nat) (f : Block → Block) : (s.modBlock key f).blocks = replaceFirst (·.key == key) f s.blocks := rfl
@[simp] theorem State.modBlock_launches (s : State) (key : Nat) (f : Block → Block) : (s.modBlock key f).launches = s.launches := rfl
@[simp] theorem State.modBlock_queues (s : State) (key : Nat) (f : Block → Block) : (s.modBlock key f).queues = s.queues := rfl
@[simp] theorem State.modBlock_dist (s : State) (key : Nat) (f : Block → Block) : (s.modBlock key f).dist = s.dist := rfl
@[simp] theorem State.modBlock_slices (s : State) (key : Nat) (f : Block → Block) : (s.modBlock key f).slices = s.slices := rfl
@[simp] theorem State.modBlock_sliceReqs (s : State) (key : Nat) (f : Block → Block) : (s.modBlock key f).sliceReqs = s.sliceReqs := rfl
@[simp] theorem State.modBlock_memCache (s : State) (key : Nat) (f : Block → Block) : (s.modBlock key f).memCache = s.memCache := rfl
@[simp] theorem State.modBlock_classOf (s : State) (key : Nat) (f : Block → Block) : (s.modBlock key f).classOf = s.classOf := rfl
@[simp] theorem State.modBlock_classes (s : State) (key : Nat) (f : Block → Block) : (s.modBlock key f).classes = s.classes := rfl
@[simp] theorem State.modBlock_tables (s : State) (key : Nat) (f : Block → Block) : (s.modBlock key f).tables = s.tables := rfl
@[simp] theorem State.modBlock_graticule (s : State) (key : Nat) (f : Block → Block) : (s.modBlock key f).graticule = s.graticule := rfl
@[simp] theorem State.modBlock_pages (s : State) (key : Nat) (f : Block → Block) : (s.modBlock key f).pages = s.pages := rfl
@[simp] theorem State.modBlock_refuseMarks (s : State) (key : Nat) (f : Block → Block) : (s.modBlock key f).refuseMarks = s.refuseMarks := rfl
@[simp] theorem State.modBlock_parks (s : State) (key : Nat) (f : Block → Block) : (s.modBlock key f).parks = s.parks := rfl
@[simp] theorem State.modBlock_poison (s : State) (key : Nat) (f : Block → Block) : (s.modBlock key f).poison = s.poison := rfl
@[simp] theorem State.modBlock_faultHeld (s : State) (key : Nat) (f : Block → Block) : (s.modBlock key f).faultHeld = s.faultHeld := rfl
@[simp] theorem State.modBlock_cmds (s : State) (key : Nat) (f : Block → Block) : (s.modBlock key f).cmds = s.cmds := rfl
@[simp] theorem State.modBlock_tickets (s : State) (key : Nat) (f : Block → Block) : (s.modBlock key f).tickets = s.tickets := rfl
@[simp] theorem State.modBlock_heldTickets (s : State) (key : Nat) (f : Block → Block) : (s.modBlock key f).heldTickets = s.heldTickets := rfl
@[simp] theorem State.modBlock_remoteParks (s : State) (key : Nat) (f : Block → Block) : (s.modBlock key f).remoteParks = s.remoteParks := rfl
@[simp] theorem State.modBlock_ports (s : State) (key : Nat) (f : Block → Block) : (s.modBlock key f).ports = s.ports := rfl
@[simp] theorem State.modBlock_fabric (s : State) (key : Nat) (f : Block → Block) : (s.modBlock key f).fabric = s.fabric := rfl
@[simp] theorem State.modBlock_flows (s : State) (key : Nat) (f : Block → Block) : (s.modBlock key f).flows = s.flows := rfl
@[simp] theorem State.modBlock_unreached (s : State) (key : Nat) (f : Block → Block) : (s.modBlock key f).unreached = s.unreached := rfl
@[simp] theorem State.modBlock_cleanDue (s : State) (key : Nat) (f : Block → Block) : (s.modBlock key f).cleanDue = s.cleanDue := rfl
@[simp] theorem State.modBlock_fabOut (s : State) (key : Nat) (f : Block → Block) : (s.modBlock key f).fabOut = s.fabOut := rfl
@[simp] theorem State.modBlock_hostLanes (s : State) (key : Nat) (f : Block → Block) : (s.modBlock key f).hostLanes = s.hostLanes := rfl
@[simp] theorem State.modBlock_hostHeld (s : State) (key : Nat) (f : Block → Block) : (s.modBlock key f).hostHeld = s.hostHeld := rfl
@[simp] theorem State.modBlock_domains (s : State) (key : Nat) (f : Block → Block) : (s.modBlock key f).domains = s.domains := rfl
@[simp] theorem State.modBlock_funcs (s : State) (key : Nat) (f : Block → Block) : (s.modBlock key f).funcs = s.funcs := rfl
@[simp] theorem State.modBlock_pools (s : State) (key : Nat) (f : Block → Block) : (s.modBlock key f).pools = s.pools := rfl
@[simp] theorem State.modBlock_refs (s : State) (key : Nat) (f : Block → Block) : (s.modBlock key f).refs = s.refs := rfl
@[simp] theorem State.modBlock_kvq (s : State) (key : Nat) (f : Block → Block) : (s.modBlock key f).kvq = s.kvq := rfl
@[simp] theorem State.modBlock_kvWait (s : State) (key : Nat) (f : Block → Block) : (s.modBlock key f).kvWait = s.kvWait := rfl
@[simp] theorem State.modBlock_boards (s : State) (key : Nat) (f : Block → Block) : (s.modBlock key f).boards = s.boards := rfl
@[simp] theorem State.modBlock_rights (s : State) (key : Nat) (f : Block → Block) : (s.modBlock key f).rights = s.rights := rfl
@[simp] theorem State.modBlock_wakeHeld (s : State) (key : Nat) (f : Block → Block) : (s.modBlock key f).wakeHeld = s.wakeHeld := rfl
@[simp] theorem State.modBlock_share (s : State) (key : Nat) (f : Block → Block) : (s.modBlock key f).share = s.share := rfl
@[simp] theorem State.modBlock_homeJobs (s : State) (key : Nat) (f : Block → Block) : (s.modBlock key f).homeJobs = s.homeJobs := rfl
@[simp] theorem State.modBlock_homeServers (s : State) (key : Nat) (f : Block → Block) : (s.modBlock key f).homeServers = s.homeServers := rfl
@[simp] theorem State.modBlock_served (s : State) (key : Nat) (f : Block → Block) : (s.modBlock key f).served = s.served := rfl
@[simp] theorem State.modBlock_fw (s : State) (key : Nat) (f : Block → Block) : (s.modBlock key f).fw = s.fw := rfl
@[simp] theorem State.modBlock_pr (s : State) (key : Nat) (f : Block → Block) : (s.modBlock key f).pr = s.pr := rfl

/-! ### Changing a gang. -/

@[simp] theorem State.modGang_now (s : State) (k slot : Nat) (f : Gang → Gang) : (s.modGang k slot f).now = s.now := by
  unfold State.modGang; split <;> rfl
@[simp] theorem State.modGang_turn (s : State) (k slot : Nat) (f : Gang → Gang) : (s.modGang k slot f).turn = s.turn := by
  unfold State.modGang; split <;> rfl
@[simp] theorem State.modGang_cur (s : State) (k slot : Nat) (f : Gang → Gang) : (s.modGang k slot f).cur = s.cur := by
  unfold State.modGang; split <;> rfl
@[simp] theorem State.modGang_fresh (s : State) (k slot : Nat) (f : Gang → Gang) : (s.modGang k slot f).fresh = s.fresh := by
  unfold State.modGang; split <;> rfl
@[simp] theorem State.modGang_agenda (s : State) (k slot : Nat) (f : Gang → Gang) : (s.modGang k slot f).agenda = s.agenda := by
  unfold State.modGang; split <;> rfl
@[simp] theorem State.modGang_dram (s : State) (k slot : Nat) (f : Gang → Gang) : (s.modGang k slot f).dram = s.dram := by
  unfold State.modGang; split <;> rfl
@[simp] theorem State.modGang_hostMem (s : State) (k slot : Nat) (f : Gang → Gang) : (s.modGang k slot f).hostMem = s.hostMem := by
  unfold State.modGang; split <;> rfl
@[simp] theorem State.modGang_blocks (s : State) (k slot : Nat) (f : Gang → Gang) : (s.modGang k slot f).blocks = s.blocks := by
  unfold State.modGang; split <;> rfl
@[simp] theorem State.modGang_launches (s : State) (k slot : Nat) (f : Gang → Gang) : (s.modGang k slot f).launches = s.launches := by
  unfold State.modGang; split <;> rfl
@[simp] theorem State.modGang_queues (s : State) (k slot : Nat) (f : Gang → Gang) : (s.modGang k slot f).queues = s.queues := by
  unfold State.modGang; split <;> rfl
@[simp] theorem State.modGang_dist (s : State) (k slot : Nat) (f : Gang → Gang) : (s.modGang k slot f).dist = s.dist := by
  unfold State.modGang; split <;> rfl
@[simp] theorem State.modGang_slices (s : State) (k slot : Nat) (f : Gang → Gang) : (s.modGang k slot f).slices = s.slices := by
  unfold State.modGang; split <;> rfl
@[simp] theorem State.modGang_sliceReqs (s : State) (k slot : Nat) (f : Gang → Gang) : (s.modGang k slot f).sliceReqs = s.sliceReqs := by
  unfold State.modGang; split <;> rfl
@[simp] theorem State.modGang_memCache (s : State) (k slot : Nat) (f : Gang → Gang) : (s.modGang k slot f).memCache = s.memCache := by
  unfold State.modGang; split <;> rfl
@[simp] theorem State.modGang_classOf (s : State) (k slot : Nat) (f : Gang → Gang) : (s.modGang k slot f).classOf = s.classOf := by
  unfold State.modGang; split <;> rfl
@[simp] theorem State.modGang_classes (s : State) (k slot : Nat) (f : Gang → Gang) : (s.modGang k slot f).classes = s.classes := by
  unfold State.modGang; split <;> rfl
@[simp] theorem State.modGang_tables (s : State) (k slot : Nat) (f : Gang → Gang) : (s.modGang k slot f).tables = s.tables := by
  unfold State.modGang; split <;> rfl
@[simp] theorem State.modGang_graticule (s : State) (k slot : Nat) (f : Gang → Gang) : (s.modGang k slot f).graticule = s.graticule := by
  unfold State.modGang; split <;> rfl
@[simp] theorem State.modGang_pages (s : State) (k slot : Nat) (f : Gang → Gang) : (s.modGang k slot f).pages = s.pages := by
  unfold State.modGang; split <;> rfl
@[simp] theorem State.modGang_refuseMarks (s : State) (k slot : Nat) (f : Gang → Gang) : (s.modGang k slot f).refuseMarks = s.refuseMarks := by
  unfold State.modGang; split <;> rfl
@[simp] theorem State.modGang_parks (s : State) (k slot : Nat) (f : Gang → Gang) : (s.modGang k slot f).parks = s.parks := by
  unfold State.modGang; split <;> rfl
@[simp] theorem State.modGang_poison (s : State) (k slot : Nat) (f : Gang → Gang) : (s.modGang k slot f).poison = s.poison := by
  unfold State.modGang; split <;> rfl
@[simp] theorem State.modGang_faultHeld (s : State) (k slot : Nat) (f : Gang → Gang) : (s.modGang k slot f).faultHeld = s.faultHeld := by
  unfold State.modGang; split <;> rfl
@[simp] theorem State.modGang_cmds (s : State) (k slot : Nat) (f : Gang → Gang) : (s.modGang k slot f).cmds = s.cmds := by
  unfold State.modGang; split <;> rfl
@[simp] theorem State.modGang_tickets (s : State) (k slot : Nat) (f : Gang → Gang) : (s.modGang k slot f).tickets = s.tickets := by
  unfold State.modGang; split <;> rfl
@[simp] theorem State.modGang_heldTickets (s : State) (k slot : Nat) (f : Gang → Gang) : (s.modGang k slot f).heldTickets = s.heldTickets := by
  unfold State.modGang; split <;> rfl
@[simp] theorem State.modGang_remoteParks (s : State) (k slot : Nat) (f : Gang → Gang) : (s.modGang k slot f).remoteParks = s.remoteParks := by
  unfold State.modGang; split <;> rfl
@[simp] theorem State.modGang_ports (s : State) (k slot : Nat) (f : Gang → Gang) : (s.modGang k slot f).ports = s.ports := by
  unfold State.modGang; split <;> rfl
@[simp] theorem State.modGang_fabric (s : State) (k slot : Nat) (f : Gang → Gang) : (s.modGang k slot f).fabric = s.fabric := by
  unfold State.modGang; split <;> rfl
@[simp] theorem State.modGang_flows (s : State) (k slot : Nat) (f : Gang → Gang) : (s.modGang k slot f).flows = s.flows := by
  unfold State.modGang; split <;> rfl
@[simp] theorem State.modGang_unreached (s : State) (k slot : Nat) (f : Gang → Gang) : (s.modGang k slot f).unreached = s.unreached := by
  unfold State.modGang; split <;> rfl
@[simp] theorem State.modGang_cleanDue (s : State) (k slot : Nat) (f : Gang → Gang) : (s.modGang k slot f).cleanDue = s.cleanDue := by
  unfold State.modGang; split <;> rfl
@[simp] theorem State.modGang_fabOut (s : State) (k slot : Nat) (f : Gang → Gang) : (s.modGang k slot f).fabOut = s.fabOut := by
  unfold State.modGang; split <;> rfl
@[simp] theorem State.modGang_hostLanes (s : State) (k slot : Nat) (f : Gang → Gang) : (s.modGang k slot f).hostLanes = s.hostLanes := by
  unfold State.modGang; split <;> rfl
@[simp] theorem State.modGang_hostHeld (s : State) (k slot : Nat) (f : Gang → Gang) : (s.modGang k slot f).hostHeld = s.hostHeld := by
  unfold State.modGang; split <;> rfl
@[simp] theorem State.modGang_domains (s : State) (k slot : Nat) (f : Gang → Gang) : (s.modGang k slot f).domains = s.domains := by
  unfold State.modGang; split <;> rfl
@[simp] theorem State.modGang_funcs (s : State) (k slot : Nat) (f : Gang → Gang) : (s.modGang k slot f).funcs = s.funcs := by
  unfold State.modGang; split <;> rfl
@[simp] theorem State.modGang_pools (s : State) (k slot : Nat) (f : Gang → Gang) : (s.modGang k slot f).pools = s.pools := by
  unfold State.modGang; split <;> rfl
@[simp] theorem State.modGang_refs (s : State) (k slot : Nat) (f : Gang → Gang) : (s.modGang k slot f).refs = s.refs := by
  unfold State.modGang; split <;> rfl
@[simp] theorem State.modGang_kvq (s : State) (k slot : Nat) (f : Gang → Gang) : (s.modGang k slot f).kvq = s.kvq := by
  unfold State.modGang; split <;> rfl
@[simp] theorem State.modGang_kvWait (s : State) (k slot : Nat) (f : Gang → Gang) : (s.modGang k slot f).kvWait = s.kvWait := by
  unfold State.modGang; split <;> rfl
@[simp] theorem State.modGang_boards (s : State) (k slot : Nat) (f : Gang → Gang) : (s.modGang k slot f).boards = s.boards := by
  unfold State.modGang; split <;> rfl
@[simp] theorem State.modGang_rights (s : State) (k slot : Nat) (f : Gang → Gang) : (s.modGang k slot f).rights = s.rights := by
  unfold State.modGang; split <;> rfl
@[simp] theorem State.modGang_wakeHeld (s : State) (k slot : Nat) (f : Gang → Gang) : (s.modGang k slot f).wakeHeld = s.wakeHeld := by
  unfold State.modGang; split <;> rfl
@[simp] theorem State.modGang_share (s : State) (k slot : Nat) (f : Gang → Gang) : (s.modGang k slot f).share = s.share := by
  unfold State.modGang; split <;> rfl
@[simp] theorem State.modGang_homeJobs (s : State) (k slot : Nat) (f : Gang → Gang) : (s.modGang k slot f).homeJobs = s.homeJobs := by
  unfold State.modGang; split <;> rfl
@[simp] theorem State.modGang_homeServers (s : State) (k slot : Nat) (f : Gang → Gang) : (s.modGang k slot f).homeServers = s.homeServers := by
  unfold State.modGang; split <;> rfl
@[simp] theorem State.modGang_served (s : State) (k slot : Nat) (f : Gang → Gang) : (s.modGang k slot f).served = s.served := by
  unfold State.modGang; split <;> rfl
@[simp] theorem State.modGang_fw (s : State) (k slot : Nat) (f : Gang → Gang) : (s.modGang k slot f).fw = s.fw := by
  unfold State.modGang; split <;> rfl
@[simp] theorem State.modGang_pr (s : State) (k slot : Nat) (f : Gang → Gang) : (s.modGang k slot f).pr = s.pr := by
  unfold State.modGang; split <;> rfl

end Sys2Proof.Machine
end

