-- ==== Sys2Proof/Laws/Store.lean ====
section
/-! SUPPORT. Laws of sparse stores and keyed lists: a read after a write, and every write keeps the canonical form. -/

namespace Sys2Proof.Machine

open Sys2Proof

variable {w : Nat} {α : Type}

/-! ### Sparse stores -/

theorem Sp.wfFrom_weaken {lo lo' : Option Nat} {m : List (Nat × BitVec w)} (h : Sp.wfFrom lo m = true)
    (hl : ∀ l', lo' = some l' → ∃ l, lo = some l ∧ l' ≤ l) : Sp.wfFrom lo' m = true := by
  cases m with
  | nil => rfl
  | cons e m =>
    obtain ⟨a, v⟩ := e
    simp only [Sp.wfFrom, Bool.and_eq_true] at h ⊢
    refine ⟨⟨?_, h.1.2⟩, h.2⟩
    cases lo' with
    | none => rfl
    | some l' =>
      obtain ⟨l, rfl, hle⟩ := hl l' rfl
      have hla := of_decide_eq_true h.1.1
      exact decide_eq_true (by omega)

theorem Sp.filter_wfFrom {lo : Option Nat} {m : List (Nat × BitVec w)} (p : Nat → Bool) (h : Sp.wfFrom lo m = true) :
    Sp.wfFrom lo (m.filter fun e => p e.1) = true := by
  induction m generalizing lo with
  | nil => rfl
  | cons e m ih =>
    obtain ⟨a, v⟩ := e
    simp only [Sp.wfFrom, Bool.and_eq_true] at h
    obtain ⟨⟨hlo, hv⟩, hm⟩ := h
    simp only [List.filter_cons]
    split
    · simp only [Sp.wfFrom, Bool.and_eq_true]
      exact ⟨⟨hlo, hv⟩, ih hm⟩
    · refine ih (Sp.wfFrom_weaken hm fun l' hl' => ⟨a, rfl, ?_⟩)
      subst hl'
      have := of_decide_eq_true hlo
      omega

theorem Sp.ins_wfFrom {lo : Option Nat} {m : List (Nat × BitVec w)} {k : Nat} {v : BitVec w} (h : Sp.wfFrom lo m = true)
    (hk : ∀ l, lo = some l → l < k) (hv : v ≠ 0) (hm : ∀ e ∈ m, e.1 ≠ k) : Sp.wfFrom lo (Sp.ins m k v) = true := by
  induction m generalizing lo with
  | nil =>
    simp only [Sp.ins, Sp.wfFrom, Bool.and_true, Bool.and_eq_true, decide_eq_true_eq]
    refine ⟨?_, hv⟩
    cases lo with
    | none => rfl
    | some l => exact decide_eq_true (hk l rfl)
  | cons e m ih =>
    obtain ⟨a, u⟩ := e
    have ha : a ≠ k := hm (a, u) List.mem_cons_self
    simp only [Sp.wfFrom, Bool.and_eq_true] at h
    obtain ⟨⟨hlo, hu⟩, hw⟩ := h
    simp only [Sp.ins]
    split
    · rename_i hka
      simp only [Sp.wfFrom, Bool.and_eq_true, decide_eq_true_eq]
      refine ⟨⟨?_, hv⟩, ⟨hka, of_decide_eq_true hu⟩, hw⟩
      cases lo with
      | none => rfl
      | some l => exact decide_eq_true (hk l rfl)
    · simp only [Sp.wfFrom, Bool.and_eq_true]
      refine ⟨⟨hlo, hu⟩, ih hw (fun l hl => ?_) fun e he => hm e (List.mem_cons_of_mem _ he)⟩
      injection hl with hl
      omega

/-- A write keeps the canonical form. -/
theorem Sp.set_wf {m : List (Nat × BitVec w)} (k : Nat) (v : BitVec w) (h : Sp.wf m = true) : Sp.wf (Sp.set m k v) = true := by
  unfold Sp.set
  split
  · exact Sp.filter_wfFrom (fun a => a != k) h
  · rename_i hv
    refine Sp.ins_wfFrom (Sp.filter_wfFrom (fun a => a != k) h) (by simp) hv fun e he => ?_
    simpa using (List.mem_filter.mp he).2

/-- Several writes keep the canonical form. -/
theorem Sp.setAll_wf {m : List (Nat × BitVec w)} (ws : List (Nat × BitVec w)) (h : Sp.wf m = true) : Sp.wf (Sp.setAll m ws) = true := by
  induction ws generalizing m with
  | nil => exact h
  | cons e ws ih => exact ih (Sp.set_wf e.1 e.2 h)

/-- Keeping some keys keeps the canonical form. -/
theorem Sp.keep_wf {m : List (Nat × BitVec w)} (p : Nat → Bool) (h : Sp.wf m = true) : Sp.wf (Sp.keep p m) = true :=
  Sp.filter_wfFrom p h

theorem Sp.get_del (m : List (Nat × BitVec w)) (k j : Nat) : Sp.get (Sp.del m k) j = if j = k then 0 else Sp.get m j := by
  induction m with
  | nil => simp [Sp.del, Sp.get]
  | cons e m ih =>
    obtain ⟨a, x⟩ := e
    unfold Sp.del at ih ⊢
    by_cases ha : a = k
    · subst ha
      by_cases hj : j = a
      · subst hj; simpa using ih
      · have : a ≠ j := fun e => hj e.symm
        simpa [hj, Sp.get, this] using ih
    · by_cases hj : a = j
      · subst hj; simp [ha, Sp.get]
      · simp only [List.filter_cons, bne_iff_ne, ne_eq, ha, not_false_eq_true, if_true, Sp.get, hj, if_false]
        exact ih

theorem Sp.get_ins (m : List (Nat × BitVec w)) (k j : Nat) (v : BitVec w) (hm : ∀ e ∈ m, e.1 ≠ k) :
    Sp.get (Sp.ins m k v) j = if j = k then v else Sp.get m j := by
  induction m with
  | nil =>
    by_cases hj : j = k
    · simp [Sp.ins, Sp.get, hj]
    · have : k ≠ j := fun e => hj e.symm
      simp [Sp.ins, Sp.get, hj, this]
  | cons e m ih =>
    obtain ⟨a, u⟩ := e
    have ha : a ≠ k := hm (a, u) List.mem_cons_self
    have ih := ih fun e he => hm e (List.mem_cons_of_mem _ he)
    simp only [Sp.ins]
    split
    · by_cases hj : j = k
      · simp [Sp.get, hj]
      · have : k ≠ j := fun e => hj e.symm
        simp [Sp.get, hj, this]
    · simp only [Sp.get]
      split
      · rename_i haj
        have : j ≠ k := fun e => ha (haj.trans e)
        simp [this]
      · exact ih

/-- A read after a write: the value written at its key, the old value at every other. -/
theorem Sp.get_set (m : List (Nat × BitVec w)) (k j : Nat) (v : BitVec w) :
    Sp.get (Sp.set m k v) j = if j = k then v else Sp.get m j := by
  unfold Sp.set
  split
  · rename_i hv
    rw [Sp.get_del, hv]
  · rw [Sp.get_ins, Sp.get_del]
    · split <;> rfl
    · intro e he
      simpa using (List.mem_filter.mp he).2

@[simp] theorem Sp.get_set_self (m : List (Nat × BitVec w)) (k : Nat) (v : BitVec w) : Sp.get (Sp.set m k v) k = v := by
  simp [Sp.get_set]

/-- A write leaves every other key alone. -/
theorem Sp.get_set_ne {m : List (Nat × BitVec w)} {k j : Nat} (v : BitVec w) (h : j ≠ k) : Sp.get (Sp.set m k v) j = Sp.get m j := by
  simp [Sp.get_set, h]

/-- Writing bytes from an address keeps memory in canonical form. -/
theorem putBytes_wf {c : Cells} (a : Nat) (bs : List Byte) (h : Memory.wf c = true) : Memory.wf (putBytes c a bs) = true := by
  suffices ∀ (l : List (Byte × Nat)) (c : Cells), Memory.wf c = true →
      Memory.wf (l.foldl (fun c p => Sp.set c (a + p.2) p.1) c) = true from this _ c h
  intro l
  induction l with
  | nil => exact fun c h => h
  | cons e l ih => exact fun c h => ih _ (Sp.set_wf _ _ h)

/-- Writing bytes leaves every address outside them alone. -/
theorem get_putBytes_outside {c : Cells} {a j : Nat} {bs : List Byte} (h : j < a ∨ a + bs.length ≤ j) :
    Sp.get (putBytes c a bs) j = Sp.get c j := by
  suffices ∀ (l : List (Byte × Nat)) (c : Cells), (∀ e ∈ l, j ≠ a + e.2) →
      Sp.get (l.foldl (fun c p => Sp.set c (a + p.2) p.1) c) j = Sp.get c j by
    refine this _ c fun e he => ?_
    have := List.snd_lt_of_mem_zipIdx he
    omega
  intro l
  induction l with
  | nil => exact fun c _ => rfl
  | cons e l ih =>
    intro c hne
    rw [List.foldl_cons, ih _ fun x hx => hne x (List.mem_cons_of_mem _ hx)]
    exact Sp.get_set_ne _ (hne e List.mem_cons_self)

/-! ### Keyed lists -/

@[simp] theorem Kv.get?_put_self (m : List (Nat × α)) (k : Nat) (v : α) : Kv.get? (Kv.put m k v) k = some v := by
  induction m with
  | nil => simp [Kv.put, Kv.get?]
  | cons e m ih =>
    obtain ⟨a, u⟩ := e
    simp only [Kv.put]
    split
    · simp [Kv.get?]
    · split
      · simp [Kv.get?]
      · rename_i h
        have h' : a ≠ k := fun e => h e.symm
        simp [Kv.get?, h', ih]

theorem Kv.get?_put_ne (m : List (Nat × α)) {k j : Nat} (v : α) (h : j ≠ k) : Kv.get? (Kv.put m k v) j = Kv.get? m j := by
  have h' : k ≠ j := fun e => h e.symm
  induction m with
  | nil => simp [Kv.put, Kv.get?, h']
  | cons e m ih =>
    obtain ⟨a, u⟩ := e
    simp only [Kv.put]
    split
    · simp [Kv.get?, h']
    · split
      · rename_i hka
        subst hka
        simp [Kv.get?, h']
      · simp only [Kv.get?]
        split
        · rfl
        · exact ih

@[simp] theorem Kv.put_put (m : List (Nat × α)) (k : Nat) (u v : α) : Kv.put (Kv.put m k u) k v = Kv.put m k v := by
  induction m with
  | nil => simp [Kv.put]
  | cons e m ih =>
    obtain ⟨a, x⟩ := e
    by_cases h1 : k < a
    · simp [Kv.put, h1]
    · by_cases h2 : k = a
      · simp [Kv.put, h2]
      · simp [Kv.put, h1, h2, ih]

/-- A removed entry is gone, and every other stays. -/
theorem Kv.get?_del (m : List (Nat × α)) (k j : Nat) : Kv.get? (Kv.del m k) j = if j = k then none else Kv.get? m j := by
  induction m with
  | nil => simp [Kv.del, Kv.get?]
  | cons e m ih =>
    obtain ⟨a, x⟩ := e
    unfold Kv.del at ih ⊢
    by_cases ha : a = k
    · subst ha
      by_cases hj : j = a
      · subst hj; simpa [List.filter_cons] using ih
      · have : a ≠ j := fun e => hj e.symm
        simpa [List.filter_cons, hj, Kv.get?, this] using ih
    · by_cases hj : a = j
      · subst hj; simp [ha, Kv.get?]
      · simp only [List.filter_cons, Kv.get?, hj, if_false]
        simp only [ne_eq, bne_iff_ne, ha, not_false_eq_true, if_true, Kv.get?, hj, if_false]
        exact ih

end Sys2Proof.Machine
end

