-- ==== Sys2Proof/Laws/Ops.lean ====
section
/-! SUPPORT. Laws of the shared operations: what each can do, said once. -/

namespace Sys2Proof.Machine

open Sys2Proof

/-! ### Cores and gangs -/

@[simp] theorem State.coreAt_modCore_self (s : State) (k : Nat) (f : Core → Core) : (s.modCore k f).coreAt k = f (s.coreAt k) := by
  simp [State.coreAt]

theorem State.coreAt_modCore_ne (s : State) {k j : Nat} (f : Core → Core) (h : j ≠ k) : (s.modCore k f).coreAt j = s.coreAt j := by
  simp [State.coreAt, Kv.get?_put_ne _ _ h]

@[simp] theorem State.modCore_modCore (s : State) (k : Nat) (f g : Core → Core) : (s.modCore k f).modCore k g = s.modCore k (g ∘ f) := by
  simp [State.modCore, State.coreAt]

@[simp] theorem State.coreAt_at (s : State) (c : Nat) (e : Instr) (k : Nat) : (s.at c e).coreAt k = s.coreAt k := rfl
@[simp] theorem State.coreAt_later (s : State) (e : Instr) (k : Nat) : (s.later e).coreAt k = s.coreAt k := rfl
@[simp] theorem State.coreAt_bump (s : State) (k : Nat) : s.bump.coreAt k = s.coreAt k := rfl
@[simp] theorem State.gangAt_at (s : State) (c : Nat) (e : Instr) (k j : Nat) : (s.at c e).gangAt k j = s.gangAt k j := rfl
@[simp] theorem State.gangAt_later (s : State) (e : Instr) (k j : Nat) : (s.later e).gangAt k j = s.gangAt k j := rfl
@[simp] theorem State.gangAt_bump (s : State) (k j : Nat) : s.bump.gangAt k j = s.gangAt k j := rfl

/-- A slot that holds a gang: changing the gang changes its core's entry. -/
theorem State.modGang_eq {s : State} {k slot : Nat} {g : Gang} (f : Gang → Gang) (h : s.gangAt k slot = some g) :
    s.modGang k slot f = s.modCore k fun c => { c with gangs := Kv.put c.gangs slot (f g) } := by
  simp [State.modGang, h]

/-- A slot that holds none: nothing changes. -/
theorem State.modGang_none {s : State} {k slot : Nat} (f : Gang → Gang) (h : s.gangAt k slot = none) : s.modGang k slot f = s := by
  simp [State.modGang, h]

@[simp] theorem State.gangAt_modGang_self (s : State) (k slot : Nat) (f : Gang → Gang) :
    (s.modGang k slot f).gangAt k slot = (s.gangAt k slot).map f := by
  cases h : s.gangAt k slot with
  | none => rw [State.modGang_none f h]; simpa using h
  | some g => rw [State.modGang_eq f h]; simp [State.gangAt, Core.gangAt]

theorem State.gangAt_modGang_ne (s : State) {k slot k' slot' : Nat} (f : Gang → Gang) (h : (k', slot') ≠ (k, slot)) :
    (s.modGang k slot f).gangAt k' slot' = s.gangAt k' slot' := by
  cases hg : s.gangAt k slot with
  | none => rw [State.modGang_none f hg]
  | some g =>
    rw [State.modGang_eq f hg]
    by_cases hk : k' = k
    · subst hk
      have : slot' ≠ slot := fun e => h (by rw [e])
      simp [State.gangAt, Core.gangAt, Kv.get?_put_ne _ _ this]
    · simp [State.gangAt, State.coreAt_modCore_ne _ _ hk]

@[simp] theorem State.modGang_modGang (s : State) (k slot : Nat) (f h : Gang → Gang) :
    (s.modGang k slot f).modGang k slot h = s.modGang k slot (h ∘ f) := by
  cases hg : s.gangAt k slot with
  | none => rw [State.modGang_none f hg, State.modGang_none _ hg, State.modGang_none _ hg]
  | some g =>
    have h2 : (s.modGang k slot f).gangAt k slot = some (f g) := by simp [hg]
    rw [State.modGang_eq h h2, State.modGang_eq f hg, State.modGang_eq (h ∘ f) hg, State.modCore_modCore]
    congr 1
    funext c
    simp

theorem State.modGang_at (s : State) (k slot : Nat) (f : Gang → Gang) (c : Nat) (e : Instr) :
    (s.at c e).modGang k slot f = (s.modGang k slot f).at c e := by
  cases hg : s.gangAt k slot with
  | none => rw [State.modGang_none f hg, State.modGang_none f (by simpa using hg)]
  | some g => rw [State.modGang_eq f hg, State.modGang_eq f (by simpa using hg)]; rfl

theorem State.modGang_bump (s : State) (k slot : Nat) (f : Gang → Gang) : s.bump.modGang k slot f = (s.modGang k slot f).bump := by
  cases hg : s.gangAt k slot with
  | none => rw [State.modGang_none f hg, State.modGang_none f (by simpa using hg)]
  | some g => rw [State.modGang_eq f hg, State.modGang_eq f (by simpa using hg)]; rfl

theorem State.modGang_later (s : State) (k slot : Nat) (f : Gang → Gang) (e : Instr) :
    (s.later e).modGang k slot f = (s.modGang k slot f).later e := by
  cases hg : s.gangAt k slot with
  | none => rw [State.modGang_none f hg, State.modGang_none f (by simpa using hg)]
  | some g => rw [State.modGang_eq f hg, State.modGang_eq f (by simpa using hg)]; rfl

/-! ### The executing party -/

/-- The executing party's gang is the one its slot holds. -/
theorem State.gangAt_of_party {s : State} {p : Party} (h : s.party? = some p) : s.gangAt p.core p.slot = some p.g := by
  unfold State.party? at h
  cases hc : s.cur with
  | none => simp [hc] at h
  | some c =>
    simp only [hc, Option.bind_some, State.partyOf, Option.map_eq_some_iff] at h
    obtain ⟨g, hg, rfl⟩ := h
    exact hg

/-! ### Issue -/

/-- An instruction that nothing holds and no trap comes before has its own effect. -/
theorem State.issue_clear {s : State} {i : Instr} {f : Party → State} {p : Party} (hp : s.party? = some p) (hb : scoreboard p i = true)
    (hm : heldBack (s.coreAt p.core) p i = false) (ht : preTrap s.now p i = none) : s.issue i f = .next (f p) := by
  simp [State.issue, hp, hb, hm, ht]

/-- An instruction that a trap comes before takes it, whatever its own effect (R68). -/
theorem State.issue_trap {s : State} {i : Instr} {f : Party → State} {p : Party} {t : Nat × Nat} (hp : s.party? = some p)
    (hb : scoreboard p i = true) (hm : heldBack (s.coreAt p.core) p i = false) (ht : preTrap s.now p i = some t) :
    s.issue i f = .next (s.raise p t.1 t.2) := by
  simp [State.issue, hp, hb, hm, ht]

/-- Issue never refuses, and faults only where no party executes. -/
theorem State.issue_next {s : State} {i : Instr} {f : Party → State} {p : Party} (hp : s.party? = some p) :
    ∃ t, s.issue i f = .next t := by
  unfold State.issue
  rw [hp]
  dsimp only
  split
  · exact ⟨_, rfl⟩
  · split <;> exact ⟨_, rfl⟩

/-! ### The end of an instruction -/

/-- What the end of an instruction leaves, where nothing has changed the party's quads and REP. -/
theorem State.advance_eq {s s' : State} {p : Party} {g : Gang} (hg : s'.gangAt p.core p.slot = some g) (hq : g.quads = p.g.quads)
    (hn : s'.now = s.now) :
    s'.advance p = s'.modGang p.core p.slot fun _ => g.moved p.lead s.now p.inRep := by
  have hpc : p.pc = (g.quad p.lead).pc := by simp [Party.pc, Gang.quad, hq]
  unfold State.advance
  cases hR : p.inRep with
  | false =>
    simp only [Bool.false_eq_true, if_false, State.goto, Gang.moved]
    rw [State.modGang_eq _ hg, State.modGang_eq _ hg, hn, hpc]
  | true =>
    simp only [if_true, State.nextIteration, Gang.moved]
    rw [State.modGang_eq _ hg, State.modGang_eq _ hg, hn, hpc]

/-- A result of fixed latency: the gang holds it until its clock, and the agenda its landing (R48). -/
theorem State.fixedResult_eq {s : State} {p : Party} {g : Gang} (lat : Nat) (ws : List RegWrite) (hg : s.gangAt p.core p.slot = some g) :
    s.fixedResult p lat ws = if ws.isEmpty then s else
      ((s.modGang p.core p.slot fun _ => { g with inflight := g.inflight ++ [⟨s.fresh, s.now + lat, codesOf ws, ws⟩] }).at (s.now + lat)
        (.fixedResultLanding p.core p.slot s.fresh)).bump := by
  unfold State.fixedResult
  split
  · rfl
  · dsimp only
    rw [State.modGang_eq _ hg, State.modGang_eq _ hg]

/-- Replacing the party's gang and adding to the agenda changes only the gang. -/
theorem OnlyGang.of_eq {s t : State} {p : Party} {h : Gang} (hg : s.gangAt p.core p.slot = some p.g) (l : List (Nat × Instr)) (n : Nat)
    (ht : t = { s.withGangOf p h with agenda := l, fresh := n }) : OnlyGang s t p h := by
  subst ht
  refine ⟨?_, rfl, ?_⟩
  · change (s.withGangOf p h).gangAt p.core p.slot = some h
    simp [State.withGangOf, hg]
  · rw [State.withGangOf, State.modGang_eq _ hg]
    rfl

theorem Party.moved_rngs (p : Party) (s : State) : (p.moved s).rngs = p.g.rngs := by
  unfold Party.moved Gang.moved
  cases p.inRep
  · rfl
  · by_cases hc : repIndex p.g.rep + 1 < repCount p.g.rep
    · simp only [if_pos hc, if_true]; rfl
    · simp only [if_neg hc, if_true]; rfl

theorem Party.moved_inflight (p : Party) (s : State) : (p.moved s).inflight = p.g.inflight := by
  unfold Party.moved Gang.moved
  cases p.inRep
  · rfl
  · by_cases hc : repIndex p.g.rep + 1 < repCount p.g.rep
    · simp only [if_pos hc, if_true]; rfl
    · simp only [if_neg hc, if_true]; rfl

/-- The end of an instruction of fixed latency: its result is held and the party moves on (R48, R54). -/
theorem State.fixedResult_advance {s : State} {p : Party} (lat : Nat) (ws : List RegWrite) (R : Words)
    (hg : s.gangAt p.core p.slot = some p.g) :
    ∃ h : Gang, OnlyGang s (((s.fixedResult p lat ws).modGang p.core p.slot fun g => { g with rngs := R }).advance p) p h ∧
      Lands s (((s.fixedResult p lat ws).modGang p.core p.slot fun g => { g with rngs := R }).advance p) p h lat ws ∧
      h = { p.moved s with inflight := h.inflight, rngs := R } := by
  have key : ∀ (X : List Inflight) (s' : State), s'.now = s.now →
      s'.gangAt p.core p.slot = some { p.g with inflight := X, rngs := R } →
      s'.advance p = s'.withGangOf p { p.moved s with inflight := X, rngs := R } := by
    intro X s' hn hg'
    rw [State.advance_eq (s := s) hg' rfl hn]
    unfold State.withGangOf
    congr 1
    funext _
    unfold Party.moved Gang.moved
    cases p.inRep
    · rfl
    · by_cases hc : repIndex p.g.rep + 1 < repCount p.g.rep
      · simp only [if_pos hc, if_true]; rfl
      · simp only [if_neg hc, if_true]; rfl
  by_cases hw : ws = []
  · subst hw
    refine ⟨{ p.moved s with inflight := p.g.inflight, rngs := R }, ?_⟩
    have e1 : (s.fixedResult p lat []).modGang p.core p.slot (fun g => { g with rngs := R })
        = s.withGangOf p { p.g with rngs := R } := by
      simp only [State.fixedResult, List.isEmpty_nil, if_true, State.withGangOf]
      rw [State.modGang_eq _ hg, State.modGang_eq _ hg]
    have e2 := key p.g.inflight (s.withGangOf p { p.g with rngs := R }) (by simp [State.withGangOf]) (by simp [State.withGangOf, hg])
    rw [e1, e2]
    refine ⟨OnlyGang.of_eq hg s.agenda s.fresh ?_, ⟨by simp, by simp [State.withGangOf]⟩, rfl⟩
    unfold State.withGangOf
    rw [State.modGang_modGang, State.modGang_eq _ hg]
    simp only [State.modGang_eq _ hg]
    rfl
  · let X := p.g.inflight ++ [⟨s.fresh, s.now + lat, codesOf ws, ws⟩]
    refine ⟨{ p.moved s with inflight := X, rngs := R }, ?_⟩
    have e1 : (s.fixedResult p lat ws).modGang p.core p.slot (fun g => { g with rngs := R })
        = ((s.withGangOf p { p.g with inflight := X, rngs := R }).at (s.now + lat) (.fixedResultLanding p.core p.slot s.fresh)).bump := by
      rw [State.fixedResult_eq lat ws hg, if_neg (by simp [hw]), State.modGang_bump, State.modGang_at, State.modGang_modGang]
      rfl
    have e2 := key X _ (by simp [State.withGangOf]) (show (((s.withGangOf p { p.g with inflight := X, rngs := R }).at (s.now + lat)
      (.fixedResultLanding p.core p.slot s.fresh)).bump).gangAt p.core p.slot = _ by simp [State.withGangOf, hg])
    rw [e1, e2]
    refine ⟨OnlyGang.of_eq hg (s.agenda ++ [(s.now + lat, .fixedResultLanding p.core p.slot s.fresh)]) (s.fresh + 1) ?_,
      ⟨by simp [hw, X], by simp [State.withGangOf, hw]⟩, rfl⟩
    unfold State.withGangOf
    rw [State.modGang_bump, State.modGang_at, State.modGang_modGang]
    simp only [State.modGang_eq _ hg]
    rfl
/-- The end of an instruction that has changed nothing (R42). -/
theorem State.advance_only {s : State} {p : Party} (hg : s.gangAt p.core p.slot = some p.g) :
    s.advance p = s.withGangOf p (p.moved s) := State.advance_eq (s := s) hg rfl rfl

/-- As `fixedResult_advance`, for an instruction that steps no generator. -/
theorem State.fixedResult_advance' {s : State} {p : Party} (lat : Nat) (ws : List RegWrite) (hg : s.gangAt p.core p.slot = some p.g) :
    ∃ h : Gang, OnlyGang s ((s.fixedResult p lat ws).advance p) p h ∧ Lands s ((s.fixedResult p lat ws).advance p) p h lat ws ∧
      h = { p.moved s with inflight := h.inflight } := by
  by_cases hw : ws = []
  · subst hw
    refine ⟨p.moved s, ?_⟩
    have e : (s.fixedResult p lat []).advance p = s.withGangOf p (p.moved s) := State.advance_only hg
    rw [e]
    refine ⟨OnlyGang.of_eq hg s.agenda s.fresh ?_, ⟨by simp [Party.moved_inflight], by simp [State.withGangOf]⟩, rfl⟩
    unfold State.withGangOf
    simp only [State.modGang_eq _ hg]
    rfl
  · have h := State.fixedResult_advance lat ws p.g.rngs hg
    have e : (s.fixedResult p lat ws).modGang p.core p.slot (fun g => { g with rngs := p.g.rngs }) = s.fixedResult p lat ws := by
      rw [State.fixedResult_eq lat ws hg, if_neg (by simp [hw]), State.modGang_bump, State.modGang_at, State.modGang_modGang]
      rfl
    rw [e] at h
    obtain ⟨h, h1, h2, h3⟩ := h
    exact ⟨h, h1, h2, h3.trans (by rw [← Party.moved_rngs p s])⟩

/-- A computation per lane: one result of fixed latency with the writes of every computing lane, and its lanes' generators stepped. -/
theorem State.perLane_spec {s : State} {p : Party} (lat : Nat) (d : Reg) (n : Nat) (f : Nat → Gen Nat)
    (hg : s.gangAt p.core p.slot = some p.g) :
    ∃ h : Gang, OnlyGang s (s.perLane p lat d n f) p h ∧
      Lands s (s.perLane p lat d n f) p h lat ((p.computing d).flatMap fun l => destWrites d n l (f l (p.g.rng l)).1) ∧
      h = { p.moved s with inflight := h.inflight
                           rngs := Sp.setAll p.g.rngs (((p.computing d).filter fun l => (f l (p.g.rng l)).2 != p.g.rng l).map fun l =>
                             (l, (f l (p.g.rng l)).2)) } := by
  have e : s.perLane p lat d n f = ((s.fixedResult p lat ((p.computing d).flatMap fun l => destWrites d n l (f l (p.g.rng l)).1)).modGang
      p.core p.slot fun g => { g with rngs := Sp.setAll p.g.rngs (((p.computing d).filter fun l => (f l (p.g.rng l)).2 != p.g.rng l).map
        fun l => (l, (f l (p.g.rng l)).2)) }).advance p := by
    have hgang : ∀ ws, ∃ g, (s.fixedResult p lat ws).gangAt p.core p.slot = some g ∧ g.rngs = p.g.rngs := by
      intro ws
      rw [State.fixedResult_eq lat ws hg]
      split
      · exact ⟨_, hg, rfl⟩
      · exact ⟨{ p.g with inflight := p.g.inflight ++ [⟨s.fresh, s.now + lat, codesOf ws, ws⟩] }, by simp [hg], rfl⟩
    simp only [State.perLane, List.flatMap_map, List.filter_map, List.map_map]
    obtain ⟨g, hgg, hr⟩ := hgang ((p.computing d).flatMap fun l => destWrites d n l (f l (p.g.rng l)).1)
    rw [State.modGang_eq _ hgg, State.modGang_eq _ hgg, hr]
    rfl
  rw [e]
  exact State.fixedResult_advance lat _ _ hg

/-- As `perLane_spec`, for a computation that steps no generator. -/
theorem State.perLane_pure {s : State} {p : Party} (lat : Nat) (d : Reg) (n : Nat) (v : Nat → Nat) (hg : s.gangAt p.core p.slot = some p.g) :
    ∃ h : Gang, OnlyGang s (s.perLane p lat d n fun l => pureGen (v l)) p h ∧
      Lands s (s.perLane p lat d n fun l => pureGen (v l)) p h lat ((p.computing d).flatMap fun l => destWrites d n l (v l)) ∧
      h = { p.moved s with inflight := h.inflight } := by
  obtain ⟨h, h1, h2, h3⟩ := State.perLane_spec lat d n (fun l => pureGen (v l)) hg
  refine ⟨h, h1, h2, h3.trans ?_⟩
  have e : ((p.computing d).filter fun l => (pureGen (v l) (p.g.rng l)).2 != p.g.rng l) = [] := by simp [pureGen]
  rw [e, List.map_nil]
  change _ = { p.moved s with inflight := h.inflight, rngs := (p.moved s).rngs }
  rw [Party.moved_rngs]
  rfl

end Sys2Proof.Machine
end

