-- ==== Sys2Proof/Laws/PerInstr.lean ====
section
/-! SUPPORT. The family of statements made per instruction: the word of an instruction decodes to that instruction. -/

namespace Sys2Proof.Laws.EncodedRight

open Sys2Proof Sys2Proof.Machine

/-- An instruction that has a word is what its word decodes to (R56 to R65). -/
def Statement (i : Instr) : Prop := hasWord i = true → decode (encode i) = .ok i

theorem nop (tag : BitVec 25) : Statement (.nop tag) := by
  intro _
  change decode (0x00#7 ++ tag) = _
  rw [decode_00 (form_25_op 0x00#7 tag)]
  simp (disch := decide) only [fieldsOf, Nat.reduceAdd, form_25_a]
  rfl
theorem limm (v : BitVec 25) : Statement (.limm v) := by
  intro _
  change decode (0x01#7 ++ v) = _
  rw [decode_01 (form_25_op 0x01#7 v)]
  simp (disch := decide) only [fieldsOf, Nat.reduceAdd, form_25_a]
  rfl
theorem limh (v : BitVec 25) : Statement (.limh v) := by
  intro _
  change decode (0x02#7 ++ v) = _
  rw [decode_02 (form_25_op 0x02#7 v)]
  simp (disch := decide) only [fieldsOf, Nat.reduceAdd, form_25_a]
  rfl
theorem rep (count : BitVec 6) (fd : Bool) (fa : Bool) (fb : Bool) (stride : BitVec 3) : Statement (.rep count fd fa fb stride) := by
  intro _
  change decode (0x03#7 ++ count ++ bit fd ++ bit fa ++ bit fb ++ stride ++ 0#13) = _
  rw [decode_03 (form_6_1_1_1_3_13_op 0x03#7 count fd fa fb stride 0#13)]
  simp (disch := decide) only [fieldsOf, field_field, bit_field, Nat.zero_add, Nat.reduceAdd, form_6_1_1_1_3_13_a, form_6_1_1_1_3_13_e, form_6_1_1_1_3_13_f, form_6_1_1_1_3_13_b_bit, form_6_1_1_1_3_13_c_bit, form_6_1_1_1_3_13_d_bit]
  rfl
theorem repIteration (w : Word) : Statement (.repIteration w) := nofun
theorem mode (mask : BitVec 6) (image : BitVec 15) : Statement (.mode mask image) := by
  intro _
  change decode (0x04#7 ++ mask ++ 0#4 ++ image) = _
  rw [decode_04 (form_6_4_15_op 0x04#7 mask 0#4 image)]
  simp (disch := decide) only [fieldsOf, field_field, Nat.zero_add, Nat.reduceAdd, form_6_4_15_a, form_6_4_15_b, form_6_4_15_c]
  rfl
theorem mroute (slot : BitVec 2) (kind : BitVec 3) (k : BitVec 5) : Statement (.mroute slot kind k) := by
  intro _
  change decode (0x05#7 ++ slot ++ kind ++ k ++ 0#15) = _
  rw [decode_05 (form_2_3_5_15_op 0x05#7 slot kind k 0#15)]
  simp (disch := decide) only [fieldsOf, field_field, Nat.zero_add, Nat.reduceAdd, form_2_3_5_15_a, form_2_3_5_15_b, form_2_3_5_15_c, form_2_3_5_15_d]
  rfl
theorem setmark (off : BitVec 25) : Statement (.setmark off) := by
  intro _
  change decode (0x06#7 ++ off) = _
  rw [decode_06 (form_25_op 0x06#7 off)]
  simp (disch := decide) only [fieldsOf, Nat.reduceAdd, form_25_a]
  rfl
theorem trap (code : BitVec 8) : Statement (.trap code) := by
  intro _
  change decode (0x07#7 ++ 0#17 ++ code) = _
  rw [decode_07 (form_17_8_op 0x07#7 0#17 code)]
  simp (disch := decide) only [fieldsOf, field_field, Nat.zero_add, Nat.reduceAdd, form_17_8_a, form_17_8_b]
  rfl
theorem br (n : Bool) (p : BitVec 3) (k : BitVec 21) : Statement (.br n p k) := by
  intro _
  change decode (0x08#7 ++ bit n ++ p ++ k) = _
  rw [decode_08 (form_1_3_21_op 0x08#7 n p k)]
  simp (disch := decide) only [fieldsOf, field_field, bit_field, Nat.zero_add, Nat.reduceAdd, form_1_3_21_b, form_1_3_21_c, form_1_3_21_a_bit]
  rfl
theorem brs (n : Bool) (p : BitVec 3) (k : BitVec 21) : Statement (.brs n p k) := by
  intro _
  change decode (0x09#7 ++ bit n ++ p ++ k) = _
  rw [decode_09 (form_1_3_21_op 0x09#7 n p k)]
  simp (disch := decide) only [fieldsOf, field_field, bit_field, Nat.zero_add, Nat.reduceAdd, form_1_3_21_b, form_1_3_21_c, form_1_3_21_a_bit]
  rfl
theorem bri (a : Reg) : Statement (.bri a) := by
  intro _
  change decode (0x0A#7 ++ 0x7E#7 ++ a ++ 0#2 ++ 0x7E#7 ++ 0#2) = _
  rw [decode_0A (form_7_7_2_7_2_op 0x0A#7 0x7E#7 a 0#2 0x7E#7 0#2)]
  simp (disch := decide) only [fieldsOf, Nat.reduceAdd, form_7_7_2_7_2_a, form_7_7_2_7_2_b, form_7_7_2_7_2_c, form_7_7_2_7_2_d, form_7_7_2_7_2_e]
  rfl
theorem call (k : BitVec 21) : Statement (.call k) := by
  intro _
  change decode (0x0B#7 ++ 7#4 ++ k) = _
  rw [decode_0B (form_4_21_op 0x0B#7 7#4 k)]
  simp (disch := decide) only [fieldsOf, field_field, Nat.zero_add, Nat.reduceAdd, form_4_21_a, form_4_21_b]
  rfl
theorem ret : Statement .ret := by
  intro _
  change decode (0x0C#7 ++ 0#25) = _
  rw [decode_0C (form_25_op 0x0C#7 0#25)]
  simp (disch := decide) only [fieldsOf, Nat.reduceAdd, form_25_a]
  rfl
theorem mark (k : BitVec 21) : Statement (.mark k) := by
  intro _
  change decode (0x0D#7 ++ 7#4 ++ k) = _
  rw [decode_0D (form_4_21_op 0x0D#7 7#4 k)]
  simp (disch := decide) only [fieldsOf, field_field, Nat.zero_add, Nat.reduceAdd, form_4_21_a, form_4_21_b]
  rfl
theorem join : Statement .join := by
  intro _
  change decode (0x0E#7 ++ 0#25) = _
  rw [decode_0E (form_25_op 0x0E#7 0#25)]
  simp (disch := decide) only [fieldsOf, Nat.reduceAdd, form_25_a]
  rfl
theorem part (m : BitVec 8) : Statement (.part m) := by
  intro _
  change decode (0x0F#7 ++ 0#17 ++ m) = _
  rw [decode_0F (form_17_8_op 0x0F#7 0#17 m)]
  simp (disch := decide) only [fieldsOf, field_field, Nat.zero_add, Nat.reduceAdd, form_17_8_a, form_17_8_b]
  rfl
theorem regang (m : BitVec 8) : Statement (.regang m) := by
  intro _
  change decode (0x10#7 ++ 0#17 ++ m) = _
  rw [decode_10 (form_17_8_op 0x10#7 0#17 m)]
  simp (disch := decide) only [fieldsOf, field_field, Nat.zero_add, Nat.reduceAdd, form_17_8_a, form_17_8_b]
  rfl
theorem regangCompletion (core : Nat) (slot : Nat) (mask : BitVec 8) : Statement (.regangCompletion core slot mask) := nofun
theorem exit : Statement .exit := by
  intro _
  change decode (0x11#7 ++ 0#25) = _
  rw [decode_11 (form_25_op 0x11#7 0#25)]
  simp (disch := decide) only [fieldsOf, Nat.reduceAdd, form_25_a]
  rfl
theorem yield (gate : BitVec 8) (off : BitVec 17) : Statement (.yield gate off) := by
  intro _
  change decode (0x12#7 ++ gate ++ off) = _
  rw [decode_12 (form_8_17_op 0x12#7 gate off)]
  simp (disch := decide) only [fieldsOf, field_field, Nat.zero_add, Nat.reduceAdd, form_8_17_a, form_8_17_b]
  rfl
theorem rds (d : Reg) (k : BitVec 11) : Statement (.rds d k) := by
  intro _
  change decode (0x15#7 ++ d ++ 0x7E#7 ++ k) = _
  rw [decode_15 (form_7_7_11_op 0x15#7 d 0x7E#7 k)]
  simp (disch := decide) only [fieldsOf, Nat.reduceAdd, form_7_7_11_a, form_7_7_11_b, form_7_7_11_c]
  rfl
theorem wrs (a : Reg) (k : BitVec 11) : Statement (.wrs a k) := by
  intro _
  change decode (0x16#7 ++ 0x7E#7 ++ a ++ k) = _
  rw [decode_16 (form_7_7_11_op 0x16#7 0x7E#7 a k)]
  simp (disch := decide) only [fieldsOf, Nat.reduceAdd, form_7_7_11_a, form_7_7_11_b, form_7_7_11_c]
  rfl
theorem add (d : Reg) (a : Reg) (ra : BitVec 2) (b : Reg) (rb : BitVec 2) : Statement (.add d a ra b rb) := by
  intro _
  change decode (0x18#7 ++ d ++ a ++ ra ++ b ++ rb) = _
  rw [decode_18 (form_7_7_2_7_2_op 0x18#7 d a ra b rb)]
  simp (disch := decide) only [fieldsOf, Nat.reduceAdd, form_7_7_2_7_2_a, form_7_7_2_7_2_b, form_7_7_2_7_2_c, form_7_7_2_7_2_d, form_7_7_2_7_2_e]
  rfl
theorem sub (d : Reg) (a : Reg) (ra : BitVec 2) (b : Reg) (rb : BitVec 2) : Statement (.sub d a ra b rb) := by
  intro _
  change decode (0x19#7 ++ d ++ a ++ ra ++ b ++ rb) = _
  rw [decode_19 (form_7_7_2_7_2_op 0x19#7 d a ra b rb)]
  simp (disch := decide) only [fieldsOf, Nat.reduceAdd, form_7_7_2_7_2_a, form_7_7_2_7_2_b, form_7_7_2_7_2_c, form_7_7_2_7_2_d, form_7_7_2_7_2_e]
  rfl
theorem mul (d : Reg) (a : Reg) (ra : BitVec 2) (b : Reg) (rb : BitVec 2) : Statement (.mul d a ra b rb) := by
  intro _
  change decode (0x1A#7 ++ d ++ a ++ ra ++ b ++ rb) = _
  rw [decode_1A (form_7_7_2_7_2_op 0x1A#7 d a ra b rb)]
  simp (disch := decide) only [fieldsOf, Nat.reduceAdd, form_7_7_2_7_2_a, form_7_7_2_7_2_b, form_7_7_2_7_2_c, form_7_7_2_7_2_d, form_7_7_2_7_2_e]
  rfl
theorem mulh (d : Reg) (a : Reg) (ra : BitVec 2) (b : Reg) (rb : BitVec 2) : Statement (.mulh d a ra b rb) := by
  intro _
  change decode (0x1B#7 ++ d ++ a ++ ra ++ b ++ rb) = _
  rw [decode_1B (form_7_7_2_7_2_op 0x1B#7 d a ra b rb)]
  simp (disch := decide) only [fieldsOf, Nat.reduceAdd, form_7_7_2_7_2_a, form_7_7_2_7_2_b, form_7_7_2_7_2_c, form_7_7_2_7_2_d, form_7_7_2_7_2_e]
  rfl
theorem mad (d : Reg) (a : Reg) (ra : BitVec 2) (b : Reg) (rb : BitVec 2) : Statement (.mad d a ra b rb) := by
  intro _
  change decode (0x1C#7 ++ d ++ a ++ ra ++ b ++ rb) = _
  rw [decode_1C (form_7_7_2_7_2_op 0x1C#7 d a ra b rb)]
  simp (disch := decide) only [fieldsOf, Nat.reduceAdd, form_7_7_2_7_2_a, form_7_7_2_7_2_b, form_7_7_2_7_2_c, form_7_7_2_7_2_d, form_7_7_2_7_2_e]
  rfl
theorem msb (d : Reg) (a : Reg) (ra : BitVec 2) (b : Reg) (rb : BitVec 2) : Statement (.msb d a ra b rb) := by
  intro _
  change decode (0x1D#7 ++ d ++ a ++ ra ++ b ++ rb) = _
  rw [decode_1D (form_7_7_2_7_2_op 0x1D#7 d a ra b rb)]
  simp (disch := decide) only [fieldsOf, Nat.reduceAdd, form_7_7_2_7_2_a, form_7_7_2_7_2_b, form_7_7_2_7_2_c, form_7_7_2_7_2_d, form_7_7_2_7_2_e]
  rfl
theorem min (d : Reg) (a : Reg) (ra : BitVec 2) (b : Reg) (rb : BitVec 2) : Statement (.min d a ra b rb) := by
  intro _
  change decode (0x1E#7 ++ d ++ a ++ ra ++ b ++ rb) = _
  rw [decode_1E (form_7_7_2_7_2_op 0x1E#7 d a ra b rb)]
  simp (disch := decide) only [fieldsOf, Nat.reduceAdd, form_7_7_2_7_2_a, form_7_7_2_7_2_b, form_7_7_2_7_2_c, form_7_7_2_7_2_d, form_7_7_2_7_2_e]
  rfl
theorem max (d : Reg) (a : Reg) (ra : BitVec 2) (b : Reg) (rb : BitVec 2) : Statement (.max d a ra b rb) := by
  intro _
  change decode (0x1F#7 ++ d ++ a ++ ra ++ b ++ rb) = _
  rw [decode_1F (form_7_7_2_7_2_op 0x1F#7 d a ra b rb)]
  simp (disch := decide) only [fieldsOf, Nat.reduceAdd, form_7_7_2_7_2_a, form_7_7_2_7_2_b, form_7_7_2_7_2_c, form_7_7_2_7_2_d, form_7_7_2_7_2_e]
  rfl
theorem and (d : Reg) (a : Reg) (ra : BitVec 2) (b : Reg) (rb : BitVec 2) : Statement (.and d a ra b rb) := by
  intro _
  change decode (0x20#7 ++ d ++ a ++ ra ++ b ++ rb) = _
  rw [decode_20 (form_7_7_2_7_2_op 0x20#7 d a ra b rb)]
  simp (disch := decide) only [fieldsOf, Nat.reduceAdd, form_7_7_2_7_2_a, form_7_7_2_7_2_b, form_7_7_2_7_2_c, form_7_7_2_7_2_d, form_7_7_2_7_2_e]
  rfl
theorem or (d : Reg) (a : Reg) (ra : BitVec 2) (b : Reg) (rb : BitVec 2) : Statement (.or d a ra b rb) := by
  intro _
  change decode (0x21#7 ++ d ++ a ++ ra ++ b ++ rb) = _
  rw [decode_21 (form_7_7_2_7_2_op 0x21#7 d a ra b rb)]
  simp (disch := decide) only [fieldsOf, Nat.reduceAdd, form_7_7_2_7_2_a, form_7_7_2_7_2_b, form_7_7_2_7_2_c, form_7_7_2_7_2_d, form_7_7_2_7_2_e]
  rfl
theorem xor (d : Reg) (a : Reg) (ra : BitVec 2) (b : Reg) (rb : BitVec 2) : Statement (.xor d a ra b rb) := by
  intro _
  change decode (0x22#7 ++ d ++ a ++ ra ++ b ++ rb) = _
  rw [decode_22 (form_7_7_2_7_2_op 0x22#7 d a ra b rb)]
  simp (disch := decide) only [fieldsOf, Nat.reduceAdd, form_7_7_2_7_2_a, form_7_7_2_7_2_b, form_7_7_2_7_2_c, form_7_7_2_7_2_d, form_7_7_2_7_2_e]
  rfl
theorem andn (d : Reg) (a : Reg) (ra : BitVec 2) (b : Reg) (rb : BitVec 2) : Statement (.andn d a ra b rb) := by
  intro _
  change decode (0x23#7 ++ d ++ a ++ ra ++ b ++ rb) = _
  rw [decode_23 (form_7_7_2_7_2_op 0x23#7 d a ra b rb)]
  simp (disch := decide) only [fieldsOf, Nat.reduceAdd, form_7_7_2_7_2_a, form_7_7_2_7_2_b, form_7_7_2_7_2_c, form_7_7_2_7_2_d, form_7_7_2_7_2_e]
  rfl
theorem shl (d : Reg) (a : Reg) (ra : BitVec 2) (b : Reg) (rb : BitVec 2) : Statement (.shl d a ra b rb) := by
  intro _
  change decode (0x24#7 ++ d ++ a ++ ra ++ b ++ rb) = _
  rw [decode_24 (form_7_7_2_7_2_op 0x24#7 d a ra b rb)]
  simp (disch := decide) only [fieldsOf, Nat.reduceAdd, form_7_7_2_7_2_a, form_7_7_2_7_2_b, form_7_7_2_7_2_c, form_7_7_2_7_2_d, form_7_7_2_7_2_e]
  rfl
theorem shr (d : Reg) (a : Reg) (ra : BitVec 2) (b : Reg) (rb : BitVec 2) : Statement (.shr d a ra b rb) := by
  intro _
  change decode (0x25#7 ++ d ++ a ++ ra ++ b ++ rb) = _
  rw [decode_25 (form_7_7_2_7_2_op 0x25#7 d a ra b rb)]
  simp (disch := decide) only [fieldsOf, Nat.reduceAdd, form_7_7_2_7_2_a, form_7_7_2_7_2_b, form_7_7_2_7_2_c, form_7_7_2_7_2_d, form_7_7_2_7_2_e]
  rfl
theorem sha (d : Reg) (a : Reg) (ra : BitVec 2) (b : Reg) (rb : BitVec 2) : Statement (.sha d a ra b rb) := by
  intro _
  change decode (0x26#7 ++ d ++ a ++ ra ++ b ++ rb) = _
  rw [decode_26 (form_7_7_2_7_2_op 0x26#7 d a ra b rb)]
  simp (disch := decide) only [fieldsOf, Nat.reduceAdd, form_7_7_2_7_2_a, form_7_7_2_7_2_b, form_7_7_2_7_2_c, form_7_7_2_7_2_d, form_7_7_2_7_2_e]
  rfl
theorem rot (d : Reg) (a : Reg) (ra : BitVec 2) (b : Reg) (rb : BitVec 2) : Statement (.rot d a ra b rb) := by
  intro _
  change decode (0x27#7 ++ d ++ a ++ ra ++ b ++ rb) = _
  rw [decode_27 (form_7_7_2_7_2_op 0x27#7 d a ra b rb)]
  simp (disch := decide) only [fieldsOf, Nat.reduceAdd, form_7_7_2_7_2_a, form_7_7_2_7_2_b, form_7_7_2_7_2_c, form_7_7_2_7_2_d, form_7_7_2_7_2_e]
  rfl
theorem bfe (d : Reg) (a : Reg) (ra : BitVec 2) (b : Reg) (rb : BitVec 2) : Statement (.bfe d a ra b rb) := by
  intro _
  change decode (0x28#7 ++ d ++ a ++ ra ++ b ++ rb) = _
  rw [decode_28 (form_7_7_2_7_2_op 0x28#7 d a ra b rb)]
  simp (disch := decide) only [fieldsOf, Nat.reduceAdd, form_7_7_2_7_2_a, form_7_7_2_7_2_b, form_7_7_2_7_2_c, form_7_7_2_7_2_d, form_7_7_2_7_2_e]
  rfl
theorem bfi (d : Reg) (a : Reg) (ra : BitVec 2) (b : Reg) (rb : BitVec 2) : Statement (.bfi d a ra b rb) := by
  intro _
  change decode (0x29#7 ++ d ++ a ++ ra ++ b ++ rb) = _
  rw [decode_29 (form_7_7_2_7_2_op 0x29#7 d a ra b rb)]
  simp (disch := decide) only [fieldsOf, Nat.reduceAdd, form_7_7_2_7_2_a, form_7_7_2_7_2_b, form_7_7_2_7_2_c, form_7_7_2_7_2_d, form_7_7_2_7_2_e]
  rfl
theorem sel (d : Reg) (a : Reg) (ra : BitVec 2) (b : Reg) (rb : BitVec 2) : Statement (.sel d a ra b rb) := by
  intro _
  change decode (0x2A#7 ++ d ++ a ++ ra ++ b ++ rb) = _
  rw [decode_2A (form_7_7_2_7_2_op 0x2A#7 d a ra b rb)]
  simp (disch := decide) only [fieldsOf, Nat.reduceAdd, form_7_7_2_7_2_a, form_7_7_2_7_2_b, form_7_7_2_7_2_c, form_7_7_2_7_2_d, form_7_7_2_7_2_e]
  rfl
theorem cmp (c : BitVec 4) (p : BitVec 3) (a : Reg) (ra : BitVec 2) (b : Reg) (rb : BitVec 2) : Statement (.cmp c p a ra b rb) := by
  intro _
  change decode (0x2B#7 ++ c ++ p ++ a ++ ra ++ b ++ rb) = _
  rw [decode_2B (form_4_3_7_2_7_2_op 0x2B#7 c p a ra b rb)]
  simp (disch := decide) only [fieldsOf, field_field, Nat.reduceAdd, form_4_3_7_2_7_2_a, form_4_3_7_2_7_2_b, form_4_3_7_2_7_2_c, form_4_3_7_2_7_2_d, form_4_3_7_2_7_2_e, form_4_3_7_2_7_2_f]
  rfl
theorem mov (d : Reg) (a : Reg) (ra : BitVec 2) : Statement (.mov d a ra) := by
  intro _
  change decode (0x2C#7 ++ d ++ a ++ ra ++ 0x00#7 ++ 0#2) = _
  rw [decode_2C (form_7_7_2_7_2_op 0x2C#7 d a ra 0x00#7 0#2), unSub_00 (form_7_7_2_7_2_d 0x2C#7 d a ra 0x00#7 0#2)]
  simp (disch := decide) only [fieldsOf, Nat.reduceAdd, form_7_7_2_7_2_a, form_7_7_2_7_2_b, form_7_7_2_7_2_c, form_7_7_2_7_2_d, form_7_7_2_7_2_e]
  rfl
theorem not (d : Reg) (a : Reg) (ra : BitVec 2) : Statement (.not d a ra) := by
  intro _
  change decode (0x2C#7 ++ d ++ a ++ ra ++ 0x01#7 ++ 0#2) = _
  rw [decode_2C (form_7_7_2_7_2_op 0x2C#7 d a ra 0x01#7 0#2), unSub_01 (form_7_7_2_7_2_d 0x2C#7 d a ra 0x01#7 0#2)]
  simp (disch := decide) only [fieldsOf, Nat.reduceAdd, form_7_7_2_7_2_a, form_7_7_2_7_2_b, form_7_7_2_7_2_c, form_7_7_2_7_2_d, form_7_7_2_7_2_e]
  rfl
theorem neg (d : Reg) (a : Reg) (ra : BitVec 2) : Statement (.neg d a ra) := by
  intro _
  change decode (0x2C#7 ++ d ++ a ++ ra ++ 0x02#7 ++ 0#2) = _
  rw [decode_2C (form_7_7_2_7_2_op 0x2C#7 d a ra 0x02#7 0#2), unSub_02 (form_7_7_2_7_2_d 0x2C#7 d a ra 0x02#7 0#2)]
  simp (disch := decide) only [fieldsOf, Nat.reduceAdd, form_7_7_2_7_2_a, form_7_7_2_7_2_b, form_7_7_2_7_2_c, form_7_7_2_7_2_d, form_7_7_2_7_2_e]
  rfl
theorem abs (d : Reg) (a : Reg) (ra : BitVec 2) : Statement (.abs d a ra) := by
  intro _
  change decode (0x2C#7 ++ d ++ a ++ ra ++ 0x03#7 ++ 0#2) = _
  rw [decode_2C (form_7_7_2_7_2_op 0x2C#7 d a ra 0x03#7 0#2), unSub_03 (form_7_7_2_7_2_d 0x2C#7 d a ra 0x03#7 0#2)]
  simp (disch := decide) only [fieldsOf, Nat.reduceAdd, form_7_7_2_7_2_a, form_7_7_2_7_2_b, form_7_7_2_7_2_c, form_7_7_2_7_2_d, form_7_7_2_7_2_e]
  rfl
theorem clz (d : Reg) (a : Reg) (ra : BitVec 2) : Statement (.clz d a ra) := by
  intro _
  change decode (0x2C#7 ++ d ++ a ++ ra ++ 0x04#7 ++ 0#2) = _
  rw [decode_2C (form_7_7_2_7_2_op 0x2C#7 d a ra 0x04#7 0#2), unSub_04 (form_7_7_2_7_2_d 0x2C#7 d a ra 0x04#7 0#2)]
  simp (disch := decide) only [fieldsOf, Nat.reduceAdd, form_7_7_2_7_2_a, form_7_7_2_7_2_b, form_7_7_2_7_2_c, form_7_7_2_7_2_d, form_7_7_2_7_2_e]
  rfl
theorem popc (d : Reg) (a : Reg) (ra : BitVec 2) : Statement (.popc d a ra) := by
  intro _
  change decode (0x2C#7 ++ d ++ a ++ ra ++ 0x05#7 ++ 0#2) = _
  rw [decode_2C (form_7_7_2_7_2_op 0x2C#7 d a ra 0x05#7 0#2), unSub_05 (form_7_7_2_7_2_d 0x2C#7 d a ra 0x05#7 0#2)]
  simp (disch := decide) only [fieldsOf, Nat.reduceAdd, form_7_7_2_7_2_a, form_7_7_2_7_2_b, form_7_7_2_7_2_c, form_7_7_2_7_2_d, form_7_7_2_7_2_e]
  rfl
theorem brev (d : Reg) (a : Reg) (ra : BitVec 2) : Statement (.brev d a ra) := by
  intro _
  change decode (0x2C#7 ++ d ++ a ++ ra ++ 0x06#7 ++ 0#2) = _
  rw [decode_2C (form_7_7_2_7_2_op 0x2C#7 d a ra 0x06#7 0#2), unSub_06 (form_7_7_2_7_2_d 0x2C#7 d a ra 0x06#7 0#2)]
  simp (disch := decide) only [fieldsOf, Nat.reduceAdd, form_7_7_2_7_2_a, form_7_7_2_7_2_b, form_7_7_2_7_2_c, form_7_7_2_7_2_d, form_7_7_2_7_2_e]
  rfl
theorem rcp (d : Reg) (a : Reg) (ra : BitVec 2) : Statement (.rcp d a ra) := by
  intro _
  change decode (0x2C#7 ++ d ++ a ++ ra ++ 0x10#7 ++ 0#2) = _
  rw [decode_2C (form_7_7_2_7_2_op 0x2C#7 d a ra 0x10#7 0#2), unSub_10 (form_7_7_2_7_2_d 0x2C#7 d a ra 0x10#7 0#2)]
  simp (disch := decide) only [fieldsOf, Nat.reduceAdd, form_7_7_2_7_2_a, form_7_7_2_7_2_b, form_7_7_2_7_2_c, form_7_7_2_7_2_d, form_7_7_2_7_2_e]
  rfl
theorem rsq (d : Reg) (a : Reg) (ra : BitVec 2) : Statement (.rsq d a ra) := by
  intro _
  change decode (0x2C#7 ++ d ++ a ++ ra ++ 0x11#7 ++ 0#2) = _
  rw [decode_2C (form_7_7_2_7_2_op 0x2C#7 d a ra 0x11#7 0#2), unSub_11 (form_7_7_2_7_2_d 0x2C#7 d a ra 0x11#7 0#2)]
  simp (disch := decide) only [fieldsOf, Nat.reduceAdd, form_7_7_2_7_2_a, form_7_7_2_7_2_b, form_7_7_2_7_2_c, form_7_7_2_7_2_d, form_7_7_2_7_2_e]
  rfl
theorem sqrt (d : Reg) (a : Reg) (ra : BitVec 2) : Statement (.sqrt d a ra) := by
  intro _
  change decode (0x2C#7 ++ d ++ a ++ ra ++ 0x12#7 ++ 0#2) = _
  rw [decode_2C (form_7_7_2_7_2_op 0x2C#7 d a ra 0x12#7 0#2), unSub_12 (form_7_7_2_7_2_d 0x2C#7 d a ra 0x12#7 0#2)]
  simp (disch := decide) only [fieldsOf, Nat.reduceAdd, form_7_7_2_7_2_a, form_7_7_2_7_2_b, form_7_7_2_7_2_c, form_7_7_2_7_2_d, form_7_7_2_7_2_e]
  rfl
theorem exp2 (d : Reg) (a : Reg) (ra : BitVec 2) : Statement (.exp2 d a ra) := by
  intro _
  change decode (0x2C#7 ++ d ++ a ++ ra ++ 0x13#7 ++ 0#2) = _
  rw [decode_2C (form_7_7_2_7_2_op 0x2C#7 d a ra 0x13#7 0#2), unSub_13 (form_7_7_2_7_2_d 0x2C#7 d a ra 0x13#7 0#2)]
  simp (disch := decide) only [fieldsOf, Nat.reduceAdd, form_7_7_2_7_2_a, form_7_7_2_7_2_b, form_7_7_2_7_2_c, form_7_7_2_7_2_d, form_7_7_2_7_2_e]
  rfl
theorem log2 (d : Reg) (a : Reg) (ra : BitVec 2) : Statement (.log2 d a ra) := by
  intro _
  change decode (0x2C#7 ++ d ++ a ++ ra ++ 0x14#7 ++ 0#2) = _
  rw [decode_2C (form_7_7_2_7_2_op 0x2C#7 d a ra 0x14#7 0#2), unSub_14 (form_7_7_2_7_2_d 0x2C#7 d a ra 0x14#7 0#2)]
  simp (disch := decide) only [fieldsOf, Nat.reduceAdd, form_7_7_2_7_2_a, form_7_7_2_7_2_b, form_7_7_2_7_2_c, form_7_7_2_7_2_d, form_7_7_2_7_2_e]
  rfl
theorem sint (d : Reg) (a : Reg) (ra : BitVec 2) : Statement (.sint d a ra) := by
  intro _
  change decode (0x2C#7 ++ d ++ a ++ ra ++ 0x15#7 ++ 0#2) = _
  rw [decode_2C (form_7_7_2_7_2_op 0x2C#7 d a ra 0x15#7 0#2), unSub_15 (form_7_7_2_7_2_d 0x2C#7 d a ra 0x15#7 0#2)]
  simp (disch := decide) only [fieldsOf, Nat.reduceAdd, form_7_7_2_7_2_a, form_7_7_2_7_2_b, form_7_7_2_7_2_c, form_7_7_2_7_2_d, form_7_7_2_7_2_e]
  rfl
theorem cost (d : Reg) (a : Reg) (ra : BitVec 2) : Statement (.cost d a ra) := by
  intro _
  change decode (0x2C#7 ++ d ++ a ++ ra ++ 0x16#7 ++ 0#2) = _
  rw [decode_2C (form_7_7_2_7_2_op 0x2C#7 d a ra 0x16#7 0#2), unSub_16 (form_7_7_2_7_2_d 0x2C#7 d a ra 0x16#7 0#2)]
  simp (disch := decide) only [fieldsOf, Nat.reduceAdd, form_7_7_2_7_2_a, form_7_7_2_7_2_b, form_7_7_2_7_2_c, form_7_7_2_7_2_d, form_7_7_2_7_2_e]
  rfl
theorem tanh (d : Reg) (a : Reg) (ra : BitVec 2) : Statement (.tanh d a ra) := by
  intro _
  change decode (0x2C#7 ++ d ++ a ++ ra ++ 0x17#7 ++ 0#2) = _
  rw [decode_2C (form_7_7_2_7_2_op 0x2C#7 d a ra 0x17#7 0#2), unSub_17 (form_7_7_2_7_2_d 0x2C#7 d a ra 0x17#7 0#2)]
  simp (disch := decide) only [fieldsOf, Nat.reduceAdd, form_7_7_2_7_2_a, form_7_7_2_7_2_b, form_7_7_2_7_2_c, form_7_7_2_7_2_d, form_7_7_2_7_2_e]
  rfl
theorem flr (d : Reg) (a : Reg) (ra : BitVec 2) : Statement (.flr d a ra) := by
  intro _
  change decode (0x2C#7 ++ d ++ a ++ ra ++ 0x18#7 ++ 0#2) = _
  rw [decode_2C (form_7_7_2_7_2_op 0x2C#7 d a ra 0x18#7 0#2), unSub_18 (form_7_7_2_7_2_d 0x2C#7 d a ra 0x18#7 0#2)]
  simp (disch := decide) only [fieldsOf, Nat.reduceAdd, form_7_7_2_7_2_a, form_7_7_2_7_2_b, form_7_7_2_7_2_c, form_7_7_2_7_2_d, form_7_7_2_7_2_e]
  rfl
theorem ceil (d : Reg) (a : Reg) (ra : BitVec 2) : Statement (.ceil d a ra) := by
  intro _
  change decode (0x2C#7 ++ d ++ a ++ ra ++ 0x19#7 ++ 0#2) = _
  rw [decode_2C (form_7_7_2_7_2_op 0x2C#7 d a ra 0x19#7 0#2), unSub_19 (form_7_7_2_7_2_d 0x2C#7 d a ra 0x19#7 0#2)]
  simp (disch := decide) only [fieldsOf, Nat.reduceAdd, form_7_7_2_7_2_a, form_7_7_2_7_2_b, form_7_7_2_7_2_c, form_7_7_2_7_2_d, form_7_7_2_7_2_e]
  rfl
theorem trnc (d : Reg) (a : Reg) (ra : BitVec 2) : Statement (.trnc d a ra) := by
  intro _
  change decode (0x2C#7 ++ d ++ a ++ ra ++ 0x1A#7 ++ 0#2) = _
  rw [decode_2C (form_7_7_2_7_2_op 0x2C#7 d a ra 0x1A#7 0#2), unSub_1A (form_7_7_2_7_2_d 0x2C#7 d a ra 0x1A#7 0#2)]
  simp (disch := decide) only [fieldsOf, Nat.reduceAdd, form_7_7_2_7_2_a, form_7_7_2_7_2_b, form_7_7_2_7_2_c, form_7_7_2_7_2_d, form_7_7_2_7_2_e]
  rfl
theorem rint (d : Reg) (a : Reg) (ra : BitVec 2) : Statement (.rint d a ra) := by
  intro _
  change decode (0x2C#7 ++ d ++ a ++ ra ++ 0x1B#7 ++ 0#2) = _
  rw [decode_2C (form_7_7_2_7_2_op 0x2C#7 d a ra 0x1B#7 0#2), unSub_1B (form_7_7_2_7_2_d 0x2C#7 d a ra 0x1B#7 0#2)]
  simp (disch := decide) only [fieldsOf, Nat.reduceAdd, form_7_7_2_7_2_a, form_7_7_2_7_2_b, form_7_7_2_7_2_c, form_7_7_2_7_2_d, form_7_7_2_7_2_e]
  rfl
theorem frc (d : Reg) (a : Reg) (ra : BitVec 2) : Statement (.frc d a ra) := by
  intro _
  change decode (0x2C#7 ++ d ++ a ++ ra ++ 0x1C#7 ++ 0#2) = _
  rw [decode_2C (form_7_7_2_7_2_op 0x2C#7 d a ra 0x1C#7 0#2), unSub_1C (form_7_7_2_7_2_d 0x2C#7 d a ra 0x1C#7 0#2)]
  simp (disch := decide) only [fieldsOf, Nat.reduceAdd, form_7_7_2_7_2_a, form_7_7_2_7_2_b, form_7_7_2_7_2_c, form_7_7_2_7_2_d, form_7_7_2_7_2_e]
  rfl
theorem fclass (d : Reg) (a : Reg) (ra : BitVec 2) : Statement (.fclass d a ra) := by
  intro _
  change decode (0x2C#7 ++ d ++ a ++ ra ++ 0x1D#7 ++ 0#2) = _
  rw [decode_2C (form_7_7_2_7_2_op 0x2C#7 d a ra 0x1D#7 0#2), unSub_1D (form_7_7_2_7_2_d 0x2C#7 d a ra 0x1D#7 0#2)]
  simp (disch := decide) only [fieldsOf, Nat.reduceAdd, form_7_7_2_7_2_a, form_7_7_2_7_2_b, form_7_7_2_7_2_c, form_7_7_2_7_2_d, form_7_7_2_7_2_e]
  rfl
theorem rand (d : Reg) (ra : BitVec 2) : Statement (.rand d ra) := by
  intro _
  change decode (0x2C#7 ++ d ++ 0x7E#7 ++ ra ++ 0x1E#7 ++ 0#2) = _
  rw [decode_2C (form_7_7_2_7_2_op 0x2C#7 d 0x7E#7 ra 0x1E#7 0#2), unSub_1E (form_7_7_2_7_2_d 0x2C#7 d 0x7E#7 ra 0x1E#7 0#2)]
  simp (disch := decide) only [fieldsOf, Nat.reduceAdd, form_7_7_2_7_2_a, form_7_7_2_7_2_b, form_7_7_2_7_2_c, form_7_7_2_7_2_d, form_7_7_2_7_2_e]
  rfl
theorem cvt (d : Reg) (a : Reg) (ra : BitVec 2) (code : BitVec 7) : Statement (.cvt d a ra code) := by
  intro _
  change decode (0x2D#7 ++ d ++ a ++ ra ++ code ++ 0#2) = _
  rw [decode_2D (form_7_7_2_7_2_op 0x2D#7 d a ra code 0#2)]
  simp (disch := decide) only [fieldsOf, Nat.reduceAdd, form_7_7_2_7_2_a, form_7_7_2_7_2_b, form_7_7_2_7_2_c, form_7_7_2_7_2_d, form_7_7_2_7_2_e]
  rfl
theorem mxq (d : Reg) (a : Reg) (ra : BitVec 2) (fmt : BitVec 7) : Statement (.mxq d a ra fmt) := by
  intro _
  change decode (0x2E#7 ++ d ++ a ++ ra ++ fmt ++ 0#2) = _
  rw [decode_2E (form_7_7_2_7_2_op 0x2E#7 d a ra fmt 0#2)]
  simp (disch := decide) only [fieldsOf, Nat.reduceAdd, form_7_7_2_7_2_a, form_7_7_2_7_2_b, form_7_7_2_7_2_c, form_7_7_2_7_2_d, form_7_7_2_7_2_e]
  rfl
theorem absd (d : Reg) (a : Reg) (ra : BitVec 2) (b : Reg) (rb : BitVec 2) : Statement (.absd d a ra b rb) := by
  intro _
  change decode (0x2F#7 ++ d ++ a ++ ra ++ b ++ rb) = _
  rw [decode_2F (form_7_7_2_7_2_op 0x2F#7 d a ra b rb)]
  simp (disch := decide) only [fieldsOf, Nat.reduceAdd, form_7_7_2_7_2_a, form_7_7_2_7_2_b, form_7_7_2_7_2_c, form_7_7_2_7_2_d, form_7_7_2_7_2_e]
  rfl
theorem addi (d : Reg) (a : Reg) (k : BitVec 11) : Statement (.addi d a k) := by
  intro _
  change decode (0x30#7 ++ d ++ a ++ k) = _
  rw [decode_30 (form_7_7_11_op 0x30#7 d a k)]
  simp (disch := decide) only [fieldsOf, Nat.reduceAdd, form_7_7_11_a, form_7_7_11_b, form_7_7_11_c]
  rfl
theorem muli (d : Reg) (a : Reg) (k : BitVec 11) : Statement (.muli d a k) := by
  intro _
  change decode (0x31#7 ++ d ++ a ++ k) = _
  rw [decode_31 (form_7_7_11_op 0x31#7 d a k)]
  simp (disch := decide) only [fieldsOf, Nat.reduceAdd, form_7_7_11_a, form_7_7_11_b, form_7_7_11_c]
  rfl
theorem andi (d : Reg) (a : Reg) (k : BitVec 11) : Statement (.andi d a k) := by
  intro _
  change decode (0x32#7 ++ d ++ a ++ k) = _
  rw [decode_32 (form_7_7_11_op 0x32#7 d a k)]
  simp (disch := decide) only [fieldsOf, Nat.reduceAdd, form_7_7_11_a, form_7_7_11_b, form_7_7_11_c]
  rfl
theorem ori (d : Reg) (a : Reg) (k : BitVec 11) : Statement (.ori d a k) := by
  intro _
  change decode (0x33#7 ++ d ++ a ++ k) = _
  rw [decode_33 (form_7_7_11_op 0x33#7 d a k)]
  simp (disch := decide) only [fieldsOf, Nat.reduceAdd, form_7_7_11_a, form_7_7_11_b, form_7_7_11_c]
  rfl
theorem xori (d : Reg) (a : Reg) (k : BitVec 11) : Statement (.xori d a k) := by
  intro _
  change decode (0x34#7 ++ d ++ a ++ k) = _
  rw [decode_34 (form_7_7_11_op 0x34#7 d a k)]
  simp (disch := decide) only [fieldsOf, Nat.reduceAdd, form_7_7_11_a, form_7_7_11_b, form_7_7_11_c]
  rfl
theorem shli (d : Reg) (a : Reg) (k : BitVec 11) : Statement (.shli d a k) := by
  intro _
  change decode (0x35#7 ++ d ++ a ++ k) = _
  rw [decode_35 (form_7_7_11_op 0x35#7 d a k)]
  simp (disch := decide) only [fieldsOf, Nat.reduceAdd, form_7_7_11_a, form_7_7_11_b, form_7_7_11_c]
  rfl
theorem shri (d : Reg) (a : Reg) (k : BitVec 11) : Statement (.shri d a k) := by
  intro _
  change decode (0x36#7 ++ d ++ a ++ k) = _
  rw [decode_36 (form_7_7_11_op 0x36#7 d a k)]
  simp (disch := decide) only [fieldsOf, Nat.reduceAdd, form_7_7_11_a, form_7_7_11_b, form_7_7_11_c]
  rfl
theorem shai (d : Reg) (a : Reg) (k : BitVec 11) : Statement (.shai d a k) := by
  intro _
  change decode (0x37#7 ++ d ++ a ++ k) = _
  rw [decode_37 (form_7_7_11_op 0x37#7 d a k)]
  simp (disch := decide) only [fieldsOf, Nat.reduceAdd, form_7_7_11_a, form_7_7_11_b, form_7_7_11_c]
  rfl
theorem cmpi (c : BitVec 4) (p : BitVec 3) (a : Reg) (k : BitVec 11) : Statement (.cmpi c p a k) := by
  intro _
  change decode (0x38#7 ++ c ++ p ++ a ++ k) = _
  rw [decode_38 (form_4_3_7_11_op 0x38#7 c p a k)]
  simp (disch := decide) only [fieldsOf, field_field, Nat.reduceAdd, form_4_3_7_11_a, form_4_3_7_11_b, form_4_3_7_11_c, form_4_3_7_11_d]
  rfl
theorem mini (d : Reg) (a : Reg) (k : BitVec 11) : Statement (.mini d a k) := by
  intro _
  change decode (0x39#7 ++ d ++ a ++ k) = _
  rw [decode_39 (form_7_7_11_op 0x39#7 d a k)]
  simp (disch := decide) only [fieldsOf, Nat.reduceAdd, form_7_7_11_a, form_7_7_11_b, form_7_7_11_c]
  rfl
theorem maxi (d : Reg) (a : Reg) (k : BitVec 11) : Statement (.maxi d a k) := by
  intro _
  change decode (0x3A#7 ++ d ++ a ++ k) = _
  rw [decode_3A (form_7_7_11_op 0x3A#7 d a k)]
  simp (disch := decide) only [fieldsOf, Nat.reduceAdd, form_7_7_11_a, form_7_7_11_b, form_7_7_11_c]
  rfl
theorem qswh (d : Reg) (a : Reg) (ra : BitVec 2) : Statement (.qswh d a ra) := by
  intro _
  change decode (0x40#7 ++ d ++ a ++ ra ++ 0x00#7 ++ 0#2) = _
  rw [decode_40 (form_7_7_2_7_2_op 0x40#7 d a ra 0x00#7 0#2), qxSub_00 (form_7_7_2_7_2_d 0x40#7 d a ra 0x00#7 0#2)]
  simp (disch := decide) only [fieldsOf, Nat.reduceAdd, form_7_7_2_7_2_a, form_7_7_2_7_2_b, form_7_7_2_7_2_c, form_7_7_2_7_2_d, form_7_7_2_7_2_e]
  rfl
theorem qswv (d : Reg) (a : Reg) (ra : BitVec 2) : Statement (.qswv d a ra) := by
  intro _
  change decode (0x40#7 ++ d ++ a ++ ra ++ 0x01#7 ++ 0#2) = _
  rw [decode_40 (form_7_7_2_7_2_op 0x40#7 d a ra 0x01#7 0#2), qxSub_01 (form_7_7_2_7_2_d 0x40#7 d a ra 0x01#7 0#2)]
  simp (disch := decide) only [fieldsOf, Nat.reduceAdd, form_7_7_2_7_2_a, form_7_7_2_7_2_b, form_7_7_2_7_2_c, form_7_7_2_7_2_d, form_7_7_2_7_2_e]
  rfl
theorem qswd (d : Reg) (a : Reg) (ra : BitVec 2) : Statement (.qswd d a ra) := by
  intro _
  change decode (0x40#7 ++ d ++ a ++ ra ++ 0x02#7 ++ 0#2) = _
  rw [decode_40 (form_7_7_2_7_2_op 0x40#7 d a ra 0x02#7 0#2), qxSub_02 (form_7_7_2_7_2_d 0x40#7 d a ra 0x02#7 0#2)]
  simp (disch := decide) only [fieldsOf, Nat.reduceAdd, form_7_7_2_7_2_a, form_7_7_2_7_2_b, form_7_7_2_7_2_c, form_7_7_2_7_2_d, form_7_7_2_7_2_e]
  rfl
theorem qbc0 (d : Reg) (a : Reg) (ra : BitVec 2) : Statement (.qbc0 d a ra) := by
  intro _
  change decode (0x40#7 ++ d ++ a ++ ra ++ 0x03#7 ++ 0#2) = _
  rw [decode_40 (form_7_7_2_7_2_op 0x40#7 d a ra 0x03#7 0#2), qxSub_03 (form_7_7_2_7_2_d 0x40#7 d a ra 0x03#7 0#2)]
  simp (disch := decide) only [fieldsOf, Nat.reduceAdd, form_7_7_2_7_2_a, form_7_7_2_7_2_b, form_7_7_2_7_2_c, form_7_7_2_7_2_d, form_7_7_2_7_2_e]
  rfl
theorem qbc1 (d : Reg) (a : Reg) (ra : BitVec 2) : Statement (.qbc1 d a ra) := by
  intro _
  change decode (0x40#7 ++ d ++ a ++ ra ++ 0x04#7 ++ 0#2) = _
  rw [decode_40 (form_7_7_2_7_2_op 0x40#7 d a ra 0x04#7 0#2), qxSub_04 (form_7_7_2_7_2_d 0x40#7 d a ra 0x04#7 0#2)]
  simp (disch := decide) only [fieldsOf, Nat.reduceAdd, form_7_7_2_7_2_a, form_7_7_2_7_2_b, form_7_7_2_7_2_c, form_7_7_2_7_2_d, form_7_7_2_7_2_e]
  rfl
theorem qbc2 (d : Reg) (a : Reg) (ra : BitVec 2) : Statement (.qbc2 d a ra) := by
  intro _
  change decode (0x40#7 ++ d ++ a ++ ra ++ 0x05#7 ++ 0#2) = _
  rw [decode_40 (form_7_7_2_7_2_op 0x40#7 d a ra 0x05#7 0#2), qxSub_05 (form_7_7_2_7_2_d 0x40#7 d a ra 0x05#7 0#2)]
  simp (disch := decide) only [fieldsOf, Nat.reduceAdd, form_7_7_2_7_2_a, form_7_7_2_7_2_b, form_7_7_2_7_2_c, form_7_7_2_7_2_d, form_7_7_2_7_2_e]
  rfl
theorem qbc3 (d : Reg) (a : Reg) (ra : BitVec 2) : Statement (.qbc3 d a ra) := by
  intro _
  change decode (0x40#7 ++ d ++ a ++ ra ++ 0x06#7 ++ 0#2) = _
  rw [decode_40 (form_7_7_2_7_2_op 0x40#7 d a ra 0x06#7 0#2), qxSub_06 (form_7_7_2_7_2_d 0x40#7 d a ra 0x06#7 0#2)]
  simp (disch := decide) only [fieldsOf, Nat.reduceAdd, form_7_7_2_7_2_a, form_7_7_2_7_2_b, form_7_7_2_7_2_c, form_7_7_2_7_2_d, form_7_7_2_7_2_e]
  rfl
theorem qsum (d : Reg) (a : Reg) (ra : BitVec 2) : Statement (.qsum d a ra) := by
  intro _
  change decode (0x40#7 ++ d ++ a ++ ra ++ 0x07#7 ++ 0#2) = _
  rw [decode_40 (form_7_7_2_7_2_op 0x40#7 d a ra 0x07#7 0#2), qxSub_07 (form_7_7_2_7_2_d 0x40#7 d a ra 0x07#7 0#2)]
  simp (disch := decide) only [fieldsOf, Nat.reduceAdd, form_7_7_2_7_2_a, form_7_7_2_7_2_b, form_7_7_2_7_2_c, form_7_7_2_7_2_d, form_7_7_2_7_2_e]
  rfl
theorem qmin (d : Reg) (a : Reg) (ra : BitVec 2) : Statement (.qmin d a ra) := by
  intro _
  change decode (0x40#7 ++ d ++ a ++ ra ++ 0x08#7 ++ 0#2) = _
  rw [decode_40 (form_7_7_2_7_2_op 0x40#7 d a ra 0x08#7 0#2), qxSub_08 (form_7_7_2_7_2_d 0x40#7 d a ra 0x08#7 0#2)]
  simp (disch := decide) only [fieldsOf, Nat.reduceAdd, form_7_7_2_7_2_a, form_7_7_2_7_2_b, form_7_7_2_7_2_c, form_7_7_2_7_2_d, form_7_7_2_7_2_e]
  rfl
theorem qmax (d : Reg) (a : Reg) (ra : BitVec 2) : Statement (.qmax d a ra) := by
  intro _
  change decode (0x40#7 ++ d ++ a ++ ra ++ 0x09#7 ++ 0#2) = _
  rw [decode_40 (form_7_7_2_7_2_op 0x40#7 d a ra 0x09#7 0#2), qxSub_09 (form_7_7_2_7_2_d 0x40#7 d a ra 0x09#7 0#2)]
  simp (disch := decide) only [fieldsOf, Nat.reduceAdd, form_7_7_2_7_2_a, form_7_7_2_7_2_b, form_7_7_2_7_2_c, form_7_7_2_7_2_d, form_7_7_2_7_2_e]
  rfl
theorem qddx (d : Reg) (a : Reg) (ra : BitVec 2) : Statement (.qddx d a ra) := by
  intro _
  change decode (0x40#7 ++ d ++ a ++ ra ++ 0x0A#7 ++ 0#2) = _
  rw [decode_40 (form_7_7_2_7_2_op 0x40#7 d a ra 0x0A#7 0#2), qxSub_0A (form_7_7_2_7_2_d 0x40#7 d a ra 0x0A#7 0#2)]
  simp (disch := decide) only [fieldsOf, Nat.reduceAdd, form_7_7_2_7_2_a, form_7_7_2_7_2_b, form_7_7_2_7_2_c, form_7_7_2_7_2_d, form_7_7_2_7_2_e]
  rfl
theorem qddy (d : Reg) (a : Reg) (ra : BitVec 2) : Statement (.qddy d a ra) := by
  intro _
  change decode (0x40#7 ++ d ++ a ++ ra ++ 0x0B#7 ++ 0#2) = _
  rw [decode_40 (form_7_7_2_7_2_op 0x40#7 d a ra 0x0B#7 0#2), qxSub_0B (form_7_7_2_7_2_d 0x40#7 d a ra 0x0B#7 0#2)]
  simp (disch := decide) only [fieldsOf, Nat.reduceAdd, form_7_7_2_7_2_a, form_7_7_2_7_2_b, form_7_7_2_7_2_c, form_7_7_2_7_2_d, form_7_7_2_7_2_e]
  rfl
theorem lane (d : Reg) (ra : BitVec 2) : Statement (.lane d ra) := by
  intro _
  change decode (0x41#7 ++ d ++ 0x7E#7 ++ ra ++ 0x00#7 ++ 0#2) = _
  rw [decode_41 (form_7_7_2_7_2_op 0x41#7 d 0x7E#7 ra 0x00#7 0#2), gxSub_00 (form_7_7_2_7_2_d 0x41#7 d 0x7E#7 ra 0x00#7 0#2)]
  simp (disch := decide) only [fieldsOf, Nat.reduceAdd, form_7_7_2_7_2_a, form_7_7_2_7_2_b, form_7_7_2_7_2_c, form_7_7_2_7_2_d, form_7_7_2_7_2_e]
  rfl
theorem qidx (d : Reg) (ra : BitVec 2) : Statement (.qidx d ra) := by
  intro _
  change decode (0x41#7 ++ d ++ 0x7E#7 ++ ra ++ 0x01#7 ++ 0#2) = _
  rw [decode_41 (form_7_7_2_7_2_op 0x41#7 d 0x7E#7 ra 0x01#7 0#2), gxSub_01 (form_7_7_2_7_2_d 0x41#7 d 0x7E#7 ra 0x01#7 0#2)]
  simp (disch := decide) only [fieldsOf, Nat.reduceAdd, form_7_7_2_7_2_a, form_7_7_2_7_2_b, form_7_7_2_7_2_c, form_7_7_2_7_2_d, form_7_7_2_7_2_e]
  rfl
theorem ballot (d : Reg) (a : Reg) (ra : BitVec 2) : Statement (.ballot d a ra) := by
  intro _
  change decode (0x41#7 ++ d ++ a ++ ra ++ 0x02#7 ++ 0#2) = _
  rw [decode_41 (form_7_7_2_7_2_op 0x41#7 d a ra 0x02#7 0#2), gxSub_02 (form_7_7_2_7_2_d 0x41#7 d a ra 0x02#7 0#2)]
  simp (disch := decide) only [fieldsOf, Nat.reduceAdd, form_7_7_2_7_2_a, form_7_7_2_7_2_b, form_7_7_2_7_2_c, form_7_7_2_7_2_d, form_7_7_2_7_2_e]
  rfl
theorem vany (d : Reg) (a : Reg) (ra : BitVec 2) : Statement (.vany d a ra) := by
  intro _
  change decode (0x41#7 ++ d ++ a ++ ra ++ 0x03#7 ++ 0#2) = _
  rw [decode_41 (form_7_7_2_7_2_op 0x41#7 d a ra 0x03#7 0#2), gxSub_03 (form_7_7_2_7_2_d 0x41#7 d a ra 0x03#7 0#2)]
  simp (disch := decide) only [fieldsOf, Nat.reduceAdd, form_7_7_2_7_2_a, form_7_7_2_7_2_b, form_7_7_2_7_2_c, form_7_7_2_7_2_d, form_7_7_2_7_2_e]
  rfl
theorem vall (d : Reg) (a : Reg) (ra : BitVec 2) : Statement (.vall d a ra) := by
  intro _
  change decode (0x41#7 ++ d ++ a ++ ra ++ 0x04#7 ++ 0#2) = _
  rw [decode_41 (form_7_7_2_7_2_op 0x41#7 d a ra 0x04#7 0#2), gxSub_04 (form_7_7_2_7_2_d 0x41#7 d a ra 0x04#7 0#2)]
  simp (disch := decide) only [fieldsOf, Nat.reduceAdd, form_7_7_2_7_2_a, form_7_7_2_7_2_b, form_7_7_2_7_2_c, form_7_7_2_7_2_d, form_7_7_2_7_2_e]
  rfl
theorem gsum (d : Reg) (a : Reg) (ra : BitVec 2) : Statement (.gsum d a ra) := by
  intro _
  change decode (0x41#7 ++ d ++ a ++ ra ++ 0x05#7 ++ 0#2) = _
  rw [decode_41 (form_7_7_2_7_2_op 0x41#7 d a ra 0x05#7 0#2), gxSub_05 (form_7_7_2_7_2_d 0x41#7 d a ra 0x05#7 0#2)]
  simp (disch := decide) only [fieldsOf, Nat.reduceAdd, form_7_7_2_7_2_a, form_7_7_2_7_2_b, form_7_7_2_7_2_c, form_7_7_2_7_2_d, form_7_7_2_7_2_e]
  rfl
theorem gmin (d : Reg) (a : Reg) (ra : BitVec 2) : Statement (.gmin d a ra) := by
  intro _
  change decode (0x41#7 ++ d ++ a ++ ra ++ 0x06#7 ++ 0#2) = _
  rw [decode_41 (form_7_7_2_7_2_op 0x41#7 d a ra 0x06#7 0#2), gxSub_06 (form_7_7_2_7_2_d 0x41#7 d a ra 0x06#7 0#2)]
  simp (disch := decide) only [fieldsOf, Nat.reduceAdd, form_7_7_2_7_2_a, form_7_7_2_7_2_b, form_7_7_2_7_2_c, form_7_7_2_7_2_d, form_7_7_2_7_2_e]
  rfl
theorem gmax (d : Reg) (a : Reg) (ra : BitVec 2) : Statement (.gmax d a ra) := by
  intro _
  change decode (0x41#7 ++ d ++ a ++ ra ++ 0x07#7 ++ 0#2) = _
  rw [decode_41 (form_7_7_2_7_2_op 0x41#7 d a ra 0x07#7 0#2), gxSub_07 (form_7_7_2_7_2_d 0x41#7 d a ra 0x07#7 0#2)]
  simp (disch := decide) only [fieldsOf, Nat.reduceAdd, form_7_7_2_7_2_a, form_7_7_2_7_2_b, form_7_7_2_7_2_c, form_7_7_2_7_2_d, form_7_7_2_7_2_e]
  rfl
theorem gscan (d : Reg) (a : Reg) (ra : BitVec 2) : Statement (.gscan d a ra) := by
  intro _
  change decode (0x41#7 ++ d ++ a ++ ra ++ 0x08#7 ++ 0#2) = _
  rw [decode_41 (form_7_7_2_7_2_op 0x41#7 d a ra 0x08#7 0#2), gxSub_08 (form_7_7_2_7_2_d 0x41#7 d a ra 0x08#7 0#2)]
  simp (disch := decide) only [fieldsOf, Nat.reduceAdd, form_7_7_2_7_2_a, form_7_7_2_7_2_b, form_7_7_2_7_2_c, form_7_7_2_7_2_d, form_7_7_2_7_2_e]
  rfl
theorem gscanx (d : Reg) (a : Reg) (ra : BitVec 2) : Statement (.gscanx d a ra) := by
  intro _
  change decode (0x41#7 ++ d ++ a ++ ra ++ 0x09#7 ++ 0#2) = _
  rw [decode_41 (form_7_7_2_7_2_op 0x41#7 d a ra 0x09#7 0#2), gxSub_09 (form_7_7_2_7_2_d 0x41#7 d a ra 0x09#7 0#2)]
  simp (disch := decide) only [fieldsOf, Nat.reduceAdd, form_7_7_2_7_2_a, form_7_7_2_7_2_b, form_7_7_2_7_2_c, form_7_7_2_7_2_d, form_7_7_2_7_2_e]
  rfl
theorem elect (d : Reg) (ra : BitVec 2) : Statement (.elect d ra) := by
  intro _
  change decode (0x41#7 ++ d ++ 0x7E#7 ++ ra ++ 0x0A#7 ++ 0#2) = _
  rw [decode_41 (form_7_7_2_7_2_op 0x41#7 d 0x7E#7 ra 0x0A#7 0#2), gxSub_0A (form_7_7_2_7_2_d 0x41#7 d 0x7E#7 ra 0x0A#7 0#2)]
  simp (disch := decide) only [fieldsOf, Nat.reduceAdd, form_7_7_2_7_2_a, form_7_7_2_7_2_b, form_7_7_2_7_2_c, form_7_7_2_7_2_d, form_7_7_2_7_2_e]
  rfl
theorem popm (d : Reg) (a : Reg) (ra : BitVec 2) : Statement (.popm d a ra) := by
  intro _
  change decode (0x41#7 ++ d ++ a ++ ra ++ 0x0C#7 ++ 0#2) = _
  rw [decode_41 (form_7_7_2_7_2_op 0x41#7 d a ra 0x0C#7 0#2), gxSub_0C (form_7_7_2_7_2_d 0x41#7 d a ra 0x0C#7 0#2)]
  simp (disch := decide) only [fieldsOf, Nat.reduceAdd, form_7_7_2_7_2_a, form_7_7_2_7_2_b, form_7_7_2_7_2_c, form_7_7_2_7_2_d, form_7_7_2_7_2_e]
  rfl
theorem shfl (d : Reg) (a : Reg) (ra : BitVec 2) (b : Reg) (rb : BitVec 2) : Statement (.shfl d a ra b rb) := by
  intro _
  change decode (0x42#7 ++ d ++ a ++ ra ++ b ++ rb) = _
  rw [decode_42 (form_7_7_2_7_2_op 0x42#7 d a ra b rb)]
  simp (disch := decide) only [fieldsOf, Nat.reduceAdd, form_7_7_2_7_2_a, form_7_7_2_7_2_b, form_7_7_2_7_2_c, form_7_7_2_7_2_d, form_7_7_2_7_2_e]
  rfl
theorem movsv (d : Reg) (a : Reg) (ra : BitVec 2) (b : Reg) (rb : BitVec 2) : Statement (.movsv d a ra b rb) := by
  intro _
  change decode (0x43#7 ++ d ++ a ++ ra ++ b ++ rb) = _
  rw [decode_43 (form_7_7_2_7_2_op 0x43#7 d a ra b rb)]
  simp (disch := decide) only [fieldsOf, Nat.reduceAdd, form_7_7_2_7_2_a, form_7_7_2_7_2_b, form_7_7_2_7_2_c, form_7_7_2_7_2_d, form_7_7_2_7_2_e]
  rfl
theorem ld (t : Reg) (a : Reg) (kind : BitVec 3) (k : BitVec 8) : Statement (.ld t a kind k) := by
  intro _
  change decode (0x48#7 ++ t ++ a ++ kind ++ k) = _
  rw [decode_48 (form_7_7_3_8_op 0x48#7 t a kind k)]
  simp (disch := decide) only [fieldsOf, Nat.reduceAdd, form_7_7_3_8_a, form_7_7_3_8_b, form_7_7_3_8_c, form_7_7_3_8_d]
  rfl
theorem st (t : Reg) (a : Reg) (kind : BitVec 3) (k : BitVec 8) : Statement (.st t a kind k) := by
  intro _
  change decode (0x49#7 ++ t ++ a ++ kind ++ k) = _
  rw [decode_49 (form_7_7_3_8_op 0x49#7 t a kind k)]
  simp (disch := decide) only [fieldsOf, Nat.reduceAdd, form_7_7_3_8_a, form_7_7_3_8_b, form_7_7_3_8_c, form_7_7_3_8_d]
  rfl
theorem lds (t : Reg) (a : Reg) (kind : BitVec 3) (k : BitVec 8) : Statement (.lds t a kind k) := by
  intro _
  change decode (0x4A#7 ++ t ++ a ++ kind ++ k) = _
  rw [decode_4A (form_7_7_3_8_op 0x4A#7 t a kind k)]
  simp (disch := decide) only [fieldsOf, Nat.reduceAdd, form_7_7_3_8_a, form_7_7_3_8_b, form_7_7_3_8_c, form_7_7_3_8_d]
  rfl
theorem sts (t : Reg) (a : Reg) (kind : BitVec 3) (k : BitVec 8) : Statement (.sts t a kind k) := by
  intro _
  change decode (0x4B#7 ++ t ++ a ++ kind ++ k) = _
  rw [decode_4B (form_7_7_3_8_op 0x4B#7 t a kind k)]
  simp (disch := decide) only [fieldsOf, Nat.reduceAdd, form_7_7_3_8_a, form_7_7_3_8_b, form_7_7_3_8_c, form_7_7_3_8_d]
  rfl
theorem ldx (t : Reg) (a : Reg) (kind : BitVec 3) (k : BitVec 8) : Statement (.ldx t a kind k) := by
  intro _
  change decode (0x4C#7 ++ t ++ a ++ kind ++ k) = _
  rw [decode_4C (form_7_7_3_8_op 0x4C#7 t a kind k)]
  simp (disch := decide) only [fieldsOf, Nat.reduceAdd, form_7_7_3_8_a, form_7_7_3_8_b, form_7_7_3_8_c, form_7_7_3_8_d]
  rfl
theorem ldw (t : Reg) (a : Reg) (kind : BitVec 3) (k : BitVec 8) : Statement (.ldw t a kind k) := by
  intro _
  change decode (0x4D#7 ++ t ++ a ++ kind ++ k) = _
  rw [decode_4D (form_7_7_3_8_op 0x4D#7 t a kind k)]
  simp (disch := decide) only [fieldsOf, Nat.reduceAdd, form_7_7_3_8_a, form_7_7_3_8_b, form_7_7_3_8_c, form_7_7_3_8_d]
  rfl
theorem stw (t : Reg) (a : Reg) (kind : BitVec 3) (k : BitVec 8) : Statement (.stw t a kind k) := by
  intro _
  change decode (0x4E#7 ++ t ++ a ++ kind ++ k) = _
  rw [decode_4E (form_7_7_3_8_op 0x4E#7 t a kind k)]
  simp (disch := decide) only [fieldsOf, Nat.reduceAdd, form_7_7_3_8_a, form_7_7_3_8_b, form_7_7_3_8_c, form_7_7_3_8_d]
  rfl
theorem cpl (t : Reg) (a : Reg) (kind : BitVec 3) (k : BitVec 8) : Statement (.cpl t a kind k) := by
  intro _
  change decode (0x4F#7 ++ t ++ a ++ kind ++ k) = _
  rw [decode_4F (form_7_7_3_8_op 0x4F#7 t a kind k)]
  simp (disch := decide) only [fieldsOf, Nat.reduceAdd, form_7_7_3_8_a, form_7_7_3_8_b, form_7_7_3_8_c, form_7_7_3_8_d]
  rfl
theorem windowAccessArrival (core : Nat) (id : Nat) : Statement (.windowAccessArrival core id) := nofun
theorem atom (d : Reg) (a : Reg) (scope : BitVec 3) (order : BitVec 2) (aop : BitVec 4) : Statement (.atom d a scope order aop) := by
  intro _
  change decode (0x50#7 ++ d ++ a ++ scope ++ order ++ aop ++ 0#2) = _
  rw [decode_50 (form_7_7_3_2_4_2_op 0x50#7 d a scope order aop 0#2)]
  simp (disch := decide) only [fieldsOf, Nat.reduceAdd, form_7_7_3_2_4_2_a, form_7_7_3_2_4_2_b, form_7_7_3_2_4_2_c, form_7_7_3_2_4_2_d, form_7_7_3_2_4_2_e, form_7_7_3_2_4_2_f]
  rfl
theorem red (d : Reg) (a : Reg) (scope : BitVec 3) (order : BitVec 2) (aop : BitVec 4) : Statement (.red d a scope order aop) := by
  intro _
  change decode (0x51#7 ++ d ++ a ++ scope ++ order ++ aop ++ 0#2) = _
  rw [decode_51 (form_7_7_3_2_4_2_op 0x51#7 d a scope order aop 0#2)]
  simp (disch := decide) only [fieldsOf, Nat.reduceAdd, form_7_7_3_2_4_2_a, form_7_7_3_2_4_2_b, form_7_7_3_2_4_2_c, form_7_7_3_2_4_2_d, form_7_7_3_2_4_2_e, form_7_7_3_2_4_2_f]
  rfl
theorem kick (d : Reg) (a : Reg) (b : Reg) : Statement (.kick d a b) := by
  intro _
  change decode (0x53#7 ++ d ++ a ++ 0#2 ++ b ++ 0#2) = _
  rw [decode_53 (form_7_7_2_7_2_op 0x53#7 d a 0#2 b 0#2)]
  simp (disch := decide) only [fieldsOf, Nat.reduceAdd, form_7_7_2_7_2_a, form_7_7_2_7_2_b, form_7_7_2_7_2_c, form_7_7_2_7_2_d, form_7_7_2_7_2_e]
  rfl
theorem binit (d : Reg) (a : Reg) : Statement (.binit d a) := by
  intro _
  change decode (0x54#7 ++ d ++ a ++ 0#2 ++ 0x00#7 ++ 0#2) = _
  rw [decode_54 (form_7_7_2_7_2_op 0x54#7 d a 0#2 0x00#7 0#2), barSub_00 (form_7_7_2_7_2_d 0x54#7 d a 0#2 0x00#7 0#2)]
  simp (disch := decide) only [fieldsOf, Nat.reduceAdd, form_7_7_2_7_2_a, form_7_7_2_7_2_b, form_7_7_2_7_2_c, form_7_7_2_7_2_d, form_7_7_2_7_2_e]
  rfl
theorem barr (d : Reg) (a : Reg) : Statement (.barr d a) := by
  intro _
  change decode (0x54#7 ++ d ++ a ++ 0#2 ++ 0x01#7 ++ 0#2) = _
  rw [decode_54 (form_7_7_2_7_2_op 0x54#7 d a 0#2 0x01#7 0#2), barSub_01 (form_7_7_2_7_2_d 0x54#7 d a 0#2 0x01#7 0#2)]
  simp (disch := decide) only [fieldsOf, Nat.reduceAdd, form_7_7_2_7_2_a, form_7_7_2_7_2_b, form_7_7_2_7_2_c, form_7_7_2_7_2_d, form_7_7_2_7_2_e]
  rfl
theorem barw (d : Reg) (a : Reg) : Statement (.barw d a) := by
  intro _
  change decode (0x54#7 ++ d ++ a ++ 0#2 ++ 0x02#7 ++ 0#2) = _
  rw [decode_54 (form_7_7_2_7_2_op 0x54#7 d a 0#2 0x02#7 0#2), barSub_02 (form_7_7_2_7_2_d 0x54#7 d a 0#2 0x02#7 0#2)]
  simp (disch := decide) only [fieldsOf, Nat.reduceAdd, form_7_7_2_7_2_a, form_7_7_2_7_2_b, form_7_7_2_7_2_c, form_7_7_2_7_2_d, form_7_7_2_7_2_e]
  rfl
theorem bwait (d : Reg) (a : Reg) : Statement (.bwait d a) := by
  intro _
  change decode (0x54#7 ++ d ++ a ++ 0#2 ++ 0x03#7 ++ 0#2) = _
  rw [decode_54 (form_7_7_2_7_2_op 0x54#7 d a 0#2 0x03#7 0#2), barSub_03 (form_7_7_2_7_2_d 0x54#7 d a 0#2 0x03#7 0#2)]
  simp (disch := decide) only [fieldsOf, Nat.reduceAdd, form_7_7_2_7_2_a, form_7_7_2_7_2_b, form_7_7_2_7_2_c, form_7_7_2_7_2_d, form_7_7_2_7_2_e]
  rfl
theorem bexp (d : Reg) (a : Reg) : Statement (.bexp d a) := by
  intro _
  change decode (0x54#7 ++ d ++ a ++ 0#2 ++ 0x04#7 ++ 0#2) = _
  rw [decode_54 (form_7_7_2_7_2_op 0x54#7 d a 0#2 0x04#7 0#2), barSub_04 (form_7_7_2_7_2_d 0x54#7 d a 0#2 0x04#7 0#2)]
  simp (disch := decide) only [fieldsOf, Nat.reduceAdd, form_7_7_2_7_2_a, form_7_7_2_7_2_b, form_7_7_2_7_2_c, form_7_7_2_7_2_d, form_7_7_2_7_2_e]
  rfl
theorem btest (d : Reg) (a : Reg) : Statement (.btest d a) := by
  intro _
  change decode (0x54#7 ++ d ++ a ++ 0#2 ++ 0x05#7 ++ 0#2) = _
  rw [decode_54 (form_7_7_2_7_2_op 0x54#7 d a 0#2 0x05#7 0#2), barSub_05 (form_7_7_2_7_2_d 0x54#7 d a 0#2 0x05#7 0#2)]
  simp (disch := decide) only [fieldsOf, Nat.reduceAdd, form_7_7_2_7_2_a, form_7_7_2_7_2_b, form_7_7_2_7_2_c, form_7_7_2_7_2_d, form_7_7_2_7_2_e]
  rfl
theorem btile (d : Reg) (a : Reg) : Statement (.btile d a) := by
  intro _
  change decode (0x54#7 ++ d ++ a ++ 0#2 ++ 0x06#7 ++ 0#2) = _
  rw [decode_54 (form_7_7_2_7_2_op 0x54#7 d a 0#2 0x06#7 0#2), barSub_06 (form_7_7_2_7_2_d 0x54#7 d a 0#2 0x06#7 0#2)]
  simp (disch := decide) only [fieldsOf, Nat.reduceAdd, form_7_7_2_7_2_a, form_7_7_2_7_2_b, form_7_7_2_7_2_c, form_7_7_2_7_2_d, form_7_7_2_7_2_e]
  rfl
theorem brd (d : Reg) (a : Reg) : Statement (.brd d a) := by
  intro _
  change decode (0x54#7 ++ d ++ a ++ 0#2 ++ 0x07#7 ++ 0#2) = _
  rw [decode_54 (form_7_7_2_7_2_op 0x54#7 d a 0#2 0x07#7 0#2), barSub_07 (form_7_7_2_7_2_d 0x54#7 d a 0#2 0x07#7 0#2)]
  simp (disch := decide) only [fieldsOf, Nat.reduceAdd, form_7_7_2_7_2_a, form_7_7_2_7_2_b, form_7_7_2_7_2_c, form_7_7_2_7_2_d, form_7_7_2_7_2_e]
  rfl
theorem gateUpdate (blk : Nat) (gate : Nat) : Statement (.gateUpdate blk gate) := nofun
theorem gateWaiterWake (blk : Nat) (gate : Nat) : Statement (.gateWaiterWake blk gate) := nofun
theorem ctrw (d : Reg) (a : Reg) : Statement (.ctrw d a) := by
  intro _
  change decode (0x55#7 ++ d ++ a ++ 0#2 ++ 0x00#7 ++ 0#2) = _
  rw [decode_55 (form_7_7_2_7_2_op 0x55#7 d a 0#2 0x00#7 0#2), ctrSub_00 (form_7_7_2_7_2_d 0x55#7 d a 0#2 0x00#7 0#2)]
  simp (disch := decide) only [fieldsOf, Nat.reduceAdd, form_7_7_2_7_2_a, form_7_7_2_7_2_b, form_7_7_2_7_2_c, form_7_7_2_7_2_d, form_7_7_2_7_2_e]
  rfl
theorem ctrt (d : Reg) (a : Reg) : Statement (.ctrt d a) := by
  intro _
  change decode (0x55#7 ++ d ++ a ++ 0#2 ++ 0x01#7 ++ 0#2) = _
  rw [decode_55 (form_7_7_2_7_2_op 0x55#7 d a 0#2 0x01#7 0#2), ctrSub_01 (form_7_7_2_7_2_d 0x55#7 d a 0#2 0x01#7 0#2)]
  simp (disch := decide) only [fieldsOf, Nat.reduceAdd, form_7_7_2_7_2_a, form_7_7_2_7_2_b, form_7_7_2_7_2_c, form_7_7_2_7_2_d, form_7_7_2_7_2_e]
  rfl
theorem ctrrd (d : Reg) (a : Reg) : Statement (.ctrrd d a) := by
  intro _
  change decode (0x55#7 ++ d ++ a ++ 0#2 ++ 0x02#7 ++ 0#2) = _
  rw [decode_55 (form_7_7_2_7_2_op 0x55#7 d a 0#2 0x02#7 0#2), ctrSub_02 (form_7_7_2_7_2_d 0x55#7 d a 0#2 0x02#7 0#2)]
  simp (disch := decide) only [fieldsOf, Nat.reduceAdd, form_7_7_2_7_2_a, form_7_7_2_7_2_b, form_7_7_2_7_2_c, form_7_7_2_7_2_d, form_7_7_2_7_2_e]
  rfl
theorem ctrwWake (core : Nat) (slot : Nat) (lead : Nat) : Statement (.ctrwWake core slot lead) := nofun
theorem rel (scope : BitVec 3) : Statement (.rel scope) := by
  intro _
  change decode (0x56#7 ++ 0#22 ++ scope) = _
  rw [decode_56 (form_22_3_op 0x56#7 0#22 scope)]
  simp (disch := decide) only [fieldsOf, field_field, Nat.zero_add, Nat.reduceAdd, form_22_3_a, form_22_3_b]
  rfl
theorem acq (scope : BitVec 3) : Statement (.acq scope) := by
  intro _
  change decode (0x57#7 ++ 0#22 ++ scope) = _
  rw [decode_57 (form_22_3_op 0x57#7 0#22 scope)]
  simp (disch := decide) only [fieldsOf, field_field, Nat.zero_add, Nat.reduceAdd, form_22_3_a, form_22_3_b]
  rfl
theorem acql (a : Reg) : Statement (.acql a) := by
  intro _
  change decode (0x58#7 ++ 0x7E#7 ++ a ++ 0#2 ++ 0x7E#7 ++ 0#2) = _
  rw [decode_58 (form_7_7_2_7_2_op 0x58#7 0x7E#7 a 0#2 0x7E#7 0#2)]
  simp (disch := decide) only [fieldsOf, Nat.reduceAdd, form_7_7_2_7_2_a, form_7_7_2_7_2_b, form_7_7_2_7_2_c, form_7_7_2_7_2_d, form_7_7_2_7_2_e]
  rfl
theorem promotionComplete (core : Nat) (id : Nat) : Statement (.promotionComplete core id) := nofun
theorem fncr (scope : BitVec 3) (a : Reg) (b : Reg) : Statement (.fncr scope a b) := by
  intro _
  change decode (0x59#7 ++ 0#4 ++ scope ++ a ++ 0#2 ++ b ++ 0#2) = _
  rw [decode_59 (form_4_3_7_2_7_2_op 0x59#7 0#4 scope a 0#2 b 0#2)]
  simp (disch := decide) only [fieldsOf, field_field, Nat.reduceAdd, form_4_3_7_2_7_2_a, form_4_3_7_2_7_2_b, form_4_3_7_2_7_2_c, form_4_3_7_2_7_2_d, form_4_3_7_2_7_2_e, form_4_3_7_2_7_2_f]
  rfl
theorem releaseCompletion (core : Nat) (id : Nat) : Statement (.releaseCompletion core id) := nofun
theorem cwb (d : Reg) (a : Reg) : Statement (.cwb d a) := by
  intro _
  change decode (0x5A#7 ++ d ++ a ++ 0#2 ++ 0x00#7 ++ 0#2) = _
  rw [decode_5A (form_7_7_2_7_2_op 0x5A#7 d a 0#2 0x00#7 0#2), cflSub_00 (form_7_7_2_7_2_d 0x5A#7 d a 0#2 0x00#7 0#2)]
  simp (disch := decide) only [fieldsOf, Nat.reduceAdd, form_7_7_2_7_2_a, form_7_7_2_7_2_b, form_7_7_2_7_2_c, form_7_7_2_7_2_d, form_7_7_2_7_2_e]
  rfl
theorem cinv (d : Reg) (a : Reg) : Statement (.cinv d a) := by
  intro _
  change decode (0x5A#7 ++ d ++ a ++ 0#2 ++ 0x01#7 ++ 0#2) = _
  rw [decode_5A (form_7_7_2_7_2_op 0x5A#7 d a 0#2 0x01#7 0#2), cflSub_01 (form_7_7_2_7_2_d 0x5A#7 d a 0#2 0x01#7 0#2)]
  simp (disch := decide) only [fieldsOf, Nat.reduceAdd, form_7_7_2_7_2_a, form_7_7_2_7_2_b, form_7_7_2_7_2_c, form_7_7_2_7_2_d, form_7_7_2_7_2_e]
  rfl
theorem cpref (d : Reg) (a : Reg) : Statement (.cpref d a) := by
  intro _
  change decode (0x5A#7 ++ d ++ a ++ 0#2 ++ 0x02#7 ++ 0#2) = _
  rw [decode_5A (form_7_7_2_7_2_op 0x5A#7 d a 0#2 0x02#7 0#2), cflSub_02 (form_7_7_2_7_2_d 0x5A#7 d a 0#2 0x02#7 0#2)]
  simp (disch := decide) only [fieldsOf, Nat.reduceAdd, form_7_7_2_7_2_a, form_7_7_2_7_2_b, form_7_7_2_7_2_c, form_7_7_2_7_2_d, form_7_7_2_7_2_e]
  rfl
theorem cdisc (d : Reg) (a : Reg) : Statement (.cdisc d a) := by
  intro _
  change decode (0x5A#7 ++ d ++ a ++ 0#2 ++ 0x03#7 ++ 0#2) = _
  rw [decode_5A (form_7_7_2_7_2_op 0x5A#7 d a 0#2 0x03#7 0#2), cflSub_03 (form_7_7_2_7_2_d 0x5A#7 d a 0#2 0x03#7 0#2)]
  simp (disch := decide) only [fieldsOf, Nat.reduceAdd, form_7_7_2_7_2_a, form_7_7_2_7_2_b, form_7_7_2_7_2_c, form_7_7_2_7_2_d, form_7_7_2_7_2_e]
  rfl
theorem mxacq (prio : BitVec 2) (pair : Bool) : Statement (.mxacq prio pair) := by
  intro _
  change decode (0x60#7 ++ 0#22 ++ prio ++ bit pair) = _
  rw [decode_60 (form_22_2_1_op 0x60#7 0#22 prio pair)]
  simp (disch := decide) only [fieldsOf, field_field, bit_field, Nat.zero_add, Nat.reduceAdd, form_22_2_1_a, form_22_2_1_b, form_22_2_1_c_bit]
  rfl
theorem engineGrant (core : Nat) : Statement (.engineGrant core) := nofun
theorem mma (d : Reg) (a : Reg) (b : Reg) : Statement (.mma d a b) := by
  intro _
  change decode (0x62#7 ++ d ++ a ++ 0#2 ++ b ++ 0#2) = _
  rw [decode_62 (form_7_7_2_7_2_op 0x62#7 d a 0#2 b 0#2)]
  simp (disch := decide) only [fieldsOf, Nat.reduceAdd, form_7_7_2_7_2_a, form_7_7_2_7_2_b, form_7_7_2_7_2_c, form_7_7_2_7_2_d, form_7_7_2_7_2_e]
  rfl
theorem mmaBegin (core : Nat) (ticket : Nat) : Statement (.mmaBegin core ticket) := nofun
theorem mmaRetire (core : Nat) (ticket : Nat) : Statement (.mmaRetire core ticket) := nofun
theorem bedTileArrival (blk : Nat) (gate : Nat) : Statement (.bedTileArrival blk gate) := nofun
theorem scld (d : Reg) (a : Reg) (b : Reg) : Statement (.scld d a b) := by
  intro _
  change decode (0x63#7 ++ d ++ a ++ 0#2 ++ b ++ 0#2) = _
  rw [decode_63 (form_7_7_2_7_2_op 0x63#7 d a 0#2 b 0#2)]
  simp (disch := decide) only [fieldsOf, Nat.reduceAdd, form_7_7_2_7_2_a, form_7_7_2_7_2_b, form_7_7_2_7_2_c, form_7_7_2_7_2_d, form_7_7_2_7_2_e]
  rfl
theorem accz (a : Reg) : Statement (.accz a) := by
  intro _
  change decode (0x64#7 ++ 0x7E#7 ++ a ++ 0#2 ++ 0x00#7 ++ 0#2) = _
  rw [decode_64 (form_7_7_2_7_2_op 0x64#7 0x7E#7 a 0#2 0x00#7 0#2), accSub_00 (form_7_7_2_7_2_d 0x64#7 0x7E#7 a 0#2 0x00#7 0#2)]
  simp (disch := decide) only [fieldsOf, Nat.reduceAdd, form_7_7_2_7_2_a, form_7_7_2_7_2_b, form_7_7_2_7_2_c, form_7_7_2_7_2_d, form_7_7_2_7_2_e]
  rfl
theorem accld (d : Reg) (a : Reg) : Statement (.accld d a) := by
  intro _
  change decode (0x64#7 ++ d ++ a ++ 0#2 ++ 0x01#7 ++ 0#2) = _
  rw [decode_64 (form_7_7_2_7_2_op 0x64#7 d a 0#2 0x01#7 0#2), accSub_01 (form_7_7_2_7_2_d 0x64#7 d a 0#2 0x01#7 0#2)]
  simp (disch := decide) only [fieldsOf, Nat.reduceAdd, form_7_7_2_7_2_a, form_7_7_2_7_2_b, form_7_7_2_7_2_c, form_7_7_2_7_2_d, form_7_7_2_7_2_e]
  rfl
theorem accst (d : Reg) (a : Reg) : Statement (.accst d a) := by
  intro _
  change decode (0x64#7 ++ d ++ a ++ 0#2 ++ 0x02#7 ++ 0#2) = _
  rw [decode_64 (form_7_7_2_7_2_op 0x64#7 d a 0#2 0x02#7 0#2), accSub_02 (form_7_7_2_7_2_d 0x64#7 d a 0#2 0x02#7 0#2)]
  simp (disch := decide) only [fieldsOf, Nat.reduceAdd, form_7_7_2_7_2_a, form_7_7_2_7_2_b, form_7_7_2_7_2_c, form_7_7_2_7_2_d, form_7_7_2_7_2_e]
  rfl
theorem accrd (d : Reg) (a : Reg) : Statement (.accrd d a) := by
  intro _
  change decode (0x64#7 ++ d ++ a ++ 0#2 ++ 0x03#7 ++ 0#2) = _
  rw [decode_64 (form_7_7_2_7_2_op 0x64#7 d a 0#2 0x03#7 0#2), accSub_03 (form_7_7_2_7_2_d 0x64#7 d a 0#2 0x03#7 0#2)]
  simp (disch := decide) only [fieldsOf, Nat.reduceAdd, form_7_7_2_7_2_a, form_7_7_2_7_2_b, form_7_7_2_7_2_c, form_7_7_2_7_2_d, form_7_7_2_7_2_e]
  rfl
theorem accwr (d : Reg) (a : Reg) : Statement (.accwr d a) := by
  intro _
  change decode (0x64#7 ++ d ++ a ++ 0#2 ++ 0x04#7 ++ 0#2) = _
  rw [decode_64 (form_7_7_2_7_2_op 0x64#7 d a 0#2 0x04#7 0#2), accSub_04 (form_7_7_2_7_2_d 0x64#7 d a 0#2 0x04#7 0#2)]
  simp (disch := decide) only [fieldsOf, Nat.reduceAdd, form_7_7_2_7_2_a, form_7_7_2_7_2_b, form_7_7_2_7_2_c, form_7_7_2_7_2_d, form_7_7_2_7_2_e]
  rfl
theorem role (base : BitVec 8) (role : BitVec 4) : Statement (.role base role) := by
  intro _
  change decode (0x66#7 ++ 0#13 ++ base ++ role) = _
  rw [decode_66 (form_13_8_4_op 0x66#7 0#13 base role)]
  simp (disch := decide) only [fieldsOf, field_field, Nat.zero_add, Nat.reduceAdd, form_13_8_4_a, form_13_8_4_b, form_13_8_4_c]
  rfl
theorem ttinit (a : Reg) : Statement (.ttinit a) := by
  intro _
  change decode (0x68#7 ++ 0x7E#7 ++ a ++ 0#2 ++ 0x00#7 ++ 0#2) = _
  rw [decode_68 (form_7_7_2_7_2_op 0x68#7 0x7E#7 a 0#2 0x00#7 0#2), ttSub_00 (form_7_7_2_7_2_d 0x68#7 0x7E#7 a 0#2 0x00#7 0#2)]
  simp (disch := decide) only [fieldsOf, Nat.reduceAdd, form_7_7_2_7_2_a, form_7_7_2_7_2_b, form_7_7_2_7_2_c, form_7_7_2_7_2_d, form_7_7_2_7_2_e]
  rfl
theorem ttadd (d : Reg) (a : Reg) : Statement (.ttadd d a) := by
  intro _
  change decode (0x68#7 ++ d ++ a ++ 0#2 ++ 0x01#7 ++ 0#2) = _
  rw [decode_68 (form_7_7_2_7_2_op 0x68#7 d a 0#2 0x01#7 0#2), ttSub_01 (form_7_7_2_7_2_d 0x68#7 d a 0#2 0x01#7 0#2)]
  simp (disch := decide) only [fieldsOf, Nat.reduceAdd, form_7_7_2_7_2_a, form_7_7_2_7_2_b, form_7_7_2_7_2_c, form_7_7_2_7_2_d, form_7_7_2_7_2_e]
  rfl
theorem ttanc (d : Reg) (a : Reg) : Statement (.ttanc d a) := by
  intro _
  change decode (0x68#7 ++ d ++ a ++ 0#2 ++ 0x02#7 ++ 0#2) = _
  rw [decode_68 (form_7_7_2_7_2_op 0x68#7 d a 0#2 0x02#7 0#2), ttSub_02 (form_7_7_2_7_2_d 0x68#7 d a 0#2 0x02#7 0#2)]
  simp (disch := decide) only [fieldsOf, Nat.reduceAdd, form_7_7_2_7_2_a, form_7_7_2_7_2_b, form_7_7_2_7_2_c, form_7_7_2_7_2_d, form_7_7_2_7_2_e]
  rfl
theorem ttpos (d : Reg) (a : Reg) : Statement (.ttpos d a) := by
  intro _
  change decode (0x68#7 ++ d ++ a ++ 0#2 ++ 0x03#7 ++ 0#2) = _
  rw [decode_68 (form_7_7_2_7_2_op 0x68#7 d a 0#2 0x03#7 0#2), ttSub_03 (form_7_7_2_7_2_d 0x68#7 d a 0#2 0x03#7 0#2)]
  simp (disch := decide) only [fieldsOf, Nat.reduceAdd, form_7_7_2_7_2_a, form_7_7_2_7_2_b, form_7_7_2_7_2_c, form_7_7_2_7_2_d, form_7_7_2_7_2_e]
  rfl
theorem ttpar (d : Reg) (a : Reg) : Statement (.ttpar d a) := by
  intro _
  change decode (0x68#7 ++ d ++ a ++ 0#2 ++ 0x04#7 ++ 0#2) = _
  rw [decode_68 (form_7_7_2_7_2_op 0x68#7 d a 0#2 0x04#7 0#2), ttSub_04 (form_7_7_2_7_2_d 0x68#7 d a 0#2 0x04#7 0#2)]
  simp (disch := decide) only [fieldsOf, Nat.reduceAdd, form_7_7_2_7_2_a, form_7_7_2_7_2_b, form_7_7_2_7_2_c, form_7_7_2_7_2_d, form_7_7_2_7_2_e]
  rfl
theorem ttstok (d : Reg) (a : Reg) : Statement (.ttstok d a) := by
  intro _
  change decode (0x68#7 ++ d ++ a ++ 0#2 ++ 0x05#7 ++ 0#2) = _
  rw [decode_68 (form_7_7_2_7_2_op 0x68#7 d a 0#2 0x05#7 0#2), ttSub_05 (form_7_7_2_7_2_d 0x68#7 d a 0#2 0x05#7 0#2)]
  simp (disch := decide) only [fieldsOf, Nat.reduceAdd, form_7_7_2_7_2_a, form_7_7_2_7_2_b, form_7_7_2_7_2_c, form_7_7_2_7_2_d, form_7_7_2_7_2_e]
  rfl
theorem ttgtok (d : Reg) (a : Reg) : Statement (.ttgtok d a) := by
  intro _
  change decode (0x68#7 ++ d ++ a ++ 0#2 ++ 0x06#7 ++ 0#2) = _
  rw [decode_68 (form_7_7_2_7_2_op 0x68#7 d a 0#2 0x06#7 0#2), ttSub_06 (form_7_7_2_7_2_d 0x68#7 d a 0#2 0x06#7 0#2)]
  simp (disch := decide) only [fieldsOf, Nat.reduceAdd, form_7_7_2_7_2_a, form_7_7_2_7_2_b, form_7_7_2_7_2_c, form_7_7_2_7_2_d, form_7_7_2_7_2_e]
  rfl
theorem ttssc (d : Reg) (a : Reg) : Statement (.ttssc d a) := by
  intro _
  change decode (0x68#7 ++ d ++ a ++ 0#2 ++ 0x07#7 ++ 0#2) = _
  rw [decode_68 (form_7_7_2_7_2_op 0x68#7 d a 0#2 0x07#7 0#2), ttSub_07 (form_7_7_2_7_2_d 0x68#7 d a 0#2 0x07#7 0#2)]
  simp (disch := decide) only [fieldsOf, Nat.reduceAdd, form_7_7_2_7_2_a, form_7_7_2_7_2_b, form_7_7_2_7_2_c, form_7_7_2_7_2_d, form_7_7_2_7_2_e]
  rfl
theorem ttgsc (d : Reg) (a : Reg) : Statement (.ttgsc d a) := by
  intro _
  change decode (0x68#7 ++ d ++ a ++ 0#2 ++ 0x08#7 ++ 0#2) = _
  rw [decode_68 (form_7_7_2_7_2_op 0x68#7 d a 0#2 0x08#7 0#2), ttSub_08 (form_7_7_2_7_2_d 0x68#7 d a 0#2 0x08#7 0#2)]
  simp (disch := decide) only [fieldsOf, Nat.reduceAdd, form_7_7_2_7_2_a, form_7_7_2_7_2_b, form_7_7_2_7_2_c, form_7_7_2_7_2_d, form_7_7_2_7_2_e]
  rfl
theorem ttprune (d : Reg) (a : Reg) : Statement (.ttprune d a) := by
  intro _
  change decode (0x68#7 ++ d ++ a ++ 0#2 ++ 0x09#7 ++ 0#2) = _
  rw [decode_68 (form_7_7_2_7_2_op 0x68#7 d a 0#2 0x09#7 0#2), ttSub_09 (form_7_7_2_7_2_d 0x68#7 d a 0#2 0x09#7 0#2)]
  simp (disch := decide) only [fieldsOf, Nat.reduceAdd, form_7_7_2_7_2_a, form_7_7_2_7_2_b, form_7_7_2_7_2_c, form_7_7_2_7_2_d, form_7_7_2_7_2_e]
  rfl
theorem ttcnt (d : Reg) : Statement (.ttcnt d) := by
  intro _
  change decode (0x68#7 ++ d ++ 0x7E#7 ++ 0#2 ++ 0x0A#7 ++ 0#2) = _
  rw [decode_68 (form_7_7_2_7_2_op 0x68#7 d 0x7E#7 0#2 0x0A#7 0#2), ttSub_0A (form_7_7_2_7_2_d 0x68#7 d 0x7E#7 0#2 0x0A#7 0#2)]
  simp (disch := decide) only [fieldsOf, Nat.reduceAdd, form_7_7_2_7_2_a, form_7_7_2_7_2_b, form_7_7_2_7_2_c, form_7_7_2_7_2_d, form_7_7_2_7_2_e]
  rfl
theorem kvx (d : Reg) (a : Reg) : Statement (.kvx d a) := by
  intro _
  change decode (0x69#7 ++ d ++ a ++ 0#2 ++ 0x00#7 ++ 0#2) = _
  rw [decode_69 (form_7_7_2_7_2_op 0x69#7 d a 0#2 0x00#7 0#2), kvSub_00 (form_7_7_2_7_2_d 0x69#7 d a 0#2 0x00#7 0#2)]
  simp (disch := decide) only [fieldsOf, Nat.reduceAdd, form_7_7_2_7_2_a, form_7_7_2_7_2_b, form_7_7_2_7_2_c, form_7_7_2_7_2_d, form_7_7_2_7_2_e]
  rfl
theorem kvapp (d : Reg) (a : Reg) : Statement (.kvapp d a) := by
  intro _
  change decode (0x69#7 ++ d ++ a ++ 0#2 ++ 0x01#7 ++ 0#2) = _
  rw [decode_69 (form_7_7_2_7_2_op 0x69#7 d a 0#2 0x01#7 0#2), kvSub_01 (form_7_7_2_7_2_d 0x69#7 d a 0#2 0x01#7 0#2)]
  simp (disch := decide) only [fieldsOf, Nat.reduceAdd, form_7_7_2_7_2_a, form_7_7_2_7_2_b, form_7_7_2_7_2_c, form_7_7_2_7_2_d, form_7_7_2_7_2_e]
  rfl
theorem kvtrim (d : Reg) (a : Reg) : Statement (.kvtrim d a) := by
  intro _
  change decode (0x69#7 ++ d ++ a ++ 0#2 ++ 0x02#7 ++ 0#2) = _
  rw [decode_69 (form_7_7_2_7_2_op 0x69#7 d a 0#2 0x02#7 0#2), kvSub_02 (form_7_7_2_7_2_d 0x69#7 d a 0#2 0x02#7 0#2)]
  simp (disch := decide) only [fieldsOf, Nat.reduceAdd, form_7_7_2_7_2_a, form_7_7_2_7_2_b, form_7_7_2_7_2_c, form_7_7_2_7_2_d, form_7_7_2_7_2_e]
  rfl
theorem kvpark (a : Reg) : Statement (.kvpark a) := by
  intro _
  change decode (0x69#7 ++ 0x7E#7 ++ a ++ 0#2 ++ 0x03#7 ++ 0#2) = _
  rw [decode_69 (form_7_7_2_7_2_op 0x69#7 0x7E#7 a 0#2 0x03#7 0#2), kvSub_03 (form_7_7_2_7_2_d 0x69#7 0x7E#7 a 0#2 0x03#7 0#2)]
  simp (disch := decide) only [fieldsOf, Nat.reduceAdd, form_7_7_2_7_2_a, form_7_7_2_7_2_b, form_7_7_2_7_2_c, form_7_7_2_7_2_d, form_7_7_2_7_2_e]
  rfl
theorem kvseq (d : Reg) (a : Reg) : Statement (.kvseq d a) := by
  intro _
  change decode (0x69#7 ++ d ++ a ++ 0#2 ++ 0x04#7 ++ 0#2) = _
  rw [decode_69 (form_7_7_2_7_2_op 0x69#7 d a 0#2 0x04#7 0#2), kvSub_04 (form_7_7_2_7_2_d 0x69#7 d a 0#2 0x04#7 0#2)]
  simp (disch := decide) only [fieldsOf, Nat.reduceAdd, form_7_7_2_7_2_a, form_7_7_2_7_2_b, form_7_7_2_7_2_c, form_7_7_2_7_2_d, form_7_7_2_7_2_e]
  rfl
theorem kvStallTimeout (core : Nat) (slot : Nat) (id : Nat) : Statement (.kvStallTimeout core slot id) := nofun
theorem ring (d : Reg) (a : Reg) (b : Reg) : Statement (.ring d a b) := by
  intro _
  change decode (0x6A#7 ++ d ++ a ++ 0#2 ++ b ++ 0#2) = _
  rw [decode_6A (form_7_7_2_7_2_op 0x6A#7 d a 0#2 b 0#2)]
  simp (disch := decide) only [fieldsOf, Nat.reduceAdd, form_7_7_2_7_2_a, form_7_7_2_7_2_b, form_7_7_2_7_2_c, form_7_7_2_7_2_d, form_7_7_2_7_2_e]
  rfl
theorem bmask (d : Reg) (a : Reg) : Statement (.bmask d a) := by
  intro _
  change decode (0x6B#7 ++ d ++ a ++ 0#2 ++ 0x00#7 ++ 0#2) = _
  rw [decode_6B (form_7_7_2_7_2_op 0x6B#7 d a 0#2 0x00#7 0#2), bellSub_00 (form_7_7_2_7_2_d 0x6B#7 d a 0#2 0x00#7 0#2)]
  simp (disch := decide) only [fieldsOf, Nat.reduceAdd, form_7_7_2_7_2_a, form_7_7_2_7_2_b, form_7_7_2_7_2_c, form_7_7_2_7_2_d, form_7_7_2_7_2_e]
  rfl
theorem bpend (d : Reg) : Statement (.bpend d) := by
  intro _
  change decode (0x6B#7 ++ d ++ 0x7E#7 ++ 0#2 ++ 0x01#7 ++ 0#2) = _
  rw [decode_6B (form_7_7_2_7_2_op 0x6B#7 d 0x7E#7 0#2 0x01#7 0#2), bellSub_01 (form_7_7_2_7_2_d 0x6B#7 d 0x7E#7 0#2 0x01#7 0#2)]
  simp (disch := decide) only [fieldsOf, Nat.reduceAdd, form_7_7_2_7_2_a, form_7_7_2_7_2_b, form_7_7_2_7_2_c, form_7_7_2_7_2_d, form_7_7_2_7_2_e]
  rfl
theorem btake (d : Reg) (a : Reg) : Statement (.btake d a) := by
  intro _
  change decode (0x6B#7 ++ d ++ a ++ 0#2 ++ 0x02#7 ++ 0#2) = _
  rw [decode_6B (form_7_7_2_7_2_op 0x6B#7 d a 0#2 0x02#7 0#2), bellSub_02 (form_7_7_2_7_2_d 0x6B#7 d a 0#2 0x02#7 0#2)]
  simp (disch := decide) only [fieldsOf, Nat.reduceAdd, form_7_7_2_7_2_a, form_7_7_2_7_2_b, form_7_7_2_7_2_c, form_7_7_2_7_2_d, form_7_7_2_7_2_e]
  rfl
theorem bhpc (a : Reg) : Statement (.bhpc a) := by
  intro _
  change decode (0x6B#7 ++ 0x7E#7 ++ a ++ 0#2 ++ 0x03#7 ++ 0#2) = _
  rw [decode_6B (form_7_7_2_7_2_op 0x6B#7 0x7E#7 a 0#2 0x03#7 0#2), bellSub_03 (form_7_7_2_7_2_d 0x6B#7 0x7E#7 a 0#2 0x03#7 0#2)]
  simp (disch := decide) only [fieldsOf, Nat.reduceAdd, form_7_7_2_7_2_a, form_7_7_2_7_2_b, form_7_7_2_7_2_c, form_7_7_2_7_2_d, form_7_7_2_7_2_e]
  rfl
theorem bself (a : Reg) : Statement (.bself a) := by
  intro _
  change decode (0x6B#7 ++ 0x7E#7 ++ a ++ 0#2 ++ 0x04#7 ++ 0#2) = _
  rw [decode_6B (form_7_7_2_7_2_op 0x6B#7 0x7E#7 a 0#2 0x04#7 0#2), bellSub_04 (form_7_7_2_7_2_d 0x6B#7 0x7E#7 a 0#2 0x04#7 0#2)]
  simp (disch := decide) only [fieldsOf, Nat.reduceAdd, form_7_7_2_7_2_a, form_7_7_2_7_2_b, form_7_7_2_7_2_c, form_7_7_2_7_2_d, form_7_7_2_7_2_e]
  rfl
theorem bellRingArrival (r : Ring) : Statement (.bellRingArrival r) := nofun
theorem bellDelivery (core : Nat) (slot : Nat) : Statement (.bellDelivery core slot) := nofun
theorem waitbWake (core : Nat) (slot : Nat) (lead : Nat) : Statement (.waitbWake core slot lead) := nofun
theorem keyw (d : Reg) (a : Reg) : Statement (.keyw d a) := by
  intro _
  change decode (0x70#7 ++ d ++ a ++ 0#2 ++ 0x00#7 ++ 0#2) = _
  rw [decode_70 (form_7_7_2_7_2_op 0x70#7 d a 0#2 0x00#7 0#2), sysSub_00 (form_7_7_2_7_2_d 0x70#7 d a 0#2 0x00#7 0#2)]
  simp (disch := decide) only [fieldsOf, Nat.reduceAdd, form_7_7_2_7_2_a, form_7_7_2_7_2_b, form_7_7_2_7_2_c, form_7_7_2_7_2_d, form_7_7_2_7_2_e]
  rfl
theorem waym (d : Reg) (a : Reg) : Statement (.waym d a) := by
  intro _
  change decode (0x70#7 ++ d ++ a ++ 0#2 ++ 0x01#7 ++ 0#2) = _
  rw [decode_70 (form_7_7_2_7_2_op 0x70#7 d a 0#2 0x01#7 0#2), sysSub_01 (form_7_7_2_7_2_d 0x70#7 d a 0#2 0x01#7 0#2)]
  simp (disch := decide) only [fieldsOf, Nat.reduceAdd, form_7_7_2_7_2_a, form_7_7_2_7_2_b, form_7_7_2_7_2_c, form_7_7_2_7_2_d, form_7_7_2_7_2_e]
  rfl
theorem klass (d : Reg) (a : Reg) : Statement (.klass d a) := by
  intro _
  change decode (0x70#7 ++ d ++ a ++ 0#2 ++ 0x02#7 ++ 0#2) = _
  rw [decode_70 (form_7_7_2_7_2_op 0x70#7 d a 0#2 0x02#7 0#2), sysSub_02 (form_7_7_2_7_2_d 0x70#7 d a 0#2 0x02#7 0#2)]
  simp (disch := decide) only [fieldsOf, Nat.reduceAdd, form_7_7_2_7_2_a, form_7_7_2_7_2_b, form_7_7_2_7_2_c, form_7_7_2_7_2_d, form_7_7_2_7_2_e]
  rfl
theorem split (d : Reg) (a : Reg) : Statement (.split d a) := by
  intro _
  change decode (0x70#7 ++ d ++ a ++ 0#2 ++ 0x03#7 ++ 0#2) = _
  rw [decode_70 (form_7_7_2_7_2_op 0x70#7 d a 0#2 0x03#7 0#2), sysSub_03 (form_7_7_2_7_2_d 0x70#7 d a 0#2 0x03#7 0#2)]
  simp (disch := decide) only [fieldsOf, Nat.reduceAdd, form_7_7_2_7_2_a, form_7_7_2_7_2_b, form_7_7_2_7_2_c, form_7_7_2_7_2_d, form_7_7_2_7_2_e]
  rfl
theorem preqHold (d : Reg) (a : Reg) : Statement (.preqHold d a) := by
  intro _
  change decode (0x70#7 ++ d ++ a ++ 0#2 ++ 0x04#7 ++ 0#2) = _
  rw [decode_70 (form_7_7_2_7_2_op 0x70#7 d a 0#2 0x04#7 0#2), sysSub_04 (form_7_7_2_7_2_d 0x70#7 d a 0#2 0x04#7 0#2)]
  simp (disch := decide) only [fieldsOf, Nat.reduceAdd, form_7_7_2_7_2_a, form_7_7_2_7_2_b, form_7_7_2_7_2_c, form_7_7_2_7_2_d, form_7_7_2_7_2_e]
  rfl
theorem freeze (d : Reg) (a : Reg) : Statement (.freeze d a) := by
  intro _
  change decode (0x70#7 ++ d ++ a ++ 0#2 ++ 0x05#7 ++ 0#2) = _
  rw [decode_70 (form_7_7_2_7_2_op 0x70#7 d a 0#2 0x05#7 0#2), sysSub_05 (form_7_7_2_7_2_d 0x70#7 d a 0#2 0x05#7 0#2)]
  simp (disch := decide) only [fieldsOf, Nat.reduceAdd, form_7_7_2_7_2_a, form_7_7_2_7_2_b, form_7_7_2_7_2_c, form_7_7_2_7_2_d, form_7_7_2_7_2_e]
  rfl
theorem wingr (d : Reg) (a : Reg) : Statement (.wingr d a) := by
  intro _
  change decode (0x70#7 ++ d ++ a ++ 0#2 ++ 0x06#7 ++ 0#2) = _
  rw [decode_70 (form_7_7_2_7_2_op 0x70#7 d a 0#2 0x06#7 0#2), sysSub_06 (form_7_7_2_7_2_d 0x70#7 d a 0#2 0x06#7 0#2)]
  simp (disch := decide) only [fieldsOf, Nat.reduceAdd, form_7_7_2_7_2_a, form_7_7_2_7_2_b, form_7_7_2_7_2_c, form_7_7_2_7_2_d, form_7_7_2_7_2_e]
  rfl
theorem jrnl (d : Reg) (a : Reg) : Statement (.jrnl d a) := by
  intro _
  change decode (0x70#7 ++ d ++ a ++ 0#2 ++ 0x07#7 ++ 0#2) = _
  rw [decode_70 (form_7_7_2_7_2_op 0x70#7 d a 0#2 0x07#7 0#2), sysSub_07 (form_7_7_2_7_2_d 0x70#7 d a 0#2 0x07#7 0#2)]
  simp (disch := decide) only [fieldsOf, Nat.reduceAdd, form_7_7_2_7_2_a, form_7_7_2_7_2_b, form_7_7_2_7_2_c, form_7_7_2_7_2_d, form_7_7_2_7_2_e]
  rfl
theorem rdp (d : Reg) (k : BitVec 11) : Statement (.rdp d k) := by
  intro _
  change decode (0x72#7 ++ d ++ 0x7E#7 ++ k) = _
  rw [decode_72 (form_7_7_11_op 0x72#7 d 0x7E#7 k)]
  simp (disch := decide) only [fieldsOf, Nat.reduceAdd, form_7_7_11_a, form_7_7_11_b, form_7_7_11_c]
  rfl
theorem wrp (a : Reg) (k : BitVec 11) : Statement (.wrp a k) := by
  intro _
  change decode (0x73#7 ++ 0x7E#7 ++ a ++ k) = _
  rw [decode_73 (form_7_7_11_op 0x73#7 0x7E#7 a k)]
  simp (disch := decide) only [fieldsOf, Nat.reduceAdd, form_7_7_11_a, form_7_7_11_b, form_7_7_11_c]
  rfl
theorem fixedResultLanding (core : Nat) (slot : Nat) (id : Nat) : Statement (.fixedResultLanding core slot id) := nofun
theorem variableReturnLanding (core : Nat) (slot : Nat) (id : Nat) : Statement (.variableReturnLanding core slot id) := nofun
theorem blockSharedVisibility (blk : Nat) (id : Nat) : Statement (.blockSharedVisibility blk id) := nofun
theorem leatEntrySeal (core : Nat) (seq : Word) : Statement (.leatEntrySeal core seq) := nofun
theorem tailBroadcastArrival (core : Nat) (tail : Word) : Statement (.tailBroadcastArrival core tail) := nofun
theorem leatDrainStart (core : Nat) : Statement (.leatDrainStart core) := nofun
theorem leatDrainAck (core : Nat) (seq : Word) (stamp : Nat) : Statement (.leatDrainAck core seq stamp) := nofun
theorem bulkRecordService (core : Nat) : Statement (.bulkRecordService core) := nofun
theorem transferUnitLanding (core : Nat) (work : Nat) (unit : Nat) : Statement (.transferUnitLanding core work unit) := nofun
theorem bulkRecordCompletion (core : Nat) (ticket : Nat) : Statement (.bulkRecordCompletion core ticket) := nofun
theorem recordCounterIncrement (core : Nat) (ticket : Nat) : Statement (.recordCounterIncrement core ticket) := nofun
theorem portBucketRefill (core : Nat) : Statement (.portBucketRefill core) := nofun
theorem portRequestDepart (core : Nat) : Statement (.portRequestDepart core) := nofun
theorem sliceFill (core : Nat) (slot : Nat) (pend : Nat) (line : Nat) (granted : Bool) : Statement (.sliceFill core slot pend line granted) := nofun
theorem sliceEntryApply (core : Nat) (seq : Word) : Statement (.sliceEntryApply core seq) := nofun
theorem sliceMissMerge (core : Nat) (seq : Word) : Statement (.sliceMissMerge core seq) := nofun
theorem invalidationAck (die : Nat) (line : Nat) (core : Nat) : Statement (.invalidationAck die line core) := nofun
theorem sliceAtomic (core : Nat) (slot : Nat) (pend : Nat) (granted : Bool) : Statement (.sliceAtomic core slot pend granted) := nofun
theorem distributorPoll (die : Nat) : Statement (.distributorPoll die) := nofun
theorem dependenceTest (die : Nat) : Statement (.dependenceTest die) := nofun
theorem placementStep (die : Nat) : Statement (.placementStep die) := nofun
theorem launchCompletion (idx : Nat) : Statement (.launchCompletion idx) := nofun
theorem preemptTrap (core : Nat) (slot : Nat) : Statement (.preemptTrap core slot) := nofun
theorem trapEntry (core : Nat) (slot : Nat) : Statement (.trapEntry core slot) := nofun
theorem refusalTrap (core : Nat) (slot : Nat) : Statement (.refusalTrap core slot) := nofun
theorem delayedTrap (core : Nat) (slot : Nat) : Statement (.delayedTrap core slot) := nofun
theorem blockRestore (blk : Nat) : Statement (.blockRestore blk) := nofun
theorem homeRequest (r : HomeReq) : Statement (.homeRequest r) := nofun
theorem resumeMessage (core : Nat) (va : Nat) (size : Nat) : Statement (.resumeMessage core va size) := nofun
theorem refusalReplayTimer (core : Nat) (what : Parked) : Statement (.refusalReplayTimer core what) := nofun
theorem rerouteReplay (core : Nat) (what : Parked) : Statement (.rerouteReplay core what) := nofun
theorem hostHoldTimeout (id : Nat) : Statement (.hostHoldTimeout id) := nofun
theorem ticketHandover (device : Nat) (region : Nat) : Statement (.ticketHandover device region) := nofun
theorem fabricTimeout (core : Nat) (what : Parked) : Statement (.fabricTimeout core what) := nofun
theorem illegalInstruction (cause : BitVec 4) (op : BitVec 7) : Statement (.illegalInstruction cause op) := nofun
theorem markSettle (core : Nat) (slot : Nat) (setAt : Nat) : Statement (.markSettle core slot setAt) := nofun
theorem accTransferComplete (core : Nat) (slot : Nat) (lead : Nat) : Statement (.accTransferComplete core slot lead) := nofun
theorem systemSubopComplete (core : Nat) (slot : Nat) (lead : Nat) : Statement (.systemSubopComplete core slot lead) := nofun
theorem homeCommandComplete (id : Nat) : Statement (.homeCommandComplete id) := nofun
theorem resumeRingRoom (function : Nat) : Statement (.resumeRingRoom function) := nofun
theorem eccUncorrectable (core : Nat) (slot : Nat) (store : Nat) (offset : Nat) : Statement (.eccUncorrectable core slot store offset) := nofun
theorem preemptionRequest (die : Nat) (idx : Nat) : Statement (.preemptionRequest die idx) := nofun
theorem sliceTimeEnd (function : Nat) : Statement (.sliceTimeEnd function) := nofun
theorem journalWalk (die : Nat) : Statement (.journalWalk die) := nofun
theorem ticketRequest (device : Nat) (region : Nat) (write : Bool) : Statement (.ticketRequest device region write) := nofun
theorem ticketHolderLost (device : Nat) (region : Nat) : Statement (.ticketHolderLost device region) := nofun
theorem dieReset (die : Nat) (cause : Nat) : Statement (.dieReset die cause) := nofun
theorem fabricAckArrival (core : Nat) (seq : Word) (clean : Bool) : Statement (.fabricAckArrival core seq clean) := nofun
theorem waitb : Statement .waitb := by
  intro _
  change decode (0x13#7 ++ 0#25) = _
  rw [decode_13 (form_25_op 0x13#7 0#25)]
  simp (disch := decide) only [fieldsOf, Nat.reduceAdd, form_25_a]
  rfl
theorem bret : Statement .bret := by
  intro _
  change decode (0x14#7 ++ 0#25) = _
  rw [decode_14 (form_25_op 0x14#7 0#25)]
  simp (disch := decide) only [fieldsOf, Nat.reduceAdd, form_25_a]
  rfl
theorem mxrel : Statement .mxrel := by
  intro _
  change decode (0x61#7 ++ 0#25) = _
  rw [decode_61 (form_25_op 0x61#7 0#25)]
  simp (disch := decide) only [fieldsOf, Nat.reduceAdd, form_25_a]
  rfl
theorem mxwait : Statement .mxwait := by
  intro _
  change decode (0x65#7 ++ 0#25) = _
  rw [decode_65 (form_25_op 0x65#7 0#25)]
  simp (disch := decide) only [fieldsOf, Nat.reduceAdd, form_25_a]
  rfl
theorem eret : Statement .eret := by
  intro _
  change decode (0x71#7 ++ 0#25) = _
  rw [decode_71 (form_25_op 0x71#7 0#25)]
  simp (disch := decide) only [fieldsOf, Nat.reduceAdd, form_25_a]
  rfl
theorem homeBell : Statement .homeBell := nofun
theorem sharePeriodBoundary : Statement .sharePeriodBoundary := nofun
theorem kvAllocatorRequest : Statement .kvAllocatorRequest := nofun
theorem distributorBell (die : Nat) (function : Nat) : Statement (.distributorBell die function) := nofun
theorem ownershipRequest (die : Nat) (line : Nat) : Statement (.ownershipRequest die line) := nofun
theorem jsdepthWrite (v : Word) : Statement (.jsdepthWrite v) := nofun
theorem joinStackEntryWrite (k : BitVec 11) (v : Addr) : Statement (.joinStackEntryWrite k v) := nofun
theorem markRegisterWrite (k : BitVec 11) (v : Addr) : Statement (.markRegisterWrite k v) := nofun
theorem rngWrite (a : Reg) : Statement (.rngWrite a) := nofun
theorem hostBellWrite (function : Nat) (offset : Nat) (size : Nat) (v : Word) : Statement (.hostBellWrite function offset size v) := nofun
theorem preqSaved (d : Reg) (a : Reg) : Statement (.preqSaved d a) := nofun
theorem preqWaitsave (d : Reg) (a : Reg) : Statement (.preqWaitsave d a) := nofun
theorem preqRestored (d : Reg) (a : Reg) : Statement (.preqRestored d a) := nofun
theorem preqWaitrest (d : Reg) (a : Reg) : Statement (.preqWaitrest d a) := nofun
theorem preqKill (d : Reg) (a : Reg) : Statement (.preqKill d a) := nofun
theorem preqRelease (d : Reg) (a : Reg) : Statement (.preqRelease d a) := nofun
theorem haltWrite (core : Nat) (v : Word) : Statement (.haltWrite core v) := nofun
theorem rqerrWrite (v : Word) : Statement (.rqerrWrite v) := nofun
theorem portcapWrite (v : Word) : Statement (.portcapWrite v) := nofun
theorem l2CounterClear (k : BitVec 11) (v : Word) : Statement (.l2CounterClear k v) := nofun
theorem kvpfreeWrite (v : Word) : Statement (.kvpfreeWrite v) := nofun
theorem schedulerTurnEnd (core : Nat) (quarter : Nat) : Statement (.schedulerTurnEnd core quarter) := nofun
theorem leatCompaction (core : Nat) (seqA : Word) (seqB : Word) : Statement (.leatCompaction core seqA seqB) := nofun
theorem replayCursorLimit (core : Nat) (source : Nat) : Statement (.replayCursorLimit core source) := nofun
theorem strikeReport (core : Nat) (quarter : Nat) : Statement (.strikeReport core quarter) := nofun
theorem bayConversion (core : Nat) (bay : Nat) (kind : Nat) : Statement (.bayConversion core bay kind) := nofun
theorem clusterLinkFailure (cluster : Nat) : Statement (.clusterLinkFailure cluster) := nofun
theorem dirtyWriteback (die : Nat) (line : Nat) : Statement (.dirtyWriteback die line) := nofun
theorem leaseExpiry (core : Nat) (line : Nat) : Statement (.leaseExpiry core line) := nofun
theorem lineOwnershipRecall (die : Nat) (line : Nat) : Statement (.lineOwnershipRecall die line) := nofun
theorem clusterReclaim (die : Nat) (cluster : Nat) : Statement (.clusterReclaim die cluster) := nofun
theorem faultRingRoom : Statement .faultRingRoom := nofun
theorem map (c : HomeCmd) : Statement (.map c) := nofun
theorem unmap (c : HomeCmd) : Statement (.unmap c) := nofun
theorem setattr (c : HomeCmd) : Statement (.setattr c) := nofun
theorem move (c : HomeCmd) : Statement (.move c) := nofun
theorem resume (c : HomeCmd) : Statement (.resume c) := nofun
theorem grat (c : HomeCmd) : Statement (.grat c) := nofun
theorem query (c : HomeCmd) : Statement (.query c) := nofun
theorem refuse (c : HomeCmd) : Statement (.refuse c) := nofun
theorem hostMemAccess (offset : Nat) (write : Bool) (data : List Byte) (id : Nat) : Statement (.hostMemAccess offset write data id) := nofun
theorem hostSnoop (line : Nat) : Statement (.hostSnoop line) := nofun
theorem firmwareDownload (img : FwImage) : Statement (.firmwareDownload img) := nofun
theorem configMailboxWrite (m : MailWrite) : Statement (.configMailboxWrite m) := nofun
theorem functionReady (bit : Nat) : Statement (.functionReady bit) := nofun
theorem clusterBringUp (cluster : Nat) : Statement (.clusterBringUp cluster) := nofun
theorem throttleChange (level : BitVec 4) (power : Bool) (thermal : Bool) : Statement (.throttleChange level power thermal) := nofun
theorem thermalTrip : Statement .thermalTrip := nofun
theorem flitResend (port : Nat) : Statement (.flitResend port) := nofun
theorem linkRetrain (port : Nat) (lanes : Nat) : Statement (.linkRetrain port lanes) := nofun
theorem ticketEviction : Statement .ticketEviction := nofun
theorem ticketHomeUnreachable (device : Nat) : Statement (.ticketHomeUnreachable device) := nofun
theorem firstLevelCopyDeparture (core : Nat) (line : Nat) : Statement (.firstLevelCopyDeparture core line) := nofun
theorem wakeQueueRoom : Statement .wakeQueueRoom := nofun
theorem bringUp : Statement .bringUp := nofun
theorem powerStateChange (st : PowerState) : Statement (.powerStateChange st) := nofun

end Sys2Proof.Laws.EncodedRight

open Sys2Proof Sys2Proof.Machine in
theorem Sys2Proof.Laws.EncodedRight.match (d : Reg) (a : Reg) (ra : BitVec 2) : Sys2Proof.Laws.EncodedRight.Statement (.match d a ra) := by
  intro _
  change decode (0x41#7 ++ d ++ a ++ ra ++ 0x0B#7 ++ 0#2) = _
  rw [decode_41 (form_7_7_2_7_2_op 0x41#7 d a ra 0x0B#7 0#2), gxSub_0B (form_7_7_2_7_2_d 0x41#7 d a ra 0x0B#7 0#2)]
  simp (disch := decide) only [fieldsOf, Nat.reduceAdd, form_7_7_2_7_2_a, form_7_7_2_7_2_b, form_7_7_2_7_2_c, form_7_7_2_7_2_d, form_7_7_2_7_2_e]
  rfl
end

