-- ==== Sys2Proof/Tests/Slice0.lean ====
section
/-! SUPPORT. Tests of the model: words decode to what the manual's encoding says, ill-formed terms are refused, and small states that
meet the hypotheses of each statement. -/

set_option Elab.async false

namespace Sys2Proof.Tests

open Sys2Proof Sys2Proof.Machine

/-! ### Words -/

/-- Each word decodes to its instruction. -/
abbrev Reads (ws : List (Nat × Instr)) : Prop := ∀ x ∈ ws, decode (BitVec.ofNat 32 x.1) = .ok x.2

/-- The words of the control instructions, put together from the match values and field places of spec/opcode_table.json. -/
theorem test_words_control : Reads [
    (0x0012E36F, .nop 0x12E36F), (0x032F622D, .limm 0x12F622D), (0x0485F1DB, .limh 0x85F1DB), (0x07AB2000, .rep 0x35 false true true 1),
    (0x08582453, .mode 0xB 0x2453), (0x0A9F8000, .mroute 1 1 0x1F), (0x0DE2B9CF, .setmark 0x1E2B9CF), (0x0E000045, .trap 0x45),
    (0x1119782D, .br true 0 0x19782D), (0x126117B3, .brs false 3 0x117B3), (0x15FBD9F8, .bri 0x7B), (0x16FD5AA1, .call 0x1D5AA1),
    (0x18000000, .ret), (0x1AE53D83, .mark 0x53D83), (0x1C000000, .join), (0x1E0000BF, .part 0xBF), (0x20000035, .regang 0x35),
    (0x22000000, .exit), (0x24172B2B, .yield 0xB 0x12B2B), (0x26000000, .waitb), (0x28000000, .bret), (0x2BFFF5EF, .rds 0x7F 0x5EF),
    (0x2DFA9BEB, .wrs 0x53 0x3EB)] := by decide +kernel

/-- The words of the arithmetic instructions, put together from the match values and field places of spec/opcode_table.json. -/
theorem test_words_arithmetic : Reads [
    (0x304EDD9F, .add 0x13 0x5B 2 0x67 3), (0x320C3BBF, .sub 3 7 1 0x6F 3), (0x350F8D7E, .mul 0x43 0x71 2 0x5F 2),
    (0x37F6BD7D, .mulh 0x7D 0x57 2 0x5F 1), (0x38F6C90C, .mad 0x3D 0x59 0 0x43 0), (0x3AF72996, .msb 0x3D 0x65 0 0x65 2),
    (0x3C558E87, .min 0x15 0x31 3 0x21 3), (0x3FD49B6D, .max 0x75 0x13 1 0x5B 1), (0x41048B47, .and 0x41 0x11 1 0x51 3),
    (0x427D2FFE, .or 0x1F 0x25 3 0x7F 2), (0x450C6D6F, .xor 0x43 0xD 2 0x5B 3), (0x475D19BC, .andn 0x57 0x23 0 0x6F 0),
    (0x48A6B8FC, .shl 0x29 0x57 0 0x3F 0), (0x4B24580F, .shr 0x49 0xB 0 3 3), (0x4D575D64, .sha 0x55 0x6B 2 0x59 0),
    (0x4FA5288D, .rot 0x69 0x25 0 0x23 1), (0x50E67A7C, .bfe 0x39 0x4F 1 0x1F 0), (0x522E6A3F, .bfi 0xB 0x4D 1 0xF 3),
    (0x558DFF87, .sel 0x63 0x3F 3 0x61 3), (0x5711EF65, .cmp 8 4 0x3D 3 0x59 1)] := by decide +kernel

/-- The words of the unary instructions, put together from the match values and field places of spec/opcode_table.json. -/
theorem test_words_unary : Reads [
    (0x585DB800, .mov 0x17 0x37 0), (0x59C77A04, .not 0x71 0x6F 1), (0x58346A08, .neg 0xD 0xD 1), (0x5817AC0C, .abs 5 0x75 2),
    (0x596E7A10, .clz 0x5B 0x4F 1), (0x58165814, .popc 5 0x4B 0), (0x585EA818, .brev 0x17 0x55 0), (0x597E3E40, .rcp 0x5F 0x47 3),
    (0x58764844, .rsq 0x1D 0x49 0), (0x588D9A48, .sqrt 0x23 0x33 1), (0x59FC3E4C, .exp2 0x7F 7 3), (0x58F43A50, .log2 0x3D 7 1),
    (0x59673E54, .sint 0x59 0x67 3), (0x588F7C58, .cost 0x23 0x6F 2), (0x584D8A5C, .tanh 0x13 0x31 1), (0x589C4C60, .flr 0x27 9 2),
    (0x59DD3A64, .ceil 0x77 0x27 1), (0x59269868, .trnc 0x49 0x53 0), (0x58D4686C, .rint 0x35 0xD 0), (0x58A4AE70, .frc 0x29 0x15 3),
    (0x59CEEC74, .fclass 0x73 0x5D 2), (0x5997F478, .rand 0x65 2), (0x5ABC9EEC, .cvt 0x2F 0x13 3 0x3B), (0x5CE5EB1C, .mxq 0x39 0x3D 1 0x47),
    (0x5F87ED8E, .absd 0x61 0x7D 2 0x63 2)] := by decide +kernel

/-- The words of the immediate instructions, put together from the match values and field places of spec/opcode_table.json. -/
theorem test_words_immediate : Reads [
    (0x60E53DA7, .addi 0x39 0x27 0x5A7), (0x62C4883D, .muli 0x31 0x11 0x3D), (0x6585FF19, .andi 0x61 0x3F 0x719),
    (0x67F4BC29, .ori 0x7D 0x17 0x429), (0x69CF3A49, .xori 0x73 0x67 0x249), (0x6BA4FEFF, .shli 0x69 0x1F 0x6FF),
    (0x6C77EC11, .shri 0x1D 0x7D 0x411), (0x6EEC58B5, .shai 0x3B 0xB 0xB5), (0x705A1889, .cmpi 2 6 0x43 0x89),
    (0x72F73927, .mini 0x3D 0x67 0x127), (0x752EDEF3, .maxi 0x4B 0x5B 0x6F3)] := by decide +kernel

/-- The words of the lanes instructions, put together from the match values and field places of spec/opcode_table.json. -/
theorem test_words_lanes : Reads [
    (0x81C7EC00, .qswh 0x71 0x7D 2), (0x808F2A04, .qswv 0x23 0x65 1), (0x80375E08, .qswd 0xD 0x6B 3), (0x81A4EE0C, .qbc0 0x69 0x1D 3),
    (0x812F1C10, .qbc1 0x4B 0x63 2), (0x81757A14, .qbc2 0x5D 0x2F 1), (0x81FE2C18, .qbc3 0x7F 0x45 2), (0x809E8A1C, .qsum 0x27 0x51 1),
    (0x811E1E20, .qmin 0x47 0x43 3), (0x80DC1824, .qmax 0x37 3 0), (0x81A70C28, .qddx 0x69 0x61 2), (0x810C682C, .qddy 0x43 0xD 0),
    (0x8347F400, .lane 0x51 2), (0x8337F004, .qidx 0x4D 0), (0x82442808, .ballot 0x11 5 0), (0x8244980C, .vany 0x11 0x13 0),
    (0x831F2810, .vall 0x47 0x65 0), (0x82EFDA14, .gsum 0x3B 0x7B 1), (0x83A6FC18, .gmin 0x69 0x5F 2), (0x8257AA1C, .gmax 0x15 0x75 1),
    (0x8357BA20, .gscan 0x55 0x77 1), (0x836D6C24, .gscanx 0x5B 0x2D 2), (0x8257F628, .elect 0x15 3), (0x83CFBE2C, .match 0x73 0x77 3),
    (0x8206DE30, .popm 1 0x5B 3), (0x844C38E7, .shfl 0x13 7 0 0x39 3), (0x860DBADD, .movsv 3 0x37 1 0x37 1)] := by decide +kernel

/-- The words of the memory instructions, put together from the match values and field places of spec/opcode_table.json. -/
theorem test_words_memory : Reads [
    (0x90F729FB, .ld 0x3D 0x65 1 0xFB), (0x93170E47, .st 0x45 0x61 6 0x47), (0x94271D67, .lds 9 0x63 5 0x67),
    (0x96F42BE1, .sts 0x3D 5 3 0xE1), (0x99540D35, .ldx 0x55 1 5 0x35), (0x9A7F6FE9, .ldw 0x1F 0x6D 7 0xE9),
    (0x9CCF7D5F, .stw 0x33 0x6F 5 0x5F), (0x9FE6DE8B, .cpl 0x79 0x5B 6 0x8B)] := by decide +kernel

/-- The words of the atomics gates caches instructions, put together from the match values and field places of spec/opcode_table.json. -/
theorem test_words_atomics_gates_caches : Reads [
    (0xA09FCE20, .atom 0x27 0x79 6 0 8), (0xA32FC804, .red 0x4B 0x79 0 0 1), (0xA795E9A4, .kick 0x65 0x3D 0x69),
    (0xA8E58800, .binit 0x39 0x31), (0xA91CC804, .barr 0x47 0x19), (0xA92FB808, .barw 0x4B 0x77), (0xA84C580C, .bwait 0x13 0xB),
    (0xA83C7810, .bexp 0xF 0xF), (0xA9F6B814, .btest 0x7D 0x57), (0xA9C40818, .btile 0x71 1), (0xA834A81C, .brd 0xD 0x15),
    (0xAAC7D800, .ctrw 0x31 0x7B), (0xAB143804, .ctrt 0x45 7), (0xAB2DF808, .ctrrd 0x4B 0x3F), (0xAC000003, .rel 3), (0xAE000004, .acq 4),
    (0xB1F9E9F8, .acql 0x3D), (0xB206D874, .fncr 1 0x5B 0x1D), (0xB4CD0800, .cwb 0x33 0x21), (0xB5E5F804, .cinv 0x79 0x3F),
    (0xB5FC0808, .cpref 0x7F 1), (0xB42CC80C, .cdisc 0xB 0x19)] := by decide +kernel

/-- The words of the matrix and tree instructions, put together from the match values and field places of spec/opcode_table.json. -/
theorem test_words_matrix_and_tree : Reads [
    (0xC0000001, .mxacq 0 true), (0xC2000000, .mxrel), (0xC4867824, .mma 0x21 0x4F 9), (0xC73CB96C, .scld 0x4F 0x17 0x5B),
    (0xC9FB3800, .accz 0x67), (0xC8642804, .accld 0x19 5), (0xC9F67808, .accst 0x7D 0x4F), (0xC85E980C, .accrd 0x17 0x53),
    (0xC9A51810, .accwr 0x69 0x23), (0xCA000000, .mxwait), (0xCC0003D6, .role 0x3D 6), (0xD1FA8800, .ttinit 0x51),
    (0xD1360804, .ttadd 0x4D 0x41), (0xD066C808, .ttanc 0x19 0x59), (0xD0F4680C, .ttpos 0x3D 0xD), (0xD134F810, .ttpar 0x4D 0x1F),
    (0xD0CCC814, .ttstok 0x33 0x19), (0xD17D9818, .ttgtok 0x5F 0x33), (0xD1F6681C, .ttssc 0x7D 0x4D), (0xD1459820, .ttgsc 0x51 0x33),
    (0xD04D6824, .ttprune 0x13 0x2D), (0xD137F028, .ttcnt 0x4D)] := by decide +kernel

/-- The words of the kv and bells instructions, put together from the match values and field places of spec/opcode_table.json. -/
theorem test_words_kv_and_bells : Reads [
    (0xD28C7800, .kvx 0x23 0xF), (0xD225E804, .kvapp 9 0x3D), (0xD31F5808, .kvtrim 0x47 0x6B), (0xD3F8F80C, .kvpark 0x1F),
    (0xD33DB810, .kvseq 0x4F 0x37), (0xD4EDF8F4, .ring 0x3B 0x3F 0x3D), (0xD74EC800, .bmask 0x53 0x59), (0xD777F004, .bpend 0x5D),
    (0xD65E7808, .btake 0x17 0x4F), (0xD7F8180C, .bhpc 3), (0xD7F90810, .bself 0x21)] := by decide +kernel

/-- The words of the privileged instructions, put together from the match values and field places of spec/opcode_table.json. -/
theorem test_words_privileged : Reads [
    (0xE037C800, .keyw 0xD 0x79), (0xE1378804, .waym 0x4D 0x71), (0xE1259808, .klass 0x49 0x33), (0xE19E480C, .split 0x67 0x49),
    (0xE1441810, .preqHold 0x51 3), (0xE17C4814, .freeze 0x5F 9), (0xE12CF818, .wingr 0x4B 0x1F), (0xE0C7F81C, .jrnl 0x31 0x7F),
    (0xE2000000, .eret), (0xE5C7F5DF, .rdp 0x71 0x5DF), (0xE7FA18B3, .wrp 0x43 0xB3)] := by decide +kernel

/-! ### Ill-formed terms -/

/-- Each term is refused with its lowest cause (R67). -/
abbrev RefusedWith (ts : List (Nat × Instr)) : Prop := ∀ x ∈ ts, x.2.WellFormed = false ∧ x.2.staticCause = some x.1

/-- R58, R60, R64, R65, R98, R180, R200, R102: field values out of range. -/
theorem test_refuses_fields : RefusedWith [(6, .mode 0x20 0x3000), (6, .mode 0x10 0x300), (6, .mroute 0 0 0), (6, .mroute 1 4 0), (6, .mroute 1 3 6),
    (1, .cmp 14 0 0 0 0 0), (1, .cmpi 15 0 0 0), (1, .cvt 0 0 0 0x1C), (1, .mxq 0 0 0 0x7F), (1, .atom 0 0x60 0 0 9), (6, .atom 0 0x60 6 0 0),
    (1, .red 0 0x60 0 0 15), (6, .red 0 0x60 7 0 0), (6, .rel 6), (6, .acq 7), (6, .fncr 6 0x60 0x62), (6, .role 0 4), (6, .ld 0 2 7 0),
    (6, .lds 0 2 7 0), (6, .st 0 2 1 0), (6, .sts 0 2 3 0), (6, .ldw 0 2 3 0), (6, .stw 0 2 7 0), (6, .ldx 0 2 0 0), (6, .cpl 0x60 2 3 0),
    (2, .ctrt 8 0x60), (6, .rds 0 0x7FF), (6, .wrs 0x60 0x7FF), (7, .wrs 0x60 0x04C), (6, .rdp 0 0x7FF), (6, .wrp 0x60 0x7FF)] := by
  decide +kernel

/-- R52 to R55: an operand of a wrong kind, q for a pair, a pair that is not aligned or leaves its bank, a route that is not allowed, and an s
destination with a v source. -/
theorem test_refuses_operands : RefusedWith [(3, .add 0x7F 0 0 0 0), (3, .st 0x7F 0 5 0), (3, .ctrw 0x7F 0x60), (4, .ld 0 1 4 0), (4, .ld 1 2 5 0),
    (4, .ctrw 0x61 0x60), (4, .bmask 0x7D 0x60), (5, .add 0 0x60 1 0 0), (5, .add 0 0 0 0x7E 2), (3, .add 0x60 0 0 0x61 0),
    (3, .kick 0x60 0 0x61)] := by
  decide +kernel

/-- The same terms with their fields in range are well formed. -/
theorem test_accepts_fields : ∀ i ∈ ([.mode 0x20 0x2C00, .mroute 1 3 5, .cmp 13 0 0 0 0 0, .cvt 0 0 0 0x1B, .atom 0 0x60 5 0 8, .rel 5, .role 0 3,
    .ld 0 2 6 0, .st 0 2 2 0, .ldw 0 2 4 0, .ctrt 7 0x60, .rds 0 0x04C, .add 0 0 1 0x7E 0, .add 0x60 0x61 0 0x7F 0] : List Instr),
    i.WellFormed = true := by
  decide +kernel

/-! ### Small machines -/

/-- Core 0 runs one block with 4 gates and 8 KiB of scratch, of one gang of 32 lanes whose party executes at clock 5000; key 0 of its domain
has every right, and VA 0 is a readable and writable page. -/
def base : State :=
  let s : State := { State.reset.withGang with now := 5000, cur := some ⟨0, 0, 0⟩ }
  let s : State := { s with blocks := s.blocks.map fun b => { b with ngates := 4, gates := [{}, {}, {}, {}], scrSize := 8192 } }
  s.modCore 0 fun c => { c with keys := [(0, 3)] }

/-- The machine with its gang changed. -/
def withG (f : Gang → Gang) (s : State := base) : State := s.modGang 0 0 f

/-- The machine with its core changed. -/
def withC (f : Core → Core) (s : State := base) : State := s.modCore 0 f

/-- The machine with its block changed. -/
def withB (f : Block → Block) (s : State := base) : State := { s with blocks := s.blocks.map f }

/-- The machine with some scalars. -/
def withS (l : List (Nat × Word)) (s : State := base) : State := withG (fun g => { g with sregs := l }) s

/-- The executing party. -/
def party (s : State) : Party := s.party?.getD ⟨0, 0, 0, {}⟩

/-- The gang in slot 0 of core 0. -/
def theGang (s : State) : Gang := (s.gangAt 0 0).getD {}

/-- The instruction reaches its own effect (see `runs`). -/
def canRun (s : State) (i : Instr) : Bool :=
  s.party?.isSome && scoreboard (party s) i && !heldBack (s.coreAt (party s).core) (party s) i && decide (preTrap s.now (party s) i = none)

/-- What `canRun` says is the hypothesis Runs of the statements. -/
theorem runs {s : State} {i : Instr} (h : canRun s i = true) : Runs s (party s) i := by
  simp only [canRun, Bool.and_eq_true, Bool.not_eq_true', decide_eq_true_eq] at h
  obtain ⟨⟨⟨hp, hs⟩, hb⟩, ht⟩ := h
  obtain ⟨p, hp⟩ := Option.isSome_iff_exists.mp hp
  have : party s = p := by simp [party, hp]
  exact ⟨by rw [this, hp], hs, hb, ht⟩

/-- The next state of an outcome. -/
def nextOf : Host.Outcome State Fault Refusal → Option State
  | .next s => some s
  | _ => none

/-! ### The hypotheses of the statements are met -/

theorem meets_UnassignedOpcodesRejected : ((opcodeOf 0x2E000000#32).toNat = 0x17 ∧ (opcodeOf 0xDE000000#32).toNat = 0x6F) ∧
    0x74 ≤ (opcodeOf 0xE8000000#32).toNat := by decide +kernel

/-- A machine about to issue ADD at address 4. -/
def addReady : State := { State.reset.withFetchWord 32 0x30102B98 with now := 5000 }

/-- The party of a pick executes. -/
def picked (s : State) : State :=
  match s.pick with
  | some k => { s with cur := some ⟨k.core, k.slot, k.lead⟩, turn := 4 * k.core + k.quarter }
  | none => s

theorem meets_StepRunsTheDecodedInstruction :
    (addReady.due = none ∧ addReady.pick.isSome = true ∧ (picked addReady).party?.isSome = true ∧
      badPc (party (picked addReady)).pc = false ∧ zeroBits ((picked addReady).paceWord (party (picked addReady)).pc) 30 28 = true ∧
      (party (picked addReady)).inRep = false ∧
      decode ((picked addReady).fetchWord (party (picked addReady)).pc) = .ok (.add 4 5 1 0x66 0) ∧
      (nextOf (exec (.add 4 5 1 0x66 0) (picked addReady))).isSome = true) ∧
    ({ base with agenda := [(0, .portBucketRefill 0)] } : State).due = some (.portBucketRefill 0, []) ∧
    (State.reset.due = none ∧ State.reset.pick.isNone = true) := by decide +kernel

/-- The same with REP armed: 3 iterations, stride 1. -/
def repReady : State := withG (fun g => { g with rep := 0x80000003#32 }) addReady

theorem meets_StepRunsARepIteration :
    repReady.due = none ∧ repReady.pick.isSome = true ∧ (picked repReady).party?.isSome = true ∧
      badPc (party (picked repReady)).pc = false ∧ zeroBits ((picked repReady).paceWord (party (picked repReady)).pc) 30 28 = true ∧
      (party (picked repReady)).inRep = true ∧
      (nextOf (exec (.repIteration ((picked repReady).fetchWord (party (picked repReady)).pc)) (picked repReady))).isSome = true := by
  decide +kernel

/-- A machine whose die 0 is ready with all its clusters. -/
def readyDie : State := { base with pr := { base.pr with clumap := 0xFFFF } }

theorem meets_StepsKeepReadyConsistent : ReadyConsistent readyDie ∧ (nextOf (step readyDie)).isSome = true :=
  ⟨⟨by decide +kernel, by decide +kernel⟩, by decide +kernel⟩

theorem meets_StepsKeepMemoryCanonical : Memory.wf addReady.dram = true ∧ Memory.wf addReady.hostMem = true ∧
    (nextOf (step addReady)).isSome = true ∧ addReady.dram ≠ [] := by decide +kernel

theorem meets_HomeByteReadsBack : Memory.wf base.dram = true ∧ Memory.wf base.hostMem = true ∧ base.homedHere 65535 = true ∧
    (base.pageOf 65535).isSome = true := by decide +kernel

/-- Every lane instruction, once, with operands of every kind its row allows. -/
def laneSet : List Instr :=
  [.add 4 5 1 0x66 0, .sub 0 0x7F 0 0x7E 0, .mul 1 2 0 3 0, .mulh 1 2 0 3 0, .mad 1 2 0 3 0, .msb 1 2 0 3 0, .min 1 2 0 3 0, .max 1 2 0 3 0,
   .and 1 2 0 3 0, .or 1 2 0 3 0, .xor 1 2 0 3 0, .andn 1 2 0 3 0, .shl 1 2 0 3 0, .shr 1 2 0 3 0, .sha 1 2 0 3 0, .rot 1 2 0 3 0, .bfe 1 2 0 3 0,
   .bfi 1 2 0 3 0, .sel 1 2 0 3 0, .cmp 2 3 1 0 2 0, .mov 0x60 0x61 0, .not 1 2 0, .neg 1 2 0, .abs 1 2 0, .clz 1 2 0, .popc 1 2 0, .brev 1 2 0,
   .rand 1 0, .cvt 1 2 0 0, .mxq 2 4 0 4, .absd 1 2 0 3 0, .addi 1 2 5, .muli 1 2 5, .andi 1 2 5, .ori 1 2 5, .xori 1 2 5, .shli 1 2 5,
   .shri 1 2 5, .shai 1 2 5, .cmpi 2 3 1 5, .mini 1 2 5, .maxi 1 2 5, .qswh 1 2 0, .qswv 1 2 0, .qswd 1 2 0, .qbc0 1 2 0, .qbc1 1 2 0, .qbc2 1 2 0,
   .qbc3 1 2 0, .qsum 1 2 0, .qmin 1 2 0, .qmax 1 2 0, .qddx 1 2 0, .qddy 1 2 0, .lane 1 0, .qidx 1 0, .ballot 0x60 2 0, .vany 0x60 2 0,
   .vall 0x60 2 0, .gsum 0x60 2 0, .gmin 0x60 2 0, .gmax 0x60 2 0, .gscan 1 2 0, .gscanx 1 2 0, .elect 1 0, .match 1 2 0, .popm 0x60 2 0,
   .shfl 1 2 0 3 0, .movsv 0x60 2 0 0x61 0]

/-- The lane instructions of the float types. -/
def floatSet : List Instr :=
  [.rcp 1 2 0, .rsq 1 2 0, .sqrt 1 2 0, .exp2 1 2 0, .log2 1 2 0, .sint 1 2 0, .cost 1 2 0, .tanh 1 2 0, .flr 1 2 0, .ceil 1 2 0, .trnc 1 2 0,
   .rint 1 2 0, .frc 1 2 0, .fclass 1 2 0]

/-- The machine under another GMODE. -/
def underMode (m : BitVec 15) : State := withG fun g => { g with gmode := m }

theorem meets_LaneInstructionsComplete : (∀ i ∈ laneSet, laneInstr i = true ∧ canRun base i = true) ∧
    ∀ i ∈ floatSet, laneInstr i = true ∧ canRun (underMode 0x081C) i = true := by decide +kernel

theorem meets_LaneInstructionsStoreNothing : canRun base (.add 4 5 1 0x66 0) = true ∧ laneInstr (.add 4 5 1 0x66 0) = true ∧
    (nextOf (exec (.add 4 5 1 0x66 0) base)).isSome = true := by decide +kernel

theorem meets_IntegerWordsModulo : ∀ i ∈ laneSet.filter (fun i => (word32 base (party base) i).isSome),
    canRun base i = true ∧ (party base).ty.toNat ≤ 1 ∧ satOf (party base).g.gmode = false := by decide +kernel

theorem test_integer_words_cover : (laneSet.filter fun i => (word32 base (party base) i).isSome).length = 24 := by decide +kernel

theorem meets_SaturatingWordsClamp : ∀ i ∈ ([.add 1 2 0 3 0, .sub 1 2 0 3 0, .mul 1 2 0 3 0, .mad 1 2 0 3 0, .msb 1 2 0 3 0, .addi 1 2 0x3FF, .muli 1 2 0x400] :
    List Instr),
    (canRun (underMode 0x005C) i = true ∧ (party (underMode 0x005C)).ty = 0 ∧ satOf (party (underMode 0x005C)).g.gmode = true ∧
      (exact32 (underMode 0x005C) (party (underMode 0x005C)) (fun w => w.toInt) i).isSome = true) ∧
    (canRun (underMode 0x045C) i = true ∧ (party (underMode 0x045C)).ty = 1 ∧ satOf (party (underMode 0x045C)).g.gmode = true ∧
      (exact32 (underMode 0x045C) (party (underMode 0x045C)) (fun w => (w.toNat : Int)) i).isSome = true) := by decide +kernel

theorem meets_CompareWritesThePredicate : ∀ i ∈ ([.cmp 13 7 1 0 2 0, .cmpi 2 6 0x60 0x7FF] : List Instr),
    (compared base (party base) i).isSome = true ∧ canRun base i = true ∧ (party base).ty.toNat ≤ 1 := by decide +kernel

theorem meets_SelectReadsTheGuardAsSelector : kindOf 95 = .v ∧ (party base).ty.toNat ≤ 2 ∧ canRun base (.sel 95 2 3 0x7F 0) = true := by
  decide +kernel

theorem meets_QuadExchangeMovesLanes : ∀ i ∈ ([.qswh 1 2 0, .qswv 1 2 1, .qswd 1 2 0, .qbc0 1 2 0, .qbc1 1 2 0, .qbc2 1 2 0, .qbc3 1 2 3] : List Instr),
    (quadLane i).isSome = true ∧ canRun base i = true ∧ (party base).ty.toNat ≤ 2 := by decide +kernel

theorem meets_VotesCountActiveGuardedLanes : ∀ i ∈ ([.ballot 0x60 2 0, .vany 1 2 0, .vall 0x7D 2 0, .popm 1 2 0] : List Instr),
    (voteResult i).isSome = true ∧ canRun base i = true ∧ (party base).ty.toNat ≤ 2 := by decide +kernel

/-- A gang with one result in flight, for lane 31 of v95. -/
def landing : State := withG fun g => { g with inflight := [⟨7, 5000, [95], [⟨.v 95 31, 9⟩]⟩] }

theorem meets_FixedResultLandsInTheRegister : landing.gangAt 0 0 = some (theGang landing) ∧
    (theGang landing).inflight.find? (·.id == 7) = some ⟨7, 5000, [95], [⟨.v 95 31, 9⟩]⟩ ∧ (theGang landing).hasLane 31 = true ∧
    (theGang landing).trap = none ∧ (theGang landing).bellWait = false := by decide +kernel

theorem meets_LiteralAndModeInstructionsComplete : ∀ i ∈ ([.nop 0, .limm 0x1FFFFFF, .limh 1, .mode 0x3F 0x2C5F, .mode 0 0, .mroute 3 3 5] : List Instr),
    canRun base i = true := by decide +kernel

theorem meets_RepArmsOrSkips : [0, 1, 63].all (fun n => canRun base (.rep n true false false 7)) = true := by decide +kernel

/-- An armed REP at an iteration, with the target's field d flagged. -/
def inRepAt (i : Nat) : State := withG fun g => { g with rep := repWith 0x80000103#32 i }

theorem meets_RepIterationRunsTheSteppedTarget :
    ((inRepAt 3).party?.isSome = true ∧ (party (inRepAt 3)).inRep = true ∧
      repCount (party (inRepAt 3)).g.rep ≤ repIndex (party (inRepAt 3)).g.rep) ∧
    ∀ i ∈ [0, 2], (inRepAt i).party?.isSome = true ∧ (party (inRepAt i)).inRep = true ∧
      repIndex (party (inRepAt i)).g.rep < repCount (party (inRepAt i)).g.rep ∧
      decode (steppedWord (party (inRepAt i)).g.rep 0x30102B98 (party (inRepAt i)).g.allot) = .ok (.add (4 + BitVec.ofNat 7 i) 5 1 0x66 0) ∧
      canRun (inRepAt i) (.add (4 + BitVec.ofNat 7 i) 5 1 0x66 0) = true ∧ repContext (party (inRepAt i)).g.rep 0x30102B98 = false ∧
      (repFields (party (inRepAt i)).g.rep 0x30102B98).all
        (fun f => !passesLimit (party (inRepAt i)).g.rep 0x30102B98 (party (inRepAt i)).g.allot f.1) = true := by decide +kernel

/-- Predicate 2 is set in the lanes of quads 0 and 1 only. -/
def split : State := withG fun g => { g with preds := [(2, 0xFF)] }

theorem meets_BranchDividesOverTheParty : (canRun base (.br false 2 8) = true ∧ (party base).taken false 2 = 0) ∧
    (canRun base (.br true 2 8) = true ∧ (party base).taken true 2 = (party base).g.act 0 ∧ badPc (offsetPc (party base).pc 8#21) = false) ∧
    (canRun split (.br false 2 8) = true ∧ (party split).taken false 2 ≠ 0 ∧ (party split).taken false 2 ≠ (party split).g.act 0 ∧
      badPc (offsetPc (party split).pc 8#21) = false ∧ ((party split).g.quad 0).stack.length < 8) := by decide +kernel

theorem meets_BranchPartsTheParty : (canRun base (.brs true 7 8) = true ∧ (party base).taken true 7 = 0) ∧
    (canRun base (.brs false 7 8) = true ∧ badPc (offsetPc (party base).pc 8#21) = false) ∧
    (canRun split (.brs false 2 8) = true ∧ (party split).taken false 2 = 0xFF ∧ badPc (offsetPc (party split).pc 8#21) = false) := by
  decide +kernel

theorem meets_JumpsCallsAndReturns : (canRun (withS [(4, 0x104)]) (.bri 0x64) = true ∧ kindOf 0x64 = .s ∧
      badPc (addr64 ((withS [(4, 0x104)]).uniform (party (withS [(4, 0x104)])) 0x64 2)) = false) ∧
    (canRun base (.call 0x1FFFFF) = false ∨ badPc (offsetPc (party base).pc 8#21) = false) ∧ canRun base (.call 8) = true ∧
    (canRun (withS [(22, 0x104)]) .ret = true ∧
      badPc (Sp.get (party (withS [(22, 0x104)])).g.sregs 23 ++ Sp.get (party (withS [(22, 0x104)])).g.sregs 22) = false) := by decide +kernel

/-- Lanes 0 to 3 name the target 0x104, the others 0x204. -/
def twoTargets : State := withG fun g => { g with vregs := (List.range 32).map fun l => (64 + l, if l < 4 then 0x104 else 0x204) }

theorem meets_IndirectBranchOrdersTargets : canRun twoTargets (.bri 2) = true ∧ kindOf 2 = .v ∧
    briTargets twoTargets (party twoTargets) 2 = (0x104, 0xF) :: [(0x204, 0xFFFFFFF0)] ∧ badPc (addr64 0x104) = false ∧ badPc (addr64 0x204) = false ∧
    ((party twoTargets).g.quad 0).stack.length + 1 ≤ 8 := by decide +kernel

theorem meets_MarkPushesAJoinEntry : canRun base (.mark 8) = true ∧ (party base).inRep = false ∧ badPc (offsetPc (party base).pc 8#21) = false ∧
    ((party base).g.quad 0).stack.length < 8 := by decide +kernel

/-- Every quad with the same stack. -/
def stacked (l : List JEntry) : State := withG fun g => { g with quads := g.quads.map fun q => { q with stack := l } }

theorem meets_JoinCompletesOrResumesThePath :
    (canRun (stacked [⟨false, 0x104, 0xF, 0⟩]) .join = true ∧ 0 ∈ (party (stacked [⟨false, 0x104, 0xF, 0⟩])).g.members 0 ∧ badPc 0x104 = false ∧
      (∀ j ∈ (party (stacked [⟨false, 0x104, 0xF, 0⟩])).g.members 0, ((party (stacked [⟨false, 0x104, 0xF, 0⟩])).g.quad j).stack =
        [] ++ [⟨false, 0x104, 0xF, 0⟩] ∧ 0xF &&& ~~~ (0 ||| ((party (stacked [⟨false, 0x104, 0xF, 0⟩])).g.quad j).active) = 0)) ∧
    (canRun (stacked [⟨false, 0x104, 0xF, 0⟩, ⟨true, 0x204, 3, 0⟩]) .join = true ∧ badPc 0x204 = false ∧
      ∀ j ∈ (party (stacked [⟨false, 0x104, 0xF, 0⟩, ⟨true, 0x204, 3, 0⟩])).g.members 0,
        ((party (stacked [⟨false, 0x104, 0xF, 0⟩, ⟨true, 0x204, 3, 0⟩])).g.quad j).stack =
          [] ++ [⟨false, 0x104, 0xF, 0⟩, ⟨true, 0x204, 3, 0⟩]) := by decide +kernel

theorem meets_ExitEndsTheGangOrResumes :
    (canRun base .exit = true ∧ (∀ j < 8, (party base).g.unretired j = true → j ∈ (party base).g.members 0) ∧
      ∀ j ∈ (party base).g.members 0, ((party base).g.quad j).stack = []) ∧
    (canRun (stacked [⟨true, 0x204, 3, 0⟩]) .exit = true ∧ 0 ∈ (party (stacked [⟨true, 0x204, 3, 0⟩])).g.members 0 ∧ badPc 0x204 = false ∧
      ∀ j ∈ (party (stacked [⟨true, 0x204, 3, 0⟩])).g.members 0,
        ((party (stacked [⟨true, 0x204, 3, 0⟩])).g.quad j).stack = [] ++ [⟨true, 0x204, 3, 0⟩]) := by decide +kernel

theorem meets_PartNamesNewParties : canRun base (.part 0xA5) = true ∧ canRun base (.part 0) = true := by decide +kernel

/-- All quads wait at a REGANG of all quads. -/
def waitingAll : State := withG fun g => { g with quads := g.quads.map fun q => { q with park := .regang 0xFF } }

theorem meets_RegangMergesWaitingQuads :
    (canRun base (.regang 0xFF) = true ∧ ∀ j ∈ (party base).g.members 0, (0xFF#8).getLsbD j = true) ∧
    (waitingAll.gangAt 0 0 = some (theGang waitingAll) ∧ (theGang waitingAll).trap = none ∧ (0xFF#8).getLsbD 0 = true ∧
      (theGang waitingAll).unretired 0 = true) ∧
    (∀ j < 8, ((theGang waitingAll).quad j).park = .regang 0xFF) ∧
    ∀ j < 8, ((theGang waitingAll).quad j).pc = ((theGang waitingAll).quad 0).pc ∧ ((theGang waitingAll).quad j).stack = [] := by
  refine ⟨?_, ?_, ?_, ?_⟩ <;> decide +kernel

/-- A mark that was set at clock 4904. -/
def aMark : Mark := ⟨0x104, 0x204, 4904, 1, 1, (theGang base).quads, 0x1C, 0⟩

/-- The gang has that mark. -/
def marked : State := withG fun g => { g with mark := some aMark }

theorem meets_SetmarkRecordsASnapshot : (canRun base (.setmark 0x40) = true ∧ (party base).inRep = false ∧ (party base).g.leads.length = 1) ∧
    marked.gangAt 0 0 = some (theGang marked) ∧ (theGang marked).mark = some aMark := by decide +kernel

theorem meets_TrapRaisesUserTrap : canRun base (.trap 0xFF) = true := by decide +kernel

theorem meets_YieldParksOnTheGate : canRun base (.yield 3 0x1FFFF) = true ∧ (base.blockOf (party base)).isSome = true ∧
    (party base).g.leads.length = 1 ∧ (base.blockOf (party base)).map (fun b => decide (3 < b.ngates)) = some true := by decide +kernel

/-- The gang runs a handler: supervisor mode, all quads at the handler's PC. -/
def sup (s : State := base) : State := withG (fun g => { g with super := true, held := some g.quads }) s

/-- Vector registers 0 to 7 only. -/
def small : State := withG fun g => { g with allot := 8 }

theorem meets_TrapsComeBeforeTheEffect : hasWord (.add 4 8 0 0x66 0) = true ∧ small.party?.isSome = true ∧
    scoreboard (party small) (.add 4 8 0 0x66 0) = true ∧ heldBack (small.coreAt 0) (party small) (.add 4 8 0 0x66 0) = false ∧
    preTrap small.now (party small) (.add 4 8 0 0x66 0) = some (0x10, 0x108) := by decide +kernel

/-- A load of v4 is outstanding, and a running MMA reads v8 to v15 as its B. -/
def pending : State :=
  withC (fun c => { c with mmas := [⟨0, 0, 0, [], none, [(0, 8, 8)], [], 0, false, 1, 6000, 1, ([], []), [], [], none⟩] })
    (withG fun g => { g with pend := [⟨1, 0, [4], false, .load 4 4 1 [⟨0, 0, false, none, none⟩]⟩] })

theorem meets_PendingResultsHoldTheParty : pending.party?.isSome = true ∧
    (∀ i ∈ ([.add 4 5 1 0x66 0, .add 5 4 1 0x66 0] : List Instr), hasWord i = true ∧ ∃ d ∈ (party pending).g.pend, ∃ r ∈ d.regs,
      r ∈ readCodes (party pending).ty i ++ writeCodes (party pending).ty i ++ [128 + gpPred (party pending).g.gmode]) ∧
    ∀ i ∈ ([.mov 8 0 0, .mov 15 0 0] : List Instr), hasWord i = true ∧ ∃ r ∈ writeCodes (party pending).ty i, r < 96 ∧
      (pending.coreAt 0).marked 0 0 r = true := by
  refine ⟨?_, ?_, ?_⟩ <;> decide +kernel

theorem meets_PrivilegedTrapsInUserMode : (privileged .eret = true ∧ (party base).g.super = false) ∧ (party (sup)).g.super = true ∧
    privileged (.add 4 5 1 0x66 0) = false := by decide +kernel

theorem meets_IllegalAndRangeTrapsReport :
    (privileged (.cmp 14 0 0 0 0 0) = false ∧ lowest (illegalCauses 0 false (.cmp 14 0 0 0 0 0)) = some 1) ∧
    (∃ o ∈ opnds (.add 4 8 0 0x66 0), lowest (illegalCauses 0 false (.add 4 8 0 0x66 0)) = none ∧ kindOf o.reg = .v ∧
      (party small).g.allot < o.reg.toNat + o.span.count 0 ∧
      ∀ o' ∈ opnds (.add 4 8 0 0x66 0), o' = o ∨ kindOf o'.reg ≠ .v ∨ o'.reg.toNat + o'.span.count 0 ≤ (party small).g.allot) := by
  decide +kernel

theorem meets_NoInstructionTrapsIllegal : base.party?.isSome = true := by decide +kernel

theorem meets_RdsDeliversTheRegister : (∀ i ∈ ([.rds 1 0x000, .rds 0x60 0x04C, .rds 2 0x18E, .rds 0x62 0x082] : List Instr), canRun base i = true) ∧
    canRun sup (.rds 2 0x400) = true ∧ (laneReg 0x000 = false ∧ laneReg 0x082 = false ∧ laneReg 0x400 = false) ∧
    canRun base (.rds 1 0x045) = true ∧ kindOf 1 = .v := by decide +kernel

/-- The scalar pairs s0:s1 of 4 and s2:s3 of 0x1C. -/
def regsSet (s : State := base) : State := withS [(0, 4), (2, 0x1C)] s

/-- The register takes the value in s2:s3, and its write can run. -/
def takes (s : State) (k : Nat) : Bool :=
  plainRegs.contains k && canRun s (.wrs 0x62 (BitVec.ofNat 11 k)) && !(party s).inRep && (party s).once
    && (lowest (writeCauses k (s.uniform (party s) 0x62 (if wideReg (BitVec.ofNat 11 k) then 2 else 1)))).isNone

theorem meets_WrsReadsBack : [0x000, 0x001, 0x002, 0x046, 0x180, 0x188, 0x18E, 0x190, 0x191, 0x192].all (takes regsSet) = true ∧
    [0x008, 0x00A, 0x400, 0x402, 0x403, 0x404, 0x405, 0x406].all (takes (sup regsSet)) = true ∧
    takes (withS [(2, 3)]) 0x106 = true := by decide +kernel

/-- No lane is active. -/
def noLane (s : State := base) : State := withG (fun g => { g with quads := g.quads.map fun q => { q with active := 0 } }) s

theorem meets_WrsWithoutALaneWritesNothing : canRun noLane (.wrs 0x60 0x002) = true ∧ laneReg 0x002 = false ∧ (party noLane).once = false := by
  decide +kernel

theorem meets_StackAndMarkRegisterWrites : base.party?.isSome = true ∧
    ((0x018 : Nat) ≤ 0x018 ∧ lowest (writeCauses 0x018 1) = none) ∧ lowest (writeCauses 0x03F 0xFFFFFFFF) = none ∧
    ((party (stacked [⟨false, 0x104, 0xF, 0⟩])).g.quad 7).stack[0]? = some ⟨false, 0x104, 0xF, 0⟩ := by decide +kernel

theorem meets_CoreRegisterWrites : base.party?.isSome = true ∧ ((1 : Word) ≠ 0 ∧ (0xFFFF : Word) ≠ 0 ∧ (0xFFFF : Word).toNat < 2 ^ 16) ∧
    fld (base.coreAt 0).kvfsel.toNat 9 8 < base.pools.length := by decide +kernel

/-- Privileged values by register: s0:s1 holds one that its register takes. -/
def privValues : List (BitVec 11 × Nat) :=
  [(0x061, 1), (0x068, 0xFFFF), (0x070, 1), (0x072, 0x101), (0x074, 0x400), (0x076, 7), (0x077, 7), (0x078, 7), (0x079, 7), (0x080, 0x101),
   (0x083, 64), (0x090, 0x40), (0x091, 2), (0x092, 1), (0x093, 3), (0x094, 64), (0x096, 100), (0x097, 9), (0x098, 9), (0x09A, 0x1000 + 12),
   (0x0A2, 255), (0x0A4, 5), (0x0A6, 5), (0x0A8, 1), (0x0AA, 0x1004), (0x0B9, 1600), (0x0C0, 35), (0x0C3, 1), (0x0C4, 1)]

/-- The handler's machine with the value in s0:s1. -/
def privAt (v : Nat) : State := sup (withS [(0, word v)])

theorem meets_PrivilegedStateReadsBack : (canRun sup (.rdp 1 0x061) = true ∧ canRun sup (.rdp 0x60 0x072) = true) ∧
    privValues.map (·.1.toNat) = plainPriv ∧
    ∀ x ∈ privValues, canRun (privAt x.2) (.wrp 0x60 x.1) = true ∧ (party (privAt x.2)).once = true ∧
      (privAt x.2).uniform (party (privAt x.2)) 0x60 (if widePriv x.1 then 2 else 1) = x.2 ∧ lowest (privCauses x.1.toNat x.2) = none ∧
      ((privAt x.2).coreAt 0).function = 0 ∧ privRange (privAt x.2) (party (privAt x.2)) x.1.toNat x.2 = true := by
  refine ⟨?_, ?_, ?_⟩ <;> decide +kernel

theorem meets_PoolRegistersReadBack : ∀ x ∈ ([(0x09C, 4), (0x09E, 4), (0x0A0, 9), (0x0A1, 9)] : List (BitVec 11 × Nat)),
    canRun (privAt x.2) (.wrp 0x60 x.1) = true ∧ (party (privAt x.2)).once = true ∧
    (privAt x.2).uniform (party (privAt x.2)) 0x60 (if widePriv x.1 then 2 else 1) = x.2 ∧ lowest (privCauses x.1.toNat x.2) = none ∧
    ((privAt x.2).coreAt 0).function = 0 ∧ privRange (privAt x.2) (party (privAt x.2)) x.1.toNat x.2 = true ∧
    fld ((privAt x.2).coreAt 0).kvfsel.toNat 9 8 < (privAt x.2).pools.length := by decide +kernel

/-- The block of core 0 is there and has a property. -/
def blockIs (s : State) (f : Block → Bool) : Bool := (s.blockAt 0).elim false f

/-- One change on its way to gate 3, whose gate counts one arrival. -/
def toGate (chg : GateChange) : State :=
  withB (fun b => { b with gateIn := [⟨5000, 3, 0, 0, [], chg⟩], gates := [{}, {}, {}, { rema := 1, expect := 1, init := true }] })
    (withG fun g => { g with pend := [⟨9, 0, [0x60], false, .gate⟩] })

theorem meets_GateAppliesOneChange : ∀ c ∈ ([.binit 1 4990, .bexp 5, .btile 1, .arrive, .tile, .land 1, .addBack 0, .wait 0, .test 9 0x60 1,
    .read 9 0x60 1] : List GateChange),
    blockIs (toGate c) (fun b => decide (b.gateIn = [⟨5000, 3, 0, 0, [], c⟩] ∧ 3 < b.gates.length)) = true ∧ (5000 : Nat) ≤ (toGate c).now ∧
      ((toGate c).gangAt 0 0).isSome = true := by decide +kernel

/-- A party that waits at gate 2 in a way. -/
def waits (p : Park) : State := withB (fun b => { b with gates := [{}, {}, { phase := true }, {}] })
  (withG fun g => { g with quads := g.quads.map fun q => { q with park := p } })

theorem meets_GateWakesItsWaiters : ∀ w ∈ ([.yield 2 (.waits false) 0x104, .bwait 2 (.waits false) 0x7E] : List Park),
    blockIs (waits w) (fun b => decide (false ≠ (b.gate 2).phase)) = true ∧ (waits w).gangsOf 0 = [(0, 0, theGang (waits w))] ∧
      (waits w).gangAt 0 0 = some (theGang (waits w)) ∧ (theGang (waits w)).trap = none ∧ (theGang (waits w)).rolling = none ∧
      (theGang (waits w)).redo = false ∧ (theGang (waits w)).pend = [] ∧ (theGang (waits w)).leads = [0] ∧ 0 ∈ (theGang (waits w)).members 0 ∧
      ((theGang (waits w)).quad 0).park = w ∧ ((waits w).coreAt 0).halted = false ∧ badPc 0x104 = false := by
  decide +kernel

/-- s0 = 3 is the gate and s1 = 1 the count; gate 3 expects one arrival. -/
def atGate : State :=
  withB (fun b => { b with gates := [{}, {}, {}, { rema := 1, expect := 1, init := true }] }) (withS [(0, 3), (1, 1)])

theorem meets_GateSubopsSendTheirChange : ∀ i ∈ ([.binit 0x61 0x60, .barr 0x61 0x60, .bexp 0x61 0x60, .btile 0x61 0x60] : List Instr),
    (gateSent atGate (party atGate) i).isSome = true ∧ canRun atGate i = true ∧ (party atGate).inRep = false ∧ (party atGate).once = true ∧
      atGate.uniform (party atGate) 0x60 1 = 3 ∧ blockIs atGate (fun b => decide (3 < b.ngates) && gateCountOk atGate (party atGate) b 3 i) = true := by
  decide +kernel

theorem meets_GateWaitsPark : canRun atGate (.bwait 0x62 0x60) = true ∧ canRun atGate (.barw 0x61 0x60) = true ∧ (party atGate).once = true ∧
    blockIs atGate (fun b => decide (3 < b.ngates) && gateCountOk atGate (party atGate) b 3 (.barw 0x61 0x60)) = true := by decide +kernel

theorem meets_GateReadsAreOutstanding : canRun atGate (.btest 0x62 0x60) = true ∧ canRun atGate (.brd 0x64 0x60) = true ∧
    (party atGate).once = true ∧ blockIs atGate (fun b => decide (3 < b.ngates)) = true := by decide +kernel

theorem meets_GateNumberTraps : ∀ i ∈ ([.binit 0x64 0x60, .barr 0x64 0x60, .barw 0x64 0x60, .bwait 0x64 0x60, .bexp 0x64 0x60, .btest 0x64 0x60,
    .btile 0x64 0x60, .brd 0x64 0x60] : List Instr), canRun (withS [(0, 4)]) i = true ∧ (party (withS [(0, 4)])).once = true ∧
    blockIs (withS [(0, 4)]) (fun b => decide (b.ngates ≤ (withS [(0, 4)]).uniform (party (withS [(0, 4)])) 0x60 1)) = true := by decide +kernel

/-- Two writes of s24 and one of s29 that not every quarter sees yet. -/
def sharing : State := withB fun b => { b with shWrites := [⟨1, 24, 5, 4990, 0, 0⟩, ⟨2, 24, 6, 4991, 0, 1⟩, ⟨3, 29, 7, 4992, 0, 0⟩] }

theorem meets_SharedWritesBecomeVisibleInOrder : blockIs sharing (fun b => decide (b.shWrites = [⟨1, 24, 5, 4990, 0, 0⟩] ++
    ⟨2, 24, 6, 4991, 0, 1⟩ :: [⟨3, 29, 7, 4992, 0, 0⟩])) = true ∧ ∀ x ∈ ([⟨1, 24, 5, 4990, 0, 0⟩] : List ShWrite), x.id ≠ 2 := by decide +kernel

/-- Lanes of a party with the addresses of a pair at s0:s1 and offset k. -/
def lanesAt (s : State) (a : Reg) (n size off : Nat) : List (Nat × Nat) := laneAddrs s (party s) a n size off

/-- The pair s0:s1 holds an address. -/
def addrAt (va : Nat) (s : State := base) : State := withS [(0, word va), (1, word (va / 2 ^ 32))] s

/-- No lane writes, none executes. -/
def guarded (s : State := base) : State := withG (fun g => { g with gmode := 0x00#15, preds := [] }) s

theorem meets_LoadBecomesOutstanding :
    (canRun (guarded (addrAt 0x1000)) (.ld 4 0x60 4 0) = true ∧ (party (guarded (addrAt 0x1000))).executing = 0 ∧
      globalTrap ((guarded (addrAt 0x1000)).coreAt 0) 1 4 (lanesAt (guarded (addrAt 0x1000)) 0x60 2 4 0) = none) ∧
    ∀ k ∈ [0, 255], canRun (addrAt 0x1000) (.ld 4 0x60 4 (BitVec.ofNat 8 k)) = true ∧ (party (addrAt 0x1000)).executing ≠ 0 ∧
      globalTrap ((addrAt 0x1000).coreAt 0) 1 4 (lanesAt (addrAt 0x1000) 0x60 2 4 (k * 4)) = none ∧
      atomOn ((addrAt 0x1000).coreAt 0) 0 ((lanesAt (addrAt 0x1000) 0x60 2 4 (k * 4)).map (·.2)) = false := by decide +kernel

/-- The load of lane 31 into v95 has returned. -/
def returned (kind : BitVec 3) (bs : List Byte) : State :=
  withG fun g => { g with pend := [⟨1, 0, [95], false, .load kind 95 1 [⟨31, 0xFFFFFFF8, false, some bs, none⟩]⟩] }

theorem meets_LoadLandsItsBytes : ∀ x ∈ ([(0, [0x80]), (1, [0x80]), (2, [0x34, 0x12]), (3, [0x34, 0x92]), (4, [1, 2, 3, 4])] :
    List (BitVec 3 × List Byte)),
    ((theGang (returned x.1 x.2)).pend.find? (·.id == 1)).map (·.body) = some (.load x.1 95 1 [⟨31, 0xFFFFFFF8, false, some x.2, none⟩]) ∧
      (0xFFFFFFF8 : Nat) < 2 ^ 32 ∧ kindOf 95 = .v ∧ x.1.toNat ≤ 4 ∧ (theGang (returned x.1 x.2)).hasLane 31 = true ∧
      (theGang (returned x.1 x.2)).trap = none ∧ (theGang (returned x.1 x.2)).bellWait = false := by decide +kernel

theorem meets_StoreEntersTheOwnView : ∀ x ∈ ([(0, 0), (2, 1), (4, 255), (5, 0), (6, 0)] : List (BitVec 3 × Nat)),
    canRun (addrAt 0x1000) (.st 4 0x60 x.1 (BitVec.ofNat 8 x.2)) = true ∧
      globalTrap ((addrAt 0x1000).coreAt 0) 2 (kindSize x.1) (lanesAt (addrAt 0x1000) 0x60 2 (kindSize x.1) (x.2 * kindSize x.1)) = none ∧
      readHeld (addrAt 0x1000) (party (addrAt 0x1000)) = false ∧ ((addrAt 0x1000).coreAt 0).atoms = [] ∧
      ((addrAt 0x1000).coreAt 0).ringUsed + needGranules (storeBytes (addrAt 0x1000) (party (addrAt 0x1000)) 4 x.1
        (laneAddr (addrAt 0x1000) (party (addrAt 0x1000)) 0x60 2 (kindSize x.1) (x.2 * kindSize x.1))) ≤ 2048 := by decide +kernel

theorem meets_ScratchAccesses : (canRun (addrAt 0) (.lds 4 0x60 4 0) = true ∧ (party (addrAt 0)).executing ≠ 0 ∧
      blockIs (addrAt 0) (fun b => decide (firstTrap [misaligned 4 0 (lanesAt (addrAt 0) 0x60 1 4 0), scrTrap b 4 false (lanesAt (addrAt 0) 0x60 1 4 0)] =
        none)) = true) ∧
    (canRun (addrAt 64) (.sts 4 0x60 4 0) = true ∧ readHeld (addrAt 64) (party (addrAt 64)) = false ∧
      blockIs (addrAt 64) (fun b => decide (firstTrap [misaligned 4 0 (lanesAt (addrAt 64) 0x60 1 4 0), scrTrap b 4 true (lanesAt (addrAt 64) 0x60 1 4 0)] =
        none)) = true) := by decide +kernel

theorem meets_AccessTraps :
    ((lanesAt (addrAt 0x1002) 0x60 2 4 0).find? (fun a => a.2 % 4 != 0) = some (0, 0x1002) ∧
      (∀ y ∈ lanesAt (addrAt 0x1002) 0x60 2 4 0, chipSheet y.2 = false ∧ 2 ≤ ((addrAt 0x1002).coreAt 0).right (keyOf y.2)) ∧
      canRun (addrAt 0x1002) (.ld 4 0x60 4 0) = true ∧ canRun (addrAt 0x1002) (.st 4 0x60 4 0) = true) ∧
    ((lanesAt (addrAt 66) 0x60 1 4 0).find? (fun a => a.2 % 4 != 0) = some (0, 66) ∧ canRun (addrAt 66) (.lds 4 0x60 4 0) = true ∧
      canRun (addrAt 66) (.sts 4 0x60 4 0) = true) ∧
    (canRun (addrAt 8188) (.lds 4 0x60 4 0) = true ∧ (lanesAt (addrAt 8188) 0x60 1 4 0).find? (fun a => a.2 % 4 != 0) = none ∧
      blockIs (addrAt 8188) (fun b => decide ((lanesAt (addrAt 8188) 0x60 1 4 0).find? (fun a => decide (b.scrSize < a.2 + 4)) = some (1, 8192))) = true) ∧
    (canRun (addrAt 60) (.sts 4 0x60 4 0) = true ∧ (lanesAt (addrAt 60) 0x60 1 4 0).find? (fun a => a.2 % 4 != 0) = none ∧
      blockIs (addrAt 60) (fun b => decide ((lanesAt (addrAt 60) 0x60 1 4 0).find? (fun a => decide (b.scrSize < a.2 + 4 ∨ a.2 < 16 * b.ngates)) =
        some (0, 60))) = true) := by decide +kernel

/-- The window address of core 0's on-chip map: kind and offset. -/
def winAddr (kind off : Nat) : Nat := 0xFFF * 2 ^ 52 + kind * 2 ^ 40 + off

/-- One lane of the gang is active. -/
def oneLane (s : State) : State := withG (fun g => { g with quads := g.quads.mapIdx fun j q => { q with active := if j = 0 then 1 else 0 } }) s

/-- A handler's lane 0 at the accumulators of core 0. -/
def atWindow : State := oneLane (sup (addrAt (winAddr 3 0)))

/-- A window access is under way. -/
def winUnder (w : Option (List Byte)) : State :=
  withC (fun c => { c with wins := [⟨5, 0, 0, true, true, 0, winAddr 3 0, 4, w, 1, 0⟩] })
    (withG fun g => { g with pend := [⟨1, 0, [4], true, .window 4 4 [⟨0, winAddr 3 0, false, none, none⟩]⟩] })

theorem meets_WindowAccesses :
    (canRun atWindow (.ldw 4 0x60 4 0) = true ∧ windowTrap atWindow (party atWindow) false 4 (lanesAt atWindow 0x60 2 4 0) = none ∧
      (party atWindow).helping = 0 ∧ (party atWindow).writing ≠ 0) ∧
    (canRun atWindow (.stw 4 0x60 4 0) = true ∧ windowTrap atWindow (party atWindow) true 4 (lanesAt atWindow 0x60 2 4 0) = none ∧
      readHeld atWindow (party atWindow) = false ∧ (atWindow.coreAt 0).relsOf 0 0 = []) ∧
    (((winUnder none).coreAt 0).wins.map (·.id) = [5] ∧ (winUnder none).winHeld (winAddr 3 0) 4 false = false ∧
      ((theGang (winUnder none)).pend.find? (·.id == 1)).map (·.body) = some (.window 4 4 [⟨0, winAddr 3 0, false, none, none⟩])) ∧
    ((winUnder (some (toBytes 4 7))).winHeld (winAddr 3 0) 4 true = false ∧ winKind (winAddr 3 0) = 3) := by decide +kernel

/-- Scalars: a source pair, a scratch offset, a destination pair; VA 0 is a page. -/
def copying : State := oneLane (withS [(0, 0x1000), (2, 64), (4, 0x2000)])

/-- The addresses of a CPL of `copying`: of each lane the source, then the destination. -/
def copied : List (Nat × Nat × Bool) :=
  (lanesOf (party copying).writing).flatMap fun l =>
    [(l, laneAddr copying (party copying) 0x60 2 16 0 l, false), (l, laneAddr copying (party copying) 0x64 2 16 0 l, true)]

theorem meets_CopiesBecomeEngineWorks :
    (canRun copying (.ldx 0x62 0x60 6 3) = true ∧ readHeld copying (party copying) = false ∧ (party copying).writing ≠ 0 ∧
      keyViol (copying.coreAt 0) 1 (lanesAt copying 0x60 2 16 0) = none ∧ sheetViol (lanesAt copying 0x60 2 16 0) = none ∧
      misaligned 16 0 (lanesAt copying 0x60 2 16 0) = none ∧ misaligned 16 32 (lanesAt copying 0x62 1 16 0) = none ∧
      blockIs copying (fun b => decide (copyGate b (party copying) 3 = none ∧ scrTrap b 16 true (lanesAt copying 0x62 1 16 0) = none)) = true) ∧
    (canRun copying (.cpl 0x64 0x60 6 3) = true ∧ copyTrap copying (party copying) copied = none ∧
      misaligned 16 32 (lanesAt copying 0x64 2 16 0) = none) := by
  decide +kernel

/-! ### Further clauses of the statements above -/

/-- A user gang about to run ERET under REP. -/
def repPrivileged : State := { repReady with dram := (State.reset.withFetchWord 32 0xE2000000).dram }

theorem meets_StepRunsARepIteration_privileged : (picked repPrivileged).party?.isSome = true ∧ (party (picked repPrivileged)).inRep = true ∧
    repOver (party (picked repPrivileged)).g (party (picked repPrivileged)).lead = false ∧
    (party (picked repPrivileged)).g.super = false ∧ repPrivileged.due = none ∧
    (∃ v, v = steppedWord (party (picked repPrivileged)).g.rep ((picked repPrivileged).fetchWord (party (picked repPrivileged)).pc)
        (party (picked repPrivileged)).g.allot ∧ decodedPrivileged v (decode v) = true ∧ decode v = .ok .eret) ∧
    (nextOf (exec .eret (picked repPrivileged))).isSome = true := by
  refine ⟨?_, ?_, ?_, ?_, ?_, ⟨_, rfl, ?_, ?_⟩, ?_⟩ <;> decide +kernel

theorem meets_FixedResultLands_absent : landing.gangAt 0 0 = some (theGang landing) ∧ (theGang landing).inflight.find? (·.id == 8) = none := by
  decide +kernel

theorem meets_BranchDividesOverTheParty_always : canRun noLane (.br false 7 8) = true ∧ (party noLane).taken false 7 = 0 ∧
    (party noLane).g.act 0 = 0 ∧ badPc (offsetPc (party noLane).pc 8#21) = false := by decide +kernel

theorem meets_TrapsComeBeforeTheEffect_byValue : ∀ i ∈ ([.accrd 8 0x60, .accwr 8 0x60] : List Instr), byValue i = true ∧ hasWord i = true ∧
    scoreboard (party small) i = true ∧ heldBack (small.coreAt 0) (party small) i = false ∧ preTrap small.now (party small) i = some (0x10, 8) ∧
    small.pairHeld (party small) 8 true = false ∧ small.pairHeld (party small) 8 false = false := by decide +kernel

/-- s0 holds a word. -/
def wordAt (v : Nat) (s : State := base) : State := withS [(0, word v)] s

theorem meets_OperandValuesTrapIllegal :
    (canRun (wordAt 0x8000) (.wrs 0x60 0x000) = true ∧ laneReg 0x000 = false ∧ (party (wordAt 0x8000)).once = true ∧
      (lowest (writeCauses 0x000 ((wordAt 0x8000).uniform (party (wordAt 0x8000)) 0x60 1))).isSome = true) ∧
    (canRun (wordAt 0x10) (.accwr 0x7F 0x60) = true ∧ tdWide ((wordAt 0x10).uniform (party (wordAt 0x10)) 0x60 1) = true ∧ kindOf 0x7F = .q) ∧
    canRun (wordAt 0x10) (.accwr 0x63 0x60) = true ∧ kindOf 0x63 = .s ∧ (0x63 : Reg).toNat % 2 = 1 ∧ (wordAt 0x10).pairHeld (party (wordAt 0x10)) 0x63 false = false := by
  decide +kernel

theorem meets_RngWriteStoresOneForZero : base.party?.isSome = true ∧ lanesOf (party base).executing ≠ [] := by decide +kernel

/-- Core 0 is halted. -/
def halted (s : State) : State := withC (fun c => { c with halted := true }) s

theorem meets_GateWakesItsWaiters_halted :
    blockIs (halted (waits (.yield 2 (.waits false) 0x104))) (fun b => decide (false ≠ (b.gate 2).phase)) = true ∧
      ((halted (waits (.yield 2 (.waits false) 0x104))).coreAt 0).halted = true ∧ ((waits (.yield 2 (.waits false) 0x104)).coreAt 0).halted = false ∧
      (theGang (halted (waits (.yield 2 (.waits false) 0x104)))).leads = [0] := by decide +kernel

/-- The value of an outstanding result is known; its quarter's write slots of this clock. -/
def valued (slots : Nat) : State :=
  withC (fun c => { c with sched := setAt c.sched 0 fun h => { h with slotsAt := 5000, slots := slots } })
    (withG fun g => { g with pend := [⟨1, 0, [4], false, .value [⟨.v 4 0, 9⟩]⟩] })

theorem meets_VariableReturnsLand :
    (((theGang (valued 0)).pend.find? (·.id == 1)).map (·.body) = some (.value [⟨.v 4 0, 9⟩]) ∧
      ((valued 0).coreAt 0).returnMay (valued 0).now (quarterOf 0) 1 (writeSlots [4]) = true ∧
      ((valued 16).coreAt 0).returnMay (valued 16).now (quarterOf 0) 1 (writeSlots [4]) = false) ∧
    (theGang (valued 0)).pend.find? (·.id == 2) = none ∧
    ((theGang pending).pend.find? (·.id == 1)).map (·.body) = some (.load 4 4 1 [⟨0, 0, false, none, none⟩]) := by decide +kernel

theorem meets_LoadLandsItsBytes_slots : ((returned 4 [1, 2, 3, 4]).coreAt 0).returnMay (returned 4 [1, 2, 3, 4]).now (quarterOf 0) 1 (writeSlots [95]) = true := by
  decide +kernel

theorem meets_StoreEntersTheOwnView_room : ∀ x ∈ ([(0, 0), (4, 255), (6, 0)] : List (BitVec 3 × Nat)),
    atomOn ((addrAt 0x1000).coreAt 0) 0 ((lanesAt (addrAt 0x1000) 0x60 2 (kindSize x.1) (x.2 * kindSize x.1)).map (·.2)) = false ∧
    ((addrAt 0x1000).coreAt 0).ringHeld + needGranules (storeBytes (addrAt 0x1000) (party (addrAt 0x1000)) 4 x.1
        (laneAddr (addrAt 0x1000) (party (addrAt 0x1000)) 0x60 2 (kindSize x.1) (x.2 * kindSize x.1))) ≤ 2048 := by decide +kernel

theorem meets_CopiesBecomeEngineWorks_traps : coreAtomOut copying (party copying) = false ∧
    blockIs copying (fun b => decide (firstTrap [keyViol (copying.coreAt 0) 1 (lanesAt copying 0x60 2 16 0), sheetViol (lanesAt copying 0x60 2 16 0),
      pairMisaligned 16 (lanesAt copying 0x60 2 16 0) (lanesAt copying 0x62 1 16 0), copyGate b (party copying) 3,
      scrTrap b 16 true (lanesAt copying 0x62 1 16 0)] = none)) = true ∧
    blockIs copying (fun b => decide (firstTrap [copyTrap copying (party copying) copied,
      pairMisaligned 16 (lanesAt copying 0x60 2 16 0) (lanesAt copying 0x64 2 16 0), copyGate b (party copying) 3] = none)) = true := by decide +kernel

/-- VA 0 is a page that takes atomics. -/
def atomics (s : State := base) : State := { s with pages := s.pages.map fun p => { p with attr := 7 } }

/-- s0:s1 names a word, v4:v5 of its lanes are operands. -/
def atomAt (va : Nat) : State := atomics (addrAt va)

theorem meets_AtomicsAreHandedOver :
    ∀ i ∈ ([(true, 0, 0, 0), (true, 3, 3, 7), (false, 3, 2, 8), (false, 5, 0, 4), (true, 1, 1, 6), (false, 2, 0, 1)] : List (Bool × Nat × Nat × Nat)),
      canRun (atomAt 0x1000) (if i.1 then .atom 4 0x60 (BitVec.ofNat 3 i.2.1) (BitVec.ofNat 2 i.2.2.1) (BitVec.ofNat 4 i.2.2.2)
        else .red 4 0x60 (BitVec.ofNat 3 i.2.1) (BitVec.ofNat 2 i.2.2.1) (BitVec.ofNat 4 i.2.2.2)) = true ∧
      (party (atomAt 0x1000)).writing ≠ 0 ∧
      globalTrap ((atomAt 0x1000).coreAt 0) 3 4 (lanesAt (atomAt 0x1000) 0x60 2 4 0) = none ∧ readHeld (atomAt 0x1000) (party (atomAt 0x1000)) = false ∧
      atomOn ((atomAt 0x1000).coreAt 0) 0 ((lanesAt (atomAt 0x1000) 0x60 2 4 0).map (·.2)) = false ∧
      loadOn (party (atomAt 0x1000)).g ((lanesAt (atomAt 0x1000) 0x60 2 4 0).map (·.2)) = false ∧ relFull (atomAt 0x1000) (party (atomAt 0x1000)) = false ∧
      relEarly (atomAt 0x1000) (party (atomAt 0x1000)) (BitVec.ofNat 3 i.2.1) = false ∧ ((atomAt 0x1000).coreAt 0).ringHeld + 200 ≤ 2048 ∧
      needGranules ((lanesAt (atomAt 0x1000) 0x60 2 4 0).flatMap fun x => (List.range 4).map fun j => (x.2 + j, 0)) ≤ 199 ∧
      ((atomAt 0x1000).coreAt 0).leat = [] := by decide +kernel

theorem meets_AtomicOperations : (0 : BitVec 4).toNat ≤ 7 ∧ (7 : BitVec 4).toNat ≤ 7 := by decide +kernel

/-- A second-level line of a treatment that the die does not own. -/
def line2 (line treat : Nat) : L2Line := ⟨line, 0, [], false, treat, [], 0, 0, false, none, 0, none, 0, []⟩

/-- The die's slice holds a line. -/
def sliced (x : L2Line) (s : State := base) : State := { s with slices := [(sliceKey 0 x.line, { lines := [x] })] }

/-- An atomic of core 0 on one word of line 32 of cluster scope, with or without its old value. -/
def atomic (aop : BitVec 4) (old : Option Nat) : AtomOp := ⟨1, 0, 0, 0, false, aop, 0, 1, 0, 4, true, 4, [⟨31, 0x107C, 1, 2, old, none⟩], true, [], 0, false, false, 0, 0, 0, 0, 0⟩

/-- The core has that atomic under way. -/
def atomUnder (aop : BitVec 4) (old : Option Nat) : State :=
  withC (fun c => { c with atoms := [atomic aop old] })
    (sliced (line2 32 1) (withG (fun g => { g with pend := [⟨1, 0, [4], false, .atomic⟩] }) atomics))

theorem meets_AtomicsArePerformed :
    (∀ x ∈ ([(0, []), (7, [])] : List (BitVec 4 × List Nat)), (0 : Nat) = dieOf 0 ∧ (atomUnder x.1 none).atomAt 0 1 = some (atomic x.1 none) ∧
      (atomic x.1 none).scope ≠ 0 ∧ ((atomUnder x.1 none).coreAt 0).l1 = [] ∧ (atomUnder x.1 none).mayWrite 0x107C = true ∧
      (atomUnder x.1 none).lineIn 0 (lineOf 0x107C) = some (line2 32 1) ∧ (line2 32 1).treat ≠ 0 ∧ (line2 32 1).coreOwner = none ∧
      (atomUnder x.1 none).lineIn 1 (lineOf 0x107C) = none) ∧
    ((atomUnder 0 (some 5)).atomAt 0 1 = some (atomic 0 (some 5)) ∧ (atomic 0 (some 5)).lanes.all AtomLane.done = true ∧
      (atomic 0 (some 5)).lanes.all (fun l => l.refused.isNone) = true ∧ (atomic 0 (some 5)).told = false ∧ (atomic 0 (some 5)).ret = true ∧
      (theGang (atomUnder 0 (some 5))).pend.map (·.id) = [1]) := by
  decide +kernel

theorem meets_CounterSubops : globalTrap ((addrAt 0x1000).coreAt 0) 1 8 [(0, (addrAt 0x1000).uniform (party (addrAt 0x1000)) 0x60 2)] = none ∧
    ((party (guarded (addrAt 0x1000))).once = false ∧ ∀ i ∈ ([.ctrw 0x62 0x60, .ctrt 3 0x60, .ctrrd 0x62 0x60] : List Instr),
      canRun (guarded (addrAt 0x1000)) i = true) ∧
    ((party (addrAt 0x1000)).once = true ∧ ∀ i ∈ ([.ctrw 0x62 0x60, .ctrt 7 0x60, .ctrrd 0x62 0x60] : List Instr), canRun (addrAt 0x1000) i = true) ∧
    (addrAt 0x1000).homedHere 0x1000 = true := by decide +kernel

/-- The party waits for the counter at 0x1000 to reach a value, and has seen whether it has; the counter is 3. -/
def counting (v : Nat) (seen : Option Bool) : State :=
  withG (fun g => { g with quads := g.quads.map fun q => { q with park := .ctrw 0x1000 v seen false } }) (base.devWrite32 0x1000 3)

theorem meets_CounterWaitEnds : (∀ v ∈ [3, 4], ∀ n ∈ [none, some false], ((theGang (counting v n)).quad 0).park = .ctrw 0x1000 v n false ∧
      (theGang (counting v n)).trap = none ∧ ((counting v n).coreAt 0).halted = false ∧ n ≠ some true ∧
      (counting v n).homedHere 0x1000 = true ∧ (counting v n).homeCheck 5 0x1000 false false none false = 0) ∧
    ((counting 4 none).markPage 0x1000 false).counterValue 0x1000 < 4 ∧ 3 ≤ ((counting 3 none).markPage 0x1000 false).counterValue 0x1000 ∧
    ((theGang (counting 3 (some true))).pend = [] ∧ ((counting 3 (some true)).acquire 0 3).2 = true) := by decide +kernel

/-- s0 is an address of records and s1 their number. -/
def kicking (addr count : Word) : State := withS [(0, addr), (1, count)]

theorem meets_KickAppendsRecords : ∀ x ∈ ([(64, 64), (64, 1), (8128, 1), (0, 0)] : List (Nat × Nat)),
    canRun (kicking (word x.1) (word x.2)) (.kick 0x62 0x60 0x61) = true ∧ (party (kicking (word x.1) (word x.2))).once = true ∧ x.2 ≤ 64 ∧ x.1 % 64 = 0 ∧
      coreAtomOut (kicking (word x.1) (word x.2)) (party (kicking (word x.1) (word x.2))) = false ∧
      blockIs (kicking (word x.1) (word x.2)) (fun b => x.2 == 0 || decide (x.1 + 64 * x.2 ≤ b.scrSize ∧ 16 * b.ngates ≤ x.1)) = true ∧
      readHeld (kicking (word x.1) (word x.2)) (party (kicking (word x.1) (word x.2))) = false ∧ ((kicking (word x.1) (word x.2)).coreAt 0).recs.length + x.2 ≤ 64 := by
  decide +kernel

/-- A window write of the gang has not landed. -/
def storing (s : State := base) : State := withC (fun c => { c with wins := [⟨5, 0, 0, true, true, 0, winAddr 3 0, 4, some (toBytes 4 7), 1, 0⟩] }) s

theorem meets_KickAppendsRecords_late : canRun (storing (kicking 64 1)) (.kick 0x62 0x60 0x61) = true ∧
    winsOf (storing (kicking 64 1)) (party (storing (kicking 64 1))) ≠ [] ∧
    winsOf (kicking 64 1) (party (kicking 64 1)) = [] ∧
    readHeld (storing (kicking 64 1)) (party (storing (kicking 64 1))) = false ∧
    coreAtomOut (storing (kicking 64 1)) (party (storing (kicking 64 1))) = false := by decide +kernel

/-- A bulk record of core 0 with the given words. -/
def record (ws : List Word) (st : Option Nat) : BulkRec := ⟨5, 1, 0, 0, 0, false, ws, st, st.isSome, 0, [], 0, [], [], [], false, 0, false, none, none⟩

/-- The core's queue holds that record. -/
def queued (ws : List Word) (st : Option Nat) (s : State := base) : State := withC (fun c => { c with recs := [record ws st] }) s

theorem meets_RecordEntersService_late :
    ((withC fun c => { c with recs := [{ record [] none with addr := 64, waits := true }] }).coreAt 0).recs = [{ record [] none with addr := 64, waits := true }] ∧
    blockIs base (fun b => decide (({ record [] none with words := recordWords b 0 64, waits := false } : BulkRec).badFormat b.ngates = true)) = true := by
  decide +kernel

theorem meets_RecordEntersService : (∀ ws ∈ ([[7], [0x8003, 0, 0, 0, 0, 0, 8, 1, 0, 0, 4, 1], [0x8004, 0, 0, 0, 0, 0, 8, 1, 0, 0, 8192, 1],
      [0x01018001, 0, 0x1000, 0, 128, 0, 64]] : List (List Word)),
      ((queued ws none).coreAt 0).recs = [record ws none] ∧ ((queued ws none).coreAt 0).frozen = false ∧
      forkReady (queued ws none) ((queued ws none).coreAt 0) [] 0 [] [] [] = true ∧ (record ws none).started = false) ∧
    (record [7] none).badFormat 4 = true ∧
    ((record [0x8003, 0, 0, 0, 0, 0, 8, 1, 0, 0, 4, 1] none).badFormat 4 = false ∧ (record [0x8003, 0, 0, 0, 0, 0, 8, 1, 0, 0, 4, 1] none).badAlign = true) ∧
    ((record [0x8004, 0, 0, 0, 0, 0, 8, 1, 0, 0, 8192, 1] none).badFormat 4 = false ∧
      (record [0x8004, 0, 0, 0, 0, 0, 8, 1, 0, 0, 8192, 1] none).badAlign = false ∧
      (record [0x8004, 0, 0, 0, 0, 0, 8, 1, 0, 0, 8192, 1] none).listWords = 1) ∧
    ((record [0x01018001, 0, 0x1000, 0, 128, 0, 64] none).badFormat 4 = false ∧ (record [0x01018001, 0, 0x1000, 0, 128, 0, 64] none).badAlign = false ∧
      (record [0x01018001, 0, 0x1000, 0, 128, 0, 64] none).listWords = 0 ∧
      ((record [0x01018001, 0, 0x1000, 0, 128, 0, 64] none).units fun _ => 0) ≠ []) := by decide +kernel

/-- An engine work of one unit of 64 bytes from VA 0x1000 to scratch 64, which has been sent and counts on gate 3. -/
def aWork : Work := ⟨2, 0, 0, false, some 3, none, [], 0, [], [], [], 0, [⟨0, [.mem 0x1000], .scratch 0 0 64, 64, none, false, false, .sent, [], 0, [], []⟩], 0⟩

/-- The core runs it. -/
def working : State := withC fun c => { c with works := [aWork] }

/-- The unit of `aWork` arrives, and its slice looks up its lines. -/
def unitSent (s : State) (u : XUnit) : State := (s.arrives 0 (.xfer 2 u.id) 0).unitLookups 0 aWork u

/-- The home of VA 0x1000 is busy for a thousand clocks. -/
def busyHomes : State := { working with homeServers := [(homeOf 0x1000, { free := 640 * 6000 })] }

theorem meets_UnitLandsItsBytes : ((working.coreAt 0).works.find? (·.id == 2)) = some aWork ∧ blockIs working (fun b => b.key == 0 && b.ngates == 4) = true ∧
    16 * 4 ≤ 64 ∧ chipSheet 0x1000 = false ∧ (∀ k < 64, working.homedHere (0x1000 + k) = true) ∧
    ∀ u ∈ aWork.units, u.st = .sent ∧ u.own = false ∧ u.atDst = false ∧ u.red = none ∧ u.pieces = [([.mem 0x1000], .scratch 0 0 64, 64)] ∧
      u.held = [] ∧ unitSides (unitSent working u) 0 aWork u = .ok ∧
      ((unitSent working u).atHomes (.transferUnitLanding 0 2 u.id) 0 ((unitSent working u).unitJobs 0 u)).2 = true ∧
      ((unitSent busyHomes u).atHomes (.transferUnitLanding 0 2 u.id) 0 ((unitSent busyHomes u).unitJobs 0 u)).2 = false := by decide +kernel

theorem meets_RecordCompletes :
    ∀ x ∈ ([([0x03018001, 0, 0x1000, 0, 128, 0, 64], 0), ([0x00028001, 0, 0x1000, 0, 128, 0, 64, 0, 0, 0, 0, 0, 0x2000, 0, 1], 5)] : List (List Word × Nat)),
      ((queued x.1 (some x.2)).coreAt 0).recs.find? (·.ticket.toNat == 5) = some (record x.1 (some x.2)) ∧ x.2 < 16 := by decide +kernel

/-- A record whose counter's increment is on its way home. -/
def counted : BulkRec := { record [0x00028001, 0, 0, 0, 0, 0, 0, 0, 0, 0, 0, 0, 0x2000, 0, 1] (some 0) with inc := some 0 }

theorem meets_RecordCounterCounts :
    ((queued [0x00028001, 0, 0, 0, 0, 0, 0, 0, 0, 0, 0, 0, 0x2000, 0, 1] (some 0) atomics).coreAt 0).recs.find? (·.ticket.toNat == 5) =
      some (record [0x00028001, 0, 0, 0, 0, 0, 0, 0, 0, 0, 0, 0, 0x2000, 0, 1] (some 0)) ∧ chipSheet 0x2000 = false ∧
    3 ≤ (atomics.coreAt 0).right (keyOf 0x2000) ∧ atomics.homedHere 0x2000 = true ∧ atomics.homeCheck 2 0x2000 true false none false = 0 ∧
    (queued [0x00028001, 0, 0, 0, 0, 0, 0, 0, 0, 0, 0, 0, 0x2000, 0, 1] (some 0) atomics).recordUnclean 0
      (record [0x00028001, 0, 0, 0, 0, 0, 0, 0, 0, 0, 0, 0, 0x2000, 0, 1] (some 0)) 0x2000 = false ∧ atomics.tickets = [] ∧ atomics.fabric = [] ∧
    atomics.holdsWrite 0x2000 = false ∧ (record [0x00028001, 0, 0, 0, 0, 0, 0, 0, 0, 0, 0, 0, 0x2000, 0, 1] (some 0)).inc = none ∧
    ((withC (fun c => { c with recs := [counted] }) atomics).coreAt 0).recs.find? (·.ticket.toNat == 5) = some counted ∧ counted.inc = some 0 ∧
    ((withC (fun c => { c with recs := [counted] }) atomics).atHomes
      (.homeRequest ⟨2, 0x2000, true, false, .core 0 (.record 5), [], 0⟩) 0 [(homeOf 0x2000, 128)]).2 = true ∧
    ((theGang (counting 1 (some false))).quad 0).park = .ctrw 0x1000 1 (some false) false := by decide +kernel

/-- A port with one request of a cost. -/
def portWith (cost level : Nat) : State := withC fun c => { c with port := { c.port with level := level, queue := [(cost, .sliceFill 0 0 1 32 false)] } }

theorem meets_PortBucket : ((portWith 5 5).coreAt 0).port.queue = [(5, .sliceFill 0 0 1 32 false)] ∧ (5 : Nat) ≤ ((portWith 5 5).coreAt 0).port.level ∧
    ((portWith 5 4).coreAt 0).port.level < 5 := by decide +kernel

/-- An entry of line 32 of some leat at a granule of its ring: one byte, or a release mark. -/
def ringEntry (seq : Word) (relm : Option (BitVec 3)) (pos : Nat) : LeatEntry :=
  ⟨seq, 32, if relm.isSome then [] else [(0, 9)], relm, false, false, 9000, none, 0, 0, 0, 0, false, pos, false, false, false, 0⟩

/-- The ring of core 0 is full from its oldest entry round to it. -/
def ringFull : State := withC fun c => { c with leat := [ringEntry 1 none 0, ringEntry 2 (some 1) 2047], leatSeq := 3 }

/-- Core 0 has replayed an entry of core 17 that is still in its ring, and one that is acknowledged with its stamp ahead. -/
def replayed : State :=
  (withC fun c => { c with filter := [⟨32, 17, 5⟩], unpassed := [⟨17, ringEntry 4 none 0, 9000⟩] }).modCore 17 fun c =>
    { c with leat := [ringEntry 5 none 0] }

theorem meets_ReleaseStarts : (canRun guarded (.rel 3) = true ∧ (party guarded).once = false) ∧
    ([0, 1, 5].all fun k => canRun base (.rel k)) = true ∧ (party base).once = true ∧ relFull base (party base) = false ∧
    ([0, 1, 5].all fun k => !relEarly base (party base) k) = true ∧
    (canRun (storing) (.rel 1) = true ∧ relEarly storing (party storing) 1 = true) ∧ (base.coreAt 0).ringHeld + 1 ≤ 2048 ∧
    (canRun ringFull (.rel 1) = true ∧ (party ringFull).once = true ∧ 2048 < (ringFull.coreAt 0).ringHeld + 1) ∧
    ((base.coreAt 0).unpassed = [] ∧ (replayed.coreAt 0).unpassed ≠ [] ∧ ((replayed.coreAt 17).leat.any (·.seq == 5)) = true) := by decide +kernel

/-- A release of a scope that waits for nothing any more, published 8 clocks ago. -/
def release (scope : BitVec 3) (reads : List Nat) : Release := ⟨1, 0, 0, scope, some 1, false, [], [], [], reads, [], [], 5000, some 4992, none⟩

/-- The core has it. -/
def releasing (scope : BitVec 3) (reads : List Nat) : State := withC fun c => { c with rels := [release scope reads] }

theorem meets_ReleaseCompletes : ∀ x ∈ ([(0, []), (1, []), (2, []), (5, []), (3, [7])] : List (BitVec 3 × List Nat)),
    ((releasing x.1 x.2).coreAt 0).rels.find? (·.id == 1) = some (release x.1 x.2) ∧ ((release x.1 x.2).published = some 4992 ∧
      4992 + 8 ≤ (releasing x.1 x.2).now ∧ (release x.1 x.2).stamp ≤ (releasing x.1 x.2).now) := by decide +kernel

/-- A read of the gang is outstanding, into v0. -/
def reading : State := withG fun g => { g with pend := [⟨1, 0, [0], false, .load 4 0 1 [⟨0, 0, false, none, none⟩]⟩] }

theorem meets_ReleaseCompletes_none : ((releasing 0 []).coreAt 0).rels.find? (·.id == 2) = none := by decide +kernel

/-- A release of SYSTEM scope whose host has a clock, and one of device scope that still covers an entry. -/
theorem meets_ReleaseCompletes_cases : ReleaseDoneAt (release 0 []) 0 ∧ ReleaseDoneAt (release 1 []) 5000 ∧ ReleaseDoneAt (release 3 []) 5000 ∧
    ReleaseDoneAt (release 5 []) 5000 ∧ ReleaseHeldUp (release 3 [7]) (base.coreAt 0) ∧
    ReleaseDoneAt { release 3 [] with stamp := 5001 } 5001 ∧ (∀ t, ¬ ReleaseDoneAt { release 3 [] with entries := [(0, 1)] } t) ∧
    (∀ t, ¬ ReleaseDoneAt { release 1 [] with published := none } t) ∧
    (∃ pg ∈ ({ base with pages := base.pages.map fun p => { p with attr := 0x83 } } : State).pages, pg.ofHost = true) := by
  refine ⟨Or.inl ⟨rfl, rfl⟩, Or.inr (Or.inl ⟨rfl, 4992, rfl, rfl⟩), Or.inr (Or.inr ⟨by decide, rfl, fun h => absurd h (by decide), rfl⟩),
    Or.inr (Or.inr ⟨by decide, rfl, fun _ => rfl, rfl⟩), Or.inl ⟨rfl, by decide⟩, Or.inr (Or.inr ⟨by decide, rfl, fun h => absurd h (by decide), rfl⟩),
    ?_, ?_, by decide +kernel⟩
  · rintro t (⟨h, _⟩ | ⟨h, _⟩ | ⟨_, h, _⟩) <;> revert h <;> decide
  · rintro t (⟨h, _⟩ | ⟨_, u, h, _⟩ | ⟨h, _⟩) <;> revert h <;> simp [release]

/-- The filter of core 0 is full, and core 1 has published an entry that it has not replayed. -/
def filterFull : State :=
  (withC fun c => { c with filter := (List.range 512).map (fun k => ⟨k, 5, 1⟩), tailSeen := [(1, 5)] }).modCore 1 fun c =>
    { c with leat := [ringEntry 5 none 0] }

theorem meets_AcquireReplays_full : canRun filterFull (.acq 3) = true ∧ (party filterFull).once = true ∧ (party filterFull).g.pend = [] ∧
    (filterFull.acquire 0 3).2 = false := by decide +kernel

theorem meets_AcquireReplays : (canRun guarded (.acq 2) = true ∧ (party guarded).once = false) ∧ canRun base (.acq 0) = true ∧
    (canRun base (.acq 3) = true ∧ (party base).once = true ∧ (party base).g.pend = [] ∧ (base.acquire 0 3).2 = true) ∧
    (canRun reading (.acq 3) = true ∧ (party reading).once = true ∧ (party reading).g.pend ≠ []) := by decide +kernel

/-- s0 names a core's leat. -/
def naming (n : Word) (s : State := base) : State := withS [(0, n)] s

/-- Core 17 is of another domain, cluster 1 is up. -/
def others (d : Nat) (n : Word) : State :=
  let s : State := { naming n with pr := { (naming n).pr with clumap := 3 } }
  s.modCore 17 fun c => { c with domain := d }

/-- A promotion that waits for nothing any more, and its party. -/
def promo : Promo := ⟨1, 0, [], 5000, 0, 0, some (17, 0), []⟩

def promoting : State := withC (fun c => { c with promos := [promo] })
  (withG fun g => { g with quads := g.quads.map fun q => { q with park := .hold true } })

theorem meets_AcquireOfOneLeat : (canRun (naming 0x4000) (.acql 0x60) = true ∧ fld 0x4000 31 14 ≠ 0 ∧ (party (naming 0x4000)).once = true) ∧
    (canRun (naming 0) (.acql 0x60) = true ∧ fld 0 31 14 = 0 ∧ (party (naming 0)).g.pend = []) ∧
    (canRun (naming 0x3FFF) (.acql 0x60) = true ∧ (naming 0x3FFF).clusterUp (0x3FFF / 32 % 512) = false ∧ fld 0x3FFF 31 14 = 0) ∧
    (canRun (others 1 0x220) (.acql 0x60) = true ∧ (others 1 0x220).clusterUp 17 = true ∧ ((others 1 0x220).coreAt 17).domain ≠ 0) ∧
    (canRun (others 0 0x220) (.acql 0x60) = true ∧ (others 0 0x220).clusterUp 17 = true ∧ ((others 0 0x220).coreAt 17).domain = 0) ∧
    (canRun (naming 32) (.acql 0x60) = true ∧ (naming 32).clusterUp 1 = true ∧ ((naming 32).coreAt 1).domain = 0 ∧
      ((naming 32).replayLeat 0 1 (Sp.get ((naming 32).coreAt 0).tailSeen 1)).2 = true) ∧
    (((promoting.coreAt 0).promos.find? (·.id == 1)) = some promo ∧ promo.stamp ≤ promoting.now ∧ 0 ∈ (theGang promoting).members 0 ∧
      ((theGang promoting).quad 0).park = .hold true) ∧ (canRun reading (.acql 0x60) = true ∧ (party reading).g.pend ≠ []) := by decide +kernel

theorem meets_RangeFenceStarts : (canRun (guarded (addrAt 0x1000)) (.fncr 3 0x60 0x62) = true ∧ (party (guarded (addrAt 0x1000))).once = false) ∧
    ([0, 1, 2, 5].all fun k => canRun (addrAt 0x1000) (.fncr k 0x60 0x62)) = true ∧ (party (addrAt 0x1000)).once = true ∧
    relFull (addrAt 0x1000) (party (addrAt 0x1000)) = false ∧ ([0, 1, 2, 5].all fun k => !relEarly (addrAt 0x1000) (party (addrAt 0x1000)) k) = true ∧
    (canRun (storing (addrAt 0x1000)) (.fncr 1 0x60 0x62) = true ∧ relEarly (storing (addrAt 0x1000)) (party (storing (addrAt 0x1000))) 1 = true) ∧
    ((addrAt 0x1000).coreAt 0).ringHeld + 1 ≤ 2048 ∧ (canRun ringFull (.fncr 1 0x60 0x62) = true ∧ 2048 < (ringFull.coreAt 0).ringHeld + 1) := by decide +kernel

/-- s0:s1 is a base, s2:s3 a length. -/
def ranging (b n : Nat) (s : State := base) : State :=
  withS [(0, word b), (1, word (b / 2 ^ 32)), (2, word n), (3, word (n / 2 ^ 32))] s

/-- Every cache sub-op on that range. -/
def cacheOps : List Instr := [.cwb 0x62 0x60, .cinv 0x62 0x60, .cpref 0x62 0x60, .cdisc 0x62 0x60]

theorem meets_CacheControl :
    (∀ i ∈ cacheOps, canRun (ranging 0x1000 0) i = true ∧ canRun (ranging (2 ^ 44 - 128) 256) i = true ∧ canRun (ranging 0x1000 (2 ^ 20)) i = true ∧
      canRun (ranging (2 ^ 44 + 0x1000) 256) i = true) ∧ (party base).once = true ∧
    (2 ^ 44 < offsetOf (2 ^ 44 - 128) + 256 ∧ 2 ^ 20 < 2 ^ 20 + 1 ∧ canRun (ranging 0x1000 (2 ^ 20 + 1)) (.cdisc 0x62 0x60) = true) ∧
    (chipSheet 0x1000 = false ∧ 2 ≤ (base.coreAt 0).right (keyOf 0x1000) ∧ (base.coreAt 0).right (keyOf (2 ^ 44 + 0x1000)) = 0) := by
  decide +kernel

/-- An entry of line 32 of core 0's leat: its number, its byte, and what has happened to it. -/
def entry (seq : Word) (k : Nat) (b : Byte) (relm : Option (BitVec 3)) (sealed : Bool) (sealAt : Nat) (sent : Bool) : LeatEntry :=
  ⟨seq, 32, if relm.isSome then [] else [(k, b)], relm, false, sealed, sealAt, none, 0, 0, 0, 0, false, 0, sealed, sent, false, 0⟩

/-- The core's leat. -/
def leat (es : List LeatEntry) (s : State := base) : State := withC (fun c => { c with leat := es }) s

theorem meets_EntriesSealAndTailsPublish :
    (∀ t ∈ [5000, 5001], ((leat [entry 1 0 9 none false t false]).coreAt 0).leat.find? (·.seq == 1) = some (entry 1 0 9 none false t false)) ∧
    newestMark [entry 1 0 9 none true 5000 false] none = none ∧
    newestMark [entry 1 0 9 (some 2) true 5000 false] none = some 1 := by decide +kernel

/-- A sealed release mark that waits at the port. -/
def queuedMark : State := withC (fun c => { c with port := { c.port with queue := [(1, .leatDrainAck 0 1 5000)] } }) (leat [entry 1 0 9 (some 2) true 5000 true])

theorem meets_DrainsLeaveInOrder :
    (((leat [entry 1 0 9 none true 3976 false]).coreAt 0).leat = [entry 1 0 9 none true 3976 false] ∧ (entry 1 0 9 none true 3976 false).urged = true ∧
      ((leat [entry 1 0 9 none true 3976 false]).coreAt 0).rels = [] ∧ ((leat [entry 1 0 9 none true 3976 false]).coreAt 0).pubClock + 8 ≤ 5000 ∧
      ((leat [entry 1 0 9 none true 3976 false]).coreAt 0).atoms = [] ∧ ((leat [entry 1 0 9 none true 3976 false]).coreAt 0).filter = []) ∧
    ((entry 1 0 9 none false 5001 false).sealed = false ∧ (entry 1 0 9 none false 5001 false).parked = none) ∧
    (((leat [entry 1 0 9 (some 2) true 5000 false]).coreAt 0).leat = [entry 1 0 9 (some 2) true 5000 false] ∧
      ((leat [entry 1 0 9 (some 2) true 5000 false]).coreAt 0).port.queue = [] ∧
      1 ≤ ((leat [entry 1 0 9 (some 2) true 5000 false]).coreAt 0).port.level) ∧
    ((queuedMark.coreAt 0).leat = [entry 1 0 9 (some 2) true 5000 true] ∧ (queuedMark.coreAt 0).port.queue = [(1, .leatDrainAck 0 1 5000)] ∧
      1 ≤ (queuedMark.coreAt 0).port.level) := by decide +kernel

/-- Two unsealed entries of one line, one after the other. -/
def pair : State := leat [entry 1 0 9 none false 5001 false, entry 2 1 8 none false 5002 false]

/-- Core 0's cursor of core 17 is 2 ^ 31 - 2 ^ 12 behind. -/
def behind : State := (withC fun c => { c with cursors := [] }).modCore 17 fun c => { c with pubTail := 0x7FFFF000 }

theorem meets_EntriesLeaveAndCompact :
    ((leat [entry 1 0 9 none true 3976 true]).coreAt 0).leat.find? (·.seq == 1) = some (entry 1 0 9 none true 3976 true) ∧
    ((pair.coreAt 0).leat = [entry 1 0 9 none false 5001 false, entry 2 1 8 none false 5002 false] ∧ (2 : Word) = 1 + 1 ∧
      pair.loadBetween 0 32 1 2 = false) ∧
    (((behind.coreAt 17).pubTail - Sp.get (behind.coreAt 0).cursors 17).toNat = 2 ^ 31 - 2 ^ 12 ∧
      ((base.coreAt 17).pubTail - Sp.get (base.coreAt 0).cursors 17).toNat < 2 ^ 31 - 2 ^ 12) := by decide +kernel

/-- One load of line 32 is outstanding. -/
def missing : State := withG fun g => { g with pend := [⟨1, 0, [4], false, .load 4 4 1 [⟨31, 0x107C, false, none, none⟩]⟩] }

theorem meets_FillsServeLoads : ((sliced (line2 32 0) missing).sliceReqs = [] ∧ base.sliceReqs = [] ∧ (base.coreAt 0).rerouted = [] ∧
      base.lineIn (dieOf 0) 32 = none ∧ base.homedHere (32 * 128) = true) ∧
    ((sliced (line2 32 0) missing).lineIn (dieOf 0) 32 = some (line2 32 0) ∧ (line2 32 0).treat = 0 ∧ ((sliced (line2 32 0) missing).coreAt 0).leat = [] ∧
      ((sliced (line2 32 0) missing).coreAt 0).filter = [] ∧ (sliced (line2 32 0) missing).atomAt 0 1 = none ∧ 0 ≠ prefetchSlot ∧
      ((sliced (line2 32 0) missing).coreAt 0).gangs.map (·.1) = [0] ∧
      (theGang (sliced (line2 32 0) missing)).pend.map (·.body) = [.load 4 4 1 [⟨31, 0x107C, false, none, none⟩]] ∧ lineOf 0x107C = 32) := by
  decide +kernel

/-- A drained entry of line 32 at the slice. -/
def applying : State := sliced (line2 32 0) (leat [entry 1 0 9 none true 3976 true])

/-- The same entry where the home's page is in a host-biased page, which no slice of the package may keep. -/
def merging : State :=
  let s := leat [entry 1 0 9 none true 3976 true]
  { s with pages := s.pages.map fun p => { p with attr := 0x83 } }

theorem meets_EntriesApplyAtTheSlice :
    ((applying.coreAt 0).leat = [entry 1 0 9 none true 3976 true] ∧ applying.lineIn (dieOf 0) 32 = some (line2 32 0) ∧
      applying.homeCheck 1 (32 * 128) true false none false = 0 ∧ (applying.pageOf (32 * 128)).elim false (fun pg => pg.mov.isSome) = false ∧
      applying.sliceReqs = [] ∧ applying.lineIn (1 - dieOf 0) 32 = none) ∧
    ((leat [entry 1 0 9 none true 3976 true]).sliceReqs = [] ∧ ((leat [entry 1 0 9 none true 3976 true]).coreAt 0).rerouted = [] ∧
      (leat [entry 1 0 9 none true 3976 true]).lineIn (dieOf 0) 32 = none ∧ base.homedHere (32 * 128) = true) ∧
    ((merging.coreAt 0).leat = [entry 1 0 9 none true 3976 true] ∧ merging.mayHold (32 * 128) = false ∧
      merging.homedHere (32 * 128 + 0) = true ∧ (merging.pageOf (32 * 128 + 0)).isSome = true) := by decide +kernel

/-- A line that core 0 owns, and one whose write waits for one acknowledgement. -/
def line2s : List L2Line := [{ line2 32 0 with coreOwner := some 0, dirty := true }, { line2 32 0 with waits := [⟨0, .leat 1, [17]⟩] }]

theorem meets_LinesLeaveTheCaches : ((sliced { line2 32 0 with owned := true }).lineIn 0 32).any (·.owned) = true ∧ (line2 32 0).owned = false ∧
    base.sliceReqs = [] ∧ (sliced (line2 32 0)).lineIn 0 32 = some (line2 32 0) ∧ (line2 32 0).coreOwner = none ∧
    (∀ x ∈ line2s, (sliced x).lineIn 0 32 = some x ∧ (x.coreOwner = some 0 ∨ x.waits = [⟨0, .leat 1, [17]⟩])) ∧
    base.lineIn (dieOf 0) 32 = none ∧ base.mayKeep (base.maskFor 0 (.pend prefetchSlot 0) 32) (32 * 128) = true ∧ base.homedHere (32 * 128) = true ∧
    (base.pageOf (32 * 128)).isSome = true ∧ (⟨0, 32, 4096, 1⟩ : MemLine).dies.getLsbD 0 = true := by decide +kernel

/-- R381: a fill from its home enters the line in the memory-side cache of the home's stack, with the record of the core's die. -/
theorem test_sliceFill_memory_side_record :
    (nextOf (exec (.sliceFill 256 prefetchSlot 0 32 true) base)).elim [] (fun t => t.memCache.map fun m => (m.stack, m.line, m.dies)) = [(0, 32, 2)] := by
  decide +kernel

/-- A home command of page 0. -/
def cmd (op : Nat) (va attr : Nat) : HomeCmd := ⟨1, BitVec.ofNat 4 op, 0, false, addr64 va, addr64 attr, 0, 0, 0, 0⟩

theorem meets_HomeCommandsQueue : base.pr.hcmdq = 0 ∧
    ({ base with pr := { base.pr with hcmdq := 0x1004 } } : State).pr.hcmdq ≠ 0 := by decide +kernel

/-- The queue of the homes holds one command. -/
def commanded (r : CmdRun) : State := { base with cmds := [r], parks := [⟨0, 0, 4096, [0], [], false, 0, true⟩] }

theorem meets_HomeCommandsTakeEffect : (commanded { cmd := cmd 0 0 0 }).cmds = [{ cmd := cmd 0 0 0 }] ∧ badCmd (cmd 0 0 0) = true ∧
    (∀ c ∈ [cmd 1 0 3, cmd 1 0x10000 3, cmd 2 0x10000 0, cmd 3 0x20000 3, cmd 4 0x20000 3, cmd 7 0x20000 0, cmd 2 0 0, cmd 3 0 1, cmd 3 0 3, cmd 4 0 3,
      cmd 7 0 0, cmd 5 0 0, cmd 6 0xFFF 0, cmd 8 0x10000 0], badCmd c = false) ∧
    (base.pages.any (·.meets (cmd 1 0 3)) = true ∧ base.pages.any (·.meets (cmd 1 0x10000 3)) = false) ∧
    (base.cmdPage (cmd 2 0x10000 0) = none ∧ (base.cmdPage (cmd 2 0 0)).isSome = true) ∧
    (needsChange 3 1 = true ∧ needsChange 3 3 = false) ∧
    (((base.cmdPage (cmd 3 0 3)).map fun pg => badFrame (fld (cmd 3 0 3).attr.toNat 9 8) pg.size pg.frame) = some false ∧
      ({ base with pages := base.pages.map fun p => { p with attr := 0x203, frame := 2 ^ 40 } } : State).cmdPage (cmd 3 0 3) ≠ none ∧
      badFrame (fld (cmd 3 0 3).attr.toNat 9 8) 0 (2 ^ 40) = true) := by decide +kernel

/-- A page change of page 0 at a step. -/
def running (step : Nat) : CmdRun := { cmd := cmd 2 0 0, begun := true, step := step, hz := 5000 }

theorem meets_HomeCommandsFinish : (∀ k ∈ [1, 2, 9], (commanded (running k)).cmds = [running k] ∧ (running k).begun = true ∧ (running k).step = k) ∧
    ((commanded (running 1)).draining [] = false ∧ (commanded (running 1)).revoking 0 65536 = false) ∧
    (leat [entry 1 0 9 none false 5001 false]).draining [(0, 1)] = true ∧
    ((running 2).hz ≤ (commanded (running 2)).now ∧ (commanded { running 2 with hz := 5001 }).now < 5001 ∧ (running 2).cmd.op = 2 ∧
      (running 9).cmd.cv = false) ∧
    (∀ op ∈ [3, 4, 9, 10], badCmd (cmd 3 0 3) = false ∧ (commanded { running 2 with cmd := cmd op 0 3 }).cmds = [{ running 2 with cmd := cmd op 0 3 }] ∧
      ((commanded { running 2 with cmd := cmd op 0 3 }).cmdPage (cmd op 0 3)).isSome = true) := by decide +kernel

/-- A request of VA 0x107C's home has been served, waits there, or comes to it. -/
theorem meets_HomesServeRequests : (Instr.homeBell ∈ ({ base with served := [.homeBell] } : State).served ∧
      (∃ j ∈ ({ base with homeJobs := [⟨0, 0, 128, .homeBell, none⟩] } : State).homeJobs, j.ev = .homeBell)) ∧
    (base.served = [] ∧ base.homeJobs = [] ∧ base.homeOpen 0 = true ∧
      ({ base with homeServers := [(0, { free := 640 * 6000 })] } : State).homeOpen 0 = false) := by decide +kernel

/-- A read request of core 0's load. -/
def asking : HomeReq := ⟨0, 0x107C, false, false, .core 0 (.pend 0 1), [], 0⟩

/-- The machine where that read is answered in the way of the attribute word. -/
def answering (attr : Nat) : State := { missing with pages := missing.pages.map fun p => { p with attr := addr64 attr } }

theorem meets_HomeRequestsAreAnswered : asking.asker = .core 0 (.pend 0 1) ∧ asking.access = 0 ∧ asking.reroutes ≤ 16 ∧
    (∀ x ∈ [(3, 0), (2, 1), (0x10003, 4)], (answering x.1).wanted 0 (.pend 0 1) = true ∧ (answering x.1).kvxOf 0 (.pend 0 1) = none ∧
      (answering x.1).homedHere 0x107C = true ∧ (answering x.1).fabric = [] ∧ (answering x.1).homeCheck 0 0x107C false false none false = x.2 ∧
      (answering x.1).tickets = [] ∧ (answering x.1).atomAt 0 1 = none ∧
      ((answering x.1).atHomes (.homeRequest asking) 0 [(homeOf 0x107C, 128)]).2 = true ∧
      (State.atHomes { answering x.1 with homeServers := [(homeOf 0x107C, { free := 640 * 6000 })] } (.homeRequest asking) 0
        [(homeOf 0x107C, 128)]).2 = false) ∧ ((answering 3).pageOf 0x107C).isSome = true := by decide +kernel

theorem meets_HomeAnswers : base.homedHere 0x107C = true ∧ base.pr.ready.getLsbD (2 + homeOf 0x107C / 4) = true ∧
    ({ base with pr := { base.pr with ready := 0 } } : State).pr.ready.getLsbD (2 + homeOf 0x107C / 4) = false ∧
    (base.pageOf 0x20000 = none ∧ base.refuseMarks = []) ∧
    (∀ x ∈ [(2, 0), (3, 0), (1, 0), (7, 0)], ((answering x.1).pageOf 0x107C).map (·.mov) = some none) ∧
    ({ base with poison := base.pages.map (·.poisonKey 0x107C) } : State).poison ≠ [] ∧
    keyOf 0x107C = 0 ∧ keyOf (2 ^ 44 + 0x107C) ≠ 0 := by decide +kernel

/-- The core has parked that read. -/
def parked (due : Nat) : State := withC (fun c => { c with missBuf := [⟨asking, due⟩] }) missing

theorem meets_ParkedRequestsReplay : ∀ d ∈ [0, 5000], ((parked d).coreAt 0).missBuf = [⟨asking, d⟩] ∧ asking.asker = .core 0 (.pend 0 1) ∧
    d ≤ (parked d).now ∧ (parked d).homedHere asking.va = true := by decide +kernel

/-- A host page at VA 0 and a host write of 4 bytes that is held since clock t. -/
def hosting (t : Nat) : State :=
  { base with pages := base.pages.map fun p => { p with attr := 0x203 }
              hostHeld := [⟨7, 0x1000, true, [1, 2, 3, 4], t⟩], now := 2 ^ 20 }

/-- A host read of VA 0x1000 of a page with an attribute word. -/
def hostReads (attr : Nat) : State := { hosting 0 with
  pages := base.pages.map fun p => { p with attr := addr64 attr }, hostHeld := [⟨7, 0x1000, false, [1, 2, 3, 4], 0⟩] }

theorem meets_HostAccesses_reads : ({ base with pr := { base.pr with ready := 0x40000 } } : State).hostReady = true ∧ base.hostReady = false ∧
    (∀ a ∈ [0x203, 0x83, 3], (hostReads a).homeCheck 0 0x1000 false false none true = 0 ∧ (hostReads a).cmds = [] ∧ (hostReads a).tickets = [] ∧
      ((hostReads a).atHomes (.homeRequest ⟨0, hostVa (hostReads a) 0x1000, false, false, .host 7, [], 0⟩) 0 [(homeOf 0x1000, 128)]).2 = true) ∧
    ((hosting 0).atHomes (.homeRequest ⟨0, hostVa (hosting 0) 0x1000, true, false, .host 7, [], 0⟩) 0 [(homeOf 0x1000, 32)]).2 = true ∧
    (∀ x ∈ [(0x203, true, true), (0x83, false, true), (3, false, false)], ((hostReads x.1).pageOf (hostVa (hostReads x.1) 0x1000)).map
      (fun pg => (pg.tier == 2, pg.tier == 2 || pg.hostBias)) = some (x.2.1, x.2.2)) := by decide +kernel

theorem meets_HostAccesses : (base.homedHere (hostVa base 0x1000) = true ∧ base.hostHeld = []) ∧
    ((hosting 0).hostHeld = [⟨7, 0x1000, true, [1, 2, 3, 4], 0⟩] ∧ ((hosting 0).pageOf (hostVa (hosting 0) 0x1000)).map (·.tier) = some 2 ∧
      (hosting 0).tickets = [] ∧ (hosting 0).homeCheck 4 (hostVa (hosting 0) 0x1000) true false none true = 0) ∧
    ((hosting 0).now = 0 + 2 ^ 20 ∧ (hosting 1).now < 1 + 2 ^ 20) ∧
    (let s : State := { base with pr := { base.pr with hfltq := 0x1004 }, faultHeld := [[1, 2]] }
     s.pr.hfltq ≠ 0 ∧ s.faultHeld = [[1, 2]] ∧ (s.appendRing s.pr.hfltq 32 (wordBytes [1, 2])).isSome = true) := by decide +kernel

theorem meets_SharesSetPortFill : Kv.get? base.cores 0 = some (base.coreAt 0) ∧ base.activeFunctions = [] ∧
    ({ base with share := { base.share with active := [0] } } : State).activeFunctions = [0] := by decide +kernel

/-- The block is a twin block. -/
def twin (s : State := base) : State := withB (fun b => { b with pair := true }) s

/-- The gang owns the engine in a mode. -/
def owning (pair : Bool) (s : State := base) : State := withC (fun c => { c with owner := some ⟨0, 0, pair, 0, false⟩ }) s

/-- The gang waits for an engine. -/
def wanting : State := withC (fun c => { c with mxq := [⟨0, 0, false, 3⟩] })
  (withG fun g => { g with quads := g.quads.map fun q => { q with park := .mxacq } })

theorem meets_EngineOwnership :
    (canRun guarded (.mxacq 3 true) = true ∧ (party guarded).once = false ∧ canRun guarded .mxrel = true) ∧
    (canRun base (.mxacq 3 true) = true ∧ (party base).once = true ∧ blockIs base (fun b => !b.pair) = true ∧ canRun base .mxrel = true) ∧
    (canRun (owning true twin) (.mxacq 0 true) = true ∧ blockIs (owning true twin) (·.pair) = true ∧
      (owning true twin).owns 0 0 = some ⟨0, 0, true, 0, false⟩ ∧ (owning false).owns 0 0 = some ⟨0, 0, false, 0, false⟩) ∧
    (base.owns 0 0 = none ∧ base.mxRequest 0 0 = none) ∧
    ((wanting.coreAt 0).owner = none ∧ (wanting.coreAt 1).owner = none ∧ (wanting.coreAt 0).mxq = [⟨0, 0, false, 3⟩] ∧ (wanting.coreAt 1).mxq = [] ∧
      (theGang wanting).trap = none ∧ ((theGang wanting).quad 7).park = .mxacq) := by decide +kernel

/-- An INT8 format block in scratch at 64, with A at 128 and one B gang in each quarter; s0 is its address and s1 the tile gate. -/
def matrix (gv : Word) : State :=
  let s := withB (fun b => { b with scrSize := 32768, scr := [(64, 8), (65, 8), (66, 2), (72, 128), (77, 1), (78, 2), (79, 3)] })
    (owning false (withS [(0, 64), (1, gv)]))
  s.modCore 0 fun c => { c with gangs := c.gangs ++ [(16, { theGang s with number := 1 }), (32, { theGang s with number := 2 }), (48, { theGang s with number := 3 })] }

/-- The words of that format block. -/
def formatBlock : List Word := [0x20808, 0, 128, 0x03020100, 0, 0, 0, 0, 0, 0, 0, 0, 0, 0, 0, 0]

theorem meets_MmaIsAccepted : canRun (withS [(0, 64)]) (.mma 0x62 0x60 0x61) = true ∧ (withS [(0, 64)]).owns 0 0 = none ∧
    ∀ gv ∈ [3, 2 ^ 31], canRun (matrix (word gv)) (.mma 0x62 0x60 0x61) = true ∧ (party (matrix (word gv))).once = true ∧
      (matrix (word gv)).owns 0 0 = some ⟨0, 0, false, 0, false⟩ ∧
      blockIs (matrix (word gv)) (fun b => decide (recordWords b 0 64 = formatBlock ∧ 64 + 64 ≤ b.scrSize ∧ 16 * b.ngates ≤ 64 ∧
        mxFmt (matrix (word gv)) b 0 formatBlock = none ∧ (2 ^ 31 ≤ gv ∨ fld (party (matrix (word gv))).g.role.toNat 11 4 + gv < b.ngates))) = true ∧
      (fbW formatBlock 0).testBit 19 = false ∧ readHeld (matrix (word gv)) (party (matrix (word gv))) = false ∧
      ((matrix (word gv)).mmasOn 0).length < 4 := by decide +kernel

/-- An accepted MMA of that format block in a phase, with tile gate 3. -/
def mma (phase : Nat) : Mma :=
  ⟨9, 0, 0, formatBlock, some 3, [(0, 0, 64), (16, 0, 64), (32, 0, 64), (48, 0, 64)], [], 5000, false, phase, 4976, 1, ([], []), [], [], none⟩

/-- The core's engine has it. -/
def engine (phase : Nat) : State := withC (fun c => { c with mmas := [mma phase] }) (matrix 3)

theorem meets_MmaRunsAndRetires : ∀ k ∈ [0, 1, 2], (engine k).mmaAt 0 9 = some (mma k) ∧ (mma k).phase = k ∧ (mma k).ready ≤ (engine k).now ∧
    ((engine k).coreAt 0).mmas.takeWhile (·.ticket.toNat != 9) = [] ∧ (mma k).rels = [] ∧ (mma k).fin + 24 ≤ (engine k).now ∧ (mma k).passes = 1 ∧
    fbPair (mma k) = false ∧ blockIs (engine k) (fun b => !b.pair) = true := by decide +kernel

theorem meets_IntegerChunksAccumulate : (mxClass 0x08).isSome = true := by decide +kernel

/-- s0 is a tile descriptor and s1 a scratch offset. -/
def tiling (t sa : Nat) : State := withB (fun b => { b with scrSize := 131072 }) (withS [(0, word t), (1, word sa)])

theorem meets_AccumulatorMoves :
    (tdBad 0x11 = true ∧ tdBad 0x2000 = true ∧ ∀ i ∈ ([.accz 0x60, .accld 0x61 0x60, .accst 0x61 0x60] : List Instr), canRun (tiling 0x2000 0) i = true) ∧
    (∀ t ∈ [0, 0xF, 0x1E], tdBad t = false ∧ (tiling t 128).tileBusy 0 t = false ∧ canRun (tiling t 128) (.accz 0x60) = true ∧
      canRun (tiling t 128) (.accld 0x61 0x60) = true ∧ canRun (tiling t 128) (.accst 0x61 0x60) = true ∧
      blockIs (tiling t 128) (fun b => decide (128 % 128 = 0 ∧ 128 + 4 * (tileSpan t).2 ≤ b.scrSize ∧ 16 * b.ngates ≤ 128)) = true ∧
      readHeld (tiling t 128) (party (tiling t 128)) = false) ∧
    (canRun (tiling 0x1FEF 0) (.accrd 4 0x60) = true ∧ canRun (tiling 0x1FEF 0) (.accwr 4 0x60) = true ∧ Nat.testBit 0x1FEF 4 = false ∧
      ((tiling 0x1FEF 0).coreAt 0).accBad = [] ∧ (party (tiling 0 0)).once = true) := by decide +kernel

theorem meets_EngineOwnership_otherMode : let s := twin (withC fun c => { c with mxq := [⟨0, 0, false, 3⟩] })
    canRun s (.mxacq 3 true) = true ∧ s.owns 0 0 = none ∧ s.mxRequest 0 0 = some ⟨0, 0, false, 3⟩ ∧ blockIs s (·.pair) = true := by decide +kernel

theorem meets_AccumulatorMoves_wide : ∀ d ∈ ([4, 95 - 1] : List Reg), canRun (tiling 0x10 0) (.accrd d 0x60) = true ∧
    canRun (tiling 0x10 0) (.accwr d 0x60) = true ∧ Nat.testBit 0x10 4 = true ∧
    (tiling 0x10 0).pairHeld (party (tiling 0x10 0)) d true = false ∧ (tiling 0x10 0).pairHeld (party (tiling 0x10 0)) d false = false ∧
    preTrapWith 5000 (party (tiling 0x10 0)) (.accrd d 0x60) (rowOpnds (.accrd d 0x60) true) (pairCauses d) [] = none ∧
    preTrapWith 5000 (party (tiling 0x10 0)) (.accwr d 0x60) (rowOpnds (.accwr d 0x60) true) (pairCauses d) [] = none := by decide +kernel

/-- A transfer into tile 0 whose party waits. -/
def moving : State := withC (fun c => { c with moves := [⟨0, 0, 0, false, 0, 0, 32768, 128, 0, 5000, 0⟩] })
  (withG fun g => { g with quads := g.quads.map fun q => { q with park := .hold false } })

theorem meets_AccTransfersComplete : (moving.coreAt 0).moves = [⟨0, 0, 0, false, 0, 0, 32768, 128, 0, 5000, 0⟩] ∧ (32768 : Nat) ≠ 0 ∧
    (theGang moving).context = 0 ∧ 0 ∈ (theGang moving).members 0 ∧ ((theGang moving).quad 0).park = .hold false ∧ 8191 < 32768 / 4 := by decide +kernel

/-- s0 is a column descriptor, s1 a scratch offset, s2 a number of columns. -/
def scaling (n : Word) : State := withS [(0, 0xFFF), (1, 64), (2, n)]

theorem meets_MatrixWaitsRolesAndScales :
    (canRun base .mxwait = true ∧ (base.coreAt 0).mmas = [] ∧ (base.coreAt 0).moves = [] ∧ canRun (engine 1) .mxwait = true ∧
      (party (engine 1)).once = true ∧ mma 1 ∈ ((engine 1).coreAt 0).mmas) ∧
    (canRun base (.role 255 3) = true ∧ canRun guarded (.role 255 3) = true) ∧
    ∀ n ∈ [0, 1], canRun (scaling (word n)) (.scld 0x60 0x61 0x62) = true ∧ (party (scaling (word n))).once = true ∧
      blockIs (scaling (word n)) (fun b => (scldArg b 0xFFF 64 n).isNone) = true ∧ (scldColumns 0xFFF 64 n = [] ↔ n = 0) ∧
      (scaling (word n)).mmasOn 0 = [] := by decide +kernel

/-- A tree of 64 nodes under one root. -/
def fullTree : Tree := (List.range 63).foldl (fun t k => t.addNode k) (Tree.addNode ⟨100, []⟩ (2 ^ 31))

/-- The core holds a tree; lane l's v4 names node n. -/
def treeWith (t : Tree) (n : Nat) : State :=
  withC (fun c => { c with trees := [t, {}, {}, {}] }) (withG fun g => { g with vregs := (List.range 32).map fun l => (128 + l, word n) })

theorem meets_TreeReads : (∀ i ∈ ([.ttanc 6 4, .ttpos 6 4, .ttpar 6 4, .ttgtok 6 4, .ttgsc 6 4] : List Instr), (treeReadOf i).isSome = true ∧
      canRun (treeWith fullTree 63) i = true ∧ canRun (treeWith fullTree 64) i = true) ∧
    (lanesOf (party (treeWith fullTree 64)).writing).find?
      (fun l => decide (((treeWith fullTree 64).treeOf (party (treeWith fullTree 64))).nodes.length ≤
        (treeWith fullTree 64).regValue (party (treeWith fullTree 64)) 4 1 l)) = some 0 ∧
    (∀ l ∈ lanesOf (party (treeWith fullTree 63)).writing,
      (treeWith fullTree 63).regValue (party (treeWith fullTree 63)) 4 1 l < ((treeWith fullTree 63).treeOf (party (treeWith fullTree 63))).nodes.length) ∧
    (canRun base (.ttcnt 4) = true ∧ canRun guarded (.ttcnt 4) = true) := by decide +kernel

theorem meets_TreeWrites : canRun (withS [(0, 100)]) (.ttinit 0x60) = true ∧ (fullTree.nodes[63]?).isSome = true ∧
    (canRun (treeWith fullTree 63) (.ttadd 6 4) = true ∧ 64 < fullTree.nodes.length + (lanesOf (party (treeWith fullTree 63)).writing).length) ∧
    (canRun (treeWith { base := 1, nodes := fullTree.nodes.take 32 } 31) (.ttadd 6 4) = true ∧
      (fullTree.nodes.take 32).length + (lanesOf (party (treeWith {} 31)).writing).length ≤ 64 ∧ kindOf 6 = .v ∧
      (party (treeWith {} 31)).helping = 0) ∧
    (∀ i ∈ ([.ttstok 6 4, .ttssc 6 4] : List Instr), canRun (treeWith fullTree 0x13F) i = true) ∧
    (∀ l ∈ lanesOf (party (treeWith fullTree 0x13F)).writing,
      fld ((treeWith fullTree 0x13F).regValue (party (treeWith fullTree 0x13F)) 4 1 l) 7 6 = 0 ∧
      fld ((treeWith fullTree 0x13F).regValue (party (treeWith fullTree 0x13F)) 4 1 l) 31 10 = 0 ∧
      (treeWith fullTree 0x13F).regValue (party (treeWith fullTree 0x13F)) 4 1 l % 64 < fullTree.nodes.length) ∧
    (let s := withS [(0, 63)] (treeWith fullTree 0)
     canRun s (.ttprune 5 0x60) = true ∧ (party s).once = true ∧ s.uniform (party s) 0x60 1 < (s.treeOf (party s)).nodes.length) := by
  decide +kernel

/-- s0:s1 is a bell address. -/
def belling (va : Nat) : State := addrAt va

theorem meets_RingsAreSent : (canRun (belling 0x1000) (.ring 0x64 0x60 0x62) = true ∧ sheetOf 0x1000 ≠ 0xFFE) ∧
    (canRun (belling (0xFFE * 2 ^ 52 + 63 * 2 ^ 18)) (.ring 0x64 0x60 0x62) = true ∧ sheetOf (0xFFE * 2 ^ 52 + 63 * 2 ^ 18) = 0xFFE ∧
      fld (0xFFE * 2 ^ 52 + 63 * 2 ^ 18) 17 0 = 0 ∧ fld (0xFFE * 2 ^ 52 + 63 * 2 ^ 18) 51 32 = base.pr.devnum.toNat ∧
      (base.coreAt 0).relsOf 0 0 = []) := by decide +kernel

/-- A ring of line 63 of a domain; its status goes to s4. -/
def aRing (cls domain : Nat) : Ring := ⟨cls, 1, 0, domain, 63, 5, some (0, 0, 1), 9⟩

/-- RING's result is outstanding; line 63 wakes. -/
def ringing (wake : Bool) : State :=
  let s := withG fun g => { g with pend := [⟨1, 0, [0x64], false, .bell⟩] }
  { s with boards := [(0, { lines := [(63, { wake := wake })] })], domains := Kv.put s.domains 0 { s.domainAt 0 with board := 1 } }

theorem meets_RingsAreApplied :
    (∀ w ∈ [false, true], ringBefore (ringing w) (aRing 0 0) = false ∧ (ringing w).ringStatus (aRing 0 0) = 0 ∧
      ((ringing w).pendAt 0 0 1).isSome = true ∧ (ringing w).handlerOf 0 = none ∧ (ringing w).pr.wakeq = 0) ∧
    ((ringing false).ringStatus (aRing 1 0) ≠ 0 ∧ (ringing false).hasBoard 0 = true ∧ (ringing false).rights = [] ∧
      (ringing false).hasBoard 200 = false) ∧
    (let s : State := { base with pr := { base.pr with wakeq := 0x1004 }, wakeHeld := [[1, 2]] }
     s.pr.wakeq ≠ 0 ∧ s.wakeHeld = [[1, 2]] ∧ (s.appendRing s.pr.wakeq 32 (wordBytes (wakeRecord 1 0 ((s.boardAt 1).line 0) s.now))).isSome = true) := by decide +kernel

theorem meets_BellSubopsActOnTheBoard : (base.blocks.any fun b => b.resident && b.domain == 0) = true ∧ (party base).g.pend = [] ∧ (party base).once = true ∧
    (∀ i ∈ ([.bmask 0x64 0x60, .bpend 0x64, .btake 0x64 0x60, .bhpc 0x60, .bself 0x60] : List Instr),
      canRun (withS []) i = true ∧ canRun (withS [(0, 1)]) i = true ∧ canRun (withS [(0, 64)]) i = true ∧ canRun (withS [(0, 63)]) i = true) := by
  decide +kernel

/-- The gang is the handler gang, with a handler PC, and line 3 is pending and not masked. -/
def deliverable (s : State) : State := { s with boards := [(0, { pend := 8, mask := 8, hpc := 0x105, hgang := 0x80000000#32 })] }

theorem meets_BellsAreDelivered :
    (∀ s ∈ [base, landing], (deliverable s).handlerOf 0 = some (0, 0) ∧ ((deliverable s).boardAt 0).pend &&& ((deliverable s).boardAt 0).mask ≠ 0 ∧
      ((deliverable s).boardAt 0).hpc.getLsbD 0 = true ∧ bellMay (deliverable s) 0 (theGang (deliverable s)) = true ∧
      badPc (((deliverable s).boardAt 0).hpc &&& ~~~ 3#64) = false) ∧
    ((theGang (deliverable base)).quiet = true ∧ (theGang (deliverable landing)).quiet = false) ∧
    (canRun base .bret = true ∧ (party base).g.bellHeld = none) ∧
    (let s := withG fun g => { g with bellHeld := some g.quads, bs := ⟨0x104, 0, 0, 0⟩ }
     canRun s .bret = true ∧ (party s).g.bellHeld.isSome = true ∧ (party s).g.super = false ∧ badPc (party s).g.bs.pc = false) ∧
    canRun base .waitb = true ∧
    (∀ d ∈ [true, false],
      let s := withG fun g => { g with quads := g.quads.map fun q => { q with park := .waitb d } }
      ((theGang s).quad 0).park = .waitb d ∧ (theGang s).trap = none ∧ (theGang s).bellHeld = none ∧ (s.boardAt 0).pend &&& (s.boardAt 0).mask = 0) := by
  decide +kernel

/-- A route reaches device 5; a release of the gang is not complete. -/
def routed : State :=
  let s := withC (fun c => { c with rels := [release 3 []] }) (belling (0xFFE * 2 ^ 52 + 5 * 2 ^ 32 + 63 * 2 ^ 18))
  { s with pr := { s.pr with routes := [(5, 0)] } }

theorem meets_RingsAreSent_remote : canRun routed (.ring 0x64 0x60 0x62) = true ∧ (party routed).once = true ∧
    fld (0xFFE * 2 ^ 52 + 5 * 2 ^ 32 + 63 * 2 ^ 18) 51 32 = 5 ∧ (5 : Nat) ≠ routed.pr.devnum.toNat ∧ Kv.get? routed.pr.routes 5 = some 0 ∧
    (routed.coreAt 0).relsOf 0 0 ≠ [] := by decide +kernel

theorem meets_RingsAreSent_noRoute : Kv.get? ({ routed with pr := { routed.pr with routes := [] } } : State).pr.routes 5 = none ∧
    canRun { routed with pr := { routed.pr with routes := [] } } (.ring 0x64 0x60 0x62) = true ∧
    ({ base with pr := { base.pr with ready := 0x40000 } } : State).hostReady = true ∧ base.hostReady = false ∧
    (aRing 2 0).back ≠ none ∧ ({ aRing 2 0 with back := none } : Ring).cls = 2 := by decide +kernel

/-- A RING of the gang has not returned. -/
def ringOut : State := withG fun g => { g with pend := [⟨1, 0, [0x6A], false, .bell⟩] }

theorem meets_BellSubopsActOnTheBoard_waits : (∀ i ∈ ([.bmask 0x64 0x60, .bpend 0x64, .btake 0x64 0x60, .bhpc 0x60, .bself 0x60] : List Instr),
      canRun ringOut i = true ∧ canRun guarded i = true) ∧ (party ringOut).once = true ∧ (∃ x ∈ (party ringOut).g.pend, x.body = .bell) ∧
    (party guarded).once = false := by decide +kernel

theorem meets_BellsAreDelivered_inHandler :
    let s : State := { (withG fun g => { g with bellHeld := some g.quads, quads := g.quads.map fun q => { q with park := .waitb false } }) with
      boards := [(0, { pend := 8, mask := 8, hpc := 0x105 })] }
    ((theGang s).quad 0).park = .waitb false ∧ (theGang s).trap = none ∧ (s.coreAt 0).halted = false ∧ s.handlerOf 0 ≠ some (0, 0) ∧
      (s.boardAt 0).pend &&& (s.boardAt 0).mask ≠ 0 := by decide +kernel

/-- The gang's place is that of a saved handler gang, or of the resident one. -/
def handlerAt (res : Bool) : State := { withS [(0, 0)] with boards := [(0, { hgang := 0x80000000#32, hres := res })] }

theorem meets_BellSubopsActOnTheBoard_self : ∀ res ∈ [true, false], canRun (handlerAt res) (.bself 0x60) = true ∧ (party (handlerAt res)).once = true ∧
    ((handlerAt res).boardAt 0).hgang = word (2 ^ 31) ∧ ((handlerAt res).boardAt 0).hres = res := by decide +kernel

theorem meets_BellsAreDelivered_halted : let s := halted (withG fun g => { g with quads := g.quads.map fun q => { q with park := .waitb true } })
    ((theGang s).quad 0).park = .waitb true ∧ (s.coreAt 0).halted = true ∧ ∃ b, s.blockAt (theGang s).blk = some b := by
  refine ⟨?_, ?_, ⟨_, rfl⟩⟩ <;> decide +kernel

/-- Function 0 has sequences 0 and 1, whose descriptors stand at VA 0x2000 with tables at 0x3000 and 0x3100 of 4 entries and lengths 100 and
m; tier 0's pool has the free blocks 9, 8, 7 and the blocks are of 64 KiB; the first entry of table 0 names block 5. -/
def cache (m : Nat) (s : State := base) : State :=
  let f : Func := { kvmode := 0x80000000#32, stab := 0x2000, scnt := 2, res := 0x5004, q := [(0, 4)], b := [(0, 4)], u := [(0, 1)] }
  let pool : Pool := { reg := 0, stk := 0x4000, free := 3, low := 0 }
  let s : State := { s with funcs := Kv.put s.funcs 0 f, pools := s.pools.set 0 pool }
  [(0x2000, 0x3000), (0x2008, 100 + 4 * 2 ^ 32), (0x2040, 0x3100), (0x2048, m + 4 * 2 ^ 32), (0x3000, 5 + 2 ^ 34),
    (0x4000, 7 + 8 * 2 ^ 32), (0x4008, 9)].foldl (fun s (x : Nat × Nat) => s.devWrite64 x.1 x.2) s

/-- s0 names a sequence, s2:s3 is a KVSEQ command. -/
def sequencing (n c : Nat) : State := cache 0 (withS [(0, word n), (2, word c), (3, 64)])

/-- The gang's current sequence is set. -/
def current (s : State) : State := withG (fun g => { g with kv := { g.kv with curh := 0x80000001#32 } }) s

theorem meets_KvSubopsReachTheAllocator : (functionAt base (party base)).kvValid = false ∧ (functionAt (cache 0) (party (cache 0))).kvValid = true ∧
    (party base).once = true ∧ (party (cache 0)).once = true ∧
    canRun base (.kvx 4 6) = true ∧ (∀ i ∈ ([.kvapp 0x64 0x60, .kvtrim 0x64 0x60, .kvpark 0x60, .kvseq 0x62 0x60] : List Instr), canRun base i = true) ∧
    (∀ x ∈ [(2, 0), (1, 0), (1, 0xFFFF), (0, 2 ^ 30 + 1), (0, 2 ^ 31), (0, 0x10000), (0, 2 ^ 31 + 1), (0, 2 ^ 32 - 1)],
      ∀ i ∈ ([.kvapp 0x64 0x60, .kvtrim 0x64 0x60, .kvseq 0x62 0x60] : List Instr), canRun (sequencing x.1 x.2) i = true ∧
        (sequencing x.1 x.2).uniform (party (sequencing x.1 x.2)) 0x60 1 = x.1) ∧
    (functionAt (cache 0) (party (cache 0))).scnt = 2 ∧
    (canRun (cache 0) (.kvx 4 6) = true ∧ (functionAt (cache 0) (party (cache 0))).kvmode.getLsbD 0 = false ∧
      ∀ l ∈ lanesOf (party (cache 0)).writing, (cache 0).regValue (party (cache 0)) 6 2 l % 2 ^ 32 < 2) ∧
    (∀ s ∈ [cache 0, current (cache 0)], canRun s (.kvpark 0x60) = true) ∧ (party (cache 0)).g.kv.curh.getLsbD 31 = false ∧
    (party (current (cache 0))).g.kv.curh.getLsbD 31 = true := by
  decide +kernel

/-- The allocator's queue holds one request of the party for sequence n; its result is outstanding. -/
def asked (op n dv dv1 : Nat) (s : State) (body : PendBody := .kv) : State :=
  let r : KvReq := ⟨0, 0, 0, 0, 1, 0, op, 0x64, word n, word dv, word dv1, false, []⟩
  withG (fun g => { g with pend := [⟨1, 0, [0x64], false, body⟩] }) { s with kvq := [r] }

/-- What an entry's lane of a KVX asks: position 5 and 99 of sequence 0. -/
def probing : PendBody := .kvx 4 false 0 [⟨0, 5, false, none, none⟩, ⟨1, 99, false, none, none⟩, ⟨2, 0, true, some [], none⟩]

/-- A function at its limit, and a table without room for the length. -/
def limited : State := { cache 0 with funcs := Kv.put (cache 0).funcs 0 { (cache 0).funcAt 0 with b := [(0, 1)] } }

theorem meets_KvAllocatorPerforms :
    (∀ op ∈ [0, 1, 2, 3, 4], let s := asked op 0 100 0 (cache 0); s.kvq.length = 1 ∧ (s.pendAt 0 0 1).isSome = true) ∧
    ((asked 0 0 0 0 (cache 0) probing).pendAt 0 0 1 = some ⟨1, 0, [0x64], false, probing⟩ ∧
      (let S := (asked 0 0 0 0 (cache 0) probing).bump; let q := S.kvDesc 0 0
       q.bad = false ∧ 5 < q.len ∧ (S.kvEntry q 0).testBit 34 = true ∧ 99 < q.len ∧ (S.kvEntry q 1).testBit 34 = false)) ∧
    ((asked 1 5 100 0 (cache 0)).bump.kvDesc 0 5).bad = true ∧
    (let S := (asked 1 0 100 0 (cache 0)).bump; let d := S.kvDesc 0 0; d.bad = false ∧ d.len = 100 ∧ d.tbln = 4 ∧ d.tier = 0 ∧
      d.tbln < (257 + 63) / 64) ∧
    (let S := (asked 1 0 129 0 limited).bump; (S.funcAt 0).limit 0 < (S.funcAt 0).used 0 + 1) ∧
    (let S := (asked 1 0 256 0 (cache 0)).bump; (S.funcAt 0).used 0 + 2 ≤ (S.funcAt 0).limit 0 ∧ 2 ≤ (S.poolAt 0).free.toNat ∧
      0 < (asked 1 0 256 0 (cache 0)).pools.length ∧ S.kvTop 0 2 = [9, 8] ∧ S.kvForeign 0 0 9 = [] ∧ S.kvForeign 0 0 8 = []) ∧
    ((asked 3 0 0 0 (cache 0)).gangAt 0 0).isSome = true ∧
    (let S := (asked 4 1 0 64 (cache 0)).bump; let src := S.kvDesc 0 0; let d := S.kvDesc 0 1
     src.bad = false ∧ d.bad = false ∧ src.len < 128 ∧ (64 ≤ src.len ∧ 64 / 64 ≤ d.tbln ∧ ∀ i < 1, (S.kvEntry d i).testBit 34 = false)) := by
  decide +kernel

/-- A resume record waits; the ring of function 0 has its head at n. -/
def resuming (n : Nat) : State := ({ cache 0 with kvWait := [⟨0, [0, 1, 64, 9, 0, 1, 0, 0], 0, 0, 0, some 0⟩] } : State).devWrite32 0x5004 n

/-- No record waits. -/
def noWait (s : State) : State := { s with kvWait := [] }

/-- A stall-mode KVX of the gang, with one probe parked. -/
def stalled : State :=
  let x : Pend := ⟨1, 0, [], false, .kvx 4 true 0 [⟨31, 0x107C, false, none, none⟩]⟩
  withC (fun c => { c with missBuf := [⟨⟨0, 0x1000, false, false, .core 0 (.pend 0 1), [], 0⟩, 9000⟩] }) (withG (fun g => { g with pend := [x] }) base)

theorem meets_KvWaitsEnd :
    ((resuming 0).kvWait = [⟨0, [0, 1, 64, 9, 0, 1, 0, 0], 0, 0, 0, some 0⟩] ∧ ((resuming 0).gangAt 0 0).map (·.blk) = some 0 ∧
      ((noWait (resuming 0)).appendRing ((resuming 0).funcAt 0).res 32 (wordBytes [0, 1, 64, 9, 0, 1, 0, 0])).isSome = true ∧
      ((noWait (resuming (2 ^ 32 - 16))).appendRing ((resuming 0).funcAt 0).res 32 (wordBytes [0, 1, 64, 9, 0, 1, 0, 0])).isSome = false) ∧
    (stalled.pendAt 0 0 1 = some ⟨1, 0, [], false, .kvx 4 true 0 [⟨31, 0x107C, false, none, none⟩]⟩ ∧ (theGang stalled).trap = none ∧
      (stalled.coreAt 0).missBuf = [⟨⟨0, 0x1000, false, false, .core 0 (.pend 0 1), [], 0⟩, 9000⟩] ∧ 0x1000 / 4096 = 0x107C / 4096) := by
  decide +kernel

/-- Stall mode is on, with a time-out of 3. -/
def stallMode : State := { cache 0 with funcs := Kv.put (cache 0).funcs 0 { (cache 0).funcAt 0 with kvmode := 0x80000007#32 } }

theorem meets_KvSubopsReachTheAllocator_stall : canRun stallMode (.kvx 4 6) = true ∧ (party stallMode).once = true ∧
    (functionAt stallMode (party stallMode)).kvValid = true ∧ (functionAt stallMode (party stallMode)).kvmode.getLsbD 0 = true ∧
    ∀ l ∈ lanesOf (party stallMode).writing, stallMode.regValue (party stallMode) 6 2 l % 2 ^ 32 < 2 := by decide +kernel

/-- s0 is the selector and s2 the value of a SYS sub-op. -/
def selecting (sel val : Nat) (s : State := base) : State := sup (withS [(0, word sel), (2, word val)] s)

/-- The core is a virtual function's. -/
def virtual (s : State) : State := withC (fun c => { c with function := 1 }) s

/-- Every SYS sub-op but PREQ. -/
def sysOps : List Instr :=
  [.keyw 0x62 0x60, .wingr 0x62 0x60, .waym 0x62 0x60, .klass 0x62 0x60, .split 0x62 0x60, .jrnl 0x62 0x60, .freeze 0x62 0x60]

/-- The journal has records up to 5. -/
def journalled (s : State) : State := { s with pr := { s.pr with jrnltail := 5 } }

theorem meets_SysSubopsTakeEffect :
    (∀ x ∈ [(255, 3), (256, 0), (0, 4), (3, 0x200), (4, 0), (0, 1), (0, 0x80003E00), (15, 0x100FFFF), (16, 0), (0, 0x2000000), (0, 0xFFFF), (64, 15),
        (65, 0), (0, 1024), (64, 1024), (0, 5), (0, 6), (0x3FFF, 1)],
      (party (selecting x.1 x.2)).once = true ∧ (selecting x.1 x.2).uniform (party (selecting x.1 x.2)) 0x60 1 = x.1 ∧
      (selecting x.1 x.2).uniform (party (selecting x.1 x.2)) 0x62 1 = x.2 ∧
      (sysOps.all fun i => canRun (selecting x.1 x.2) i && canRun (virtual (selecting x.1 x.2)) i && canRun (journalled (selecting x.1 x.2)) i) = true) ∧
    (base.coreAt 0).function = 0 ∧ ((virtual base).coreAt 0).function ≠ 0 ∧ ((virtual base).coreAt 511).domain = ((virtual base).coreAt 0).domain ∧
    (((virtual base).modCore 3 fun c => { c with domain := 5 }).coreAt 3).domain ≠ ((virtual base).coreAt 0).domain ∧
    (fld 0x80003E00 12 9 = 15 ∧ fld 0x80003E00 16 13 = 1 ∧ fld 0x200 12 9 = 1) ∧
    ((cache 0).funcs.filter (·.1 != 1)).map (·.2.share) ≠ [] ∧
    ((journalled base).pr.jrnltail - (journalled base).pr.jrnlack).toNat = 5 := by decide +kernel

theorem meets_SysSubopsComplete : ∀ e ∈ ([.mask 15 0xFF 1024, .ofFunction 64 15, .rights 0 255 3, .grant 0 3 0x80000000] : List TableEntry), ∀ b ∈ [true, false],
    let s := withG fun g => { g with quads := g.quads.map fun q => { q with park := .hold true } }
    let s : State := { s with tables := [⟨0, 0, 0, 0, b, e⟩] }
    s.tables.find? (TableChange.by 0 0 0) = some ⟨0, 0, 0, 0, b, e⟩ ∧ s.gangAt 0 0 = some (theGang s) ∧ (theGang s).blk = 0 ∧
      s.tables.find? (TableChange.by 0 0 1) = none := by
  decide +kernel

/-- The launch of the block is known. -/
def launched (s : State) : State :=
  { s with launches := [⟨0, 0, 0, 0, 0, false, [], 2, 0, 0, 0, 0, 0, 0, 0, 0, 1, false, none, false, [], false, 0, [], 0, 0, none⟩] }

/-- The gang's pre-emption state. -/
def saving (p : Pre) (s : State) : State := withG (fun g => { g with pre := p }) s

theorem meets_PreqActs :
    (∀ sel ∈ [0, 1, 2, 3, 4, 5, 6, 7], ∀ p ∈ ([{}, { saving := 1 }, { saving := 1, leader := true }, { saving := 1, leader := true, waitsaved := true },
        { restoring := true }, { restoring := true, leader := true }, { restoring := true, restored := true }] : List Pre),
      ∀ f ∈ [id, virtual], let s := f (saving p (launched (selecting sel 0)))
        (party s).once = true ∧ canRun s (.preqHold 0x62 0x60) = true ∧ s.uniform (party s) 0x60 1 = sel ∧ s.uniform (party s) 0x62 1 = 0) ∧
    ((party (saving {} (selecting 1 0))).g.inSave = false ∧ (party (saving { saving := 1 } (selecting 1 0))).g.inSave = true ∧
      (party (saving { restoring := true } (selecting 3 0))).g.inRestore = true ∧ (party (saving {} (selecting 3 0))).g.inRestore = false) ∧
    ((launched base).launches.find? (·.idx == 9) = none ∧ canRun (launched (selecting 0 9)) (.preqHold 0x62 0x60) = true ∧ ((launched base).launches.find? (·.idx == 0)).map (·.domain) = some 0 ∧
      ((virtual (withC (fun c => { c with domain := 5 }) base)).coreAt 0).domain ≠ 0 ∧
      canRun (virtual (withC (fun c => { c with domain := 5 }) (launched (selecting 0 0)))) (.preqHold 0x62 0x60) = true) ∧
    (superCopies base 0 0 0 = false ∧ (base.blockOf (party base)).isSome = true) := by decide +kernel

/-- The gang takes a trap; the trap vector is v. -/
def trapping (v : Addr) (s : State) : State :=
  let s := withG (fun g => { g with trap := some ⟨0x20, 5, 0x104, 0, none⟩ }) s
  { s with domains := Kv.put s.domains 0 { s.domainAt 0 with trapvec := v } }

theorem meets_TrapsEnterTheHandler :
    (∀ v ∈ [0, 0x105, 0x104], ∀ s ∈ [base, landing, sup base], let t := trapping (addr64 v) s
      t.gangAt 0 0 = some (theGang t) ∧ (t.blockAt (theGang t).blk).isSome = true ∧ (theGang t).rolling = none ∧ (theGang t).redo = false ∧
        (theGang t).trap = some ⟨0x20, 5, 0x104, 0, none⟩) ∧
    ((theGang (trapping 0 base)).quiet = true ∧ (theGang (trapping 0 landing)).quiet = false ∧ (theGang (trapping 0 (sup base))).super = true) ∧
    ((trapping 0x105 base).domainAt 0).trapvec.getLsbD 0 = true ∧ badPc (0x105#64 &&& ~~~ 3#64) = false ∧
    ((launched base).blockAt 0).map (·.launch) = some 0 ∧ ((launched base).launches.find? (·.idx == 0)).isSome = true := by decide +kernel

theorem meets_PreqActs_restored : let s := (saving { restoring := true, leader := true } (selecting 3 0)).modCore 0 fun c =>
      { c with gangs := c.gangs ++ [(4, { base.gangAt 0 0 |>.getD {} with pre := { restoring := true } })] }
    (s.gangAt 0 4).map (fun g => (g.blk, g.super)) = some (0, false) ∧ (s.gangAt 0 0).map (fun g => (g.blk, g.super)) = some (0, true) ∧
      (party s).g.inRestore = true ∧ superCopies s 0 0 0 = false ∧ canRun s (.preqHold 0x62 0x60) = true := by decide +kernel

/-- A PREEMPT waits behind a delayed trap. -/
theorem meets_TrapsEnterTheHandler_late : let s := withG (fun g => { g with trap := some ⟨0x08, 0, 0x104, 0, none⟩, late := [(⟨0x20, 5, 0, 0, none⟩, false)] })
    s.gangAt 0 0 = some (theGang s) ∧ (s.blockAt (theGang s).blk).isSome = true ∧ (theGang s).rolling = none ∧ (theGang s).redo = false ∧
      (theGang s).quiet = true ∧ (theGang s).super = false ∧ (theGang s).late ≠ [] := by decide +kernel

/-- An engine work of the gang in supervisor mode still copies. -/
def superCopying : State := withC (fun c => { c with works := [{ aWork with super := true }] }) (sup base)

/-- The gang's trap was at 0x104. -/
def handling : State := sup (withG fun g => { g with xr := { g.xr with xpc := 0x104 } })

theorem meets_EretLeavesTheHandler : canRun superCopying .eret = true ∧ superCopies superCopying 0 0 0 = true ∧
    (canRun handling .eret = true ∧ superCopies handling 0 0 0 = false ∧ (party handling).g.held.isSome = true ∧
      badPc (party handling).g.xr.xpc = false) := by decide +kernel

/-- The handler's gang has been restored, with a mark; a trap is held for it. -/
def restoredMarked : State := withG (fun g => { g with pre := { g.pre with restoring := true }, mark := some aMark, late := [(⟨0x20, 5, 0, 0, none⟩, false)] }) handling

theorem meets_EretLeavesTheHandler_restored : canRun restoredMarked .eret = true ∧ superCopies restoredMarked 0 0 0 = false ∧
    (party restoredMarked).g.held.isSome = true ∧ badPc (party restoredMarked).g.xr.xpc = false ∧ (party restoredMarked).g.pre.restoring = true ∧
    (party restoredMarked).g.mark ≠ none ∧ (party restoredMarked).g.late ≠ [] := by decide +kernel

/-- A gang with a delayed trap. -/
def delayed (bySuper : Bool) (s : State) : State := withG (fun g => { g with late := [(⟨0x20, 5, 0, 0, none⟩, bySuper)] }) s

theorem meets_BoundaryTraps :
    (∀ s ∈ [base, saving { pending := true } base, saving { pending := true } (sup base),
        saving { pending := true } (withG fun g => { g with quads := g.quads.map fun q => { q with park := .hold false } })],
      s.gangAt 0 0 = some (theGang s) ∧ (theGang s).rolling = none ∧ (theGang s).redo = false ∧ (theGang s).trap = none) ∧
    ((theGang (saving { pending := true } base)).pre.pending = true ∧ (theGang (saving { pending := true } base)).busyHold = false ∧
      (theGang (saving { pending := true } (withG fun g => { g with quads := g.quads.map fun q => { q with park := .hold false } }))).busyHold = true) ∧
    (∀ b ∈ [true, false], (theGang (delayed b base)).late.length = 1 ∧ (theGang (delayed b (sup base))).super = true ∧
      (theGang (delayed b base)).trap = none ∧ (theGang (delayed b base)).super = false) ∧
    (base.coreAt 0).sched.length = 4 := by decide +kernel

theorem meets_BoundaryTraps_restore :
    (theGang (saving { restoring := true } base)).awaitsRestore = true ∧ (theGang (saving { pending := true } base)).awaitsRestore = false ∧
    (theGang (withG fun g => { g with trap := some ⟨0x08, 0, 0x104, 0, none⟩, late := [(⟨0x20, 5, 0, 0, none⟩, false)] })).awaitsRestore = false := by
  decide +kernel

theorem meets_RollbacksRestoreTheMark_memory : (base.pageOf 0x1000).map (·.tier) = some 0 ∧ base.pageOf (2 ^ 40) = none := by decide +kernel

theorem meets_RollbacksRestoreTheMark :
    ∀ x ∈ [(none, none, false), (some aMark, some aMark, false), (some aMark, some aMark, true)],
      let s := withG fun g => { g with settled := x.1, mark := x.2.1, eccOnce := x.2.2 }
      (s.coreAt 0).gangs.map (·.1) = [0] ∧ quarterOf 0 = 0 % 4 ∧ (s.gangsOf 0).map (fun g => (g.1, g.2.1)) = [(0, 0)] ∧ (s.blockAt 0).isSome = true ∧
        (theGang s).inSave = false ∧ (theGang s).inRestore = false ∧ s.landed 0 0 0 = true ∧ (theGang s).settled = x.1 ∧ (theGang s).mark = x.2.1 ∧
        (theGang s).eccOnce = x.2.2 := by decide +kernel

/-- A launch with the given first words of its record. -/
def aLaunch (ws : List Word) : Launch := ⟨3, 0, 0, 0, 0, false, ws, 1, 0, 0, 0, 0, 0, 0, 0, 0, 0, true, none, false, [], false, 0, [], 0, 0, none⟩

/-- A core that another domain holds. -/
def held5 : Core := { leat := [entry 1 0 9 none false 5001 false], hosting := true, domain := 5 }

/-- The machine with these launches and no block, where only core 0 can take one. -/
def launching (ls : List Launch) : State :=
  let c : Core := { base.coreAt 0 with gangs := [] }
  { base with launches := ls, blocks := [], cores := (0, c) :: (List.range 15).map fun k => (k + 1, held5), domains := [(0, { restvec := 0x105 })] }

/-- The words of a launch of 2 blocks of one gang of 32 lanes, 8 registers and no scratch, entered at 0x100. -/
def words (span : Nat) : List Word := [1, word (0x200011 + 0x800 * span), 0, 2, 0x100, 0, 9]

/-- One record at the tail of a queue of die 0. -/
def queueing : State :=
  let s := (launching []).devWrite32 0x2000 1
  { s with queues := [⟨0, 0, 0x2000, 4, 0, 0, false, 0⟩], pr := { s.pr with jrnlq := 0x8003 } }

theorem meets_QueuesAreRead : queueing.queues = [⟨0, 0, 0x2000, 4, 0, 0, false, 0⟩] ∧ queueing.pr.ready.getLsbD 0 = true ∧ queueing.dev32 0x2000 = (0 + 1) % 2 ^ 32 ∧
    queueing.jrnlRoom = true ∧ queueing.liveLaunches 0 < 1024 ∧ (∀ l ∈ queueing.launches, l.idx ≠ queueing.pr.jrnltail.toNat) ∧
    badRecord (aLaunch (words 1)) = false ∧ badRecord (aLaunch []) = true := by decide +kernel

/-- A launch with a counter wait for the value 1 at an address. -/
def depending (va : Nat) : Launch := { aLaunch [0x101, 0, 0, 0, 0, 0, 0, 0, word va, word (va / 2 ^ 32), 1] with waitsHold := false }

theorem meets_DependencesAreTested :
    (∀ l ∈ [{ aLaunch (words 1) with waitsHold := false }, depending 0x1000, depending (2 ^ 52)], (launching [l]).launches = [l] ∧ l.state = 1 ∧
      l.waitsHold = false ∧ (l.w 0).testBit 9 = false) ∧
    ((aLaunch (words 1)).w 0).testBit 8 = false ∧ ((depending 0x1000).w 0).testBit 8 = true ∧
    (depending 0x1000).w 8 + (depending 0x1000).w 9 * 2 ^ 32 = 0x1000 ∧ (launching []).homedHere 0x1000 = true ∧
    ((launching []).deviceOf 0x1000).isSome = true ∧ (launching []).homeCheck 5 0x1000 false false none false = 0 ∧
    (launching []).deviceOf ((depending (2 ^ 52)).w 8 + (depending (2 ^ 52)).w 9 * 2 ^ 32) = none := by decide +kernel

/-- The last placement step of die 0 was at a clock; with `up` false no cluster is up. -/
def placing (t : Option Nat) (up : Bool) (l : Launch) : State :=
  let s := launching [l]
  { s with dist := s.dist.map fun d => { d with lastStep := t }, pr := { s.pr with clumap := if up then 1 else 0 } }

/-- The CRC register after n zero words. -/
def zeros (n : Nat) (c : Word) : Word := (List.replicate n 0).foldl crcWord c

/-- The register after every fifteenth zero word, of CRC-32C over 1,020 zero bytes. -/
def zeroSteps : List Word := [0xFFFFFFFF#32, 0xA5F4FACE#32, 0x09650E1C#32, 0xC84FD679#32, 0x56CC8D06#32, 0x9BAA88EF#32, 0x8C8375C1#32, 0x79E6005C#32, 0x006369BD#32, 0x1835B946#32, 0x9F029F0B#32, 0x01EA06FF#32, 0xA6BEA216#32, 0xBF5A5400#32, 0xB1FDFDFF#32, 0x51869449#32, 0xC011635A#32, 0x49BE321D#32]

theorem zeros_steps : ∀ k < 17, zeros 15 (zeroSteps.getD k 0) = zeroSteps.getD (k + 1) 0 := by decide +kernel

theorem zeros_all : ∀ n ≤ 17, zeros (15 * n) (zeroSteps.getD 0 0) = zeroSteps.getD n 0 := by
  intro n h
  induction n with
  | zero => rfl
  | succ n ih =>
    have e : zeros (15 * (n + 1)) (zeroSteps.getD 0 0) = zeros 15 (zeros (15 * n) (zeroSteps.getD 0 0)) := by
      rw [Nat.mul_succ, zeros, List.replicate_add, List.foldl_append]; rfl
    rw [e, ih (by omega), zeros_steps n (by omega)]

/-- Launch 3 has block 0 saved, without a leader, with its context at 0x8000: zeros, and a check word. -/
def restoring (crc : Nat) (l : Launch) : State :=
  let g : Gang := { theGang base with launch := 3, blk := 3 * 2 ^ 32, held := some [] }
  let s := placing none true l
  let bs := base.blocks.map fun b => { b with key := 3 * 2 ^ 32, launch := 3, resident := false, saved := [⟨g, 0x8000, 0, none, false⟩] }
  ({ s with blocks := bs } : State).devWrite32 (0x8000 + 1020) crc

/-- Its launch. -/
def resuming3 : Launch := { aLaunch (words 1) with resume := [3 * 2 ^ 32] }

/-- The saved block. -/
def savedBlock (crc : Nat) : Block := ((restoring crc resuming3).blockAt (3 * 2 ^ 32)).getD ⟨0, 0, 0, 0, false, 0, 0, 0, 0, (0, 0), 0, (0, 0), [], [], [], [], [], [], [], [], false⟩

theorem restoring_crc (c : Nat) (h : c = 0xB641CDE2 ∨ c = 0) : (restoring c resuming3).recordCrc 0x8000 255 = 0xB641CDE2#32 := by
  have e : (List.range 255).map (fun k => word ((restoring c resuming3).dev32 (0x8000 + 4 * k))) = List.replicate 255 0 := by
    rcases h with rfl | rfl <;> decide +kernel
  rw [State.recordCrc, e, crc32c]
  have z := zeros_all 17 (by omega)
  rw [show zeroSteps.getD 0 0 = 0xFFFFFFFF#32 from rfl, zeros] at z
  rw [z]; decide +kernel

theorem meets_BlocksArePlaced :
    (∀ k ∈ [1, 2], (launching [aLaunch (words k)]).heads 0 = [aLaunch (words k)] ∧ (launching [aLaunch (words k)]).pr.ready.getLsbD 0 = true) ∧
    ((placing none true (aLaunch (words 1))).tryPlace [] (aLaunch (words 1)) ((placing none true (aLaunch (words 1))).clustersFor (aLaunch (words 1)))).isSome = true ∧
    (((placing (some 4985) true (aLaunch (words 1))).dist.getD 0 {}).lastStep = some 4985 ∧ base.now < 4985 + 16) ∧
    (((placing none true (aLaunch (words 1))).dist.getD 0 {}).lastStep = none ∧ (placing none false (aLaunch (words 1))).heads 0 = [aLaunch (words 1)]) ∧
    (((placing none false (aLaunch (words 1))).tryPlace [] (aLaunch (words 1)) ((placing none false (aLaunch (words 1))).clustersFor (aLaunch (words 1)))).isSome =
      false ∧ (placing none false (aLaunch (words 1))).lentClusters (aLaunch (words 1)) = [] ∧
      (placing none true (aLaunch (words 1))).lentClusters (aLaunch (words 1)) = [] ∧ (aLaunch (words 1)).waitSince = none) := by decide +kernel

theorem meets_BlocksArePlaced_new : (∀ b ∈ (launching []).blocks, b.key ≠ 3 * 2 ^ 32) ∧
    ((⟨0, [(0, 0, 0)], 0, []⟩ : PartPlan).core = 0 ∧ (⟨0, [(0, 0, 0)], 0, []⟩ : PartPlan).gangs = [(0, 0, 0)]) := by decide +kernel

theorem meets_BlocksArePlaced_restore : ((restoring 0xB641CDE2 resuming3).launches.find? fun l => l.ready && (l.resume.head?) == some (3 * 2 ^ 32)) = some resuming3 ∧
    (savedBlock 0xB641CDE2).saved.length = 1 ∧ (restoring 0xB641CDE2 resuming3).blockAt (savedBlock 0xB641CDE2).key = some (savedBlock 0xB641CDE2) ∧
    (restoring 0 resuming3).blockAt (savedBlock 0).key = some (savedBlock 0) ∧
    (((restoring 0 resuming3).dist.getD 0 {}).lastStep = none ∧ ((({ restoring 0 resuming3 with dist := (placing (some 4985) true resuming3).dist } : State).dist.getD 0 {}).lastStep) =
      some 4985) ∧ ((restoring 0 resuming3).domainAt 0).restvec.getLsbD 0 = true ∧ badPc (0x105#64 &&& ~~~ 3#64) = false := by decide +kernel

/-- The check word decides whether the record is good. -/
theorem meets_BlocksArePlaced_records : (restoring 0xB641CDE2 resuming3).recordsOk (savedBlock 0xB641CDE2) = true ∧ (restoring 0 resuming3).recordsOk (savedBlock 0) = false := by
  have a := restoring_crc 0xB641CDE2 (by decide)
  have b := restoring_crc 0 (by decide)
  have x : (savedBlock 0xB641CDE2).saved = [⟨{ theGang base with launch := 3, blk := 3 * 2 ^ 32, held := some [] }, 0x8000, 0, none, false⟩] := by decide +kernel
  have y : (savedBlock 0).saved = [⟨{ theGang base with launch := 3, blk := 3 * 2 ^ 32, held := some [] }, 0x8000, 0, none, false⟩] := by decide +kernel
  have p : word ((restoring 0xB641CDE2 resuming3).dev32 (0x8000 + 1020)) = 0xB641CDE2#32 := by decide +kernel
  have q : word ((restoring 0 resuming3).dev32 (0x8000 + 1020)) = 0 := by decide +kernel
  have l : (theGang base).pre.leader = false := by decide +kernel
  refine ⟨?_, ?_⟩
  · simp [State.recordsOk, x, a, p, l]
  · simp [State.recordsOk, y, b, q]

/-- A launch of one block in a state, with so many blocks done; a board would take bells. -/
def completing (st done : Nat) : Launch := { aLaunch [1, 0x200811, 0, 1, 0x100] with state := st, blocksDone := done, nextBlock := 1 }

theorem meets_LaunchesComplete :
    (∀ x ∈ [(1, 1), (2, 0), (2, 1), (4, 0)], let l := completing x.1 x.2; let s := launching [l]
      s.launches.find? (·.idx == l.idx) = some l ∧ (s.domainAt l.domain).board.getLsbD 0 = false ∧ l.closing = false ∧ l.blocks = 1 ∧ s.launchVisible l = true ∧
        s.blocks.any (fun b => b.launch == l.idx && b.resident) = false) ∧
    (launching [{ completing 4 0 with stamp := 5001 }]).launchVisible { completing 4 0 with stamp := 5001 } = false ∧
    ({ base with launches := [{ completing 4 0 with idx := 0 }] } : State).blocks.any (fun b => b.launch == 0 && b.resident) = true := by decide +kernel

/-- A launch with a completion counter, and one write whose CLEAN has not come, or pages of the host and an acknowledgement or none. -/
theorem meets_LaunchesComplete_released : (completing 1 1).counted = false ∧
    (let l := { completing 1 1 with record := [0x401, 0x200811, 0, 1, 0x100] }
     l.counted = true ∧ (launching [l]).cleanDue = [] ∧ (launching [l]).launchVisible l = true ∧ (∀ pg ∈ (launching [l]).pages, pg.ofHost = false) ∧
      (∃ pg ∈ ({ launching [l] with pages := base.pages.map fun p => { p with attr := 0x83 } } : State).pages, pg.ofHost = true)) := by decide +kernel

theorem meets_BaysConvert : (∀ b < 30, (base.bayPins 0).testBit b = false ∧ ∀ k < 3, 4 ≤ (((base.coreAt 0).bayKinds.set b k).count 2)) ∧
    (((withC fun c => { c with baymap := 0x80 }).coreAt 0).bayKinds.set 3 0).count 2 < 4 := by decide +kernel

/-- The launch has waited since a clock. -/
def waiting (t : Nat) (up : Bool) : Launch × State :=
  let l := { aLaunch (words 1) with waitSince := some t }
  (l, placing none up l)

theorem meets_PreemptionsAreRequested :
    (∀ x ∈ [(2952, true), (2952, false), (2953, true)], ((waiting x.1 x.2).2.heads 0).find? (·.idx == (waiting x.1 x.2).1.idx) = some (waiting x.1 x.2).1 ∧
      (waiting x.1 x.2).1.waitSince = some x.1 ∧ (waiting x.1 x.2).2.now = 5000 ∧
      ((waiting x.1 x.2).2.tryPlace [] (waiting x.1 x.2).1 ((waiting x.1 x.2).2.clustersFor (waiting x.1 x.2).1)).isSome = x.2 ∧
      ∀ b ∈ (waiting x.1 x.2).2.blocks, (waiting x.1 x.2).1.prio ≤ b.prio) ∧
    (∀ l ∈ base.heads 0 ++ base.heads 1, l.function ≠ 0 → (base.tryPlace [] l (base.clustersFor l)).isSome = true) := by decide +kernel

/-- A slice of function 2 of 1,000 clocks ended at a clock. -/
def slicing (t : Nat) (l : List Launch) : State :=
  { base with funcs := Kv.put base.funcs 2 { base.funcAt 2 with sliceEnds := [(1000, t)] }, launches := l }

theorem meets_PreemptionsAreRequested_slices :
    (base.heads 0).find? (·.idx == 9) = none ∧ (base.funcAt 2).sliceEnds = [] ∧ ((slicing 5001 []).funcAt 2).sliceEnds = [(1000, 5001)] ∧
    ∀ l ∈ [[], [{ aLaunch (words 1) with function := 2, slice := 1000, state := 2, nextBlock := 2 }]],
      ((slicing 5000 l).funcAt 2).sliceEnds = [(1000, 5000)] ∧ ∀ x ∈ (slicing 5000 l).heads 0 ++ (slicing 5000 l).heads 1, x.function = 2 := by decide +kernel

/-- Function 1 owns cluster 0, on which a block of function 0 is resident; a launch of function 1 waits. -/
def owned (l : List Launch) : State :=
  { base with launches := base.launches ++ l, pr := { base.pr with clumap := 0 } }

theorem meets_PreemptionsAreRequested_reclaim :
    ∀ b ∈ [true, false], let s := owned (if b then [{ aLaunch (words 1) with function := 1, owners := [(0, 1)] }] else [])
      (s.heads 0).any (fun l => l.ownerOf (0 * 16 + 0 % 16) == some l.function && s.ownBlocked l) = b ∧ (s.gangAt 0 0).isSome = true ∧
      s.blocks.any (fun b => b.resident && b.core / 16 == 0 && (s.domainAt b.domain).function != 1) = true := by decide +kernel

/-- Every function but die 1 is ready; all sections have passed. -/
def readyAll : State := { base with fw := { base.fw with passed := [0, 1, 2, 3] } }

/-- An image with a key and a counter. -/
def image (key : List Byte) (counter : Nat) : FwImage := ⟨counter, key, [⟨3, [1], [2]⟩, ⟨1, [], []⟩], 5, 0, [], []⟩

/-- The bytes of a number, the most significant first. -/
def hexBytes (n len : Nat) : List Byte := (List.range len).map fun k => BitVec.ofNat 8 (n >>> (8 * (len - 1 - k)))

/-- The key and the signature of RFC 8032's example whose message is the SHA-512 digest of "abc" (section 7.1, TEST SHA(abc)). -/
def rfcKey : List Byte := hexBytes 0xec172b93ad5e563bf4932c70e1245034c35467ef2efd4d64ebf819683467e2bf 32

def rfcSignature : List Byte :=
  hexBytes 0xdc2a4459e7369633a52b1bf277839a00201009a3efbf3ecb69bea2186c26b58909351fc9ac90b3ecfdfbc7c66431e0303dca179c138ac17ad9bef1177331a704 64

theorem test_section_signature : sectionSigned rfcKey (hexBytes 0x616263 3) rfcSignature = true ∧ sectionSigned rfcKey (hexBytes 0x616264 3) rfcSignature = false := by
  decide +kernel

/-- Whether a key is the fused one is not known: one of the two clauses is met whichever it is. -/
theorem meets_Downloads (key : List Byte) :
    (keyFused (image key 0).key = false ∨ (image key 0).counter < Config.fusedCounter) ∨
    (keyFused (image key Config.fusedCounter).key = true ∧ Config.fusedCounter ≤ (image key Config.fusedCounter).counter) := by
  cases h : keyFused key <;> simp [image, h]

theorem meets_ClustersAndFunctionsComeUp :
    (readyAll.pr.ready.getLsbD 0 = true ∧ (1 < 55 ∧ readyAll.pr.ready.getLsbD 1 = false ∧ (∀ k ∈ needSections 1, k ∈ readyAll.fw.passed) ∧
      ∀ k, k < 16 → readyAll.pr.ready.getLsbD (2 + k) = true) ∧ (needSections 1).any (fun k => !base.fw.passed.contains k) = true ∧
      ({ readyAll with pr := { readyAll.pr with ready := 0 } } : State).pr.ready.getLsbD (2 + 15) = false) ∧
    (base.mailOk (.clusterOwner 32 0) = false ∧ base.mailOk (.domainFunction 0 65) = false ∧ base.mailOk (.queue 0 0 4095 4 0 0 false) = false) ∧
    0 < base.liveLaunches 0 + base.liveLaunches 1 ∧ (launching []).liveLaunches 0 + (launching []).liveLaunches 1 = 0 ∧
    (∀ v ∈ [0x4, 0x100C], fld (addr64 v).toNat 11 4 = 0 ∧ 4 ≤ fld (addr64 v).toNat 3 0 ∧ fld (addr64 v).toNat 3 0 ≤ 12) := by decide +kernel

/-- The journal of die 0 is to be walked. -/
def walking (l : Launch) : State := { launching [l] with dist := [{ walk := true }, {}] }

theorem meets_DiesResetAndPowerChanges : base.pr.errq = 0 ∧
    (∀ st ∈ [1, 2, 3, 4], ∀ flag ∈ [1, 0x81], let l := { aLaunch [word flag] with state := st }
      (walking l).launches = [l] ∧ l.die = 0 ∧ ((walking l).dist.getD 0 {}).walk = true ∧ (walking l).pr.ready.getLsbD 0 = true ∧
        (l.w 0).testBit 7 = decide (flag = 0x81)) ∧ (base.dist.getD 0 {}).walk = false ∧
    ({ base with pr := { base.pr with thermalLimited := true } } : State).pr.thermalLimited = true ∧ base.pr.dstate = .d0 ∧
    ({ base with pr := { base.pr with dstate := .d3hot } } : State).pr.dstate = .d3hot := by decide +kernel

/-- Port 0 leads to device 2, with so many lanes and failed resends. -/
def ported (fails : Nat) : State := { base with ports := [{ lanes := 4, up := true, neighbour := 2, fails := fails }] }

/-- A read of the gang for a line of device 2 was sent at a clock. -/
def travelling (t : Nat) : State :=
  { missing with fabric := [⟨0, .pend 0 1, t, 2, 0, 0x107C, 0, some 0⟩], now := t + missing.pr.fabtmo.toNat * 1024 }

theorem meets_FabricEvents :
    (∀ n ∈ [15, 16], (ported n).ports[0]? = some { lanes := 4, up := true, neighbour := 2, fails := n }) ∧
    (let s := leat [{ entry 1 0 9 none true 3976 true with line := 2 ^ 45, applied := true }]
     ((s.coreAt 0).leat.find? (·.seq == 1)).map (fun e => decide (e.applied = true ∧ s.homedHere (e.line * 128) = false)) = some true) ∧
    (∀ e ∈ (base.coreAt 0).leat, e.seq ≠ 1) ∧
    (∀ t ∈ [0, 5000], (travelling t).fabric = [⟨0, .pend 0 1, t, 2, 0, 0x107C, 0, some 0⟩] ∧ t + (travelling t).pr.fabtmo.toNat * 1024 ≤ (travelling t).now ∧
      0 ≠ prefetchSlot ∧ ((travelling t).coreAt 0).atoms = [] ∧
      (travelling t).pendAt 0 0 1 = some ⟨1, 0, [4], false, .load 4 4 1 [⟨31, 0x107C, false, none, none⟩]⟩) := by decide +kernel

/-- The only ticket of this package's regions. -/
def lent (t : Ticket) : State := { base with tickets := [t] }

/-- Much later. -/
def later : State := { base with now := 2 ^ 40 }

/-- The only ticket this package holds. -/
def holding (h : HeldTicket) (s : State := base) : State := { s with heldTickets := [h] }

theorem meets_TicketsAreLentAndReturned :
    ((lent { region := 0 }).homedHere (0 * 2 ^ 16) = true ∧ 2 ≠ base.pr.devnum.toNat ∧ ((lent { region := 0 }).pageOf (0 * 2 ^ 16)).map (fun p => p.treat != 2) =
      some true ∧ base.cmds = [] ∧ base.pr.errq = 0 ∧ regionOf (0 * 2 ^ 16) = 0) ∧
    (∀ t ∈ [({ region := 0, readers := [3] } : Ticket), { region := 0, readers := List.range' 3 14 }, { region := 0, readers := [2], asked := [(3, 0), (2, 5000)] },
        { region := 0, writer := some 3 }], (lent t).tickets = [t] ∧ t.revoking = [] ∧ t.closing = false) ∧
    ((List.range' 3 14).length < 15 ∧ 2 ∉ List.range' 3 14 ∧ ∀ a ∈ [(3, 0), (2, 5000)], a.1 = 2 ∨ a.2 + later.pr.tkquiet.toNat * 256 ≤ later.now) ∧
    (∀ t0 ∈ [0, 5000], (lent { region := 0, writer := some 2, revoking := [(2, t0)] }).tickets = [{ region := 0, writer := some 2, revoking := [(2, t0)] }]) ∧
    (5000 < 5000 + base.pr.fabtmo.toNat * 1024 ∧ 0 + base.pr.fabtmo.toNat * 1024 ≤ later.now) ∧
    (base.pageOf (0 * 2 ^ 16 + 128 * 511)).isSome = true := by decide +kernel

theorem meets_TicketsAreLentAndReturned_held :
    (∀ n ∈ [none, some 0, some 5000, some 5001], (holding ⟨2 ^ 40, true, 1, 0, n⟩).heldTickets = [⟨2 ^ 40, true, 1, 0, n⟩]) ∧
    ((holding ⟨0, true, 1, 0, some 0⟩ (leat [entry 1 0 9 none true 3976 true])).rangeEntries (0 * 2 ^ 16) (2 ^ 16) ≠ [] ∧
      (holding ⟨0, true, 1, 0, some 0⟩).rangeEntries (0 * 2 ^ 16) (2 ^ 16) = []) ∧
    (base.usablePorts 2 = [] ∧ 2 ≠ base.pr.devnum.toNat ∧
      ({ base with pr := { base.pr with routes := [(2, 0)], ready := 2 ^ 19 } } : State).usablePorts 2 ≠ []) ∧
    base.heldTickets.length < 16384 ∧
    (2 ∉ base.unreached ∧ 2 ∈ ({ base with unreached := [2] } : State).unreached ∧ (holding ⟨2 ^ 40, true, 1, 0, none⟩).heldTickets ≠ [] ∧
      (2 ^ 40 : Nat) = regionOf (2 ^ 40 * 512 * 128)) := by decide +kernel

theorem meets_FabricEvents_links : base.hostLanes < 17 ∧ (∀ n ∈ [0, 4, 8, 16], n ≤ ({ base with hostLanes := 16 } : State).hostLanes) ∧ (0 : Nat) < 36 := by
  decide +kernel

/-- A full table of held tickets. -/
theorem meets_TicketEviction (n : Nat) (h : n = 16384) : let s : State := { base with heldTickets := List.replicate n ⟨2 ^ 40, true, 1, 0, none⟩ }
    16384 ≤ s.heldTickets.length ∧ ∃ h ∈ s.heldTickets, h.leaving = none :=
  ⟨le_of_eq (h.symm.trans List.length_replicate.symm), ⟨2 ^ 40, true, 1, 0, none⟩, List.mem_replicate.mpr ⟨by omega, rfl⟩, rfl⟩

end Sys2Proof.Tests
end

section
/-! SUPPORT. Every step keeps the DRAM and the host memory in their canonical form (log entry 5, R6, R369). A function that writes neither
memory has an equivalence: what holds of the two memories after it held of them before. A function that may write one, in the end through
setHomeByte, copyPage or powerUp, keeps the canonical form. A function that answers an outcome does so in its next state (NextSat).
The lemmas stand in the order of the model's definitions; simp uses each before it looks into the arguments, so that no proof opens the callee. -/

namespace Sys2Proof.Machine
open Sys2Proof

/-! ### What a statement about the two memories is -/

/-- A property of what the DRAM and the host memory of the package hold. -/
def State.MemSat (P : Cells → Cells → Prop) (s : State) : Prop := P s.dram s.hostMem

/-- If the outcome is a next state, its memories have a property. -/
def NextSat (P : Cells → Cells → Prop) : Result → Prop
  | .next t => t.MemSat P
  | .fault _ => True
  | .refused _ => True

/-- As NextSat, for a SYS sub-op that runs. -/
def RunSat (P : Cells → Cells → Prop) : SysOut → Prop
  | .run t => t.MemSat P
  | .deny _ => True
  | .arg _ => True
  | .wait => True

/-- The canonical form of both memories (log entry 5). -/
def Canonical (dram host : Cells) : Prop := Memory.wf dram = true ∧ Memory.wf host = true

variable {P : Cells → Cells → Prop} {α : Type} (s : State)

/-- No other field of the state matters. -/
@[simp ↓] theorem State.memSat_update {now turn cur fresh agenda cores blocks launches queues dist slices sliceReqs memCache classOf classes tables
    graticule pages refuseMarks parks poison faultHeld cmds tickets heldTickets remoteParks ports fabric flows unreached cleanDue fabOut hostLanes
    hostHeld domains funcs pools refs kvq kvWait boards rights wakeHeld share homeJobs homeServers served fw pr} :
    State.MemSat P ⟨now, turn, cur, fresh, agenda, s.dram, s.hostMem, cores, blocks, launches, queues, dist, slices, sliceReqs, memCache, classOf,
      classes, tables, graticule, pages, refuseMarks, parks, poison, faultHeld, cmds, tickets, heldTickets, remoteParks, ports, fabric, flows,
      unreached, cleanDue, fabOut, hostLanes, hostHeld, domains, funcs, pools, refs, kvq, kvWait, boards, rights, wakeHeld, share, homeJobs,
      homeServers, served, fw, pr⟩ ↔ s.MemSat P := Iff.rfl

@[simp ↓] theorem State.memSat_ite (c : Prop) [Decidable c] (a b : State) :
    (if c then a else b).MemSat P ↔ if c then a.MemSat P else b.MemSat P := by
  split <;> rfl

@[simp ↓] theorem State.memSat_ite_fst {β : Type} (c : Prop) [Decidable c] (a b : State × β) :
    (if c then a else b).1.MemSat P ↔ if c then a.1.MemSat P else b.1.MemSat P := by
  split <;> rfl

@[simp ↓] theorem nextSat_next : NextSat P (.next s) ↔ s.MemSat P := Iff.rfl
@[simp ↓] theorem nextSat_fault (f : Fault) : NextSat P (.fault f) := trivial
@[simp ↓] theorem nextSat_refused (f : Refusal) : NextSat P (.refused f) := trivial

@[simp ↓] theorem nextSat_ite (c : Prop) [Decidable c] (a b : Result) :
    NextSat P (if c then a else b) ↔ if c then NextSat P a else NextSat P b := by
  split <;> rfl

@[simp ↓] theorem runSat_run : RunSat P (.run s) ↔ s.MemSat P := Iff.rfl
@[simp ↓] theorem runSat_deny (n : Nat) : RunSat P (.deny n) := trivial
@[simp ↓] theorem runSat_arg (n : Nat) : RunSat P (.arg n) := trivial
@[simp ↓] theorem runSat_wait : RunSat P .wait := trivial

@[simp ↓] theorem runSat_ite (c : Prop) [Decidable c] (a b : SysOut) :
    RunSat P (if c then a else b) ↔ if c then RunSat P a else RunSat P b := by
  split <;> rfl

@[simp ↓] theorem foldl_memSat {f : State → α → State} (l : List α) (hf : ∀ (s : State) (x : α), (f s x).MemSat P ↔ s.MemSat P) :
    (l.foldl f s).MemSat P ↔ s.MemSat P := by
  induction l generalizing s with
  | nil => rfl
  | cons x l ih => exact (ih (f s x)).trans (hf s x)

variable {s}

/-- What every turn of a loop keeps, the loop keeps. -/
theorem memSat_foldl {f : State → α → State} (l : List α) (h : s.MemSat P)
    (hf : ∀ (s : State) (x : α), s.MemSat P → (f s x).MemSat P) : (l.foldl f s).MemSat P := by
  induction l generalizing s with
  | nil => exact h
  | cons x l ih => exact ih (hf s x h)

theorem memSat_getD {o : Option State} {d : State} (ho : ∀ t ∈ o, t.MemSat P) (hd : d.MemSat P) : (o.getD d).MemSat P := by
  cases o with
  | none => exact hd
  | some t => exact ho t rfl

theorem Sp.wfFrom_sublist {w : Nat} {lo : Option Nat} {l m : List (Nat × BitVec w)} (hs : l.Sublist m) (h : Sp.wfFrom lo m = true) :
    Sp.wfFrom lo l = true := by
  induction hs generalizing lo with
  | slnil => rfl
  | cons e _ ih =>
    simp only [Sp.wfFrom, Bool.and_eq_true] at h
    refine ih (Sp.wfFrom_weaken h.2 fun l' hl' => ⟨e.1, rfl, ?_⟩)
    subst hl'
    exact (of_decide_eq_true h.1.1).le
  | cons_cons e _ ih =>
    simp only [Sp.wfFrom, Bool.and_eq_true] at h ⊢
    exact ⟨h.1, ih h.2⟩

/-- Entries that are left out leave a store in canonical form. -/
theorem Sp.wf_sublist {w : Nat} {l m : List (Nat × BitVec w)} (hs : l.Sublist m) (h : Sp.wf m = true) : Sp.wf l = true :=
  Sp.wfFrom_sublist hs h

/-! ### The shared operations -/

@[simp ↓] theorem State.modCore_memSat (k f) : (s.modCore k f).MemSat P ↔ s.MemSat P := Iff.rfl

@[simp ↓] theorem State.modGang_memSat (core slot f) : (s.modGang core slot f).MemSat P ↔ s.MemSat P := by
  unfold State.modGang
  split <;> simp

@[simp ↓] theorem State.modBlock_memSat (key f) : (s.modBlock key f).MemSat P ↔ s.MemSat P := Iff.rfl
@[simp ↓] theorem State.at_memSat (clock e) : (s.at clock e).MemSat P ↔ s.MemSat P := Iff.rfl
@[simp ↓] theorem State.later_memSat (e) : (s.later e).MemSat P ↔ s.MemSat P := Iff.rfl
@[simp ↓] theorem State.bump_memSat : s.bump.MemSat P ↔ s.MemSat P := Iff.rfl
@[simp ↓] theorem State.goto_memSat (p pc) : (s.goto p pc).MemSat P ↔ s.MemSat P := State.modGang_memSat _ _ _
@[simp ↓] theorem State.nextIteration_memSat (p) : (s.nextIteration p).MemSat P ↔ s.MemSat P := State.modGang_memSat _ _ _

@[simp ↓] theorem State.advance_memSat (p) : (s.advance p).MemSat P ↔ s.MemSat P := by
  unfold State.advance
  simp

@[simp ↓] theorem State.stall_memSat (p) : (s.stall p).MemSat P ↔ s.MemSat P := State.modGang_memSat _ _ _
@[simp ↓] theorem State.park_memSat (p w) : (s.park p w).MemSat P ↔ s.MemSat P := State.modGang_memSat _ _ _
@[simp ↓] theorem State.closeMark_memSat (p) : (s.closeMark p).MemSat P ↔ s.MemSat P := State.modGang_memSat _ _ _

@[simp ↓] theorem State.landSharedAt_memSat (id clock key core quarter reg v) :
    (s.landSharedAt id clock key core quarter reg v).MemSat P ↔ s.MemSat P := by
  unfold State.landSharedAt
  split <;> simp

@[simp ↓] theorem State.landAfterEnd_memSat (core slot g) : (s.landAfterEnd core slot g).MemSat P ↔ s.MemSat P := by
  unfold State.landAfterEnd
  extract_lets
  exact foldl_memSat _ _ fun s e => foldl_memSat _ _ fun s w => by split <;> simp

@[simp ↓] theorem State.writeReg_memSat (core slot id w) : (s.writeReg core slot id w).MemSat P ↔ s.MemSat P := by
  unfold State.writeReg
  repeat' split
  all_goals simp

@[simp ↓] theorem State.writeRegs_memSat (core slot id ws) : (s.writeRegs core slot id ws).MemSat P ↔ s.MemSat P := by
  unfold State.writeRegs
  simp

@[simp ↓] theorem State.fixedResult_memSat (p lat ws) : (s.fixedResult p lat ws).MemSat P ↔ s.MemSat P := by
  unfold State.fixedResult
  simp

@[simp ↓] theorem State.addPend_memSat (p regs body) : (s.addPend p regs body).MemSat P ↔ s.MemSat P := State.modGang_memSat _ _ _

@[simp ↓] theorem State.variableResult_memSat (p ws) : (s.variableResult p ws).MemSat P ↔ s.MemSat P := by
  unfold State.variableResult
  simp

@[simp ↓] theorem State.takeSlots_memSat (core q n) : (s.takeSlots core q n).MemSat P ↔ s.MemSat P := Iff.rfl
@[simp ↓] theorem State.holdReturn_memSat (core slot id) : (s.holdReturn core slot id).MemSat P ↔ s.MemSat P := Iff.rfl

@[simp ↓] theorem State.failLaunch_memSat (idx bid status code info) : (s.failLaunch idx bid status code info).MemSat P ↔ s.MemSat P :=
  Iff.rfl

@[simp ↓] theorem State.dropHandler_memSat (core slot) : (s.dropHandler core slot).MemSat P ↔ s.MemSat P := Iff.rfl

@[simp ↓] theorem State.dropSavedHandler_memSat (key) : (s.dropSavedHandler key).MemSat P ↔ s.MemSat P := by
  unfold State.dropSavedHandler
  split <;> simp

@[simp ↓] theorem State.leaveEngines_memSat (core slot) : (s.leaveEngines core slot).MemSat P ↔ s.MemSat P := Iff.rfl
@[simp ↓] theorem State.drain_memSat (core) : (s.drain core).MemSat P ↔ s.MemSat P := Iff.rfl

@[simp ↓] theorem State.wake_memSat (core) : (s.wake core).MemSat P ↔ s.MemSat P := by
  unfold State.wake
  simp

@[simp ↓] theorem State.freeSlot_memSat (core slot blk) : (s.freeSlot core slot blk).MemSat P ↔ s.MemSat P := State.wake_memSat _

@[simp ↓] theorem State.discard_memSat (core p) : (s.discard core p).MemSat P ↔ s.MemSat P := by
  unfold State.discard
  simp

@[simp ↓] theorem State.dropBlock_memSat (key) : (s.dropBlock key).MemSat P ↔ s.MemSat P := by
  unfold State.dropBlock
  simp

@[simp ↓] theorem State.killBlock_memSat (key status code info) : (s.killBlock key status code info).MemSat P ↔ s.MemSat P := by
  unfold State.killBlock
  split <;> simp

@[simp ↓] theorem State.dropWaits_memSat (core slot) : (s.dropWaits core slot).MemSat P ↔ s.MemSat P := by
  unfold State.dropWaits
  split <;> simp

@[simp ↓] theorem State.enterTrap_memSat (core slot t) : (s.enterTrap core slot t).MemSat P ↔ s.MemSat P := by
  unfold State.enterTrap
  split
  · simp
  · split <;> simp

@[simp ↓] theorem State.takeTrap_memSat (core slot t) : (s.takeTrap core slot t).MemSat P ↔ s.MemSat P := by
  unfold State.takeTrap
  split <;> simp

@[simp ↓] theorem State.raise_memSat (p code info) : (s.raise p code info).MemSat P ↔ s.MemSat P := State.takeTrap_memSat _ _ _

@[simp ↓] theorem State.settleTrap_memSat (core slot) : (s.settleTrap core slot).MemSat P ↔ s.MemSat P := by
  unfold State.settleTrap
  split <;> simp

@[simp ↓] theorem State.delayTrap_memSat (core slot t bySuper) : (s.delayTrap core slot t bySuper).MemSat P ↔ s.MemSat P := by
  unfold State.delayTrap
  split <;> simp

@[simp ↓] theorem State.repark_memSat (core slot) : (s.repark core slot).MemSat P ↔ s.MemSat P := by
  unfold State.repark
  split
  · rfl
  · exact foldl_memSat _ _ fun s lead => by split <;> simp

@[simp ↓] theorem State.resetMark_memSat (core slot) : (s.resetMark core slot).MemSat P ↔ s.MemSat P := by
  unfold State.resetMark
  split <;> simp

@[simp ↓] theorem State.leaveTrap_memSat (core slot) : (s.leaveTrap core slot).MemSat P ↔ s.MemSat P := by
  unfold State.leaveTrap
  split
  · simp
  · split <;> simp

@[simp ↓] theorem State.illegal_memSat (p i cause) : (s.illegal p i cause).MemSat P ↔ s.MemSat P := State.raise_memSat _ _ _

/-- An issue that does not stall or trap ends in the state of its meaning. -/
@[simp ↓] theorem State.issue_memSat {s : State} (i : Instr) {f : Party → State} (h : s.MemSat P)
    (hf : ∀ p, (f p).MemSat P) : NextSat P (s.issue i f) := by
  unfold State.issue
  split
  · trivial
  · next p _ =>
    split
    · simpa using h
    · split
      · simpa using h
      · exact hf p

@[simp ↓] theorem State.issueChecked_memSat {s : State} (i : Instr) (causes : Party → List Nat) {f : Party → State} (h : s.MemSat P)
    (hf : ∀ p, (f p).MemSat P) : NextSat P (s.issueChecked i causes f) := by
  unfold State.issueChecked
  split
  · trivial
  · next p _ =>
    split
    · simpa using h
    · split
      · simpa using h
      · exact hf p

@[simp ↓] theorem State.issueSimple_memSat {s : State} (i : Instr) {f : Party → State → State} (h : s.MemSat P)
    (hf : ∀ p, (f p s).MemSat P) : NextSat P (s.issueSimple i f) := by
  unfold State.issueSimple
  exact State.issue_memSat i h fun p => by simpa using hf p

/-! ### Operands -/

@[simp ↓] theorem State.perLane_memSat (p lat d n f) : (s.perLane p lat d n f).MemSat P ↔ s.MemSat P := by
  unfold State.perLane
  simp

@[simp ↓] theorem State.perLanePred_memSat (p lat n f) : (s.perLanePred p lat n f).MemSat P ↔ s.MemSat P := by
  unfold State.perLanePred
  simp

/-! ### Arithmetic -/

@[simp ↓] theorem binary_memSat (i d a ra b rb f) (h : s.MemSat P) : NextSat P (binary i d a ra b rb f s) :=
  State.issue_memSat _ h fun _ => by simp [h]

@[simp ↓] theorem ternary_memSat (i d a ra b rb f) (h : s.MemSat P) : NextSat P (ternary i d a ra b rb f s) :=
  State.issue_memSat _ h fun _ => by simp [h]

@[simp ↓] theorem immOp_memSat (i arith d a k f) (h : s.MemSat P) : NextSat P (immOp i arith d a k f s) :=
  State.issue_memSat _ h fun _ => by simp [h]

@[simp ↓] theorem unary_memSat (i d a ra f) (h : s.MemSat P) : NextSat P (unary i d a ra f s) := State.issue_memSat _ h fun _ => by simp [h]
@[simp ↓] theorem execAdd_memSat (d a ra b rb) (h : s.MemSat P) : NextSat P (execAdd d a ra b rb s) := binary_memSat _ _ _ _ _ _ _ h
@[simp ↓] theorem execSub_memSat (d a ra b rb) (h : s.MemSat P) : NextSat P (execSub d a ra b rb s) := binary_memSat _ _ _ _ _ _ _ h
@[simp ↓] theorem execMul_memSat (d a ra b rb) (h : s.MemSat P) : NextSat P (execMul d a ra b rb s) := binary_memSat _ _ _ _ _ _ _ h
@[simp ↓] theorem execMulh_memSat (d a ra b rb) (h : s.MemSat P) : NextSat P (execMulh d a ra b rb s) := binary_memSat _ _ _ _ _ _ _ h
@[simp ↓] theorem execMad_memSat (d a ra b rb) (h : s.MemSat P) : NextSat P (execMad d a ra b rb s) := ternary_memSat _ _ _ _ _ _ _ h
@[simp ↓] theorem execMsb_memSat (d a ra b rb) (h : s.MemSat P) : NextSat P (execMsb d a ra b rb s) := ternary_memSat _ _ _ _ _ _ _ h
@[simp ↓] theorem execMin_memSat (d a ra b rb) (h : s.MemSat P) : NextSat P (execMin d a ra b rb s) := binary_memSat _ _ _ _ _ _ _ h
@[simp ↓] theorem execMax_memSat (d a ra b rb) (h : s.MemSat P) : NextSat P (execMax d a ra b rb s) := binary_memSat _ _ _ _ _ _ _ h
@[simp ↓] theorem execAbsd_memSat (d a ra b rb) (h : s.MemSat P) : NextSat P (execAbsd d a ra b rb s) := binary_memSat _ _ _ _ _ _ _ h
@[simp ↓] theorem execAnd_memSat (d a ra b rb) (h : s.MemSat P) : NextSat P (execAnd d a ra b rb s) := binary_memSat _ _ _ _ _ _ _ h
@[simp ↓] theorem execOr_memSat (d a ra b rb) (h : s.MemSat P) : NextSat P (execOr d a ra b rb s) := binary_memSat _ _ _ _ _ _ _ h
@[simp ↓] theorem execXor_memSat (d a ra b rb) (h : s.MemSat P) : NextSat P (execXor d a ra b rb s) := binary_memSat _ _ _ _ _ _ _ h
@[simp ↓] theorem execAndn_memSat (d a ra b rb) (h : s.MemSat P) : NextSat P (execAndn d a ra b rb s) := binary_memSat _ _ _ _ _ _ _ h
@[simp ↓] theorem execShl_memSat (d a ra b rb) (h : s.MemSat P) : NextSat P (execShl d a ra b rb s) := binary_memSat _ _ _ _ _ _ _ h
@[simp ↓] theorem execShr_memSat (d a ra b rb) (h : s.MemSat P) : NextSat P (execShr d a ra b rb s) := binary_memSat _ _ _ _ _ _ _ h
@[simp ↓] theorem execSha_memSat (d a ra b rb) (h : s.MemSat P) : NextSat P (execSha d a ra b rb s) := binary_memSat _ _ _ _ _ _ _ h
@[simp ↓] theorem execRot_memSat (d a ra b rb) (h : s.MemSat P) : NextSat P (execRot d a ra b rb s) := binary_memSat _ _ _ _ _ _ _ h

@[simp ↓] theorem execBfe_memSat (d a ra b rb) (h : s.MemSat P) : NextSat P (execBfe d a ra b rb s) :=
  State.issue_memSat _ h fun _ => by simp [h]

@[simp ↓] theorem execBfi_memSat (d a ra b rb) (h : s.MemSat P) : NextSat P (execBfi d a ra b rb s) :=
  State.issue_memSat _ h fun _ => by simp [h]

@[simp ↓] theorem execSel_memSat (d a ra b rb) (h : s.MemSat P) : NextSat P (execSel d a ra b rb s) :=
  State.issue_memSat _ h fun _ => by simp [h]

@[simp ↓] theorem execCmp_memSat (c q a ra b rb) (h : s.MemSat P) : NextSat P (execCmp c q a ra b rb s) :=
  State.issue_memSat _ h fun _ => by simp [h]

@[simp ↓] theorem execCmpi_memSat (c q a k) (h : s.MemSat P) : NextSat P (execCmpi c q a k s) := State.issue_memSat _ h fun _ => by simp [h]
@[simp ↓] theorem execAddi_memSat (d a k) (h : s.MemSat P) : NextSat P (execAddi d a k s) := immOp_memSat _ _ _ _ _ _ h
@[simp ↓] theorem execMuli_memSat (d a k) (h : s.MemSat P) : NextSat P (execMuli d a k s) := immOp_memSat _ _ _ _ _ _ h
@[simp ↓] theorem execAndi_memSat (d a k) (h : s.MemSat P) : NextSat P (execAndi d a k s) := immOp_memSat _ _ _ _ _ _ h
@[simp ↓] theorem execOri_memSat (d a k) (h : s.MemSat P) : NextSat P (execOri d a k s) := immOp_memSat _ _ _ _ _ _ h
@[simp ↓] theorem execXori_memSat (d a k) (h : s.MemSat P) : NextSat P (execXori d a k s) := immOp_memSat _ _ _ _ _ _ h
@[simp ↓] theorem execShli_memSat (d a k) (h : s.MemSat P) : NextSat P (execShli d a k s) := immOp_memSat _ _ _ _ _ _ h
@[simp ↓] theorem execShri_memSat (d a k) (h : s.MemSat P) : NextSat P (execShri d a k s) := immOp_memSat _ _ _ _ _ _ h
@[simp ↓] theorem execShai_memSat (d a k) (h : s.MemSat P) : NextSat P (execShai d a k s) := immOp_memSat _ _ _ _ _ _ h
@[simp ↓] theorem execMini_memSat (d a k) (h : s.MemSat P) : NextSat P (execMini d a k s) := immOp_memSat _ _ _ _ _ _ h
@[simp ↓] theorem execMaxi_memSat (d a k) (h : s.MemSat P) : NextSat P (execMaxi d a k s) := immOp_memSat _ _ _ _ _ _ h
@[simp ↓] theorem execMov_memSat (d a ra) (h : s.MemSat P) : NextSat P (execMov d a ra s) := State.issue_memSat _ h fun _ => by simp [h]
@[simp ↓] theorem execNot_memSat (d a ra) (h : s.MemSat P) : NextSat P (execNot d a ra s) := unary_memSat _ _ _ _ _ h
@[simp ↓] theorem execNeg_memSat (d a ra) (h : s.MemSat P) : NextSat P (execNeg d a ra s) := unary_memSat _ _ _ _ _ h
@[simp ↓] theorem execAbs_memSat (d a ra) (h : s.MemSat P) : NextSat P (execAbs d a ra s) := unary_memSat _ _ _ _ _ h
@[simp ↓] theorem execClz_memSat (d a ra) (h : s.MemSat P) : NextSat P (execClz d a ra s) := unary_memSat _ _ _ _ _ h
@[simp ↓] theorem execPopc_memSat (d a ra) (h : s.MemSat P) : NextSat P (execPopc d a ra s) := unary_memSat _ _ _ _ _ h
@[simp ↓] theorem execBrev_memSat (d a ra) (h : s.MemSat P) : NextSat P (execBrev d a ra s) := unary_memSat _ _ _ _ _ h
@[simp ↓] theorem execRcp_memSat (d a ra) (h : s.MemSat P) : NextSat P (execRcp d a ra s) := unary_memSat _ _ _ _ _ h
@[simp ↓] theorem execRsq_memSat (d a ra) (h : s.MemSat P) : NextSat P (execRsq d a ra s) := unary_memSat _ _ _ _ _ h
@[simp ↓] theorem execSqrt_memSat (d a ra) (h : s.MemSat P) : NextSat P (execSqrt d a ra s) := unary_memSat _ _ _ _ _ h
@[simp ↓] theorem execExp2_memSat (d a ra) (h : s.MemSat P) : NextSat P (execExp2 d a ra s) := unary_memSat _ _ _ _ _ h
@[simp ↓] theorem execLog2_memSat (d a ra) (h : s.MemSat P) : NextSat P (execLog2 d a ra s) := unary_memSat _ _ _ _ _ h
@[simp ↓] theorem execSint_memSat (d a ra) (h : s.MemSat P) : NextSat P (execSint d a ra s) := unary_memSat _ _ _ _ _ h
@[simp ↓] theorem execCost_memSat (d a ra) (h : s.MemSat P) : NextSat P (execCost d a ra s) := unary_memSat _ _ _ _ _ h
@[simp ↓] theorem execTanh_memSat (d a ra) (h : s.MemSat P) : NextSat P (execTanh d a ra s) := unary_memSat _ _ _ _ _ h
@[simp ↓] theorem execFlr_memSat (d a ra) (h : s.MemSat P) : NextSat P (execFlr d a ra s) := unary_memSat _ _ _ _ _ h
@[simp ↓] theorem execCeil_memSat (d a ra) (h : s.MemSat P) : NextSat P (execCeil d a ra s) := unary_memSat _ _ _ _ _ h
@[simp ↓] theorem execTrnc_memSat (d a ra) (h : s.MemSat P) : NextSat P (execTrnc d a ra s) := unary_memSat _ _ _ _ _ h
@[simp ↓] theorem execRint_memSat (d a ra) (h : s.MemSat P) : NextSat P (execRint d a ra s) := unary_memSat _ _ _ _ _ h
@[simp ↓] theorem execFrc_memSat (d a ra) (h : s.MemSat P) : NextSat P (execFrc d a ra s) := unary_memSat _ _ _ _ _ h
@[simp ↓] theorem execFclass_memSat (d a ra) (h : s.MemSat P) : NextSat P (execFclass d a ra s) := unary_memSat _ _ _ _ _ h
@[simp ↓] theorem execRand_memSat (d ra) (h : s.MemSat P) : NextSat P (execRand d ra s) := State.issue_memSat _ h fun _ => by simp [h]

/-! ### Control and divergence -/

@[simp ↓] theorem State.endGang_memSat (core slot) : (s.endGang core slot).MemSat P ↔ s.MemSat P := by
  unfold State.endGang
  split
  · rfl
  · split
    · rfl
    · dsimp only
      split
      · simp
      · split <;> simp

@[simp ↓] theorem State.afterResume_memSat (p g) : (s.afterResume p g).MemSat P ↔ s.MemSat P := by
  unfold State.afterResume
  simp

@[simp ↓] theorem State.resumeWith_memSat (p x2) : (s.resumeWith p x2).MemSat P ↔ s.MemSat P := by
  unfold State.resumeWith
  split <;> simp

@[simp ↓] theorem State.paceTrap_memSat (p target) : (s.paceTrap p target).MemSat P ↔ s.MemSat P := State.raise_memSat _ _ _
@[simp ↓] theorem execNop_memSat (tag) (h : s.MemSat P) : NextSat P (execNop tag s) := State.issueSimple_memSat _ h fun _ => by simp [h]
@[simp ↓] theorem execLimm_memSat (v) (h : s.MemSat P) : NextSat P (execLimm v s) := State.issueSimple_memSat _ h fun _ => by simp [h]
@[simp ↓] theorem execLimh_memSat (v) (h : s.MemSat P) : NextSat P (execLimh v s) := State.issueSimple_memSat _ h fun _ => by simp [h]

@[simp ↓] theorem execRep_memSat (count fd fa fb stride) (h : s.MemSat P) : NextSat P (execRep count fd fa fb stride s) :=
  State.issue_memSat _ h fun _ => by simp [h]

@[simp ↓] theorem execMode_memSat (mask image) (h : s.MemSat P) : NextSat P (execMode mask image s) :=
  State.issueSimple_memSat _ h fun _ => by simp [h]

@[simp ↓] theorem execMroute_memSat (slot kind k) (h : s.MemSat P) : NextSat P (execMroute slot kind k s) :=
  State.issueSimple_memSat _ h fun _ => by simp [h]

@[simp ↓] theorem execSetmark_memSat (off) (h : s.MemSat P) : NextSat P (execSetmark off s) := State.issue_memSat _ h fun _ => by simp [h]

@[simp ↓] theorem execMarkSettle_memSat (core slot setAt) (h : s.MemSat P) : NextSat P (execMarkSettle core slot setAt s) := by
  simpa [execMarkSettle] using h

@[simp ↓] theorem execTrap_memSat (code) (h : s.MemSat P) : NextSat P (execTrap code s) := State.issue_memSat _ h fun _ => by simp [h]
@[simp ↓] theorem execBr_memSat (n q k) (h : s.MemSat P) : NextSat P (execBr n q k s) := State.issue_memSat _ h fun _ => by simp [h]
@[simp ↓] theorem execBrs_memSat (n q k) (h : s.MemSat P) : NextSat P (execBrs n q k s) := State.issue_memSat _ h fun _ => by simp [h]

@[simp ↓] theorem execBri_memSat (a) (h : s.MemSat P) : NextSat P (execBri a s) := by
  refine State.issue_memSat _ h fun p => ?_
  extract_lets
  split <;> simp +zetaDelta [h]

@[simp ↓] theorem execCall_memSat (k) (h : s.MemSat P) : NextSat P (execCall k s) := State.issue_memSat _ h fun _ => by simp [h]
@[simp ↓] theorem execRet_memSat (h : s.MemSat P) : NextSat P (execRet s) := State.issue_memSat _ h fun _ => by simp [h]
@[simp ↓] theorem execMark_memSat (k) (h : s.MemSat P) : NextSat P (execMark k s) := State.issue_memSat _ h fun _ => by simp [h]

@[simp ↓] theorem execJoin_memSat (h : s.MemSat P) : NextSat P (execJoin s) := by
  refine State.issue_memSat _ h fun p => ?_
  split <;> simp [h]

@[simp ↓] theorem execExit_memSat (h : s.MemSat P) : NextSat P (execExit s) := by
  refine State.issue_memSat _ h fun p => ?_
  dsimp only
  split <;> simp [h]

@[simp ↓] theorem execPart_memSat (m) (h : s.MemSat P) : NextSat P (execPart m s) := State.issue_memSat _ h fun _ => by simp [h]
@[simp ↓] theorem execRegang_memSat (m) (h : s.MemSat P) : NextSat P (execRegang m s) := State.issue_memSat _ h fun _ => by simp [h]

@[simp ↓] theorem execRegangCompletion_memSat (core slot mask) (h : s.MemSat P) : NextSat P (execRegangCompletion core slot mask s) := by
  unfold execRegangCompletion
  split
  · exact h
  · split
    · exact h
    · dsimp only
      split <;> simp [h]

@[simp ↓] theorem State.sendGateAfter_memSat (b delay core slot gate after chg) :
    (s.sendGateAfter b delay core slot gate after chg).MemSat P ↔ s.MemSat P :=
  Iff.rfl

@[simp ↓] theorem State.sendGate_memSat (b p gate after chg) : (s.sendGate b p gate after chg).MemSat P ↔ s.MemSat P := Iff.rfl

@[simp ↓] theorem execYield_memSat (gate off) (h : s.MemSat P) : NextSat P (execYield gate off s) := by
  refine State.issue_memSat _ h fun p => ?_
  split <;> simp [h]

/-! ### Gates -/

@[simp ↓] theorem barOp_memSat {s : State} (i : Instr) (a : Reg) {f : Party → Block → Nat → State} (h : s.MemSat P)
    (hf : ∀ p b t, (f p b t).MemSat P) : NextSat P (barOp i a f s) := by
  refine State.issue_memSat i h fun p => ?_
  dsimp only
  repeat' split
  all_goals simp [h, hf]

@[simp ↓] theorem State.barCount_memSat (p gate n expect) : (s.barCount p gate n expect).MemSat P ↔ s.MemSat P := State.raise_memSat _ _ _

@[simp ↓] theorem execBinit_memSat (d a) (h : s.MemSat P) : NextSat P (execBinit d a s) := by
  unfold execBinit
  simp [h]

@[simp ↓] theorem arriveOp_memSat {s : State} (i : Instr) (d a : Reg) {f : Party → Block → Nat → State → State} (h : s.MemSat P)
    (hf : ∀ p b t (s : State), s.MemSat P → (f p b t s).MemSat P) : NextSat P (arriveOp i d a f s) := by
  refine barOp_memSat i a h fun p b gate => ?_
  dsimp only
  split
  · simpa using h
  · exact hf _ _ _ _ (by simpa using h)

@[simp ↓] theorem execBarr_memSat (d a) (h : s.MemSat P) : NextSat P (execBarr d a s) := by
  unfold execBarr
  simp [h]

@[simp ↓] theorem State.gateWait_memSat (p b gate d) : (s.gateWait p b gate d).MemSat P ↔ s.MemSat P := State.modGang_memSat _ _ _

@[simp ↓] theorem execBarw_memSat (d a) (h : s.MemSat P) : NextSat P (execBarw d a s) := by
  unfold execBarw
  simp [h]

@[simp ↓] theorem execBwait_memSat (d a) (h : s.MemSat P) : NextSat P (execBwait d a s) := by
  unfold execBwait
  simp [h]

@[simp ↓] theorem execBexp_memSat (d a) (h : s.MemSat P) : NextSat P (execBexp d a s) := by
  unfold execBexp
  simp [h]

@[simp ↓] theorem execBtile_memSat (d a) (h : s.MemSat P) : NextSat P (execBtile d a s) := by
  unfold execBtile
  simp [h]

@[simp ↓] theorem execBtest_memSat (d a) (h : s.MemSat P) : NextSat P (execBtest d a s) := by
  unfold execBtest
  simp [h]

@[simp ↓] theorem execBrd_memSat (d a) (h : s.MemSat P) : NextSat P (execBrd d a s) := by
  unfold execBrd
  simp [h]

@[simp ↓] theorem State.knownBody_memSat (core slot id body) : (s.knownBody core slot id body).MemSat P ↔ s.MemSat P :=
  State.modGang_memSat _ _ _

@[simp ↓] theorem State.knownResult_memSat (core slot id ws) : (s.knownResult core slot id ws).MemSat P ↔ s.MemSat P :=
  State.knownBody_memSat _ _ _ _

@[simp ↓] theorem State.freeWaiters_memSat (blk gate wakes) : (s.freeWaiters blk gate wakes).MemSat P ↔ s.MemSat P := by
  unfold State.freeWaiters
  simp

@[simp ↓] theorem gateSender_memSat (gate g0 e) : ((gateSender gate g0 s e)).MemSat P ↔ s.MemSat P := by
  unfold gateSender
  repeat' split
  all_goals simp

@[simp ↓] theorem execGateUpdate_memSat (blk gate) (h : s.MemSat P) : NextSat P (execGateUpdate blk gate s) := by
  unfold execGateUpdate
  split <;> simp [h]

@[simp ↓] theorem State.endGateWait_memSat (core slot lead g) : (s.endGateWait core slot lead g).MemSat P ↔ s.MemSat P := by
  unfold State.endGateWait
  split <;> simp

@[simp ↓] theorem State.leaveGate_memSat (core slot lead blk gate) : (s.leaveGate core slot lead blk gate).MemSat P ↔ s.MemSat P := by
  unfold State.leaveGate
  split <;> simp

@[simp ↓] theorem execGateWaiterWake_memSat (blk gate) (h : s.MemSat P) : NextSat P (execGateWaiterWake blk gate s) := by
  unfold execGateWaiterWake
  split <;> simp [h]

@[simp ↓] theorem execBlockSharedVisibility_memSat (blk id) (h : s.MemSat P) : NextSat P (execBlockSharedVisibility blk id s) := by
  simpa [execBlockSharedVisibility] using h

/-! ### State registers -/

@[simp ↓] theorem execRds_memSat (d k) (h : s.MemSat P) : NextSat P (execRds d k s) := State.issue_memSat _ h fun _ => by simp [h]

@[simp ↓] theorem writeStack_memSat (p f) : ((writeStack s p f)).MemSat P ↔ s.MemSat P := by
  unfold writeStack
  simp

@[simp ↓] theorem jsdepth_memSat (p d) : ((jsdepth s p d)).MemSat P ↔ s.MemSat P := writeStack_memSat _ _
@[simp ↓] theorem jsentry_memSat (p k v) : ((jsentry s p k v)).MemSat P ↔ s.MemSat P := writeStack_memSat _ _

@[simp ↓] theorem writeMark_memSat (p k v) : ((writeMark s p k v)).MemSat P ↔ s.MemSat P := by
  unfold writeMark
  simp

@[simp ↓] theorem writeHalt_memSat (core v) : ((writeHalt s core v)).MemSat P ↔ s.MemSat P := by
  unfold writeHalt
  simp

@[simp ↓] theorem clearRqerr_memSat (core) : ((clearRqerr s core)).MemSat P ↔ s.MemSat P := Iff.rfl

@[simp ↓] theorem writeState_memSat (p k v) : ((writeState s p k v)).MemSat P ↔ s.MemSat P := by
  unfold writeState
  extract_lets
  split
  · simp
  · split <;> simp +zetaDelta

@[simp ↓] theorem writeLanes_memSat (p a k) : ((writeLanes s p a k)).MemSat P ↔ s.MemSat P := State.modGang_memSat _ _ _

@[simp ↓] theorem execWrs_memSat (a k) (h : s.MemSat P) : NextSat P (execWrs a k s) := by
  unfold execWrs
  simp [h]

@[simp ↓] theorem execJsdepthWrite_memSat (v) (h : s.MemSat P) : NextSat P (execJsdepthWrite v s) := by
  unfold execJsdepthWrite
  split <;> simp [h]

@[simp ↓] theorem execJoinStackEntryWrite_memSat (k v) (h : s.MemSat P) : NextSat P (execJoinStackEntryWrite k v s) := by
  unfold execJoinStackEntryWrite
  repeat' split
  all_goals simp [h]

@[simp ↓] theorem execMarkRegisterWrite_memSat (k v) (h : s.MemSat P) : NextSat P (execMarkRegisterWrite k v s) := by
  unfold execMarkRegisterWrite
  repeat' split
  all_goals simp [h]

@[simp ↓] theorem execRngWrite_memSat (a) (h : s.MemSat P) : NextSat P (execRngWrite a s) := by
  unfold execRngWrite
  split <;> simp [h]

@[simp ↓] theorem execHaltWrite_memSat (core v) (h : s.MemSat P) : NextSat P (execHaltWrite core v s) := by simpa [execHaltWrite] using h

@[simp ↓] theorem execRqerrWrite_memSat (v) (h : s.MemSat P) : NextSat P (execRqerrWrite v s) := by
  unfold execRqerrWrite
  split <;> simp [h]

@[simp ↓] theorem execRdp_memSat (d k) (h : s.MemSat P) : NextSat P (execRdp d k s) := State.issue_memSat _ h fun _ => by simp [h]
@[simp ↓] theorem writePortcap_memSat (core v) : ((writePortcap s core v)).MemSat P ↔ s.MemSat P := Iff.rfl
@[simp ↓] theorem clearL2_memSat (core k) : ((clearL2 s core k)).MemSat P ↔ s.MemSat P := Iff.rfl
@[simp ↓] theorem writeKvpfree_memSat (tier v) : ((writeKvpfree s tier v)).MemSat P ↔ s.MemSat P := Iff.rfl

@[simp ↓] theorem writePriv_memSat (p k v) : ((writePriv s p k v)).MemSat P ↔ s.MemSat P := by
  unfold writePriv
  split <;> simp

@[simp ↓] theorem execPortcapWrite_memSat (v) (h : s.MemSat P) : NextSat P (execPortcapWrite v s) := by
  unfold execPortcapWrite
  repeat' split
  all_goals simp [h]

@[simp ↓] theorem execL2CounterClear_memSat (k v) (h : s.MemSat P) : NextSat P (execL2CounterClear k v s) := by
  unfold execL2CounterClear
  split <;> simp [h]

@[simp ↓] theorem execKvpfreeWrite_memSat (v) (h : s.MemSat P) : NextSat P (execKvpfreeWrite v s) := by
  unfold execKvpfreeWrite
  split <;> simp [h]

/-! ### Global memory: the writers of the bytes at the homes, and the second level -/

@[simp ↓] theorem State.modPage_memSat (va f) : (s.modPage va f).MemSat P ↔ s.MemSat P := Iff.rfl

@[simp ↓] theorem State.clearPoison_memSat (va) : (s.clearPoison va).MemSat P ↔ s.MemSat P := by
  unfold State.clearPoison
  split <;> simp

/-- A byte at its home: the writer of the bytes of every store, atomic, copy and device. -/
@[simp ↓] theorem State.setHomeByte_memSat (va b) (h : s.MemSat Canonical) : (s.setHomeByte va b).MemSat Canonical := by
  unfold State.setHomeByte
  split
  · exact h
  · extract_lets l
    split
    · exact ⟨h.1, Sp.set_wf _ _ h.2⟩
    · exact ⟨Sp.set_wf _ _ h.1, h.2⟩

@[simp ↓] theorem State.setHomeBytes_memSat (va bs) (h : s.MemSat Canonical) : (s.setHomeBytes va bs).MemSat Canonical :=
  memSat_foldl _ h fun _ _ h => State.setHomeByte_memSat _ _ h

@[simp ↓] theorem State.modSlice_memSat (die line f) : (s.modSlice die line f).MemSat P ↔ s.MemSat P := Iff.rfl
@[simp ↓] theorem State.modLine_memSat (die line f) : (s.modLine die line f).MemSat P ↔ s.MemSat P := Iff.rfl

@[simp ↓] theorem State.recallOwner_memSat (die line) : (s.recallOwner die line).MemSat P ↔ s.MemSat P := by
  unfold State.recallOwner
  split
  · rfl
  · simp only [State.modCore_memSat]
    split <;> simp

@[simp ↓] theorem State.dropCopy_memSat (core line) : (s.dropCopy core line).MemSat P ↔ s.MemSat P := by
  unfold State.dropCopy
  simp

@[simp ↓] theorem State.dropCopies_memSat (cores line) : (s.dropCopies cores line).MemSat P ↔ s.MemSat P := by
  unfold State.dropCopies
  simp

@[simp ↓] theorem State.acked_memSat (w) : (s.acked w).MemSat P ↔ s.MemSat P := by
  unfold State.acked
  split <;> simp

@[simp ↓] theorem State.revokeLine_memSat (die line) : (s.revokeLine die line).MemSat P ↔ s.MemSat P := by
  unfold State.revokeLine
  split <;> simp

@[simp ↓] theorem State.memDrop_memSat (die line) : (s.memDrop die line).MemSat P ↔ s.MemSat P := Iff.rfl

@[simp ↓] theorem State.evictLine_memSat (die line) (h : s.MemSat Canonical) : (s.evictLine die line).MemSat Canonical := by
  unfold State.evictLine
  extract_lets
  split <;> simp +zetaDelta [h]

@[simp ↓] theorem State.memLeave_memSat (m) (h : s.MemSat Canonical) : (s.memLeave m).MemSat Canonical := by
  unfold State.memLeave
  simp [h]

@[simp ↓] theorem State.memHold_memSat (die line) (h : s.MemSat Canonical) : (s.memHold die line).MemSat Canonical := by
  unfold State.memHold
  split
  · exact h
  · split
    · exact h
    · extract_lets _ _ _ _ t
      have ht : t.MemSat Canonical := by
        simp only [t]
        split
        · exact h
        · split <;> simp [h]
      split
      · exact h
      · exact ht

@[simp ↓] theorem State.flushLine_memSat (line) (h : s.MemSat Canonical) : (s.flushLine line).MemSat Canonical := by
  unfold State.flushLine
  simp [h]

@[simp ↓] theorem State.counterChanged_memSat (line) : (s.counterChanged line).MemSat P ↔ s.MemSat P :=
  foldl_memSat _ _ fun s c => foldl_memSat _ _ fun s g => by simp

@[simp ↓] theorem State.devWrite_memSat (va bs) (h : s.MemSat Canonical) : (s.devWrite va bs).MemSat Canonical := by
  have hf : ((linesOf va bs.length).foldl (fun s l => s.flushLine l) s).MemSat Canonical :=
    memSat_foldl _ h fun _ _ h => State.flushLine_memSat _ h
  simp [State.devWrite, hf]

@[simp ↓] theorem State.devWrite32_memSat (va v) (h : s.MemSat Canonical) : (s.devWrite32 va v).MemSat Canonical :=
  State.devWrite_memSat _ _ h

@[simp ↓] theorem State.devWrite64_memSat (va v) (h : s.MemSat Canonical) : (s.devWrite64 va v).MemSat Canonical :=
  State.devWrite_memSat _ _ h

@[simp ↓] theorem State.markPage_memSat (va write) : (s.markPage va write).MemSat P ↔ s.MemSat P := Iff.rfl

theorem State.appendRing_memSat (r size rec') (h : s.MemSat Canonical) : ∀ t ∈ (State.appendRing s r size rec'), t.MemSat Canonical := by
  unfold State.appendRing
  simp [h]

@[simp ↓] theorem State.deviceRing_memSat (domain line v) : (s.deviceRing domain line v).MemSat P ↔ s.MemSat P := Iff.rfl

@[simp ↓] theorem State.supRing_memSat (domain last) : (s.supRing domain last).MemSat P ↔ s.MemSat P := by
  unfold State.supRing
  simp

@[simp ↓] theorem State.errorRecord_memSat (kind fs) (h : s.MemSat Canonical) : (s.errorRecord kind fs).MemSat Canonical := by
  unfold State.errorRecord
  split
  · exact h
  · extract_lets ws
    split
    · next t ht => simp [State.appendRing_memSat _ _ _ h t ht]
    · simp [h]

@[simp ↓] theorem State.poisonPlace_memSat (p va) (h : s.MemSat Canonical) : (s.poisonPlace p va).MemSat Canonical :=
  State.errorRecord_memSat _ _ h

@[simp ↓] theorem State.leavesBy_memSat (m p) : (s.leavesBy m p).MemSat P ↔ s.MemSat P := Iff.rfl
@[simp ↓] theorem State.tellDevice_memSat (dev va say) : (s.tellDevice dev va say).MemSat P ↔ s.MemSat P := Iff.rfl

@[simp ↓] theorem State.active_memSat (f) : (s.active f).MemSat P ↔ s.MemSat P := by
  unfold State.active
  simp

@[simp ↓] theorem State.charge_memSat (home f n) : (s.charge home f n).MemSat P ↔ s.MemSat P := Iff.rfl
@[simp ↓] theorem State.serves_memSat (home f n) : (s.serves home f n).MemSat P ↔ s.MemSat P := Iff.rfl

@[simp ↓] theorem State.atHomes_memSat (e f jobs) : (s.atHomes e f jobs).1.MemSat P ↔ s.MemSat P := by
  unfold State.atHomes
  split
  · simp
  · split
    · rfl
    · extract_lets one
      refine List.foldlRecOn (motive := fun t : State × Bool => t.1.MemSat P ↔ s.MemSat P) _ _ Iff.rfl fun t ht j _ => ?_
      simp only [one]
      split <;> simp [ht]

@[simp ↓] theorem State.takeEntries_memSat (home) : (s.takeEntries home).MemSat P ↔ s.MemSat P :=
  foldl_memSat _ _ fun s k => by split <;> simp

@[simp ↓] theorem State.serveJob_memSat (j) : (s.serveJob j).MemSat P ↔ s.MemSat P := by
  unfold State.serveJob
  simp

@[simp ↓] theorem State.passTurn_memSat (home fs x) : (s.passTurn home fs x).MemSat P ↔ s.MemSat P := Iff.rfl
@[simp ↓] theorem State.spend_memSat (j x) : (s.spend j x).MemSat P ↔ s.MemSat P := Iff.rfl

@[simp ↓] theorem serveHome_memSat (home n) : (serveHome home n s).MemSat P ↔ s.MemSat P := by
  induction n generalizing s with
  | zero => rfl
  | succ n ih =>
    unfold serveHome
    extract_lets x q
    split
    · rfl
    · split
      · cases s.homeJobs.find? (·.home == home) with
        | none => rfl
        | some j => simp [ih]
      · split
        · split <;> simp [ih]
        · simp [ih]

@[simp ↓] theorem State.homesServe_memSat : s.homesServe.MemSat P ↔ s.MemSat P := by
  unfold State.homesServe
  simp

@[simp ↓] theorem State.toPort_memSat (core cost e) : (s.toPort core cost e).MemSat P ↔ s.MemSat P := by
  unfold State.toPort
  simp

@[simp ↓] theorem State.modPend_memSat (core slot id f) : (s.modPend core slot id f).MemSat P ↔ s.MemSat P := State.modGang_memSat _ _ _

@[simp ↓] theorem State.portHome_memSat (core cost what r) : (s.portHome core cost what r).MemSat P ↔ s.MemSat P :=
  State.toPort_memSat _ _ _

@[simp ↓] theorem State.requestBack_memSat (core what line) : (s.requestBack core what line).MemSat P ↔ s.MemSat P := Iff.rfl
@[simp ↓] theorem State.requestGone_memSat (core what line) : (s.requestGone core what line).MemSat P ↔ s.MemSat P := Iff.rfl

@[simp ↓] theorem State.requestLeaves_memSat (core e) : (s.requestLeaves core e).MemSat P ↔ s.MemSat P := by
  unfold State.requestLeaves
  simp

@[simp ↓] theorem State.markLeaves_memSat (core e) : (s.markLeaves core e).MemSat P ↔ s.MemSat P := by
  unfold State.markLeaves
  split <;> simp

@[simp ↓] theorem departAll_memSat (fuel core) : (departAll fuel s core).MemSat P ↔ s.MemSat P := by
  induction fuel generalizing s with
  | zero => rfl
  | succ n ih =>
    unfold departAll
    extract_lets
    split
    · split
      · simp [ih]
      · rfl
    · rfl

@[simp ↓] theorem execPortRequestDepart_memSat (core) (h : s.MemSat P) : NextSat P (execPortRequestDepart core s) := by
  unfold execPortRequestDepart
  simp [h]

@[simp ↓] theorem execPortBucketRefill_memSat (core) (h : s.MemSat P) : NextSat P (execPortBucketRefill core s) := by
  simpa [execPortBucketRefill] using h

@[simp ↓] theorem State.appendEntry_memSat (core slot g line bytes relm atom) :
    (s.appendEntry core slot g line bytes relm atom).MemSat P ↔ s.MemSat P := by
  unfold State.appendEntry
  simp

@[simp ↓] theorem State.appendWrites_memSat (core slot g ws atom) : (s.appendWrites core slot g ws atom).MemSat P ↔ s.MemSat P := by
  unfold State.appendWrites
  simp

@[simp ↓] theorem State.urge_memSat (core p) : (s.urge core p).MemSat P ↔ s.MemSat P := by
  unfold State.urge
  extract_lets
  split <;> simp +zetaDelta

@[simp ↓] theorem State.urgeRange_memSat (lo n) : (s.urgeRange lo n).MemSat P ↔ s.MemSat P := by
  unfold State.urgeRange
  simp

@[simp ↓] theorem State.endHold_memSat (core slot lead) : (s.endHold core slot lead).MemSat P ↔ s.MemSat P := State.modGang_memSat _ _ _

@[simp ↓] theorem State.endHoldIn_memSat (core slot lead ctx) : (s.endHoldIn core slot lead ctx).MemSat P ↔ s.MemSat P :=
  State.modGang_memSat _ _ _

@[simp ↓] theorem State.hold_memSat (p again) : (s.hold p again).MemSat P ↔ s.MemSat P := State.modGang_memSat _ _ _

/-! ### Loads and stores -/

@[simp ↓] theorem State.modLanes_memSat (core slot id f) : (s.modLanes core slot id f).MemSat P ↔ s.MemSat P := by
  unfold State.modLanes
  extract_lets
  split <;> simp +zetaDelta

@[simp ↓] theorem State.sendHome_memSat (core what r) : (s.sendHome core what r).MemSat P ↔ s.MemSat P := by
  unfold State.sendHome
  extract_lets
  split <;> simp +zetaDelta

@[simp ↓] theorem State.askHome_memSat (core slot id access va) : (s.askHome core slot id access va).MemSat P ↔ s.MemSat P :=
  State.sendHome_memSat _ _ _

@[simp ↓] theorem State.fetchBegins_memSat (core what line) : (s.fetchBegins core what line).MemSat P ↔ s.MemSat P := Iff.rfl

@[simp ↓] theorem State.arrives_memSat (core what line) : (s.arrives core what line).MemSat P ↔ s.MemSat P := by
  unfold State.arrives
  split <;> simp

@[simp ↓] theorem State.useTicket_memSat (va) : (s.useTicket va).MemSat P ↔ s.MemSat P := by
  unfold State.useTicket
  simp

@[simp ↓] theorem State.shareOther_memSat (die line) (h : s.MemSat Canonical) : (s.shareOther die line).MemSat Canonical := by
  unfold State.shareOther
  extract_lets
  repeat' split
  all_goals simp +zetaDelta [h]

@[simp ↓] theorem State.fillLine_memSat (cls mask die line) (h : s.MemSat Canonical) : (s.fillLine cls mask die line).MemSat Canonical := by
  unfold State.fillLine
  extract_lets s1 _ s2
  have h1 : s1.MemSat Canonical := by simp [s1, h]
  have h2 : s2.MemSat Canonical := by
    simp only [s2]
    split <;> simp [h1]
  simp [h2]

@[simp ↓] theorem State.countHit_memSat (cls die line) : (s.countHit cls die line).MemSat P ↔ s.MemSat P := Iff.rfl

@[simp ↓] theorem State.countOnce_memSat (core what key line) : (s.countOnce core what key line).MemSat P ↔ s.MemSat P := by
  unfold State.countOnce
  simp

@[simp ↓] theorem State.giveLine_memSat (core die line p) : (s.giveLine core die line p).MemSat P ↔ s.MemSat P :=
  foldl_memSat _ _ fun s g => foldl_memSat _ _ fun s d => by split <;> simp

@[simp ↓] theorem State.serveLine_memSat (core die line cls) : (s.serveLine core die line cls).MemSat P ↔ s.MemSat P := by
  unfold State.serveLine
  extract_lets
  split <;> simp +zetaDelta

@[simp ↓] theorem State.writer_memSat {s t : State} (p : Party) (h : s.MemSat P) (ht : t.MemSat P) :
    (s.writer p t).MemSat P := by
  unfold State.writer
  split
  · simpa using h
  · exact ht

@[simp ↓] theorem execLd_memSat (t a kind k) (h : s.MemSat P) : NextSat P (execLd t a kind k s) := by
  refine State.issue_memSat _ h fun p => ?_
  extract_lets
  split <;> simp +zetaDelta [h]

@[simp ↓] theorem execSt_memSat (t a kind k) (h : s.MemSat P) : NextSat P (execSt t a kind k s) := by
  refine State.issue_memSat _ h fun p => ?_
  extract_lets
  split <;> simp +zetaDelta [h]

@[simp ↓] theorem execLds_memSat (t a kind k) (h : s.MemSat P) : NextSat P (execLds t a kind k s) := by
  refine State.issue_memSat _ h fun p => ?_
  extract_lets
  split
  · simp [h]
  · split <;> simp +zetaDelta [h]

@[simp ↓] theorem execSts_memSat (t a kind k) (h : s.MemSat P) : NextSat P (execSts t a kind k s) := by
  refine State.issue_memSat _ h fun p => ?_
  extract_lets
  split
  · simp [h]
  · split <;> simp +zetaDelta [h]

@[simp ↓] theorem State.faultRecord_memSat (ws) (h : s.MemSat Canonical) : (s.faultRecord ws).1.MemSat Canonical := by
  unfold State.faultRecord
  split
  · exact h
  · extract_lets
    split
    · next t ht => simp [State.appendRing_memSat _ _ _ h t ht]
    · simp [h]

@[simp ↓] theorem State.recordParked_memSat (r code who) (h : s.MemSat Canonical) : (s.recordParked r code who).MemSat Canonical := by
  unfold State.recordParked
  extract_lets
  split <;> simp +zetaDelta [h]

@[simp ↓] theorem State.recordRefusal_memSat (r code who) (h : s.MemSat Canonical) : (s.recordRefusal r code who).MemSat Canonical := by
  unfold State.recordRefusal
  simp [h]

@[simp ↓] theorem State.requestEnds_memSat (core what va) : (s.requestEnds core what va).MemSat P ↔ s.MemSat P := Iff.rfl

@[simp ↓] theorem State.parkReq_memSat (core what r code wait reroute) : (s.parkReq core what r code wait reroute).MemSat P ↔ s.MemSat P := by
  unfold State.parkReq
  simp

@[simp ↓] theorem State.routed_memSat (core what) : (s.routed core what).MemSat P ↔ s.MemSat P := Iff.rfl

@[simp ↓] theorem State.replayOne_memSat (core r) : (s.replayOne core r).MemSat P ↔ s.MemSat P := by
  unfold State.replayOne
  split <;> simp

@[simp ↓] theorem State.replay_memSat (core p) : (s.replay core p).MemSat P ↔ s.MemSat P := by
  unfold State.replay
  simp

@[simp ↓] theorem execResumeMessage_memSat (core va size) (h : s.MemSat P) : NextSat P (execResumeMessage core va size s) := by
  unfold execResumeMessage
  simp [h]

@[simp ↓] theorem execRefusalReplayTimer_memSat (core what) (h : s.MemSat P) : NextSat P (execRefusalReplayTimer core what s) := by
  simpa [execRefusalReplayTimer] using h

@[simp ↓] theorem execRerouteReplay_memSat (core what) (h : s.MemSat P) : NextSat P (execRerouteReplay core what s) := by
  simpa [execRerouteReplay] using h

@[simp ↓] theorem State.resumeRange_memSat (va size) : (s.resumeRange va size).MemSat P ↔ s.MemSat P := by
  unfold State.resumeRange
  simp

@[simp ↓] theorem State.refuseGang_memSat (core slot blk launch code access va remote bySuper) :
    (s.refuseGang core slot blk launch code access va remote bySuper).MemSat P ↔ s.MemSat P := by
  unfold State.refuseGang
  split <;> simp

@[simp ↓] theorem State.moreRefused_memSat (core slot) : (s.moreRefused core slot).MemSat P ↔ s.MemSat P := State.modGang_memSat _ _ _

@[simp ↓] theorem State.entryGone_memSat (core seq stamp acked) : (s.entryGone core seq stamp acked).MemSat P ↔ s.MemSat P := by
  unfold State.entryGone
  split <;> simp

@[simp ↓] theorem State.setUnit_memSat (core work u st) : (s.setUnit core work u st).MemSat P ↔ s.MemSat P := Iff.rfl

@[simp ↓] theorem State.knownTrap_memSat (core slot id ws t) : (s.knownTrap core slot id ws t).MemSat P ↔ s.MemSat P :=
  State.modPend_memSat _ _ _ _

@[simp ↓] theorem State.withdraw_memSat (core e) : (s.withdraw core e).MemSat P ↔ s.MemSat P := by
  unfold State.withdraw
  simp

@[simp ↓] theorem State.finalRefusal_memSat (core what access va code remote) :
    (s.finalRefusal core what access va code remote).MemSat P ↔ s.MemSat P := by
  unfold State.finalRefusal
  extract_lets
  repeat' split
  all_goals simp +zetaDelta

@[simp ↓] theorem State.crossBridge_memSat (core slot id) : (s.crossBridge core slot id).MemSat P ↔ s.MemSat P := by
  unfold State.crossBridge
  split <;> simp

@[simp ↓] theorem State.resumeRecord_memSat (w) : (s.resumeRecord w).MemSat P ↔ s.MemSat P := Iff.rfl

@[simp ↓] theorem State.errorLine_memSat (f v) : (s.errorLine f v).MemSat P ↔ s.MemSat P := by
  unfold State.errorLine
  simp

@[simp ↓] theorem State.trapLanes_memSat (core slot g d bad) : (s.trapLanes core slot g d bad).MemSat P ↔ s.MemSat P := by
  unfold State.trapLanes
  split <;> simp

@[simp ↓] theorem State.poisonLanes_memSat (core slot g bad) : (s.poisonLanes core slot g bad).MemSat P ↔ s.MemSat P := by
  unfold State.poisonLanes
  split <;> simp

@[simp ↓] theorem State.refusedLoad_memSat (core slot g d bad) : (s.refusedLoad core slot g d bad).MemSat P ↔ s.MemSat P := by
  unfold State.refusedLoad
  simp

@[simp ↓] theorem State.freePath_memSat (core slot id) : (s.freePath core slot id).MemSat P ↔ s.MemSat P := Iff.rfl

@[simp ↓] theorem State.landPend_memSat (core slot id ws) : (s.landPend core slot id ws).MemSat P ↔ s.MemSat P := by
  unfold State.landPend
  simp

@[simp ↓] theorem State.landKvx_memSat (core slot g d reg stall lanes) :
    (s.landKvx core slot g d reg stall lanes).MemSat P ↔ s.MemSat P := by
  unfold State.landKvx
  extract_lets s1 _ s2 bad s3
  have h2 : s2.MemSat P ↔ s.MemSat P := by simp [s2, s1]
  have h3 : s3.MemSat P ↔ s.MemSat P := by
    rw [← h2]
    simp only [s3]
    cases bad <;> simp
  split <;> simp [h3]

@[simp ↓] theorem execVariableReturnLanding_memSat (core slot id) (h : s.MemSat P) : NextSat P (execVariableReturnLanding core slot id s) := by
  unfold execVariableReturnLanding
  extract_lets
  repeat' split
  all_goals simp +zetaDelta [h]

/-! ### Leat entries -/

@[simp ↓] theorem State.cursorJump_memSat (core source tail) : (s.cursorJump core source tail).MemSat P ↔ s.MemSat P := Iff.rfl

@[simp ↓] theorem State.cursorLimit_memSat (core source) : (s.cursorLimit core source).MemSat P ↔ s.MemSat P := by
  unfold State.cursorLimit
  simp

@[simp ↓] theorem State.publish_memSat (core) : (s.publish core).MemSat P ↔ s.MemSat P := by
  unfold State.publish
  extract_lets
  split <;> simp +zetaDelta

@[simp ↓] theorem execLeatEntrySeal_memSat (core seq) (h : s.MemSat P) : NextSat P (execLeatEntrySeal core seq s) := by
  unfold execLeatEntrySeal
  split <;> simp [h]

@[simp ↓] theorem execTailBroadcastArrival_memSat (core tail) (h : s.MemSat P) : NextSat P (execTailBroadcastArrival core tail s) := by
  simpa [execTailBroadcastArrival] using h

@[simp ↓] theorem execReplayCursorLimit_memSat (core source) (h : s.MemSat P) : NextSat P (execReplayCursorLimit core source s) := by
  simpa [execReplayCursorLimit] using h

@[simp ↓] theorem execLeatCompaction_memSat (core seqA seqB) (h : s.MemSat P) : NextSat P (execLeatCompaction core seqA seqB s) := by
  unfold execLeatCompaction
  extract_lets
  split <;> simp +zetaDelta [h]

@[simp ↓] theorem execLeatDrainStart_memSat (core) (h : s.MemSat P) : NextSat P (execLeatDrainStart core s) := by
  unfold execLeatDrainStart
  simp [h]

@[simp ↓] theorem State.takeOwnership_memSat (die line) (h : s.MemSat Canonical) : (s.takeOwnership die line).MemSat Canonical := by
  unfold State.takeOwnership
  simp [h]

@[simp ↓] theorem execOwnershipRequest_memSat (die line) (h : s.MemSat Canonical) : NextSat Canonical (execOwnershipRequest die line s) :=
  State.takeOwnership_memSat _ _ h

@[simp ↓] theorem execLineOwnershipRecall_memSat (die line) (h : s.MemSat P) : NextSat P (execLineOwnershipRecall die line s) := by
  simpa [execLineOwnershipRecall] using h

@[simp ↓] theorem execDirtyWriteback_memSat (die line) (h : s.MemSat Canonical) : NextSat Canonical (execDirtyWriteback die line s) :=
  State.evictLine_memSat _ _ h

@[simp ↓] theorem execLeaseExpiry_memSat (core line) (h : s.MemSat P) : NextSat P (execLeaseExpiry core line s) := by
  simpa [execLeaseExpiry] using h

@[simp ↓] theorem execFirstLevelCopyDeparture_memSat (core line) (h : s.MemSat P) : NextSat P (execFirstLevelCopyDeparture core line s) := by
  simpa [execFirstLevelCopyDeparture] using h

@[simp ↓] theorem State.patchLine_memSat (die line bytes) : (s.patchLine die line bytes).MemSat P ↔ s.MemSat P :=
  State.counterChanged_memSat _

@[simp ↓] theorem State.setEntry_memSat (core seq f) : (s.setEntry core seq f).MemSat P ↔ s.MemSat P := Iff.rfl

@[simp ↓] theorem State.tellSharers_memSat (die line core what) : (s.tellSharers die line core what).1.MemSat P ↔ s.MemSat P := by
  unfold State.tellSharers
  split <;> simp

@[simp ↓] theorem State.applyEntry_memSat (core die e) (h : s.MemSat Canonical) : (s.applyEntry core die e).MemSat Canonical := by
  unfold State.applyEntry
  simp [h]

@[simp ↓] theorem State.cleanLater_memSat (d) : (s.cleanLater d).MemSat P ↔ s.MemSat P := Iff.rfl

@[simp ↓] theorem State.cleaned_memSat (p) : (s.cleaned p).MemSat P ↔ s.MemSat P := by
  unfold State.cleaned
  simp

@[simp ↓] theorem State.revokeFrom_memSat (region device) : (s.revokeFrom region device).MemSat P ↔ s.MemSat P := Iff.rfl

@[simp ↓] theorem State.staleTickets_memSat (va who) : (s.staleTickets va who).MemSat P ↔ s.MemSat P := by
  unfold State.staleTickets
  split
  · rfl
  · cases who <;> simp

@[simp ↓] theorem State.recallTicket_memSat (va) : (s.recallTicket va).MemSat P ↔ s.MemSat P := by
  unfold State.recallTicket
  split <;> simp

@[simp ↓] theorem State.queueAt_memSat (region r) : (s.queueAt region r).MemSat P ↔ s.MemSat P := Iff.rfl

@[simp ↓] theorem State.nextAt_memSat (region) : (s.nextAt region).MemSat P ↔ s.MemSat P := by
  unfold State.nextAt
  split <;> simp

@[simp ↓] theorem State.turnOver_memSat (region r) : (s.turnOver region r).MemSat P ↔ s.MemSat P := by
  unfold State.turnOver
  simp

/-- A request whose turn has come is served; any other is queued. -/
@[simp ↓] theorem State.inTurn_memSat {s : State} (r : HomeReq) (device : Option Nat) {go : State → Result} (h : s.MemSat P)
    (hg : ∀ s : State, s.MemSat P → NextSat P (go s)) : NextSat P (s.inTurn r device go) := by
  unfold State.inTurn
  dsimp only
  split
  · exact hg s h
  · split
    · simpa using h
    · split
      · simpa using h
      · exact hg _ (by simpa using h)

@[simp ↓] theorem State.applyAtHome_memSat (core e) (h : s.MemSat Canonical) : (s.applyAtHome core e).MemSat Canonical := by
  unfold State.applyAtHome
  extract_lets s1 s2 s3 s4
  have h2 : s2.MemSat Canonical := by simp [s2, s1, h]
  have h3 : s3.MemSat Canonical := by
    simp only [s3, State.counterChanged_memSat]
    exact memSat_foldl _ h2 fun _ _ h => State.setHomeByte_memSat _ _ h
  simp [s4, h3]

@[simp ↓] theorem execSliceEntryApply_memSat (core seq) (h : s.MemSat Canonical) : NextSat Canonical (execSliceEntryApply core seq s) := by
  unfold execSliceEntryApply
  extract_lets
  split <;> simp +zetaDelta [h]

@[simp ↓] theorem execSliceMissMerge_memSat (core seq) (h : s.MemSat Canonical) : NextSat Canonical (execSliceMissMerge core seq s) := by
  unfold execSliceMissMerge
  split <;> simp [h]

@[simp ↓] theorem execLeatDrainAck_memSat (core seq stamp) (h : s.MemSat P) : NextSat P (execLeatDrainAck core seq stamp s) := by
  unfold execLeatDrainAck
  simp [h]

@[simp ↓] theorem execInvalidationAck_memSat (die line core) (h : s.MemSat P) : NextSat P (execInvalidationAck die line core s) := by
  unfold execInvalidationAck
  extract_lets
  split <;> simp +zetaDelta [h]

/-! ### Releases, acquires and cache control -/

@[simp ↓] theorem State.leaveCore_memSat (core e) : (s.leaveCore core e).MemSat P ↔ s.MemSat P := by
  unfold State.leaveCore
  split
  · split <;> simp
  · simp

@[simp ↓] theorem State.urgeCovered_memSat (core) : (s.urgeCovered core).MemSat P ↔ s.MemSat P := by
  unfold State.urgeCovered
  simp

@[simp ↓] theorem State.startRelease_memSat (p scope) : (s.startRelease p scope).MemSat P ↔ s.MemSat P := by
  unfold State.startRelease
  simp

@[simp ↓] theorem State.afterThese_memSat (p ids e) : (s.afterThese p ids e).MemSat P ↔ s.MemSat P := by
  unfold State.afterThese
  simp

@[simp ↓] theorem State.afterReleases_memSat (p e) : (s.afterReleases p e).MemSat P ↔ s.MemSat P := State.afterThese_memSat _ _ _

@[simp ↓] theorem State.releaseGone_memSat (core id) : (s.releaseGone core id).MemSat P ↔ s.MemSat P := by
  unfold State.releaseGone
  simp

@[simp ↓] theorem State.hostBack_memSat (h : s.MemSat Canonical) : s.hostBack.MemSat Canonical :=
  memSat_foldl _ h fun s l h => by
    extract_lets t
    have ht : t.MemSat Canonical := by simpa [t] using h
    split <;> simp [ht]

@[simp ↓] theorem State.toHost_memSat (core id) (h : s.MemSat Canonical) : (s.toHost core id).MemSat Canonical := State.hostBack_memSat h

@[simp ↓] theorem execReleaseCompletion_memSat (core id) (h : s.MemSat Canonical) : NextSat Canonical (execReleaseCompletion core id s) := by
  unfold execReleaseCompletion
  repeat' split
  all_goals simp [h]

@[simp ↓] theorem execRel_memSat (scope) (h : s.MemSat P) : NextSat P (execRel scope s) := State.issue_memSat _ h fun _ => by simp [h]
@[simp ↓] theorem State.setCursor_memSat (core source t) : (s.setCursor core source t).MemSat P ↔ s.MemSat P := Iff.rfl
@[simp ↓] theorem State.patchFrom_memSat (core source e) : (s.patchFrom core source e).MemSat P ↔ s.MemSat P := Iff.rfl

@[simp ↓] theorem replayEntries_memSat (core source es) : (replayEntries core source es s).1.MemSat P ↔ s.MemSat P := by
  induction es generalizing s with
  | nil => rfl
  | cons e es ih =>
    unfold replayEntries
    split
    · exact ih
    · split
      · rfl
      · simp [ih]

@[simp ↓] theorem State.takeUnpassed_memSat (core source p) : (s.takeUnpassed core source p).MemSat P ↔ s.MemSat P := Iff.rfl

@[simp ↓] theorem State.replayTrail_memSat (core source cur upto) : (s.replayTrail core source cur upto).MemSat P ↔ s.MemSat P := by
  unfold State.replayTrail
  simp

@[simp ↓] theorem State.replayFull_memSat (core source) : (s.replayFull core source).1.MemSat P ↔ s.MemSat P := by
  unfold State.replayFull
  split <;> simp

@[simp ↓] theorem State.replayLeat_memSat (core source tail) : (s.replayLeat core source tail).1.MemSat P ↔ s.MemSat P := by
  unfold State.replayLeat
  extract_lets
  repeat' split
  all_goals simp +zetaDelta

@[simp ↓] theorem State.clusterReplay_memSat (core) : (s.clusterReplay core).1.MemSat P ↔ s.MemSat P :=
  List.foldlRecOn (motive := fun r : State × Bool => r.1.MemSat P ↔ s.MemSat P) _ _ Iff.rfl fun r hr k _ => by
    dsimp only
    split <;> simp [hr]

@[simp ↓] theorem State.acquire_memSat (core scope) : (s.acquire core scope).1.MemSat P ↔ s.MemSat P := by
  unfold State.acquire
  simp

@[simp ↓] theorem execAcq_memSat (scope) (h : s.MemSat P) : NextSat P (execAcq scope s) := State.issue_memSat _ h fun _ => by simp [h]

@[simp ↓] theorem State.waitEntries_memSat (p kind es stamp upto lines) : (s.waitEntries p kind es stamp upto lines).MemSat P ↔ s.MemSat P :=
  State.hold_memSat _ _

@[simp ↓] theorem execAcql_memSat (a) (h : s.MemSat P) : NextSat P (execAcql a s) := State.issue_memSat _ h fun _ => by simp [h]

@[simp ↓] theorem execPromotionComplete_memSat (core id) (h : s.MemSat P) : NextSat P (execPromotionComplete core id s) := by
  unfold execPromotionComplete
  split <;> simp [h]

@[simp ↓] theorem cflOp_memSat {s : State} (i : Instr) (d a : Reg) (need : Nat) (limit : Bool) {f : Party → Nat → Nat → State}
    (h : s.MemSat P) (hf : ∀ p base len, (f p base len).MemSat P) : NextSat P (cflOp i d a need limit f s) := by
  refine State.issue_memSat i h fun p => ?_
  dsimp only
  repeat' split
  all_goals simp [h, hf]

@[simp ↓] theorem execCwb_memSat (d a) (h : s.MemSat P) : NextSat P (execCwb d a s) := by
  unfold execCwb
  simp [h]

@[simp ↓] theorem State.invalidateRange_memSat (core lo hi) : (s.invalidateRange core lo hi).MemSat P ↔ s.MemSat P := by
  unfold State.invalidateRange
  simp

@[simp ↓] theorem execCinv_memSat (d a) (h : s.MemSat P) : NextSat P (execCinv d a s) := by
  unfold execCinv
  simp [h]

@[simp ↓] theorem execCpref_memSat (d a) (h : s.MemSat P) : NextSat P (execCpref d a s) := by
  unfold execCpref
  simp [h]

@[simp ↓] theorem State.discardLine_memSat (core line) : (s.discardLine core line).MemSat P ↔ s.MemSat P := by
  unfold State.discardLine
  extract_lets drop _ t
  have hdrop (s : State) (die : Nat) : (drop s die).MemSat P ↔ s.MemSat P := by
    simp only [drop]
    split <;> simp
  simp [t, hdrop]

@[simp ↓] theorem execCdisc_memSat (d a) (h : s.MemSat P) : NextSat P (execCdisc d a s) := by
  unfold execCdisc
  simp [h]

/-! ### Atomics and counters -/

@[simp ↓] theorem State.modAtom_memSat (core id f) : (s.modAtom core id f).MemSat P ↔ s.MemSat P := Iff.rfl

@[simp ↓] theorem execSliceFill_memSat (core slot pend line granted) (h : s.MemSat Canonical) :
    NextSat Canonical (execSliceFill core slot pend line granted s) := by
  unfold execSliceFill
  extract_lets
  repeat' split
  all_goals simp +zetaDelta [h]

@[simp ↓] theorem atomIssue_memSat (i ret d a scope order aop) (h : s.MemSat P) : NextSat P (atomIssue i ret d a scope order aop s) := by
  refine State.issue_memSat _ h fun p => ?_
  extract_lets
  repeat' split
  all_goals simp +zetaDelta [h]

@[simp ↓] theorem execAtom_memSat (d a scope order aop) (h : s.MemSat P) : NextSat P (execAtom d a scope order aop s) :=
  atomIssue_memSat _ _ _ _ _ _ _ h

@[simp ↓] theorem execRed_memSat (d a scope order aop) (h : s.MemSat P) : NextSat P (execRed d a scope order aop s) :=
  atomIssue_memSat _ _ _ _ _ _ _ h

@[simp ↓] theorem State.laneDone_memSat (core a l old stamp out) : (s.laneDone core a l old stamp out).MemSat P ↔ s.MemSat P := by
  unfold State.laneDone
  simp

@[simp ↓] theorem State.performCore_memSat (core a) : (s.performCore core a).MemSat P ↔ s.MemSat P := State.appendWrites_memSat _ _ _ _ _

@[simp ↓] theorem State.atomCore_memSat (core a) : (s.atomCore core a).MemSat P ↔ s.MemSat P := by
  unfold State.atomCore
  simp

@[simp ↓] theorem State.performSlice_memSat (core a l) (h : s.MemSat Canonical) : (s.performSlice core a l).MemSat Canonical := by
  unfold State.performSlice
  extract_lets
  split <;> simp +zetaDelta [h]

@[simp ↓] theorem State.performOwned_memSat (core a l) : (s.performOwned core a l).MemSat P ↔ s.MemSat P := by
  unfold State.performOwned
  extract_lets
  split <;> simp +zetaDelta

@[simp ↓] theorem State.grantLine_memSat (core line) (h : s.MemSat Canonical) : (s.grantLine core line).MemSat Canonical := by
  unfold State.grantLine
  extract_lets
  split <;> simp +zetaDelta [h]

@[simp ↓] theorem State.performWide_memSat (core a l) (h : s.MemSat Canonical) : (s.performWide core a l).MemSat Canonical := by
  unfold State.performWide
  extract_lets _ _ _ _ s1 _ s2 s3 s4
  split
  · have h1 : s1.MemSat Canonical := by simp [s1, h]
    have h2 : s2.MemSat Canonical := by
      simp only [s2, State.counterChanged_memSat]
      exact memSat_foldl _ h1 fun _ _ h => State.setHomeByte_memSat _ _ h
    simp [s3, h2]
  · have h4 : s4.MemSat Canonical := by simp [s4, h]
    split
    · exact h4
    · split
      · simp [h4]
      · simp only [State.memSat_ite]
        split <;> simp [h4]

@[simp ↓] theorem State.atomWide_memSat (core a l granted) (h : s.MemSat Canonical) : (s.atomWide core a l granted).MemSat Canonical := by
  unfold State.atomWide
  simp [h]

@[simp ↓] theorem State.atomTell_memSat (core a) : (s.atomTell core a).MemSat P ↔ s.MemSat P := by
  unfold State.atomTell
  extract_lets s1 _ _ _ _ s2
  have h1 : s1.MemSat P ↔ s.MemSat P := by simp [s1]
  have h2 : s2.MemSat P ↔ s1.MemSat P := by
    simp only [s2]
    split
    · simp
    · rfl
    · simp
  simp [h2, h1]

@[simp ↓] theorem State.atomEnd_memSat (core a) : (s.atomEnd core a).MemSat P ↔ s.MemSat P := by
  unfold State.atomEnd
  extract_lets _ _ r s1 s2
  have hr : r.1.MemSat P ↔ s.MemSat P := by simp [r]
  have h2 : s2.MemSat P ↔ s.MemSat P := by simp [s2, s1, hr]
  simp [hr, h2]

@[simp ↓] theorem execSliceAtomic_memSat (core _slot pend granted) (h : s.MemSat Canonical) :
    NextSat Canonical (execSliceAtomic core _slot pend granted s) := by
  unfold execSliceAtomic
  split
  · simp [h]
  · split <;> simp [h]

@[simp ↓] theorem counterOp_memSat {s : State} (i : Instr) (a : Reg) {f : Party → Nat → State} (h : s.MemSat P)
    (hf : ∀ p va, (f p va).MemSat P) : NextSat P (counterOp i a f s) := by
  refine State.issue_memSat i h fun p => ?_
  dsimp only
  repeat' split
  all_goals simp [h, hf]

@[simp ↓] theorem execCtrw_memSat (d a) (h : s.MemSat P) : NextSat P (execCtrw d a s) := by
  unfold execCtrw
  simp [h]

@[simp ↓] theorem State.counterRead_memSat (p regs va test d) : (s.counterRead p regs va test d).MemSat P ↔ s.MemSat P := by
  unfold State.counterRead
  simp

@[simp ↓] theorem execCtrt_memSat (d a) (h : s.MemSat P) : NextSat P (execCtrt d a s) := by
  unfold execCtrt
  simp [h]

@[simp ↓] theorem execCtrrd_memSat (d a) (h : s.MemSat P) : NextSat P (execCtrrd d a s) := by
  unfold execCtrrd
  simp [h]

@[simp ↓] theorem State.ctrwGoesOn_memSat (core slot lead g stay) : (s.ctrwGoesOn core slot lead g stay).MemSat P ↔ s.MemSat P := by
  unfold State.ctrwGoesOn
  simp

@[simp ↓] theorem execCtrwWake_memSat (core slot lead) (h : s.MemSat Canonical) : NextSat Canonical (execCtrwWake core slot lead s) := by
  unfold execCtrwWake
  repeat' split
  all_goals simp [h]

/-! ### The on-chip map -/

@[simp ↓] theorem State.winPutGang_memSat (core slot g off v) : (s.winPutGang core slot g off v).MemSat P ↔ s.MemSat P := by
  unfold State.winPutGang
  simp

@[simp ↓] theorem State.winPutScratch_memSat (b part off v) : (s.winPutScratch b part off v).MemSat P ↔ s.MemSat P := by
  unfold State.winPutScratch
  simp

@[simp ↓] theorem State.winPutReg_memSat (p r v) : (s.winPutReg p r v).MemSat P ↔ s.MemSat P := by
  unfold State.winPutReg
  simp

@[simp ↓] theorem State.winPut_memSat (va low vs) : (s.winPut va low vs).MemSat P ↔ s.MemSat P := by
  induction vs generalizing s va low with
  | nil => rfl
  | cons v vs ih =>
    unfold State.winPut
    extract_lets core c off s0 s1 s2
    split
    · refine (ih _ _).trans ?_
      simp only [s0]
      split
      · split <;> simp
      · split <;> simp
      · rfl
    · refine (ih _ _).trans ?_
      simp only [s1]
      split <;> simp
    · refine (ih _ _).trans ?_
      simp only [s2]
      split <;> simp
    · simp [ih]
    · simp [ih]
    · simp [ih]
    · exact ih _ _
    · split
      · split
        · simp [ih]
        · split
          · simp [ih]
          · split
            · simp
            · exact ih _ _
      · exact ih _ _

@[simp ↓] theorem State.consumeError_memSat (core slot blk at') : (s.consumeError core slot blk at').MemSat P ↔ s.MemSat P := by
  unfold State.consumeError
  simp

@[simp ↓] theorem State.windowBad_memSat (core slot blk va size) : (s.windowBad core slot blk va size).MemSat P ↔ s.MemSat P := by
  unfold State.windowBad
  simp

@[simp ↓] theorem State.winRead_memSat (phys domain va size) : (s.winRead phys domain va size).2.MemSat P ↔ s.MemSat P := by
  unfold State.winRead
  split <;> simp

@[simp ↓] theorem State.winWrite_memSat (phys domain va bs) : (s.winWrite phys domain va bs).MemSat P ↔ s.MemSat P := by
  unfold State.winWrite
  simp

@[simp ↓] theorem execWindowAccessArrival_memSat (core id) (h : s.MemSat P) : NextSat P (execWindowAccessArrival core id s) := by
  unfold execWindowAccessArrival
  extract_lets
  repeat' split
  all_goals simp +zetaDelta [h]

@[simp ↓] theorem State.sendWindows_memSat (p size pend as) : (s.sendWindows p size pend as).MemSat P ↔ s.MemSat P := by
  unfold State.sendWindows
  simp

@[simp ↓] theorem execLdw_memSat (t a kind k) (h : s.MemSat P) : NextSat P (execLdw t a kind k s) := by
  refine State.issue_memSat _ h fun p => ?_
  extract_lets
  split <;> simp +zetaDelta [h]

@[simp ↓] theorem execStw_memSat (t a kind k) (h : s.MemSat P) : NextSat P (execStw t a kind k s) := by
  refine State.issue_memSat _ h fun p => ?_
  extract_lets
  split <;> simp +zetaDelta [h]

/-! ### Engine works -/

@[simp ↓] theorem State.forker_memSat {s t : State} (p : Party) (h : s.MemSat P) (ht : t.MemSat P) :
    (s.forker p t).MemSat P := by
  refine State.writer_memSat p h ?_
  split
  · simpa using h
  · exact ht

@[simp ↓] theorem State.fork_memSat (p gate units) : (s.fork p gate units).MemSat P ↔ s.MemSat P := by
  unfold State.fork
  simp

@[simp ↓] theorem execLdx_memSat (t a kind k) (h : s.MemSat P) : NextSat P (execLdx t a kind k s) := by
  refine State.issue_memSat _ h fun p => ?_
  extract_lets
  split
  · simp [h]
  · split <;> simp +zetaDelta [h]

@[simp ↓] theorem execCpl_memSat (t a kind k) (h : s.MemSat P) : NextSat P (execCpl t a kind k s) := by
  refine State.issue_memSat _ h fun p => ?_
  extract_lets
  split
  · simp [h]
  · split <;> simp +zetaDelta [h]

@[simp ↓] theorem State.copyRecord_memSat (core r) : (s.copyRecord core r).MemSat P ↔ s.MemSat P := by
  unfold State.copyRecord
  extract_lets
  split <;> simp +zetaDelta

@[simp ↓] theorem State.copyRecords_memSat (core) : (s.copyRecords core).MemSat P ↔ s.MemSat P := by
  unfold State.copyRecords
  simp

@[simp ↓] theorem execKick_memSat (d a b) (h : s.MemSat P) : NextSat P (execKick d a b s) := by
  refine State.issue_memSat _ h fun p => ?_
  extract_lets
  repeat' split
  all_goals simp +zetaDelta [h]

@[simp ↓] theorem State.modRec_memSat (core ticket f) : (s.modRec core ticket f).MemSat P ↔ s.MemSat P := Iff.rfl
@[simp ↓] theorem State.endRecord_memSat (core ticket status) : (s.endRecord core ticket status).MemSat P ↔ s.MemSat P := Iff.rfl

@[simp ↓] theorem execBulkRecordService_memSat (core) (h : s.MemSat P) : NextSat P (execBulkRecordService core s) := by
  unfold execBulkRecordService
  extract_lets
  repeat' split
  all_goals simp +zetaDelta [h]

@[simp ↓] theorem State.locRead_memSat (core own n l) : (s.locRead core own n l).2.MemSat P ↔ s.MemSat P := by
  unfold State.locRead
  extract_lets
  split
  · simp
  · split <;> simp +zetaDelta

@[simp ↓] theorem State.globalWrite_memSat (core what at' va bs wide) (h : s.MemSat Canonical) :
    (s.globalWrite core what at' va bs wide).1.MemSat Canonical := by
  unfold State.globalWrite
  simp [h]

@[simp ↓] theorem State.locWrite_memSat (core what at' l bs wide) (h : s.MemSat Canonical) :
    (s.locWrite core what at' l bs wide).1.MemSat Canonical := by
  unfold State.locWrite
  split
  · simp [h]
  · extract_lets _ _ step
    split
    · simp [h]
    · exact List.foldlRecOn (motive := fun r : State × Option Nat × List Byte => r.1.MemSat Canonical) _ _ h
        fun r hr y _ => State.globalWrite_memSat _ _ _ _ _ _ hr

@[simp ↓] theorem State.sourceRead_memSat (core u n l) : (s.sourceRead core u n l).2.MemSat P ↔ s.MemSat P := State.locRead_memSat _ _ _ _

@[simp ↓] theorem State.unitBytes_memSat (core u x) : (s.unitBytes core u x).2.MemSat P ↔ s.MemSat P := by
  unfold State.unitBytes
  extract_lets read d
  have hread : read.2.MemSat P ↔ s.MemSat P :=
    List.foldlRecOn (motive := fun r : List (List Byte) × State => r.2.MemSat P ↔ s.MemSat P) _ _ Iff.rfl
      fun r hr l _ => by simp [hr]
  have hd : d.2.MemSat P ↔ s.MemSat P := by simpa [d] using hread
  split
  · exact hread
  · extract_lets _
    split
    · exact hd
    · exact hread
  · exact hread

@[simp ↓] theorem State.countBytes_memSat (core blk gate n) : (s.countBytes core blk gate n).MemSat P ↔ s.MemSat P := by
  unfold State.countBytes
  split <;> simp

@[simp ↓] theorem State.unitLanded_memSat (core w u) : (s.unitLanded core w u).MemSat P ↔ s.MemSat P := by
  unfold State.unitLanded
  extract_lets s1 s2 _
  have h2 : s2.MemSat P ↔ s.MemSat P := by
    simp only [s2]
    split <;> simp [s1]
  split <;> simp [h2]

@[simp ↓] theorem State.unitLookups_memSat (core w u) : (s.unitLookups core w u).MemSat P ↔ s.MemSat P := by
  unfold State.unitLookups
  simp

@[simp ↓] theorem State.unitErrors_memSat (core w u) : (s.unitErrors core w u).MemSat P ↔ s.MemSat P := by
  unfold State.unitErrors
  extract_lets _ look
  have hlook (n : Nat) (s : State) (l : Loc) : (look n s l).MemSat P ↔ s.MemSat P := by
    simp only [look]
    split <;> simp
  exact foldl_memSat _ _ fun s x => foldl_memSat _ _ (hlook _)

@[simp ↓] theorem State.moveUnit_memSat (core w u) (h : s.MemSat Canonical) : (s.moveUnit core w u).MemSat Canonical := by
  unfold State.moveUnit
  extract_lets _ s1 _ s2 read r write x
  have h2 : s2.MemSat Canonical := by simp [s2, s1, h]
  have hr : r.2.MemSat Canonical :=
    List.foldlRecOn (motive := fun r : List (Loc × List Byte) × State => r.2.MemSat Canonical) _ _ h2
      fun r hr y _ => by simpa [read] using hr
  have hx : x.1.MemSat Canonical :=
    List.foldlRecOn (motive := fun t : State × Option Nat => t.1.MemSat Canonical) _ _ hr
      fun t ht y _ => State.locWrite_memSat _ _ _ _ _ _ ht
  split
  · simp [hx]
  · split <;> simp [hx]

@[simp ↓] theorem State.unitRefused_memSat (core w u code access va) : (s.unitRefused core w u code access va).MemSat P ↔ s.MemSat P := by
  unfold State.unitRefused
  split <;> simp

@[simp ↓] theorem State.unitHome_memSat (core w u code va) (h : s.MemSat Canonical) : (s.unitHome core w u code va).MemSat Canonical := by
  unfold State.unitHome
  simp [h]

@[simp ↓] theorem State.unitAbroad_memSat (core w u access vas) : (s.unitAbroad core w u access vas).MemSat P ↔ s.MemSat P := by
  unfold State.unitAbroad
  simp

@[simp ↓] theorem State.noteAbroad_memSat (core w u) : (s.noteAbroad core w u).MemSat P ↔ s.MemSat P := by
  unfold State.noteAbroad
  split <;> simp

@[simp ↓] theorem execTransferUnitLanding_memSat (core work unit) (h : s.MemSat Canonical) :
    NextSat Canonical (execTransferUnitLanding core work unit s) := by
  unfold execTransferUnitLanding
  extract_lets c again _
  split
  · exact h
  · split
    · exact h
    · next w _ _ u _ =>
      extract_lets _ s1 later served
      have h1 : s1.MemSat Canonical := by simp [s1, h]
      have hserved (go : State → State) (hgo : ∀ s : State, s.MemSat Canonical → (go s).MemSat Canonical) :
          (served go).MemSat Canonical := by
        simp only [served]
        have hs := (State.atHomes_memSat (P := Canonical) (s := s1) (.transferUnitLanding core work unit) c.function (s1.unitJobs core u)).2 h1
        split
        · next e => rw [e] at hs; exact hgo _ hs
        · next e => rw [e] at hs; exact hs
      split
      · simp +zetaDelta [h]
      · split
        · have := hserved (fun s => s.moveUnit core w u) fun s h => by simp [h]
          split <;> simp_all [later]
        · simp [again, h]
        · cases w.rticket <;> simp [h1]
        · exact hserved _ fun s h => by simp [h]
        · simp [h1]
      all_goals simp [h]

@[simp ↓] theorem execFncr_memSat (scope a b) (h : s.MemSat P) : NextSat P (execFncr scope a b s) :=
  State.issue_memSat _ h fun _ => by simp [h]

@[simp ↓] theorem execBulkRecordCompletion_memSat (core ticket) (h : s.MemSat P) : NextSat P (execBulkRecordCompletion core ticket s) := by
  unfold execBulkRecordCompletion
  split
  · simp [h]
  · split <;> simp [h]

@[simp ↓] theorem State.addCounter_memSat (va inc) (h : s.MemSat Canonical) : (s.addCounter va inc).MemSat Canonical := by
  unfold State.addCounter
  simp [h]

@[simp ↓] theorem State.recordDone_memSat (core ticket) : (s.recordDone core ticket).MemSat P ↔ s.MemSat P := State.wake_memSat _

@[simp ↓] theorem State.recordCounted_memSat (core ticket) (h : s.MemSat Canonical) : (s.recordCounted core ticket).MemSat Canonical := by
  unfold State.recordCounted
  split <;> simp [h]

@[simp ↓] theorem execRecordCounterIncrement_memSat (core ticket) (h : s.MemSat Canonical) :
    NextSat Canonical (execRecordCounterIncrement core ticket s) := by
  unfold execRecordCounterIncrement
  extract_lets
  split
  · simp [h]
  · split <;> simp +zetaDelta [h]

/-! ### Strikes and rollback -/

@[simp ↓] theorem State.cancelLoads_memSat (core slot) : (s.cancelLoads core slot).MemSat P ↔ s.MemSat P := by
  unfold State.cancelLoads
  split <;> simp

@[simp ↓] theorem State.beginRoll_memSat (core slot t) : (s.beginRoll core slot t).MemSat P ↔ s.MemSat P := by
  unfold State.beginRoll
  split <;> simp

@[simp ↓] theorem State.addBack_memSat (core slot m) : (s.addBack core slot m).MemSat P ↔ s.MemSat P := by
  unfold State.addBack
  split
  · rfl
  · extract_lets _ t
    simp only [State.modGang_memSat, t]
    split <;> simp

@[simp ↓] theorem State.endRoll_memSat (core slot) : (s.endRoll core slot).MemSat P ↔ s.MemSat P := by
  unfold State.endRoll
  split
  · rfl
  · split
    · simp
    · split
      · rfl
      · dsimp only
        split <;> simp

@[simp ↓] theorem State.rollOn_memSat (key) : (s.rollOn key).MemSat P ↔ s.MemSat P := by
  unfold State.rollOn
  extract_lets gs
  split
  · simp
  · cases gs <;> simp

@[simp ↓] theorem State.rollBlock_memSat (key strike code info) : (s.rollBlock key strike code info).MemSat P ↔ s.MemSat P := by
  unfold State.rollBlock
  simp

@[simp ↓] theorem execStrikeReport_memSat (core quarter) (h : s.MemSat P) : NextSat P (execStrikeReport core quarter s) := by
  unfold execStrikeReport
  simp [h]

@[simp ↓] theorem execEccUncorrectable_memSat (core slot store offset) (h : s.MemSat Canonical) :
    NextSat Canonical (execEccUncorrectable core slot store offset s) := by
  unfold execEccUncorrectable
  split
  · cases s.pageOf offset <;> simp [h]
  · split
    · exact h
    · extract_lets
      split <;> simp +zetaDelta [h]

/-! ### Traps -/

@[simp ↓] theorem execFixedResultLanding_memSat (core slot id) (h : s.MemSat P) : NextSat P (execFixedResultLanding core slot id s) := by
  unfold execFixedResultLanding
  extract_lets
  split
  · simp [h]
  · split <;> simp +zetaDelta [h]

@[simp ↓] theorem State.lateTrap_memSat (core slot) : (s.lateTrap core slot).MemSat P ↔ s.MemSat P := by
  unfold State.lateTrap
  split
  · simp
  · split <;> simp

@[simp ↓] theorem execTrapEntry_memSat (core slot) (h : s.MemSat P) : NextSat P (execTrapEntry core slot s) := by
  unfold execTrapEntry
  repeat' split
  all_goals simp [h]

@[simp ↓] theorem execRefusalTrap_memSat (core slot) (h : s.MemSat P) : NextSat P (execRefusalTrap core slot s) := by
  simpa [execRefusalTrap] using h

@[simp ↓] theorem execDelayedTrap_memSat (core slot) (h : s.MemSat P) : NextSat P (execDelayedTrap core slot s) := by
  simpa [execDelayedTrap] using h

@[simp ↓] theorem execEret_memSat (h : s.MemSat P) : NextSat P (execEret s) := State.issue_memSat _ h fun _ => by simp [h]

@[simp ↓] theorem execPreemptTrap_memSat (core slot) (h : s.MemSat P) : NextSat P (execPreemptTrap core slot s) := by
  unfold execPreemptTrap
  split <;> simp [h]

/-! ### Bells -/

@[simp ↓] theorem State.modBoard_memSat (d f) : (s.modBoard d f).MemSat P ↔ s.MemSat P := Iff.rfl

@[simp ↓] theorem State.syncBoard_memSat (d) (h : s.MemSat Canonical) : (s.syncBoard d).MemSat Canonical := by
  unfold State.syncBoard
  simp [h]

@[simp ↓] theorem State.poke_memSat (d) : (s.poke d).MemSat P ↔ s.MemSat P := by
  unfold State.poke
  extract_lets t
  have ht : t.MemSat P ↔ s.MemSat P := by
    simp only [t]
    split <;> simp
  rw [← ht]
  refine foldl_memSat _ _ fun s c => ?_
  split
  · rfl
  · exact foldl_memSat _ _ fun s g => foldl_memSat _ _ fun s lead => by split <;> simp

@[simp ↓] theorem State.flushWakeFrom_memSat (rs) (h : s.MemSat Canonical) : (s.flushWakeFrom rs).MemSat Canonical := by
  induction rs generalizing s with
  | nil => exact h
  | cons r rs ih =>
    unfold State.flushWakeFrom
    extract_lets
    split
    · next t ht => exact ih (State.appendRing_memSat _ _ _ h t ht)
    · simp [h]

@[simp ↓] theorem State.flushWake_memSat (h : s.MemSat Canonical) : s.flushWake.MemSat Canonical := by
  unfold State.flushWake
  simp [h]

@[simp ↓] theorem execWakeQueueRoom_memSat (h : s.MemSat Canonical) : NextSat Canonical (execWakeQueueRoom s) := State.flushWake_memSat h
@[simp ↓] theorem State.holdWake_memSat (d n l) (h : s.MemSat Canonical) : (s.holdWake d n l).MemSat Canonical := State.flushWake_memSat h

@[simp ↓] theorem State.applyRing_memSat (d n v) (h : s.MemSat Canonical) : (s.applyRing d n v).MemSat Canonical := by
  unfold State.applyRing
  simp [h]

@[simp ↓] theorem State.refuseRing_memSat (r status) (h : s.MemSat Canonical) : (s.refuseRing r status).MemSat Canonical := by
  unfold State.refuseRing
  simp [h]

@[simp ↓] theorem State.ringBack_memSat (r status) : (s.ringBack r status).MemSat P ↔ s.MemSat P := by
  unfold State.ringBack
  split
  · simp
  · split <;> simp

@[simp ↓] theorem State.ringAbroad_memSat (r) : (s.ringAbroad r).MemSat P ↔ s.MemSat P := by
  unfold State.ringAbroad
  extract_lets
  repeat' split
  all_goals simp +zetaDelta

@[simp ↓] theorem execBellRingArrival_memSat (r) (h : s.MemSat Canonical) : NextSat Canonical (execBellRingArrival r s) := by
  unfold execBellRingArrival
  split
  · simp [h]
  · split
    · simp [h]
    · extract_lets _ t
      have ht : t.MemSat Canonical := by
        simp only [t]
        split <;> simp [h]
      split <;> simp [h, ht]

@[simp ↓] theorem execHostBellWrite_memSat (function offset size v) (h : s.MemSat Canonical) :
    NextSat Canonical (execHostBellWrite function offset size v s) := by
  unfold execHostBellWrite
  simp [h]

@[simp ↓] theorem execRing_memSat (d a b) (h : s.MemSat Canonical) : NextSat Canonical (execRing d a b s) :=
  State.issue_memSat _ h fun _ => by simp [h]

@[simp ↓] theorem bellOp_memSat {s : State} (i : Instr) {f : Party → Nat → State} (h : s.MemSat P)
    (hf : ∀ p d, (f p d).MemSat P) : NextSat P (bellOp i f s) := by
  refine State.issue_memSat i h fun p => ?_
  repeat' split
  all_goals simp [h, hf]

@[simp ↓] theorem State.bellDone_memSat (p d ws) (h : s.MemSat Canonical) : (s.bellDone p d ws).MemSat Canonical := by
  unfold State.bellDone
  simp [h]

@[simp ↓] theorem execBmask_memSat (d a) (h : s.MemSat Canonical) : NextSat Canonical (execBmask d a s) := by
  unfold execBmask
  simp [h]

@[simp ↓] theorem execBpend_memSat (d) (h : s.MemSat Canonical) : NextSat Canonical (execBpend d s) := by
  unfold execBpend
  simp [h]

@[simp ↓] theorem execBtake_memSat (d a) (h : s.MemSat Canonical) : NextSat Canonical (execBtake d a s) := by
  unfold execBtake
  simp [h]

@[simp ↓] theorem execBhpc_memSat (a) (h : s.MemSat Canonical) : NextSat Canonical (execBhpc a s) := by
  unfold execBhpc
  simp [h]

@[simp ↓] theorem State.noSavedHandler_memSat (d) : (s.noSavedHandler d).MemSat P ↔ s.MemSat P := Iff.rfl

@[simp ↓] theorem execBself_memSat (a) (h : s.MemSat Canonical) : NextSat Canonical (execBself a s) := by
  unfold execBself
  simp [h]

@[simp ↓] theorem State.enterBell_memSat (core slot pc) : (s.enterBell core slot pc).MemSat P ↔ s.MemSat P := by
  unfold State.enterBell
  extract_lets
  split <;> simp +zetaDelta

@[simp ↓] theorem execBellDelivery_memSat (core slot) (h : s.MemSat P) : NextSat P (execBellDelivery core slot s) := by
  unfold execBellDelivery
  split <;> simp [h]

@[simp ↓] theorem execWaitb_memSat (h : s.MemSat P) : NextSat P (execWaitb s) := State.issue_memSat _ h fun _ => by simp [h]

@[simp ↓] theorem execWaitbWake_memSat (core slot lead) (h : s.MemSat P) : NextSat P (execWaitbWake core slot lead s) := by
  unfold execWaitbWake
  split
  · simp [h]
  · split <;> simp [h]

@[simp ↓] theorem execBret_memSat (h : s.MemSat P) : NextSat P (execBret s) := by
  refine State.issue_memSat _ h fun p => ?_
  split <;> simp [h]

@[simp ↓] theorem execWrp_memSat (a k) (h : s.MemSat Canonical) : NextSat Canonical (execWrp a k s) := by
  unfold execWrp
  simp [h]

/-! ### Conversions -/

@[simp ↓] theorem execCvt_memSat (d a ra code) (h : s.MemSat P) : NextSat P (execCvt d a ra code s) :=
  State.issue_memSat _ h fun _ => by simp [h]

@[simp ↓] theorem execMxq_memSat (d a ra fmt) (h : s.MemSat P) : NextSat P (execMxq d a ra fmt s) :=
  State.issue_memSat _ h fun _ => by simp [h]

/-! ### The matrix engine -/

@[simp ↓] theorem State.freeEngines_memSat (runner) : (s.freeEngines runner).MemSat P ↔ s.MemSat P := by
  unfold State.freeEngines
  extract_lets _ _ _ free
  have hfree (s : State) (k : Nat) : (free s k).MemSat P ↔ s.MemSat P := by
    simp only [free]
    split <;> simp
  simp [hfree]

@[simp ↓] theorem State.giveEngine_memSat (runner r) : (s.giveEngine runner r).MemSat P ↔ s.MemSat P := by
  unfold State.giveEngine
  simp

@[simp ↓] theorem State.lookEngine_memSat (runner k) : (s.lookEngine runner k).MemSat P ↔ s.MemSat P := by
  unfold State.lookEngine
  extract_lets
  split
  · simp
  · split <;> simp +zetaDelta

@[simp ↓] theorem State.wakeOwners_memSat (core) : (s.wakeOwners core).MemSat P ↔ s.MemSat P := by
  unfold State.wakeOwners
  simp

@[simp ↓] theorem execEngineGrant_memSat (core) (h : s.MemSat P) : NextSat P (execEngineGrant core s) := by
  unfold execEngineGrant
  simp [h]

@[simp ↓] theorem execMxacq_memSat (prio pair) (h : s.MemSat P) : NextSat P (execMxacq prio pair s) := by
  refine State.issue_memSat _ h fun p => ?_
  repeat' split
  all_goals simp [h]

@[simp ↓] theorem execMxrel_memSat (h : s.MemSat P) : NextSat P (execMxrel s) := State.issue_memSat _ h fun _ => by simp [h]
@[simp ↓] theorem State.acceptMma_memSat (p fb gate) : (s.acceptMma p fb gate).MemSat P ↔ s.MemSat P := Iff.rfl

@[simp ↓] theorem execMma_memSat (d a b) (h : s.MemSat P) : NextSat P (execMma d a b s) := by
  refine State.issue_memSat _ h fun p => ?_
  split
  · exact h
  · dsimp only
    split
    · simp [h]
    · split
      · simp [h]
      · split
        · simp [h]
        · split <;> simp [h]

@[simp ↓] theorem State.modMma_memSat (core ticket f) : (s.modMma core ticket f).MemSat P ↔ s.MemSat P := Iff.rfl

@[simp ↓] theorem execMmaBegin_memSat (core ticket) (h : s.MemSat P) : NextSat P (execMmaBegin core ticket s) := by
  unfold execMmaBegin
  split <;> simp [h]

@[simp ↓] theorem State.endRun_memSat (core ticket m) : (s.endRun core ticket m).MemSat P ↔ s.MemSat P := by
  unfold State.endRun
  simp

@[simp ↓] theorem State.writeTiles_memSat (m core rank rows bad) : (s.writeTiles m core rank rows bad).MemSat P ↔ s.MemSat P := Iff.rfl

@[simp ↓] theorem State.peCheck_memSat (core pair bad) (h : s.MemSat Canonical) : (s.peCheck core pair bad).MemSat Canonical :=
  State.errorRecord_memSat _ _ h

@[simp ↓] theorem State.accumulateBad_memSat (core m) : (s.accumulateBad core m).MemSat P ↔ s.MemSat P := by
  unfold State.accumulateBad
  simp

@[simp ↓] theorem execMmaRetire_memSat (core ticket) (h : s.MemSat Canonical) : NextSat Canonical (execMmaRetire core ticket s) := by
  unfold execMmaRetire
  split
  · exact h
  · split
    · exact h
    · split
      · simp [h]
      · split
        · exact h
        · extract_lets _ _ _ _ _ _ s5 s6 s7
          have h5 : s5.MemSat Canonical := by simp +zetaDelta [h]
          have h7 : s7.MemSat Canonical := by
            simp only [s7, s6]
            split <;> simp [h5]
          simpa using h7

@[simp ↓] theorem execBedTileArrival_memSat (blk gate) (h : s.MemSat P) : NextSat P (execBedTileArrival blk gate s) := by
  unfold execBedTileArrival
  split <;> simp [h]

@[simp ↓] theorem execMxwait_memSat (h : s.MemSat P) : NextSat P (execMxwait s) := State.issue_memSat _ h fun _ => by simp [h]

@[simp ↓] theorem execRole_memSat (base role) (h : s.MemSat P) : NextSat P (execRole base role s) :=
  State.issueSimple_memSat _ h fun _ => by simp [h]

@[simp ↓] theorem State.beginMove_memSat (p m) : (s.beginMove p m).MemSat P ↔ s.MemSat P := by
  unfold State.beginMove
  simp

@[simp ↓] theorem execScld_memSat (d a b) (h : s.MemSat P) : NextSat P (execScld d a b s) := by
  refine State.issue_memSat _ h fun p => ?_
  extract_lets
  repeat' split
  all_goals simp +zetaDelta [h]

@[simp ↓] theorem State.consumeBad_memSat (p t) : (s.consumeBad p t).MemSat P ↔ s.MemSat P := by
  unfold State.consumeBad
  simp

@[simp ↓] theorem State.cleanTile_memSat (core t) : (s.cleanTile core t).MemSat P ↔ s.MemSat P := Iff.rfl

@[simp ↓] theorem tileOp_memSat {s : State} (i : Instr) (a : Reg) {f : Party → Block → Nat → State} (h : s.MemSat P)
    (hf : ∀ p b t, (f p b t).MemSat P) : NextSat P (tileOp i a f s) := by
  refine State.issue_memSat i h fun p => ?_
  dsimp only
  repeat' split
  all_goals simp [h, hf]

@[simp ↓] theorem execAccz_memSat (a) (h : s.MemSat P) : NextSat P (execAccz a s) := by
  unfold execAccz
  simp [h]

@[simp ↓] theorem State.moveSome_memSat (core m ks) : (s.moveSome core m ks).MemSat P ↔ s.MemSat P := by
  unfold State.moveSome
  split <;> simp

@[simp ↓] theorem tileMove_memSat (i store d a) (h : s.MemSat P) : NextSat P (tileMove i store d a s) := by
  refine tileOp_memSat i a h fun p b t => ?_
  extract_lets sa
  split
  · simp [h]
  · split <;> simp +zetaDelta [h]

@[simp ↓] theorem execAccld_memSat (d a) (h : s.MemSat P) : NextSat P (execAccld d a s) := tileMove_memSat _ _ _ _ h
@[simp ↓] theorem execAccst_memSat (d a) (h : s.MemSat P) : NextSat P (execAccst d a s) := tileMove_memSat _ _ _ _ h

@[simp ↓] theorem execAccTransferComplete_memSat (core slot lead) (h : s.MemSat P) : NextSat P (execAccTransferComplete core slot lead s) := by
  unfold execAccTransferComplete
  split <;> simp [h]

@[simp ↓] theorem State.issueRow_memSat {s : State} (i : Instr) (d a : Reg) (write : Bool) {f : Party → Nat → State} (h : s.MemSat P)
    (hf : ∀ p t, (f p t).MemSat P) : NextSat P (s.issueRow i d a write f) := by
  unfold State.issueRow
  split
  · trivial
  · next p _ =>
    dsimp only
    split
    · simpa using h
    · split
      · simpa using h
      · exact hf p _

@[simp ↓] theorem rowOp_memSat {s : State} (i : Instr) (d a : Reg) (write : Bool) {idle : Party → Nat → State → State}
    {f : Party → Nat → State} (h : s.MemSat P)
    (hi : ∀ p t, (idle p t s).MemSat P) (hf : ∀ p t, (f p t).MemSat P) : NextSat P (rowOp i d a write idle f s) := by
  refine State.issueRow_memSat i d a write h fun p t => ?_
  split
  · simpa using h
  · split
    · split
      · simpa using h
      · simpa using hi p t
    · split
      · simpa using h
      · exact hf p t

@[simp ↓] theorem execAccrd_memSat (d a) (h : s.MemSat P) : NextSat P (execAccrd d a s) := by
  unfold execAccrd
  simp [h]

@[simp ↓] theorem execAccwr_memSat (d a) (h : s.MemSat P) : NextSat P (execAccwr d a s) := by
  unfold execAccwr
  simp [h]

/-! ### The tree file -/

@[simp ↓] theorem State.putTree_memSat (p t) : (s.putTree p t).MemSat P ↔ s.MemSat P := Iff.rfl
@[simp ↓] theorem State.treeArg_memSat (p cause lane) : (s.treeArg p cause lane).MemSat P ↔ s.MemSat P := State.raise_memSat _ _ _
@[simp ↓] theorem execTtinit_memSat (a) (h : s.MemSat P) : NextSat P (execTtinit a s) := State.issueSimple_memSat _ h fun _ => by simp [h]

@[simp ↓] theorem execTtadd_memSat (d a) (h : s.MemSat P) : NextSat P (execTtadd d a s) := by
  refine State.issue_memSat _ h fun p => ?_
  extract_lets
  split <;> simp +zetaDelta [h]

@[simp ↓] theorem treeRead_memSat (i d a n f) (h : s.MemSat P) : NextSat P (treeRead i d a n f s) := by
  refine State.issue_memSat _ h fun p => ?_
  extract_lets
  split <;> simp +zetaDelta [h]

@[simp ↓] theorem execTtanc_memSat (d a) (h : s.MemSat P) : NextSat P (execTtanc d a s) := treeRead_memSat _ _ _ _ _ h
@[simp ↓] theorem execTtpos_memSat (d a) (h : s.MemSat P) : NextSat P (execTtpos d a s) := treeRead_memSat _ _ _ _ _ h
@[simp ↓] theorem execTtpar_memSat (d a) (h : s.MemSat P) : NextSat P (execTtpar d a s) := treeRead_memSat _ _ _ _ _ h
@[simp ↓] theorem execTtgtok_memSat (d a) (h : s.MemSat P) : NextSat P (execTtgtok d a s) := treeRead_memSat _ _ _ _ _ h
@[simp ↓] theorem execTtgsc_memSat (d a) (h : s.MemSat P) : NextSat P (execTtgsc d a s) := treeRead_memSat _ _ _ _ _ h

@[simp ↓] theorem treeWrite_memSat (i d a f) (h : s.MemSat P) : NextSat P (treeWrite i d a f s) := by
  refine State.issue_memSat _ h fun p => ?_
  extract_lets _ _ bad
  cases bad <;> simp [h]

@[simp ↓] theorem execTtstok_memSat (d a) (h : s.MemSat P) : NextSat P (execTtstok d a s) := treeWrite_memSat _ _ _ _ h
@[simp ↓] theorem execTtssc_memSat (d a) (h : s.MemSat P) : NextSat P (execTtssc d a s) := treeWrite_memSat _ _ _ _ h
@[simp ↓] theorem execTtprune_memSat (d a) (h : s.MemSat P) : NextSat P (execTtprune d a s) := State.issue_memSat _ h fun _ => by simp [h]
@[simp ↓] theorem execTtcnt_memSat (d) (h : s.MemSat P) : NextSat P (execTtcnt d s) := State.issue_memSat _ h fun _ => by simp [h]

/-! ### Requests and commands at the homes -/

/-- A moved page: its old bytes go, and each byte of the source is set at the new place. -/
@[simp ↓] theorem State.copyPage_memSat (p q) (h : s.MemSat Canonical) : (s.copyPage p q).MemSat Canonical := by
  unfold State.copyPage
  extract_lets bytes src host offset cells clear s1 s2 bad to' s3
  have hclear (m : Cells) (b : Bool) (hm : Memory.wf m = true) : Memory.wf (clear m b) = true := Sp.wf_sublist List.filter_sublist hm
  have h1 : s1.MemSat Canonical := by
    simp only [s1]
    split
    · exact ⟨h.1, hclear _ _ h.2⟩
    · exact ⟨hclear _ _ h.1, h.2⟩
  have h2 : s2.MemSat Canonical := memSat_foldl _ h1 fun s c h => by
    dsimp only
    split
    · exact ⟨h.1, Sp.set_wf _ _ h.2⟩
    · exact ⟨Sp.set_wf _ _ h.1, h.2⟩
  exact memSat_foldl (s := s3) _ h2 fun _ _ h => State.poisonPlace_memSat _ _ h

@[simp ↓] theorem State.modCmd_memSat (id f) : (s.modCmd id f).MemSat P ↔ s.MemSat P := Iff.rfl
@[simp ↓] theorem State.tickCmd_memSat (id) : (s.tickCmd id).MemSat P ↔ s.MemSat P := Iff.rfl
@[simp ↓] theorem State.submit_memSat (c) : (s.submit c).MemSat P ↔ s.MemSat P := Iff.rfl

@[simp ↓] theorem State.recallAll_memSat (region) : (s.recallAll region).MemSat P ↔ s.MemSat P := by
  unfold State.recallAll
  simp

@[simp ↓] theorem State.recallRange_memSat (lo n) (h : s.MemSat Canonical) : (s.recallRange lo n).1.MemSat Canonical :=
  memSat_foldl _ h fun _ _ h => by simp [h]

@[simp ↓] theorem State.recallPage_memSat (lo n) (h : s.MemSat Canonical) : (s.recallPage lo n).1.MemSat Canonical :=
  State.recallRange_memSat _ _ h

@[simp ↓] theorem State.finishCmd_memSat (r status) (h : s.MemSat Canonical) : (s.finishCmd r status).MemSat Canonical := by
  unfold State.finishCmd
  simp [h]

@[simp ↓] theorem State.endCmd_memSat (id status) : (s.endCmd id status).MemSat P ↔ s.MemSat P := Iff.rfl

@[simp ↓] theorem State.beginChange_memSat (c) : (s.beginChange c).MemSat P ↔ s.MemSat P := by
  unfold State.beginChange
  simp

@[simp ↓] theorem State.beginMap_memSat (c) : (s.beginMap c).MemSat P ↔ s.MemSat P := by
  unfold State.beginMap
  simp

@[simp ↓] theorem State.installMap_memSat (c) : (s.installMap c).MemSat P ↔ s.MemSat P := by
  unfold State.installMap
  simp

@[simp ↓] theorem State.onPage_memSat {s : State} (c : HomeCmd) {f : Page → State} (h : s.MemSat P)
    (hf : ∀ p, (f p).MemSat P) : (s.onPage c f).MemSat P := by
  unfold State.onPage
  split
  · simpa using h
  · exact hf _

@[simp ↓] theorem State.beginSetattr_memSat (c) : (s.beginSetattr c).MemSat P ↔ s.MemSat P := by
  unfold State.beginSetattr State.onPage
  split <;> simp

@[simp ↓] theorem State.beginQuery_memSat (c) (h : s.MemSat Canonical) : (s.beginQuery c).MemSat Canonical := by
  unfold State.beginQuery
  simp [h]

@[simp ↓] theorem State.beginRefuse_memSat (c) : (s.beginRefuse c).MemSat P ↔ s.MemSat P := by
  unfold State.beginRefuse
  simp

@[simp ↓] theorem State.beginGrat_memSat (c) : (s.beginGrat c).MemSat P ↔ s.MemSat P := Iff.rfl

@[simp ↓] theorem State.beginCmd_memSat (c) (h : s.MemSat Canonical) : (s.beginCmd c).MemSat Canonical := by
  unfold State.beginCmd
  split
  · simp [h]
  · split <;> simp [h]

@[simp ↓] theorem State.countFlip_memSat (flip) : (s.countFlip flip).MemSat P ↔ s.MemSat P := by
  unfold State.countFlip
  simp

@[simp ↓] theorem State.applyChange_memSat (c) (h : s.MemSat Canonical) : (s.applyChange c).MemSat Canonical := by
  unfold State.applyChange
  extract_lets
  split
  · simp [h]
  · split <;> simp +zetaDelta [h]

@[simp ↓] theorem execHomeCommandComplete_memSat (id) (h : s.MemSat Canonical) : NextSat Canonical (execHomeCommandComplete id s) := by
  unfold execHomeCommandComplete
  repeat' split
  all_goals simp [h]

@[simp ↓] theorem State.readCmds_memSat (base size head n) (h : s.MemSat Canonical) : (State.readCmds base size head n s).MemSat Canonical := by
  induction n generalizing s head with
  | zero => exact h
  | succ n ih =>
    unfold State.readCmds
    exact ih _ (by simp [h])

@[simp ↓] theorem execHomeBell_memSat (h : s.MemSat Canonical) : NextSat Canonical (execHomeBell s) := by
  unfold execHomeBell
  simp [h]

@[simp ↓] theorem execMap_memSat (c) (h : s.MemSat P) : NextSat P (execMap c s) := by simpa [execMap] using h
@[simp ↓] theorem execUnmap_memSat (c) (h : s.MemSat P) : NextSat P (execUnmap c s) := by simpa [execUnmap] using h
@[simp ↓] theorem execSetattr_memSat (c) (h : s.MemSat P) : NextSat P (execSetattr c s) := by simpa [execSetattr] using h
@[simp ↓] theorem execMove_memSat (c) (h : s.MemSat P) : NextSat P (execMove c s) := by simpa [execMove] using h
@[simp ↓] theorem execResume_memSat (c) (h : s.MemSat P) : NextSat P (execResume c s) := by simpa [execResume] using h
@[simp ↓] theorem execGrat_memSat (c) (h : s.MemSat P) : NextSat P (execGrat c s) := by simpa [execGrat] using h
@[simp ↓] theorem execQuery_memSat (c) (h : s.MemSat P) : NextSat P (execQuery c s) := by simpa [execQuery] using h
@[simp ↓] theorem execRefuse_memSat (c) (h : s.MemSat P) : NextSat P (execRefuse c s) := by simpa [execRefuse] using h

@[simp ↓] theorem State.flushFaultsFrom_memSat (rs) (h : s.MemSat Canonical) : (s.flushFaultsFrom rs).MemSat Canonical := by
  induction rs generalizing s with
  | nil => exact h
  | cons r rs ih =>
    unfold State.flushFaultsFrom
    extract_lets
    split
    · simp [h]
    · next t ht => exact ih (by simpa using State.appendRing_memSat _ _ _ h t ht)

@[simp ↓] theorem execFaultRingRoom_memSat (h : s.MemSat Canonical) : NextSat Canonical (execFaultRingRoom s) := by
  unfold execFaultRingRoom
  simp [h]

@[simp ↓] theorem State.kvProbed_memSat (core slot id va code) : (s.kvProbed core slot id va code).MemSat P ↔ s.MemSat P :=
  State.modLanes_memSat _ _ _ _

@[simp ↓] theorem State.ctrwValue_memSat (core slot id v va lead) : (s.ctrwValue core slot id v va lead).MemSat P ↔ s.MemSat P := by
  unfold State.ctrwValue
  split
  · simp
  · split <;> simp

@[simp ↓] theorem State.unitGoesOn_memSat (core w u va) : (s.unitGoesOn core w u va).MemSat P ↔ s.MemSat P := by
  unfold State.unitGoesOn
  simp

@[simp ↓] theorem homeAccepted_memSat (core what r) (h : s.MemSat Canonical) : NextSat Canonical (homeAccepted core what r s) := by
  unfold homeAccepted
  extract_lets
  repeat' split
  all_goals simp +zetaDelta [h]

@[simp ↓] theorem State.homeRefused_memSat (core what r code abroad) (h : s.MemSat Canonical) :
    (s.homeRefused core what r code abroad).MemSat Canonical := by
  unfold State.homeRefused
  repeat' split
  all_goals simp [h]

@[simp ↓] theorem State.rerouteReq_memSat (core what r abroad) (h : s.MemSat Canonical) : (s.rerouteReq core what r abroad).MemSat Canonical := by
  unfold State.rerouteReq
  repeat' split
  all_goals simp [h]

@[simp ↓] theorem State.remotePark_memSat (core region) : (s.remotePark core region).MemSat P ↔ s.MemSat P := Iff.rfl

@[simp ↓] theorem State.remoteFree_memSat (core region) : (s.remoteFree core region).MemSat P ↔ s.MemSat P := by
  unfold State.remoteFree
  simp

@[simp ↓] theorem State.maybeTicket_memSat (va write) : (s.maybeTicket va write).MemSat P ↔ s.MemSat P := by
  unfold State.maybeTicket
  extract_lets
  split <;> simp +zetaDelta

@[simp ↓] theorem State.appliedAbroad_memSat (core what r) : (s.appliedAbroad core what r).MemSat P ↔ s.MemSat P := by
  unfold State.appliedAbroad
  extract_lets s1
  have h1 : s1.MemSat P ↔ s.MemSat P := by
    simp only [s1]
    split <;> simp
  split
  · exact h1
  · split <;> simp [h1]

@[simp ↓] theorem State.answered_memSat (m) : (s.answered m).MemSat P ↔ s.MemSat P := Iff.rfl

@[simp ↓] theorem answerAbroad_memSat (core what r m) (h : s.MemSat Canonical) : NextSat Canonical (answerAbroad core what r m s) := by
  unfold answerAbroad
  simp [h]

@[simp ↓] theorem State.departs_memSat (m r) : (s.departs m r).MemSat P ↔ s.MemSat P := by
  unfold State.departs
  split <;> simp

@[simp ↓] theorem coreRequest_memSat (core what r) (h : s.MemSat Canonical) : NextSat Canonical (coreRequest core what r s) := by
  unfold coreRequest
  split
  · simp [h]
  · split
    · simp [h]
    · split
      · split
        · simp [h]
        · split <;> simp [h]
      · split
        · simp [h]
        · split
          · exact State.inTurn_memSat _ _ h fun _ h => homeAccepted_memSat _ _ _ h
          · simp [h]

@[simp ↓] theorem State.applyRemote_memSat (device r bytes) (h : s.MemSat Canonical) : (s.applyRemote device r bytes).MemSat Canonical := by
  unfold State.applyRemote
  extract_lets _ s1 s2 s3 s4 _ s5
  have h2 : s2.MemSat Canonical := by simp [s2, s1, h]
  have h3 : s3.MemSat Canonical := by
    simp only [s3, State.counterChanged_memSat]
    exact memSat_foldl _ h2 fun _ _ h => State.setHomeByte_memSat _ _ h
  simp [s5, s4, h3]

@[simp ↓] theorem State.serveRemote_memSat (w op r) (h : s.MemSat Canonical) : (s.serveRemote w op r).MemSat Canonical := by
  unfold State.serveRemote
  split <;> simp [h]

@[simp ↓] theorem remoteRequest_memSat (w op r) (h : s.MemSat Canonical) : NextSat Canonical (remoteRequest w op r s) := by
  unfold remoteRequest
  extract_lets _ _ _ t
  split
  · simp [h]
  · split
    · split
      · simp [t, h]
      · exact State.inTurn_memSat _ _ h fun _ h => by simp [h]
    · simp [h]

@[simp ↓] theorem State.flipBias_memSat (p) : (s.flipBias p).MemSat P ↔ s.MemSat P := by
  unfold State.flipBias
  simp

@[simp ↓] theorem hostRequest_memSat (id r) (h : s.MemSat Canonical) : NextSat Canonical (hostRequest id r s) := by
  unfold hostRequest
  split
  · simp [h]
  · extract_lets va drop _ _
    split
    · split
      · exact h
      · split
        · simp [h]
        · exact State.inTurn_memSat _ _ h fun _ h => by simp [h, drop]
    · simp [h, drop]

@[simp ↓] theorem homeActs_memSat (r) (h : s.MemSat Canonical) : NextSat Canonical (homeActs r s) := by
  unfold homeActs
  split <;> simp [h]

@[simp ↓] theorem execHomeRequest_memSat (r) (h : s.MemSat Canonical) : NextSat Canonical (execHomeRequest r s) := by
  unfold execHomeRequest
  split
  · simp [h]
  · next f n _ =>
    have hs := (State.atHomes_memSat (.homeRequest r) f [(homeOf r.va, n)]).2 h
    split
    · next e => rw [e] at hs; exact homeActs_memSat _ hs
    · next e => rw [e] at hs; exact hs

@[simp ↓] theorem execHostMemAccess_memSat (offset write data id) (h : s.MemSat Canonical) :
    NextSat Canonical (execHostMemAccess offset write data id s) := by
  unfold execHostMemAccess
  extract_lets
  split
  · simp [h]
  · split <;> simp +zetaDelta [h]

@[simp ↓] theorem execHostHoldTimeout_memSat (id) (h : s.MemSat Canonical) : NextSat Canonical (execHostHoldTimeout id s) := by
  unfold execHostHoldTimeout
  split <;> simp [h]

@[simp ↓] theorem execHostSnoop_memSat (line) (h : s.MemSat Canonical) : NextSat Canonical (execHostSnoop line s) := by
  unfold execHostSnoop
  simp [h]

@[simp ↓] theorem execSharePeriodBoundary_memSat (h : s.MemSat Canonical) : NextSat Canonical (execSharePeriodBoundary s) := by
  unfold execSharePeriodBoundary
  extract_lets _ _ _ _ _ _ s1 s2
  have h2 : s2.flushWake.MemSat Canonical := State.flushWake_memSat h
  have hr := execFaultRingRoom_memSat h2
  split
  · next e => rwa [e] at hr
  · exact hr

/-! ### The key-value cache -/

@[simp ↓] theorem State.kvLength_memSat (f d n) (h : s.MemSat Canonical) : (s.kvLength f d n).MemSat Canonical := by
  unfold State.kvLength
  simp [h]

@[simp ↓] theorem State.kvSetRefs_memSat (e n) : (s.kvSetRefs e n).MemSat P ↔ s.MemSat P := Iff.rfl
@[simp ↓] theorem State.modFunc_memSat (f g) : (s.modFunc f g).MemSat P ↔ s.MemSat P := Iff.rfl

@[simp ↓] theorem State.kvReclaim_memSat (tier) : (s.kvReclaim tier).MemSat P ↔ s.MemSat P := by
  unfold State.kvReclaim
  simp

@[simp ↓] theorem State.kvTake_memSat (f tier n) : (s.kvTake f tier n).MemSat P ↔ s.MemSat P := by
  unfold State.kvTake
  simp

@[simp ↓] theorem State.kvPush_memSat (f e) (h : s.MemSat Canonical) : (s.kvPush f e).MemSat Canonical := by
  unfold State.kvPush
  simp [h]

@[simp ↓] theorem State.kvAsk_memSat (p id op d seq dv dv1) : (s.kvAsk p id op d seq dv dv1).MemSat P ↔ s.MemSat P := Iff.rfl

@[simp ↓] theorem execKvx_memSat (d a) (h : s.MemSat P) : NextSat P (execKvx d a s) := by
  refine State.issue_memSat _ h fun p => ?_
  extract_lets
  split <;> simp +zetaDelta [h]

@[simp ↓] theorem kvTarget_memSat (i op d a) (h : s.MemSat P) : NextSat P (kvTarget i op d a s) := by
  refine State.issue_memSat _ h fun p => ?_
  extract_lets
  split
  · simp [h]
  · split <;> simp +zetaDelta [h]

@[simp ↓] theorem execKvapp_memSat (d a) (h : s.MemSat P) : NextSat P (execKvapp d a s) := kvTarget_memSat _ _ _ _ h
@[simp ↓] theorem execKvtrim_memSat (d a) (h : s.MemSat P) : NextSat P (execKvtrim d a s) := kvTarget_memSat _ _ _ _ h

@[simp ↓] theorem execKvpark_memSat (a) (h : s.MemSat P) : NextSat P (execKvpark a s) := by
  refine State.issue_memSat _ h fun p => ?_
  extract_lets
  split
  · simp [h]
  · split <;> simp +zetaDelta [h]

@[simp ↓] theorem execKvseq_memSat (d a) (h : s.MemSat P) : NextSat P (execKvseq d a s) := by
  refine State.issue_memSat _ h fun p => ?_
  split
  · simp [h]
  · extract_lets +onlyGivenNames seq c k op mbz
    clear_value mbz op k c seq
    split
    · simp [h]
    · split
      · simp [h]
      · split <;> simp [h]

@[simp ↓] theorem State.kvResult_memSat (r v) : (s.kvResult r v).MemSat P ↔ s.MemSat P := State.knownResult_memSat _ _ _ _
@[simp ↓] theorem State.kvRangeTrap_memSat (r cause) : (s.kvRangeTrap r cause).MemSat P ↔ s.MemSat P := State.knownTrap_memSat _ _ _ _ _

@[simp ↓] theorem State.kvLookup_memSat (r) : (s.kvLookup r).MemSat P ↔ s.MemSat P := by
  unfold State.kvLookup
  split <;> simp

@[simp ↓] theorem State.kvChange_memSat (r tag pages) : (s.kvChange r tag pages).MemSat P ↔ s.MemSat P := by
  unfold State.kvChange
  simp

@[simp ↓] theorem State.dropKv_memSat (r) : (s.dropKv r).MemSat P ↔ s.MemSat P := Iff.rfl
@[simp ↓] theorem State.kvStatus_memSat (r n) : (s.kvStatus r n).MemSat P ↔ s.MemSat P := State.modGang_memSat _ _ _

@[simp ↓] theorem State.kvRefused_memSat (r cause len) : (s.kvRefused r cause len).MemSat P ↔ s.MemSat P := by
  unfold State.kvRefused
  simp

@[simp ↓] theorem State.kvGrow_memSat (r) (h : s.MemSat Canonical) : (s.kvGrow r).1.MemSat Canonical := by
  unfold State.kvGrow
  extract_lets _ _ _ _ _ _ _ t'
  split
  · simp [h]
  · split
    · simp [h]
    · split
      · simp [h]
      · split
        · have ht : t'.MemSat Canonical := memSat_foldl _ ((State.kvTake_memSat _ _ _).2 h) fun _ _ h => by simp [h]
          simp [h, ht]
        · simp [h]

@[simp ↓] theorem State.kvDrop_memSat (f d i) (h : s.MemSat Canonical) : (s.kvDrop f d i).MemSat Canonical := by
  unfold State.kvDrop
  simp [h]

@[simp ↓] theorem State.kvShrink_memSat (r) (h : s.MemSat Canonical) : (s.kvShrink r).MemSat Canonical := by
  unfold State.kvShrink
  extract_lets f d _ t
  have ht : t.MemSat Canonical := memSat_foldl _ h fun _ _ h => State.kvDrop_memSat _ _ _ h
  simp [h, ht]

@[simp ↓] theorem State.kvFork_memSat (r) (h : s.MemSat Canonical) : (s.kvFork r).MemSat Canonical := by
  unfold State.kvFork
  extract_lets _ _ _ _ _ _ _ t
  have ht : t.MemSat Canonical := memSat_foldl _ h fun _ _ h => by simp [h]
  simp [h, ht]

@[simp ↓] theorem State.kvRecord_memSat (r) : (s.kvRecord r).MemSat P ↔ s.MemSat P := by
  unfold State.kvRecord
  split <;> simp

@[simp ↓] theorem execKvAllocatorRequest_memSat (h : s.MemSat Canonical) : NextSat Canonical (execKvAllocatorRequest s) := by
  unfold execKvAllocatorRequest
  extract_lets _ pick done
  cases pick with
  | none => exact h
  | some r =>
    dsimp only
    split <;> simp [h, done]

@[simp ↓] theorem State.flushResume_memSat (f ws) (h : s.MemSat Canonical) : (s.flushResume f ws).MemSat Canonical := by
  induction ws generalizing s with
  | nil => exact h
  | cons w ws ih =>
    unfold State.flushResume
    split
    · exact ih (by simpa using h)
    · split
      · simp [h]
      · next t ht =>
        have := State.appendRing_memSat _ _ _ h t ht
        exact ih (by split <;> simp [this])

@[simp ↓] theorem execResumeRingRoom_memSat (f) (h : s.MemSat Canonical) : NextSat Canonical (execResumeRingRoom f s) := by
  unfold execResumeRingRoom
  simp [h]

@[simp ↓] theorem execKvStallTimeout_memSat (core slot id) (h : s.MemSat P) : NextSat P (execKvStallTimeout core slot id s) := by
  unfold execKvStallTimeout
  split
  · exact h
  · split
    · dsimp only
      split
      · simp [h]
      · simp [h]
    · exact h

/-! ### SYS and PREQ -/

@[simp ↓] theorem sysOp_memSat (i : Instr) (sub : Nat) (d a : Reg) {f : Party → Nat → Nat → SysOut} (h : s.MemSat P)
    (hf : ∀ p sel val, RunSat P (f p sel val)) : NextSat P (sysOp i sub d a f s) := by
  refine State.issue_memSat i h fun p => ?_
  split
  · simp [h]
  · have hr := hf p (s.uniform p a 1) (s.uniform p d 1)
    split
    · simp [h]
    · simp [h]
    · simp [h]
    · next e => rwa [e] at hr

@[simp ↓] theorem tableSent_memSat (p e) : ((tableSent p e s)).MemSat P ↔ s.MemSat P := by
  unfold tableSent
  simp

@[simp ↓] theorem State.setDomain_memSat (d f g) : (s.setDomain d f g).MemSat P ↔ s.MemSat P := Iff.rfl

@[simp ↓] theorem State.applyTable_memSat (x1) : (s.applyTable x1).MemSat P ↔ s.MemSat P := by
  unfold State.applyTable
  split <;> simp

@[simp ↓] theorem execSystemSubopComplete_memSat (core slot lead) (h : s.MemSat P) : NextSat P (execSystemSubopComplete core slot lead s) := by
  unfold execSystemSubopComplete
  split <;> simp [h]

@[simp ↓] theorem execKeyw_memSat (d a) (h : s.MemSat P) : NextSat P (execKeyw d a s) := by
  unfold execKeyw
  simp [h]

@[simp ↓] theorem execWaym_memSat (d a) (h : s.MemSat P) : NextSat P (execWaym d a s) := by
  unfold execWaym
  simp [h]

@[simp ↓] theorem execKlass_memSat (d a) (h : s.MemSat P) : NextSat P (execKlass d a s) := by
  unfold execKlass
  simp [h]

@[simp ↓] theorem execSplit_memSat (d a) (h : s.MemSat P) : NextSat P (execSplit d a s) := by
  unfold execSplit
  simp [h]

@[simp ↓] theorem execFreeze_memSat (d a) (h : s.MemSat P) : NextSat P (execFreeze d a s) := by
  unfold execFreeze
  simp [h]

@[simp ↓] theorem execWingr_memSat (d a) (h : s.MemSat P) : NextSat P (execWingr d a s) := by
  unfold execWingr
  simp [h]

@[simp ↓] theorem execJrnl_memSat (d a) (h : s.MemSat P) : NextSat P (execJrnl d a s) := by
  unfold execJrnl
  simp [h]

@[simp ↓] theorem State.preemptOne_memSat (key) : (s.preemptOne key).MemSat P ↔ s.MemSat P := by
  unfold State.preemptOne
  simp

@[simp ↓] theorem State.preemptBlock_memSat (key) : (s.preemptBlock key).MemSat P ↔ s.MemSat P := by
  unfold State.preemptBlock
  split <;> simp

@[simp ↓] theorem State.modLaunch_memSat (idx f) : (s.modLaunch idx f).MemSat P ↔ s.MemSat P := Iff.rfl

@[simp ↓] theorem State.abortLaunch_memSat (idx) : (s.abortLaunch idx).MemSat P ↔ s.MemSat P := by
  unfold State.abortLaunch
  simp

@[simp ↓] theorem State.freeRecord_memSat (va n) (h : s.MemSat Canonical) : (s.freeRecord va n).MemSat Canonical :=
  State.devWrite_memSat _ _ h

@[simp ↓] theorem State.writeContext_memSat (va) (h : s.MemSat Canonical) : (s.writeContext va).MemSat Canonical := by
  unfold State.writeContext
  simp [h]

@[simp ↓] theorem State.unplace_memSat (key) (h : s.MemSat Canonical) : (s.unplace key).MemSat Canonical := by
  unfold State.unplace
  split <;> simp [h]

@[simp ↓] theorem State.saveGang_memSat (p g b) (h : s.MemSat Canonical) : (s.saveGang p g b).MemSat Canonical := by
  unfold State.saveGang
  extract_lets _ _ s1 s2 _ _ _ _ s3 s4 s5 s6
  have h2 : s2.MemSat Canonical := by simp [s2, s1, h]
  have h6 : s6.MemSat Canonical := by simp [s6, s5, s4, s3, h2]
  simp [h6]

@[simp ↓] theorem State.gangRestored_memSat (core slot g) : (s.gangRestored core slot g).MemSat P ↔ s.MemSat P := by
  unfold State.gangRestored
  simp

@[simp ↓] theorem preqRestore_memSat (p) : ((preqRestore s p)).MemSat P ↔ s.MemSat P := by
  unfold preqRestore
  simp

theorem preqHandler_memSat (ok sel val) {t : SysOut} (ht : RunSat P t) : RunSat P (preqHandler ok sel val t) := by
  simp [preqHandler, ht]

theorem preqLaunch_memSat (p sel val) {f : Launch → State} (hf : ∀ l, (f l).MemSat P) : RunSat P (preqLaunch s p sel val f) := by
  unfold preqLaunch
  split
  · simp
  · simp [hf]

theorem preqSave_memSat (p sel val) (h : s.MemSat Canonical) : RunSat Canonical (preqSave s p sel val) := by
  refine preqHandler_memSat _ _ _ ?_
  split
  · simp
  · split
    · exact h
    · split
      · split <;> simp [h]
      · simp [h]

@[simp ↓] theorem preqOp_memSat (d a) (h : s.MemSat Canonical) : NextSat Canonical (preqOp d a s) := by
  refine sysOp_memSat _ _ _ _ h fun p sel val => ?_
  dsimp only
  split
  · exact preqLaunch_memSat _ _ _ fun l => by simp [h]
  · exact preqSave_memSat _ _ _ h
  · exact preqHandler_memSat _ _ _ (by simp [h])
  · exact preqHandler_memSat _ _ _ (by simp [h])
  · exact preqHandler_memSat _ _ _ (by simp [h])
  · exact preqLaunch_memSat _ _ _ fun l => by simp [h]
  · exact preqLaunch_memSat _ _ _ fun l => by simp [h]
  · simp

@[simp ↓] theorem execPreqHold_memSat (d a) (h : s.MemSat Canonical) : NextSat Canonical (execPreqHold d a s) := preqOp_memSat _ _ h
@[simp ↓] theorem execPreqSaved_memSat (d a) (h : s.MemSat Canonical) : NextSat Canonical (execPreqSaved d a s) := preqOp_memSat _ _ h
@[simp ↓] theorem execPreqWaitsave_memSat (d a) (h : s.MemSat Canonical) : NextSat Canonical (execPreqWaitsave d a s) := preqOp_memSat _ _ h
@[simp ↓] theorem execPreqRestored_memSat (d a) (h : s.MemSat Canonical) : NextSat Canonical (execPreqRestored d a s) := preqOp_memSat _ _ h
@[simp ↓] theorem execPreqWaitrest_memSat (d a) (h : s.MemSat Canonical) : NextSat Canonical (execPreqWaitrest d a s) := preqOp_memSat _ _ h
@[simp ↓] theorem execPreqKill_memSat (d a) (h : s.MemSat Canonical) : NextSat Canonical (execPreqKill d a s) := preqOp_memSat _ _ h
@[simp ↓] theorem execPreqRelease_memSat (d a) (h : s.MemSat Canonical) : NextSat Canonical (execPreqRelease d a s) := preqOp_memSat _ _ h

/-! ### The distributors -/

@[simp ↓] theorem State.journal_memSat (idx) (h : s.MemSat Canonical) : (s.journal idx).MemSat Canonical := by
  unfold State.journal
  split <;> simp [h]

@[simp ↓] theorem State.setLaunch_memSat (idx st status) (h : s.MemSat Canonical) : (s.setLaunch idx st status).MemSat Canonical :=
  State.journal_memSat _ h

@[simp ↓] theorem State.dropSome_memSat (core) : (s.dropSome core).MemSat P ↔ s.MemSat P := by
  unfold State.dropSome
  simp

@[simp ↓] theorem State.setBays_memSat (core kinds) : (s.setBays core kinds).MemSat P ↔ s.MemSat P := by
  unfold State.setBays
  simp

@[simp ↓] theorem execBayConversion_memSat (core bay kind) (h : s.MemSat P) : NextSat P (execBayConversion core bay kind s) := by
  unfold execBayConversion
  simp [h]

@[simp ↓] theorem State.takeDomain_memSat (core d) : (s.takeDomain core d).MemSat P ↔ s.MemSat P := Iff.rfl
@[simp ↓] theorem State.placePart_memSat (l key p) : (s.placePart l key p).MemSat P ↔ s.MemSat P := State.setBays_memSat _ _
@[simp ↓] theorem State.addGang_memSat (core slot g) : (s.addGang core slot g).MemSat P ↔ s.MemSat P := Iff.rfl

@[simp ↓] theorem State.placeNew_memSat (l bid parts) : (s.placeNew l bid parts).MemSat P ↔ s.MemSat P := by
  unfold State.placeNew
  split <;> simp

@[simp ↓] theorem State.headRequest_memSat (core slot e) : (s.headRequest core slot e).MemSat P ↔ s.MemSat P := Iff.rfl

@[simp ↓] theorem State.placeOld_memSat (l b parts) : (s.placeOld l b parts).MemSat P ↔ s.MemSat P := by
  unfold State.placeOld
  split
  · rfl
  · split
    · simp
    · split
      · simp
      · extract_lets s1 s2 s3 s4 put
        have h4 : s4.MemSat P ↔ s.MemSat P :=
          (foldl_memSat s3 _ fun _ _ => by simp).trans ((foldl_memSat s2 _ fun _ _ => by simp).trans (by simp [s2, s1]))
        have hput (s : State) (core : Nat) (g : Nat × Nat × Nat) : (put s core g).MemSat P ↔ s.MemSat P := by
          simp only [put]
          split
          · rfl
          · simp only [State.memSat_ite, State.killBlock_memSat, ite_self]
            split <;> simp
        simp [hput, h4]

@[simp ↓] theorem State.placeItem_memSat (l i parts) : (s.placeItem l i parts).MemSat P ↔ s.MemSat P := by
  unfold State.placeItem
  split <;> simp

theorem State.placeAll_memSat (excl l cores is) : ∀ t ∈ s.placeAll excl l cores is, t.MemSat P ↔ s.MemSat P := by
  induction is generalizing s with
  | nil => rintro t ⟨⟩; rfl
  | cons i is ih =>
    intro t ht
    unfold State.placeAll at ht
    split at ht
    · cases ht; rfl
    · obtain ⟨p, -, ht⟩ := Option.bind_eq_some_iff.mp ht
      simpa using ih t ht

theorem State.tryPlace_memSat (excl l clusters) : ∀ t ∈ s.tryPlace excl l clusters, t.MemSat P ↔ s.MemSat P := by
  intro t ht
  unfold State.tryPlace at ht
  split at ht
  · cases ht
  · split at ht
    · exact State.placeAll_memSat _ _ _ _ t ht
    · obtain ⟨c, -, hc⟩ := List.exists_of_findSome?_eq_some ht
      exact State.placeAll_memSat _ _ _ _ t hc

@[simp ↓] theorem State.launchCounter_memSat (l) (h : s.MemSat Canonical) : (s.launchCounter l).MemSat Canonical := by
  unfold State.launchCounter
  split
  · exact h
  · split
    · simp [h]
    · cases s.deviceOf (l.pair64 16) <;> simp [h]

@[simp ↓] theorem State.closeFailed_memSat (l status) (h : s.MemSat Canonical) : (s.closeFailed l status).MemSat Canonical := by
  unfold State.closeFailed
  simp [h]

theorem State.launchRelease_memSat (l) (h : s.MemSat Canonical) : ∀ t ∈ (State.launchRelease s l), t.MemSat Canonical := by
  unfold State.launchRelease
  repeat' split
  all_goals simp [h]

@[simp ↓] theorem execLaunchCompletion_memSat (idx) (h : s.MemSat Canonical) : NextSat Canonical (execLaunchCompletion idx s) := by
  unfold execLaunchCompletion
  split
  · exact h
  · next l _ =>
    extract_lets t
    have ht : t.MemSat Canonical := by simp [t, h]
    have hrel : ∀ x ∈ t.launchRelease l, x.MemSat Canonical := State.launchRelease_memSat _ ht
    split
    · exact ht
    · split
      · split
        · exact ht
        · split
          · simp [ht]
          · refine (nextSat_next _).2 (memSat_getD (fun x hx => ?_) ?_)
            · split at hx
              · exact hrel x hx
              · cases hx
            · simp [ht]
      · split
        · exact ht
        · split
          · simp [ht]
          · refine (nextSat_next _).2 (memSat_getD hrel ?_)
            simp [ht]

@[simp ↓] theorem State.rejectLaunch_memSat (idx status) : (s.rejectLaunch idx status).MemSat P ↔ s.MemSat P := Iff.rfl

@[simp ↓] theorem State.testLaunch_memSat (l) : (s.testLaunch l).MemSat P ↔ s.MemSat P := by
  unfold State.testLaunch
  simp

@[simp ↓] theorem State.testDie_memSat (die) : (s.testDie die).MemSat P ↔ s.MemSat P := by
  unfold State.testDie
  simp

@[simp ↓] theorem State.takeSlice_memSat (f) : (s.takeSlice f).MemSat P ↔ s.MemSat P := by
  unfold State.takeSlice
  simp

@[simp ↓] theorem State.acceptRecord_memSat (q a) (h : s.MemSat Canonical) : (s.acceptRecord q a).MemSat Canonical := by
  unfold State.acceptRecord
  simp [h]

@[simp ↓] theorem State.readQueue_memSat (k n) (h : s.MemSat Canonical) : (s.readQueue k n).MemSat Canonical := by
  induction n generalizing s with
  | zero => exact h
  | succ n ih =>
    unfold State.readQueue
    split
    · exact h
    · extract_lets _ _ s1 _ s2
      split
      · exact h
      · exact ih (by simp [s2, s1, h])

@[simp ↓] theorem State.readQueues_memSat (die p) (h : s.MemSat Canonical) : (s.readQueues die p).MemSat Canonical := by
  unfold State.readQueues
  split
  · exact h
  · exact memSat_foldl _ h fun _ _ h => State.readQueue_memSat _ _ h

@[simp ↓] theorem execDistributorBell_memSat (die function) (h : s.MemSat Canonical) : NextSat Canonical (execDistributorBell die function s) := by
  unfold execDistributorBell
  simp [h]

@[simp ↓] theorem execDistributorPoll_memSat (die) (h : s.MemSat Canonical) : NextSat Canonical (execDistributorPoll die s) :=
  State.readQueues_memSat _ _ h

@[simp ↓] theorem execDependenceTest_memSat (die) (h : s.MemSat P) : NextSat P (execDependenceTest die s) := by
  unfold execDependenceTest
  simp [h]

@[simp ↓] theorem State.placed_memSat (l) (h : s.MemSat Canonical) : (s.placed l).MemSat Canonical := by
  unfold State.placed
  simp [h]

@[simp ↓] theorem State.reclaim_memSat (cluster f) : (s.reclaim cluster f).MemSat P ↔ s.MemSat P := by
  unfold State.reclaim
  simp

@[simp ↓] theorem State.reclaimFor_memSat (l) : (s.reclaimFor l).MemSat P ↔ s.MemSat P := by
  unfold State.reclaimFor
  split
  · split <;> simp
  · simp

@[simp ↓] theorem State.blocked_memSat (l) : (s.blocked l).MemSat P ↔ s.MemSat P := by
  unfold State.blocked
  simp

@[simp ↓] theorem execPlacementStep_memSat (die) (h : s.MemSat Canonical) : NextSat Canonical (execPlacementStep die s) := by
  unfold execPlacementStep
  extract_lets _ hs s1 try' _ wait
  have h1 : s1.MemSat Canonical := memSat_foldl _ h fun _ _ h => by simp [h]
  have hwait (s : State) : (wait s).MemSat Canonical ↔ s.MemSat Canonical := foldl_memSat _ _ fun _ _ => by simp
  split
  · exact h
  · split
    · simp [h]
    · split
      · next t l e =>
        obtain ⟨l', -, hl⟩ := List.exists_of_findSome?_eq_some e
        obtain ⟨t', ht', e'⟩ := Option.map_eq_some_iff.mp hl
        cases e'
        have ht : t.MemSat Canonical := (State.tryPlace_memSat _ _ _ t ht').2 h1
        simp [hwait, ht]
      · simp [hwait, h1]

@[simp ↓] theorem execBlockRestore_memSat (blk) (h : s.MemSat Canonical) : NextSat Canonical (execBlockRestore blk s) := by
  unfold execBlockRestore
  split
  · exact h
  · split
    · exact h
    · split
      · next t ht => simp [(State.tryPlace_memSat _ _ _ t ht).2 h]
      · exact h

@[simp ↓] theorem State.preemptFor_memSat (l p) : (s.preemptFor l p).MemSat P ↔ s.MemSat P := by
  unfold State.preemptFor
  simp

@[simp ↓] theorem State.waitOver_memSat (idx) : (s.waitOver idx).MemSat P ↔ s.MemSat P := Iff.rfl

@[simp ↓] theorem execPreemptionRequest_memSat (die idx) (h : s.MemSat P) : NextSat P (execPreemptionRequest die idx s) := by
  unfold execPreemptionRequest
  split
  · simp [h]
  · split <;> simp [h]

@[simp ↓] theorem State.endSlice_memSat (function len) : (s.endSlice function len).MemSat P ↔ s.MemSat P := by
  unfold State.endSlice
  simp

@[simp ↓] theorem execSliceTimeEnd_memSat (function) (h : s.MemSat P) : NextSat P (execSliceTimeEnd function s) := by
  simpa [execSliceTimeEnd] using h

@[simp ↓] theorem execClusterReclaim_memSat (die cluster) (h : s.MemSat P) : NextSat P (execClusterReclaim die cluster s) := by
  unfold execClusterReclaim
  extract_lets
  split <;> simp +zetaDelta [h]

/-! ### Start-up, resets and power -/

@[simp ↓] theorem State.loseLeat_memSat (core) : (s.loseLeat core).MemSat P ↔ s.MemSat P := by
  unfold State.loseLeat
  simp

@[simp ↓] theorem State.trapAcql_memSat (down) : (s.trapAcql down).MemSat P ↔ s.MemSat P := by
  unfold State.trapAcql
  extract_lets _ _ t
  refine (foldl_memSat _ _ fun s w => ?_).trans (State.memSat_update s)
  split <;> simp

@[simp ↓] theorem execClusterLinkFailure_memSat (cluster) (h : s.MemSat Canonical) : NextSat Canonical (execClusterLinkFailure cluster s) := by
  unfold execClusterLinkFailure
  simp [h]

@[simp ↓] theorem execClusterBringUp_memSat (cluster) (h : s.MemSat P) : NextSat P (execClusterBringUp cluster s) := by
  unfold execClusterBringUp
  simp [h]

@[simp ↓] theorem execFirmwareDownload_memSat (img) (h : s.MemSat P) : NextSat P (execFirmwareDownload img s) := by
  unfold execFirmwareDownload
  simp [h]

@[simp ↓] theorem execFunctionReady_memSat (bit) (h : s.MemSat P) : NextSat P (execFunctionReady bit s) := by
  unfold execFunctionReady
  simp [h]

@[simp ↓] theorem State.resetDie_memSat (die cause) (h : s.MemSat Canonical) : (s.resetDie die cause).MemSat Canonical := by
  unfold State.resetDie
  simp [h]

@[simp ↓] theorem execDieReset_memSat (die cause) (h : s.MemSat Canonical) : NextSat Canonical (execDieReset die cause s) :=
  State.resetDie_memSat _ _ h

@[simp ↓] theorem State.walkLaunch_memSat (l) (h : s.MemSat Canonical) : (s.walkLaunch l).MemSat Canonical := by
  unfold State.walkLaunch
  simp [h]

@[simp ↓] theorem execJournalWalk_memSat (die) (h : s.MemSat Canonical) : NextSat Canonical (execJournalWalk die s) := by
  unfold execJournalWalk
  split
  · exact h
  · extract_lets t ls
    exact (State.testDie_memSat _).2 (memSat_foldl (s := t) _ h fun _ _ h => State.walkLaunch_memSat _ h)

/-- Power-up empties the DRAM and leaves the host memory. -/
@[simp ↓] theorem State.powerUp_memSat (st) (h : s.MemSat Canonical) : (s.powerUp st).MemSat Canonical := ⟨rfl, h.2⟩

@[simp ↓] theorem execBringUp_memSat (h : s.MemSat Canonical) : NextSat Canonical (execBringUp s) := State.powerUp_memSat _ h

@[simp ↓] theorem execThrottleChange_memSat (level power thermal) (h : s.MemSat Canonical) :
    NextSat Canonical (execThrottleChange level power thermal s) := by
  unfold execThrottleChange
  simp [h]

@[simp ↓] theorem execThermalTrip_memSat (h : s.MemSat Canonical) : NextSat Canonical (execThermalTrip s) := by
  unfold execThermalTrip
  extract_lets cause _ t
  have ht : t.MemSat Canonical := State.errorRecord_memSat 6 [s.freeNat 0, s.freeNat 1, 2] h
  have hd := State.resetDie_memSat 0 cause ht
  simp [hd]

@[simp ↓] theorem execPowerStateChange_memSat (st) (h : s.MemSat Canonical) : NextSat Canonical (execPowerStateChange st s) := by
  unfold execPowerStateChange
  split <;> simp [h]

@[simp ↓] theorem State.modDomain_memSat (d f) : (s.modDomain d f).MemSat P ↔ s.MemSat P := Iff.rfl

@[simp ↓] theorem State.mailSet_memSat (m) : (s.mailSet m).MemSat P ↔ s.MemSat P := by
  unfold State.mailSet
  split <;> simp

@[simp ↓] theorem execConfigMailboxWrite_memSat (m) (h : s.MemSat P) : NextSat P (execConfigMailboxWrite m s) := by
  unfold execConfigMailboxWrite
  simp [h]

/-! ### The fabric -/

@[simp ↓] theorem execFlitResend_memSat (port) (h : s.MemSat P) : NextSat P (execFlitResend port s) := by
  unfold execFlitResend
  simp [h]

@[simp ↓] theorem State.hostRetrain_memSat (lanes) (h : s.MemSat Canonical) : (s.hostRetrain lanes).MemSat Canonical :=
  State.errorRecord_memSat _ _ h

@[simp ↓] theorem execLinkRetrain_memSat (port lanes) (h : s.MemSat Canonical) : NextSat Canonical (execLinkRetrain port lanes s) := by
  unfold execLinkRetrain
  simp [h]

@[simp ↓] theorem State.givesUp_memSat (m) : (s.givesUp m).MemSat P ↔ s.MemSat P := Iff.rfl
@[simp ↓] theorem State.loseTickets_memSat (device) : (s.loseTickets device).MemSat P ↔ s.MemSat P := Iff.rfl

@[simp ↓] theorem State.failMsg_memSat (m) (h : s.MemSat Canonical) : (s.failMsg m).MemSat Canonical := by
  unfold State.failMsg
  split <;> simp [h]

@[simp ↓] theorem execFabricTimeout_memSat (core what) (h : s.MemSat Canonical) : NextSat Canonical (execFabricTimeout core what s) :=
  memSat_foldl _ h fun _ _ h => State.failMsg_memSat _ h

@[simp ↓] theorem execFabricAckArrival_memSat (core seq clean) (h : s.MemSat P) : NextSat P (execFabricAckArrival core seq clean s) := by
  unfold execFabricAckArrival
  split <;> simp [h]

@[simp ↓] theorem State.modTicket_memSat (region f) : (s.modTicket region f).MemSat P ↔ s.MemSat P := Iff.rfl

@[simp ↓] theorem State.grantTicket_memSat (device t write) (h : s.MemSat Canonical) : (s.grantTicket device t write).MemSat Canonical := by
  unfold State.grantTicket
  simp [h]

@[simp ↓] theorem execTicketRequest_memSat (device region write) (h : s.MemSat Canonical) :
    NextSat Canonical (execTicketRequest device region write s) := by
  unfold execTicketRequest
  extract_lets
  split
  · simp [h]
  · split <;> simp +zetaDelta [h]

@[simp ↓] theorem State.ticketBack_memSat (device region) : (s.ticketBack device region).MemSat P ↔ s.MemSat P := by
  unfold State.ticketBack
  extract_lets
  split <;> simp +zetaDelta

@[simp ↓] theorem State.handBack_memSat (x1) (h : s.MemSat Canonical) : (s.handBack x1).MemSat Canonical := by
  unfold State.handBack
  split <;> simp [h]

@[simp ↓] theorem execTicketHandover_memSat (device region) (h : s.MemSat Canonical) : NextSat Canonical (execTicketHandover device region s) := by
  unfold execTicketHandover
  split
  · split <;> simp [h]
  · simp [h]

@[simp ↓] theorem execTicketEviction_memSat (h : s.MemSat P) : NextSat P (execTicketEviction s) := by
  unfold execTicketEviction
  extract_lets live
  cases live <;> simp [h]

@[simp ↓] theorem State.poisonRegion_memSat (region) (h : s.MemSat Canonical) : (s.poisonRegion region).MemSat Canonical :=
  memSat_foldl _ h fun s k h => by
    dsimp only
    split <;> simp [h]

@[simp ↓] theorem execTicketHolderLost_memSat (device region) (h : s.MemSat Canonical) :
    NextSat Canonical (execTicketHolderLost device region s) := by
  unfold execTicketHolderLost
  split <;> simp [h]

@[simp ↓] theorem execTicketHomeUnreachable_memSat (device) (h : s.MemSat P) : NextSat P (execTicketHomeUnreachable device s) := by
  unfold execTicketHomeUnreachable
  simp [h]

/-! ### Cross-lane moves -/

@[simp ↓] theorem quadOp_memSat (i d a ra f) (h : s.MemSat P) : NextSat P (quadOp i d a ra f s) :=
  State.issue_memSat _ h fun _ => by simp [h]

@[simp ↓] theorem execQswh_memSat (d a ra) (h : s.MemSat P) : NextSat P (execQswh d a ra s) := quadOp_memSat _ _ _ _ _ h
@[simp ↓] theorem execQswv_memSat (d a ra) (h : s.MemSat P) : NextSat P (execQswv d a ra s) := quadOp_memSat _ _ _ _ _ h
@[simp ↓] theorem execQswd_memSat (d a ra) (h : s.MemSat P) : NextSat P (execQswd d a ra s) := quadOp_memSat _ _ _ _ _ h
@[simp ↓] theorem execQbc0_memSat (d a ra) (h : s.MemSat P) : NextSat P (execQbc0 d a ra s) := quadOp_memSat _ _ _ _ _ h
@[simp ↓] theorem execQbc1_memSat (d a ra) (h : s.MemSat P) : NextSat P (execQbc1 d a ra s) := quadOp_memSat _ _ _ _ _ h
@[simp ↓] theorem execQbc2_memSat (d a ra) (h : s.MemSat P) : NextSat P (execQbc2 d a ra s) := quadOp_memSat _ _ _ _ _ h
@[simp ↓] theorem execQbc3_memSat (d a ra) (h : s.MemSat P) : NextSat P (execQbc3 d a ra s) := quadOp_memSat _ _ _ _ _ h
@[simp ↓] theorem execQsum_memSat (d a ra) (h : s.MemSat P) : NextSat P (execQsum d a ra s) := quadOp_memSat _ _ _ _ _ h
@[simp ↓] theorem execQmin_memSat (d a ra) (h : s.MemSat P) : NextSat P (execQmin d a ra s) := quadOp_memSat _ _ _ _ _ h
@[simp ↓] theorem execQmax_memSat (d a ra) (h : s.MemSat P) : NextSat P (execQmax d a ra s) := quadOp_memSat _ _ _ _ _ h
@[simp ↓] theorem execQddx_memSat (d a ra) (h : s.MemSat P) : NextSat P (execQddx d a ra s) := quadOp_memSat _ _ _ _ _ h
@[simp ↓] theorem execQddy_memSat (d a ra) (h : s.MemSat P) : NextSat P (execQddy d a ra s) := quadOp_memSat _ _ _ _ _ h

@[simp ↓] theorem voteOp_memSat (i d a ra f) (h : s.MemSat P) : NextSat P (voteOp i d a ra f s) :=
  State.issue_memSat _ h fun _ => by simp [h]

@[simp ↓] theorem foldOp_memSat (i d a ra f) (h : s.MemSat P) : NextSat P (foldOp i d a ra f s) := by
  refine State.issue_memSat _ h fun p => ?_
  split <;> simp [h]

@[simp ↓] theorem scanOp_memSat (i incl d a ra) (h : s.MemSat P) : NextSat P (scanOp i incl d a ra s) :=
  State.issue_memSat _ h fun _ => by simp [h]

@[simp ↓] theorem execLane_memSat (d ra) (h : s.MemSat P) : NextSat P (execLane d ra s) := State.issue_memSat _ h fun _ => by simp [h]
@[simp ↓] theorem execQidx_memSat (d ra) (h : s.MemSat P) : NextSat P (execQidx d ra s) := State.issue_memSat _ h fun _ => by simp [h]
@[simp ↓] theorem execBallot_memSat (d a ra) (h : s.MemSat P) : NextSat P (execBallot d a ra s) := voteOp_memSat _ _ _ _ _ h
@[simp ↓] theorem execVany_memSat (d a ra) (h : s.MemSat P) : NextSat P (execVany d a ra s) := voteOp_memSat _ _ _ _ _ h
@[simp ↓] theorem execVall_memSat (d a ra) (h : s.MemSat P) : NextSat P (execVall d a ra s) := voteOp_memSat _ _ _ _ _ h
@[simp ↓] theorem execGsum_memSat (d a ra) (h : s.MemSat P) : NextSat P (execGsum d a ra s) := foldOp_memSat _ _ _ _ _ h
@[simp ↓] theorem execGmin_memSat (d a ra) (h : s.MemSat P) : NextSat P (execGmin d a ra s) := foldOp_memSat _ _ _ _ _ h
@[simp ↓] theorem execGmax_memSat (d a ra) (h : s.MemSat P) : NextSat P (execGmax d a ra s) := foldOp_memSat _ _ _ _ _ h
@[simp ↓] theorem execGscan_memSat (d a ra) (h : s.MemSat P) : NextSat P (execGscan d a ra s) := scanOp_memSat _ _ _ _ _ h
@[simp ↓] theorem execGscanx_memSat (d a ra) (h : s.MemSat P) : NextSat P (execGscanx d a ra s) := scanOp_memSat _ _ _ _ _ h
@[simp ↓] theorem execElect_memSat (d ra) (h : s.MemSat P) : NextSat P (execElect d ra s) := State.issue_memSat _ h fun _ => by simp [h]
@[simp ↓] theorem execMatch_memSat (d a ra) (h : s.MemSat P) : NextSat P (execMatch d a ra s) := State.issue_memSat _ h fun _ => by simp [h]
@[simp ↓] theorem execPopm_memSat (d a ra) (h : s.MemSat P) : NextSat P (execPopm d a ra s) := State.issue_memSat _ h fun _ => by simp [h]

@[simp ↓] theorem execShfl_memSat (d a ra b rb) (h : s.MemSat P) : NextSat P (execShfl d a ra b rb s) :=
  State.issue_memSat _ h fun _ => by simp [h]

@[simp ↓] theorem execMovsv_memSat (d a ra b rb) (h : s.MemSat P) : NextSat P (execMovsv d a ra b rb s) :=
  State.issue_memSat _ h fun _ => by simp [h]

/-! ### REP iterations -/

@[simp ↓] theorem execIllegalInstruction_memSat (cause op) (h : s.MemSat P) : NextSat P (execIllegalInstruction cause op s) := by
  unfold execIllegalInstruction
  split <;> simp [h]

@[simp ↓] theorem runTarget_memSat (i) (h : s.MemSat P) : NextSat P (runTarget i s) := by
  cases i <;> simp only [runTarget] <;> simp [h]

@[simp ↓] theorem execRepIteration_memSat (w) (h : s.MemSat P) : NextSat P (execRepIteration w s) := by
  unfold execRepIteration
  split
  · simp
  · split
    · exact h
    · extract_lets _ _ d cause
      clear_value d cause
      split
      · simp [h]
      · split
        · simp [h]
        · cases cause with
          | some c => simp [h]
          | none =>
            dsimp only
            split
            · simp [h]
            · cases d with
              | ok i => exact runTarget_memSat i h
              | bad c o => exact h

@[simp ↓] theorem execSchedulerTurnEnd_memSat (core quarter) (h : s.MemSat P) : NextSat P (execSchedulerTurnEnd core quarter s) := by
  simpa [execSchedulerTurnEnd] using h

/-! ### Dispatch -/

/-- Each arm calls one meaning, whose lemma says the same. -/
@[simp ↓] theorem exec_memSat (i) (h : s.MemSat Canonical) : NextSat Canonical (exec i s) := by
  cases i <;> simp only [exec] <;> simp [h]

/-! ### Fetch and issue -/

@[simp ↓] theorem State.issued_memSat {t : State} (k ends te g) (ht : t.MemSat P) : (s.issued t k ends te g).MemSat P := by
  unfold State.issued
  split
  · exact ht
  · extract_lets
    split <;> simp +zetaDelta [ht]

@[simp ↓] theorem State.issueFor_memSat (k) (h : s.MemSat Canonical) : NextSat Canonical (s.issueFor k) := by
  unfold State.issueFor
  extract_lets t
  have ht : t.MemSat Canonical := h
  split
  · exact h
  · next p _ =>
    extract_lets te r
    have hr : NextSat Canonical r := by
      simp only [r]
      split
      · simp [ht]
      · exact exec_memSat _ ht
    cases hr' : r with
    | next u => simp [show u.MemSat Canonical by rwa [hr'] at hr]
    | fault f => trivial
    | refused f => trivial

@[simp ↓] theorem State.endTurns_memSat : s.endTurns.MemSat P ↔ s.MemSat P := by
  unfold State.endTurns
  simp

@[simp ↓] theorem State.tick_memSat : s.tick.MemSat P ↔ s.MemSat P := by
  unfold State.tick
  simp

/-! ### The step -/

@[simp ↓] theorem step_memSat (h : s.MemSat Canonical) : NextSat Canonical (step s) := by
  unfold step
  split
  · simp [h]
  · split <;> simp [h]

/-! ### The obligation -/

/-- Settles O6: each instruction and each step of the device keeps the canonical form (step_memSat). -/
theorem stepsKeepMemoryCanonical : Obligations.StepsKeepMemoryCanonical := by
  unfold Obligations.StepsKeepMemoryCanonical
  intro s t hd hh ht
  have hn : NextSat Canonical (step s) := step_memSat ⟨hd, hh⟩
  rwa [ht] at hn

end Sys2Proof.Machine
end

section
/-! SUPPORT. Rules for the quads, the parties and the gang of an executing party, used by the statements about control (R13 to R22). -/

namespace Sys2Proof.Machine
open Sys2Proof

/-! ### The executing party's gang -/

variable {s : State} {p : Party} {i : Instr}

theorem Runs.gang (h : Runs s p i) : s.gangAt p.core p.slot = some p.g := State.gangAt_of_party h.party

/-- An instruction that runs has its own effect. -/
theorem Runs.issue (h : Runs s p i) (f : Party → State) : s.issue i f = .next (f p) := State.issue_clear h.party h.free h.unheld h.clear

/-- A change of the party's gang replaces it by its value. -/
theorem State.modGang_party (hg : s.gangAt p.core p.slot = some p.g) (f : Gang → Gang) :
    s.modGang p.core p.slot f = s.withGangOf p (f p.g) := by
  rw [State.withGangOf, State.modGang_eq _ hg, State.modGang_eq _ hg]

@[simp] theorem State.modGang_withGangOf (s : State) (p : Party) (g : Gang) (f : Gang → Gang) :
    (s.withGangOf p g).modGang p.core p.slot f = s.withGangOf p (f g) := by
  simp only [State.withGangOf, State.modGang_modGang]
  rfl

@[simp] theorem State.withGangOf_withGangOf (s : State) (p : Party) (g h : Gang) : (s.withGangOf p g).withGangOf p h = s.withGangOf p h :=
  State.modGang_withGangOf s p g fun _ => h

@[simp] theorem State.withGangOf_now (s : State) (p : Party) (g : Gang) : (s.withGangOf p g).now = s.now := State.modGang_now ..
@[simp] theorem State.withGangOf_agenda (s : State) (p : Party) (g : Gang) : (s.withGangOf p g).agenda = s.agenda := State.modGang_agenda ..
@[simp] theorem State.withGangOf_fresh (s : State) (p : Party) (g : Gang) : (s.withGangOf p g).fresh = s.fresh := State.modGang_fresh ..
@[simp] theorem State.withGangOf_blocks (s : State) (p : Party) (g : Gang) : (s.withGangOf p g).blocks = s.blocks := State.modGang_blocks ..

theorem State.gangAt_withGangOf (hg : s.gangAt p.core p.slot = some p.g) (h : Gang) : (s.withGangOf p h).gangAt p.core p.slot = some h := by
  simp [State.withGangOf, hg]

/-- Replacing the gang by itself changes nothing but the form of the state. -/
theorem OnlyGang.withGangOf (hg : s.gangAt p.core p.slot = some p.g) (h : Gang) : OnlyGang s (s.withGangOf p h) p h :=
  OnlyGang.of_eq hg s.agenda s.fresh (by rw [State.withGangOf, State.modGang_eq _ hg]; rfl)

/-- What goes on the agenda beside a changed gang is no further change. -/
theorem OnlyGang.at {t : State} {h : Gang} (H : OnlyGang s t p h) (c : Nat) (e : Instr) : OnlyGang s (t.at c e) p h :=
  ⟨H.gang, H.cores, by rw [H.rest]; rfl⟩

theorem OnlyGang.foldl {α : Type} {t : State} {h : Gang} {f : State → α → State} (hf : ∀ t x, OnlyGang s t p h → OnlyGang s (f t x) p h)
    (l : List α) (H : OnlyGang s t p h) : OnlyGang s (l.foldl f t) p h := by
  induction l generalizing t with
  | nil => exact H
  | cons x l ih => exact ih (hf t x H)

theorem State.goto_party (hg : s.gangAt p.core p.slot = some p.g) (pc : Addr) :
    s.goto p pc = s.withGangOf p (p.g.standsAt p.lead s.now pc) := State.modGang_party hg _

@[simp] theorem State.goto_withGangOf (s : State) (p : Party) (g : Gang) (pc : Addr) :
    (s.withGangOf p g).goto p pc = s.withGangOf p (g.standsAt p.lead s.now pc) := by
  simp [State.goto, Gang.standsAt]

@[simp] theorem State.closeMark_withGangOf (s : State) (p : Party) (g : Gang) :
    (s.withGangOf p g).closeMark p = s.withGangOf p { g with mark := none, settled := none, eccOnce := false } :=
  State.modGang_withGangOf ..

/-- The end of an instruction that has changed its gang, but neither its quads nor the PC of its party. -/
theorem State.advance_withGangOf {g : Gang} (hg : s.gangAt p.core p.slot = some p.g) (hq : g.quads = p.g.quads) :
    (s.withGangOf p g).advance p = s.withGangOf p (g.moved p.lead s.now p.inRep) := by
  rw [State.advance_eq (s := s) (State.gangAt_withGangOf hg g) hq (by simp), State.modGang_withGangOf]

/-- As `advance_withGangOf`, with an entry put on the agenda before. -/
theorem State.advance_withGangOf_at {g : Gang} (hg : s.gangAt p.core p.slot = some p.g) (hq : g.quads = p.g.quads) (c : Nat) (e : Instr) :
    ((s.withGangOf p g).at c e).advance p = (s.withGangOf p (g.moved p.lead s.now p.inRep)).at c e := by
  rw [State.advance_eq (s := s) ((State.gangAt_at ..).trans (State.gangAt_withGangOf hg g)) hq (by simp), State.modGang_at,
    State.modGang_withGangOf]

theorem Gang.moved_outside_rep (g : Gang) (lead now : Nat) : g.moved lead now false = g.standsAt lead now (succPc (g.quad lead).pc) := rfl

/-! ### Steps that only put something on the agenda -/

/-- Nothing differs but what the agenda holds and the numbering of free values. -/
def OnlyAgenda (s t : State) : Prop := t = { s with agenda := t.agenda, fresh := t.fresh }

theorem OnlyAgenda.refl (s : State) : OnlyAgenda s s := rfl
theorem OnlyAgenda.at (s : State) (c : Nat) (e : Instr) : OnlyAgenda s (s.at c e) := rfl
theorem OnlyAgenda.later (s : State) (e : Instr) : OnlyAgenda s (s.later e) := rfl

theorem OnlyAgenda.trans {s t u : State} (h : OnlyAgenda s t) (h' : OnlyAgenda t u) : OnlyAgenda s u := by
  unfold OnlyAgenda at *
  rw [h', h]

theorem OnlyAgenda.ite {s t u : State} (c : Prop) [Decidable c] (h : OnlyAgenda s t) (h' : OnlyAgenda s u) : OnlyAgenda s (if c then t else u) := by
  split
  · exact h
  · exact h'

theorem OnlyAgenda.foldl {α : Type} {f : State → α → State} (hf : ∀ s x, OnlyAgenda s (f s x)) (l : List α) (s : State) :
    OnlyAgenda s (l.foldl f s) := by
  induction l generalizing s with
  | nil => exact .refl s
  | cons x l ih => exact (hf s x).trans (ih (f s x))

theorem OnlyAgenda.cores {s t : State} (h : OnlyAgenda s t) : t.cores = s.cores := by rw [h]
theorem OnlyAgenda.blocks {s t : State} (h : OnlyAgenda s t) : t.blocks = s.blocks := by rw [h]
theorem OnlyAgenda.now {s t : State} (h : OnlyAgenda s t) : t.now = s.now := by rw [h]

theorem State.coreAt_of_cores {s t : State} (h : t.cores = s.cores) (k : Nat) : t.coreAt k = s.coreAt k := by simp [State.coreAt, h]

theorem State.gangAt_of_cores {s t : State} (h : t.cores = s.cores) (core slot : Nat) : t.gangAt core slot = s.gangAt core slot := by
  simp [State.gangAt, State.coreAt_of_cores h]

theorem State.wake_onlyAgenda (s : State) (core : Nat) : OnlyAgenda s (s.wake core) := by
  unfold State.wake
  extract_lets c s1 s2 s3 s4
  have h1 : OnlyAgenda s s1 := .foldl (fun s r => .at ..) _ s
  have h2 : OnlyAgenda s1 s2 := .foldl (fun s k => .foldl (fun s q => .at ..) _ s) _ s1
  have h3 : OnlyAgenda s2 s3 := .foldl (fun s w => .foldl (fun s u => .ite _ (.at ..) (.refl s)) _ s) _ s2
  have h4 : OnlyAgenda s3 s4 := .ite _ (.refl _) (.at ..)
  exact (((h1.trans h2).trans h3).trans h4).trans (.ite _ (.refl _) (.at ..))

/-! ### Gangs in their slots -/

theorem State.gangAt_modCore (s : State) (k : Nat) {f : Core → Core} (hf : ∀ c, (f c).gangs = c.gangs) (core slot : Nat) :
    (s.modCore k f).gangAt core slot = s.gangAt core slot := by
  unfold State.gangAt Core.gangAt
  by_cases h : core = k
  · subst h
    rw [State.coreAt_modCore_self, hf]
  · rw [State.coreAt_modCore_ne _ _ h]

/-- A freed slot holds no gang. -/
theorem State.gangAt_freeSlot (s : State) (core slot blk : Nat) : (s.freeSlot core slot blk).gangAt core slot = none := by
  unfold State.freeSlot
  rw [State.gangAt_of_cores (State.wake_onlyAgenda _ core).cores]
  simp [State.gangAt, Core.gangAt, Kv.get?_del]

theorem State.gangAt_leaveEngines (s : State) (k j core slot : Nat) : (s.leaveEngines k j).gangAt core slot = s.gangAt core slot := by
  unfold State.leaveEngines
  rw [State.gangAt_at, State.gangAt_modCore _ _ fun _ => by rfl, State.gangAt_modCore _ _ fun _ => by rfl]

theorem State.gangAt_dropHandler (s : State) (k j core slot : Nat) : (s.dropHandler k j).gangAt core slot = s.gangAt core slot := rfl

/-- A gang whose quads are all retired ends: its slot holds none. -/
theorem State.gangAt_endGang {s : State} {core slot : Nat} {g : Gang} (hg : s.gangAt core slot = some g)
    (hu : ∀ j < 8, g.unretired j = false) : (s.endGang core slot).gangAt core slot = none := by
  have hn : (List.range 8).any g.unretired = false := List.any_eq_false.mpr fun j hj => by simp [hu j (List.mem_range.mp hj)]
  unfold State.endGang
  rw [hg]
  simp only [hn, Bool.false_eq_true, if_false]
  have hf : ((((s.landAfterEnd core slot g).freeSlot core slot g.blk).dropHandler core slot).leaveEngines core slot).gangAt core slot = none := by
    rw [State.gangAt_leaveEngines, State.gangAt_dropHandler, State.gangAt_freeSlot]
  generalize (((s.landAfterEnd core slot g).freeSlot core slot g.blk).dropHandler core slot).leaveEngines core slot = t at hf ⊢
  split
  · exact hf
  · split
    · exact hf
    · exact hf

/-- A gang with an unretired quad does not end. -/
theorem State.endGang_of_unretired {s : State} {core slot j : Nat} {g : Gang} (hg : s.gangAt core slot = some g) (hj : j < 8)
    (hu : g.unretired j = true) : s.endGang core slot = s := by
  have : (List.range 8).any g.unretired = true := List.any_eq_true.mpr ⟨j, List.mem_range.mpr hj, hu⟩
  simp [State.endGang, hg, this]

/-! ### Quads by number -/

theorem Gang.quad_mapQuads (g : Gang) (f : Nat → Quad → Quad) (j : Nat) :
    (g.mapQuads f).quad j = if j < g.quads.length then f j (g.quad j) else {} := by
  simp only [Gang.quad, Gang.mapQuads, List.getD_eq_getElem?_getD, List.getElem?_mapIdx]
  split
  · next h => simp [List.getElem?_eq_getElem h]
  · next h => simp [List.getElem?_eq_none (Nat.le_of_not_lt h)]

/-- An unretired quad is in the gang's list (R12). -/
theorem Gang.lt_of_unretired {g : Gang} {j : Nat} (h : g.unretired j = true) : j < g.quads.length := by
  by_contra hj
  simp [Gang.unretired, Gang.quad, List.getElem?_eq_none (Nat.le_of_not_lt hj)] at h

theorem Gang.mem_members {g : Gang} {lead j : Nat} :
    j ∈ g.members lead ↔ j < 8 ∧ g.unretired j = true ∧ (g.quad j).party.toNat = lead := by
  simp [Gang.members]

theorem Gang.quad_mapQuads_member {g : Gang} {lead j : Nat} (f : Nat → Quad → Quad) (h : j ∈ g.members lead) :
    (g.mapQuads f).quad j = f j (g.quad j) := by
  rw [Gang.quad_mapQuads, if_pos (Gang.lt_of_unretired (Gang.mem_members.mp h).2.1)]

@[simp] theorem Gang.mapQuads_quads (g : Gang) (f : Nat → Quad → Quad) : (g.mapQuads f).quads = g.quads.mapIdx f := rfl

@[simp] theorem Gang.mapQuads_mapQuads (g : Gang) (f h : Nat → Quad → Quad) : (g.mapQuads f).mapQuads h = g.mapQuads fun q d => h q (f q d) := by
  simp [Gang.mapQuads, List.mapIdx_mapIdx, Function.comp_def]

theorem Gang.mapParty_eq (g : Gang) (lead : Nat) (f : Quad → Quad) :
    g.mapParty lead f = g.mapQuads fun q d => if q ∈ g.members lead then f d else d := by
  simp [Gang.mapParty]

/-- A change of quads that leaves which quads there are and whose party each is. -/
def KeepsParty (f : Nat → Quad → Quad) : Prop := ∀ q d, (f q d).present = d.present ∧ (f q d).retired = d.retired ∧ (f q d).party = d.party

theorem Gang.unretired_mapQuads {g : Gang} {f : Nat → Quad → Quad} (hf : ∀ q d, (f q d).present = d.present ∧ (f q d).retired = d.retired)
    (j : Nat) : (g.mapQuads f).unretired j = g.unretired j := by
  unfold Gang.unretired
  rw [Gang.quad_mapQuads]
  split
  · rw [(hf j _).1, (hf j _).2]
  · next h => simp [Gang.quad, List.getElem?_eq_none (Nat.le_of_not_lt h)]

theorem Gang.members_mapQuads {g : Gang} {f : Nat → Quad → Quad} (hf : KeepsParty f) (lead : Nat) : (g.mapQuads f).members lead = g.members lead := by
  have hu := Gang.unretired_mapQuads (g := g) fun q d => ⟨(hf q d).1, (hf q d).2.1⟩
  unfold Gang.members
  refine List.filter_congr fun j _ => ?_
  rw [hu]
  cases h : g.unretired j with
  | false => rfl
  | true => rw [Gang.quad_mapQuads, if_pos (Gang.lt_of_unretired h), (hf j _).2.2]

/-! ### Lane masks by quad -/

/-- Whether a lane is in a mask made from a condition. -/
theorem maskOf_getLsbD (f : Nat → Bool) (l : Nat) : (maskOf f).getLsbD l = (decide (l < 32) && f l) := by
  suffices ∀ n ≤ 32, ((List.range n).foldl (fun (m : BitVec 32) k => if f k then m ||| (1#32 <<< k) else m) 0#32).getLsbD l
      = (decide (l < n) && f l) from this 32 (Nat.le_refl _)
  intro n
  induction n with
  | zero => simp
  | succ n ih =>
    intro hn
    have bit : (1#32 <<< n).getLsbD l = decide (l = n) := by
      rw [BitVec.getLsbD_shiftLeft, BitVec.getLsbD_one, Bool.eq_iff_iff]
      simp only [Bool.and_eq_true, Bool.not_eq_true', decide_eq_true_eq, decide_eq_false_iff_not]
      omega
    rw [List.range_succ, List.foldl_append, List.foldl_cons, List.foldl_nil]
    by_cases hl : l = n
    · subst hl
      cases hf : f l <;> simp [hf, ih (by omega), bit]
    · have hd : decide (l < n + 1) = decide (l < n) := decide_eq_decide.mpr (by omega)
      cases hf : f n <;> simp only [if_true, Bool.false_eq_true, if_false, BitVec.getLsbD_or, ih (by omega), bit, hl, decide_false, Bool.or_false, hd]

/-- The lanes of a quad in a mask made from the quads. -/
theorem quadBits_quadMask (qs : List Nat) (f : Nat → BitVec 4) {j : Nat} (hj : j < 8) :
    quadBits (quadMask qs f) j = if j ∈ qs then f j else 0 := by
  ext b hb
  simp only [quadBits, BitVec.getElem_extractLsb', quadMask, maskOf_getLsbD]
  have h1 : (4 * j + b) / 4 = j := by omega
  have h2 : (4 * j + b) % 4 = b := by omega
  have h3 : 4 * j + b < 32 := by omega
  by_cases h : j ∈ qs <;> simp [h, h1, h2, h3, BitVec.getLsbD_eq_getElem hb]

theorem Gang.quadBits_act {g : Gang} {lead j : Nat} (h : j ∈ g.members lead) : quadBits (g.act lead) j = (g.quad j).active := by
  rw [Gang.act, quadBits_quadMask _ _ (Gang.mem_members.mp h).1, if_pos h]

/-- A party has an active lane exactly where one of its quads has one. -/
theorem Gang.act_ne_zero {g : Gang} {lead j : Nat} (h : j ∈ g.members lead) (ha : (g.quad j).active ≠ 0) : g.act lead ≠ 0 := by
  intro h0
  have := Gang.quadBits_act h
  rw [h0] at this
  exact ha (this.symm.trans (by simp [quadBits]))

end Sys2Proof.Machine
end

section
/-! SUPPORT. Branches, calls, joins and parties (R17 to R24, R110 to R116). -/

namespace Sys2Proof.Machine
open Sys2Proof

variable {s : State} {p : Party}

/-! ### BRS -/

theorem brsQuads_eq (p : Party) (n : Bool) (q : BitVec 3) :
    brsQuads p n q = (p.g.members p.lead).filter fun j => decide (q = 7 ∧ n = false) || quadBits (p.taken n q) j != 0 := by
  unfold brsQuads
  split
  · next h => simp [h]
  · next h => simp only [decide_eq_false h, Bool.false_or]

/-- The quads of a list that a filter of it leaves out. -/
theorem filter_not_contains_filter (l : List Nat) (f : Nat → Bool) : (l.filter fun j => !(l.filter f).contains j) = l.filter fun j => !f j := by
  refine List.filter_congr fun j hj => ?_
  simp [hj]

/-- Settles O14: by the cases of BRS, with the two groups of quads as the filters of the party's quads (brsQuads_eq). -/
theorem branchPartsTheParty : Obligations.BranchPartsTheParty := by
  unfold Obligations.BranchPartsTheParty
  intro s p n q k yes no hr hyes hno
  have hg := hr.gang
  have ht : brsQuads p n q = yes := (brsQuads_eq p n q).trans hyes.symm
  have hrest : ((p.g.members p.lead).filter fun d => !yes.contains d) = no := by
    rw [hyes, filter_not_contains_filter, hno]
  have hx : exec (.brs n q k) s = execBrs n q k s := rfl
  rw [hx, execBrs, hr.issue]
  simp only [ht, hrest]
  refine ⟨fun h => ?_, fun h hb => ⟨fun h' => ?_, fun h' => ?_⟩⟩
  · simp [h, State.advance_only hg]
  · simp [h, hb, h', State.goto_party hg]
  · simp [h, hb, h', State.modGang_party hg, Gang.mapQuads]

/-! ### BRI with a join stack of nine entries -/

/-- A gang of one quad whose join stack holds nine path entries, one more than R13 gives it, with the address 4 in s4:s5. -/
def overfullGang : Gang :=
  { quads := [{ present := true, active := 0xF, stack := List.replicate 9 ⟨true, 4, 0, 0⟩ }], sregs := [(4, 4)] }

/-- Core 0 runs that gang, and no block is resident. -/
def overfull : State := { State.reset with cores := [(0, { gangs := [(0, overfullGang)] })], cur := some ⟨0, 0, 0⟩ }

theorem overfull_runs_bri : Runs overfull ⟨0, 0, 0, overfullGang⟩ (.bri 0x64) := ⟨rfl, by decide, by decide, by decide⟩

/-- With no entry to push BRI still finds the stack too deep: its JOINOVER finds no block to kill, and nothing changes. -/
theorem overfull_bri : exec (.bri 0x64) overfull = .next overfull := by
  have hx : exec (.bri 0x64) overfull = execBri 0x64 overfull := rfl
  rw [hx, execBri, overfull_runs_bri.issue]
  rfl

/-- Refutes O15: the clause of BRI by an s pair bounds no join stack. In a gang with nine entries, which R13 excludes and the statement does not,
BRI by an s pair traps JOINOVER where its party should go to the pair's address. -/
theorem not_branchesAndJumpsMoveTheParty : ¬ Obligations.BranchesAndJumpsMoveTheParty := by
  unfold Obligations.BranchesAndJumpsMoveTheParty
  rintro ⟨-, jumps, -⟩
  have h := (jumps overfull ⟨0, 0, 0, overfullGang⟩).1 0x64 overfull_runs_bri rfl (by decide)
  rw [overfull_bri] at h
  injection h with h
  have hl := congrArg (fun t : State => (t.gangAt 0 0).map fun g => (g.quad 0).last) h
  revert hl
  decide

/-! ### The join stack -/

theorem Gang.push_eq (g : Gang) (lead : Nat) (path : Bool) (pc : Addr) (m : BitVec 32) :
    g.push lead path pc m = g.mapQuads fun q d => if q ∈ g.members lead then { d with stack := d.stack ++ [⟨path, pc, quadBits m q, 0⟩] } else d := by
  simp [Gang.push]

/-- A change of the quads of some list that keeps each one's place in its party. -/
theorem KeepsParty.on (l : List Nat) {f : Nat → Quad → Quad} (hf : KeepsParty f) : KeepsParty fun q d => if q ∈ l then f q d else d := by
  intro q d
  dsimp only
  split
  · exact hf q d
  · exact ⟨rfl, rfl, rfl⟩

theorem Gang.members_push (g : Gang) (lead l : Nat) (path : Bool) (pc : Addr) (m : BitVec 32) :
    (g.push lead path pc m).members l = g.members l := by
  rw [Gang.push_eq]
  exact Gang.members_mapQuads (KeepsParty.on (f := fun q d => { d with stack := d.stack ++ [⟨path, pc, quadBits m q, 0⟩] }) _
    fun _ _ => ⟨rfl, rfl, rfl⟩) l

theorem Gang.members_mapParty {g : Gang} {lead : Nat} {f : Quad → Quad} (hf : KeepsParty fun _ => f) (l : Nat) :
    (g.mapParty lead f).members l = g.members l := by
  rw [Gang.mapParty_eq]
  exact Gang.members_mapQuads (hf.on _) l

theorem Gang.quad_mapParty {g : Gang} {lead j : Nat} (f : Quad → Quad) (h : j ∈ g.members lead) :
    (g.mapParty lead f).quad j = f (g.quad j) := by
  rw [Gang.mapParty_eq, Gang.quad_mapQuads_member _ h, if_pos h]

/-- MARK pushes its entry on every quad of the party. -/
theorem markPushesAJoinEntry : Claim.MarkPushesAJoinEntry := by
  unfold Claim.MarkPushesAJoinEntry
  intro s p k hr hrep hb hd
  have hx : exec (.mark k) s = execMark k s := rfl
  have hd' : ¬ 8 < p.g.depth p.lead + 1 := by unfold Gang.depth; omega
  rw [hx, execMark, hr.issue]
  simp only [hb, hd', Bool.false_eq_true, if_false, State.modGang_party hr.gang, State.advance, hrep, State.goto_withGangOf]
  rw [Gang.standsAt, Gang.mapParty_eq, Gang.members_push, Gang.push_eq, Gang.mapQuads_mapQuads]
  unfold Gang.mapQuads
  congr 3
  refine congrArg (List.mapIdx · p.g.quads) (funext fun j => funext fun d => ?_)
  by_cases hj : j ∈ p.g.members p.lead <;> simp [hj]

/-! ### What RESUME puts back -/

/-- The gang that a JOIN or EXIT goes on with: its quads as RESUME gave them, the party's having issued in this clock, the parties numbered anew. -/
def Gang.resumed (p : Party) (now : Nat) (g : Gang) : Gang :=
  (g.mapQuads fun q d => if q ∈ p.g.members p.lead then { d with last := some now } else d).renumber

theorem Gang.quad_renumber (g : Gang) (j : Nat) : ∃ r, g.renumber.quad j = { g.quad j with party := r } := by
  unfold Gang.renumber
  rw [Gang.quad_mapQuads]
  split
  · split
    · exact ⟨_, rfl⟩
    · exact ⟨(g.quad j).party, rfl⟩
  · next h => exact ⟨0, by simp [Gang.quad, List.getElem?_eq_none (Nat.le_of_not_lt h)]⟩

theorem Gang.unretired_renumber (g : Gang) (j : Nat) : g.renumber.unretired j = g.unretired j := by
  obtain ⟨r, hr⟩ := g.quad_renumber j
  simp [Gang.unretired, hr]

theorem Gang.quad_resumed {p : Party} {now j : Nat} {g : Gang} (hl : j < g.quads.length) (hm : j ∈ p.g.members p.lead) :
    ∃ r, (g.resumed p now).quad j = { g.quad j with last := some now, party := r } := by
  obtain ⟨r, hr⟩ := (g.mapQuads fun q d => if q ∈ p.g.members p.lead then { d with last := some now } else d).quad_renumber j
  refine ⟨r, hr.trans ?_⟩
  rw [Gang.quad_mapQuads, if_pos hl, if_pos hm]

theorem Gang.unretired_resumed (p : Party) (now : Nat) (g : Gang) (j : Nat) : (g.resumed p now).unretired j = g.unretired j := by
  rw [Gang.resumed, Gang.unretired_renumber]
  refine Gang.unretired_mapQuads (fun q d => ?_) j
  split <;> exact ⟨rfl, rfl⟩

/-- Putting a gang back that has an unretired quad changes it alone, and looks at the waiting REGANGs again. -/
theorem State.afterResume_only {g : Gang} {j : Nat} (hg : s.gangAt p.core p.slot = some p.g) (hj : j < 8) (hu : g.unretired j = true) :
    OnlyGang s (s.afterResume p g) p (g.resumed p s.now) := by
  unfold State.afterResume
  have hgang : ((g.mapQuads fun q d => if (p.g.members p.lead).contains q then { d with last := some s.now } else d).renumber)
      = g.resumed p s.now := by simp [Gang.resumed]
  simp only [hgang]
  have H := fun l : List (BitVec 8) => (OnlyGang.withGangOf hg (g.resumed p s.now)).foldl
    (f := fun s m => s.at s.now (.regangCompletion p.core p.slot m)) (fun t m H => H.at t.now _) l
  rw [State.endGang_of_unretired (j := j) _ hj ((Gang.unretired_resumed p s.now g j).trans hu)]
  · exact H _
  · exact (H _).gang

/-- A party takes its top entry off: each quad goes on at its own entry's target with its mask (R22). -/
def Quad.pop (d : Quad) : Quad :=
  match d.stack.getLast? with
  | some j => { d with stack := d.stack.dropLast, pc := j.pc, active := j.mask }
  | none => d

theorem Quad.pop_keepsParty : KeepsParty fun _ => Quad.pop := by
  intro q d
  simp only [Quad.pop]
  split <;> exact ⟨rfl, rfl, rfl⟩

/-- No lane that the top entry wants is still to arrive (R22). -/
def Quad.allArrived (d : Quad) : Bool := match d.stack.getLast? with | some j => j.mask &&& ~~~ j.got == 0 | none => true

theorem Gang.resume_succ (g : Gang) (lead n : Nat) :
    g.resume lead (n + 1) = match (g.quad lead).stack.getLast? with
      | none => .ok (g.retireQuads (g.members lead))
      | some e =>
        if !e.path && !(g.members lead).all fun q => (g.quad q).allArrived then .lost ((g.quad lead).stack.length - 1)
        else if (g.mapParty lead Quad.pop).act lead = 0 then (g.mapParty lead Quad.pop).resume lead n
        else if badPc e.pc then .badTarget e.pc else .ok (g.mapParty lead Quad.pop) := rfl

/-- RESUME goes on with the entry on top where no lane is lost there, a lane runs in it, and its target can hold an instruction. -/
theorem Gang.resume_ok {g : Gang} {lead n : Nat} {e : JEntry} (htop : (g.quad lead).stack.getLast? = some e)
    (hcov : e.path = true ∨ ∀ q ∈ g.members lead, (g.quad q).allArrived = true) (hact : (g.mapParty lead Quad.pop).act lead ≠ 0)
    (hpc : badPc e.pc = false) : g.resume lead (n + 1) = .ok (g.mapParty lead Quad.pop) := by
  have hc : (!e.path && !(g.members lead).all fun q => (g.quad q).allArrived) = false := by
    rcases hcov with h | h
    · simp [h]
    · simp [List.all_eq_true.mpr h]
  rw [Gang.resume_succ, htop]
  dsimp only
  rw [hc, if_neg Bool.false_ne_true, if_neg hact, hpc, if_neg Bool.false_ne_true]

/-! ### JOIN -/

theorem innermostJoin_append_join (l : List JEntry) {e : JEntry} (he : e.path = false) : innermostJoin (l ++ [e]) = some l.length := by
  simp [innermostJoin, List.zipIdx_append, he]

theorem innermostJoin_append_path (l : List JEntry) {e : JEntry} (he : e.path = true) : innermostJoin (l ++ [e]) = innermostJoin l := by
  simp [innermostJoin, List.zipIdx_append, he]

theorem setAt_append_length {α : Type} (l r : List α) (a : α) (f : α → α) : setAt (l ++ a :: r) l.length f = l ++ f a :: r := by
  induction l with
  | nil => rfl
  | cons x l ih => simpa [setAt] using ih

theorem innermostJoin_join_path (l : List JEntry) {e x : JEntry} (he : e.path = false) (hx : x.path = true) :
    innermostJoin (l ++ [e, x]) = some l.length := by
  rw [List.append_cons, innermostJoin_append_path _ hx, innermostJoin_append_join _ he]

/-- The lanes of a quad arrive at its innermost join entry (R22). -/
def Quad.arrive (d : Quad) : Quad :=
  { d with stack := setAt d.stack ((innermostJoin d.stack).getD 0) (fun e => { e with got := e.got ||| d.active }), active := 0 }

theorem Quad.arrive_keepsParty : KeepsParty fun _ => Quad.arrive := fun _ _ => ⟨rfl, rfl, rfl⟩

theorem Quad.arrive_join {d : Quad} {l : List JEntry} {pc : Addr} {want got : BitVec 4} (h : d.stack = l ++ [⟨false, pc, want, got⟩]) :
    d.arrive = { d with stack := l ++ [⟨false, pc, want, got ||| d.active⟩], active := 0 } := by
  simp [Quad.arrive, h, innermostJoin_append_join, setAt_append_length]

theorem Quad.arrive_path {d : Quad} {l : List JEntry} {pc target : Addr} {want got taken : BitVec 4}
    (h : d.stack = l ++ [⟨false, pc, want, got⟩, ⟨true, target, taken, 0⟩]) :
    d.arrive = { d with stack := l ++ [⟨false, pc, want, got ||| d.active⟩, ⟨true, target, taken, 0⟩], active := 0 } := by
  simp [Quad.arrive, h, innermostJoin_join_path, setAt_append_length]

/-- JOIN of a party whose quads each have a join entry: its lanes arrive, and RESUME goes on. -/
theorem execJoin_arrive (hr : Runs s p .join) (hj : ∀ q ∈ p.g.members p.lead, (innermostJoin (p.g.quad q).stack).isSome = true) :
    exec .join s = .next (s.resumeWith p ((p.g.mapParty p.lead Quad.arrive).resume p.lead 8)) := by
  have hx : exec .join s = execJoin s := rfl
  rw [hx, execJoin, hr.issue]
  have hn : (p.g.members p.lead).find? (fun q => (innermostJoin (p.g.quad q).stack).isNone) = none :=
    List.find?_eq_none.mpr fun q hq => by simpa [Option.isSome_iff_ne_none] using hj q hq
  rw [hn]
  rfl

/-- Where every quad of the party goes on after RESUME has taken the top entry off, a lane runs there: the party stands at the entry's target in
its lanes, and nothing else of the machine changes. -/
theorem State.resumeWith_pop {g : Gang} {lead n : Nat} {e : JEntry} (hg : s.gangAt p.core p.slot = some p.g)
    (hgq : g = { p.g with quads := g.quads }) (hsub : ∀ j ∈ p.g.members p.lead, j ∈ g.members lead)
    (hlead : p.lead ∈ p.g.members p.lead) (htop : (g.quad lead).stack.getLast? = some e)
    (hcov : e.path = true ∨ ∀ q ∈ g.members lead, (g.quad q).allArrived = true)
    (hact : ∃ j ∈ p.g.members p.lead, (g.quad j).pop.active ≠ 0) (hpc : badPc e.pc = false) :
    ∃ h : Gang, OnlyGang s (s.resumeWith p (g.resume lead (n + 1))) p h ∧ h = { p.g with quads := h.quads } ∧
      ∀ j ∈ p.g.members p.lead, ∃ r, h.quad j = { (g.quad j).pop with last := some s.now, party := r } := by
  have hmem : ∀ j, j ∈ (g.mapParty lead Quad.pop).members lead ↔ j ∈ g.members lead := fun j => by
    rw [Gang.members_mapParty Quad.pop_keepsParty]
  have hquad : ∀ j ∈ p.g.members p.lead, (g.mapParty lead Quad.pop).quad j = (g.quad j).pop := fun j hj =>
    Gang.quad_mapParty _ (hsub j hj)
  have ha : (g.mapParty lead Quad.pop).act lead ≠ 0 := by
    obtain ⟨j, hj, hne⟩ := hact
    exact Gang.act_ne_zero ((hmem j).mpr (hsub j hj)) (by rwa [hquad j hj])
  rw [Gang.resume_ok htop hcov ha hpc]
  have hu : ∀ j ∈ p.g.members p.lead, (g.mapParty lead Quad.pop).unretired j = true := fun j hj =>
    (Gang.mem_members.mp ((hmem j).mpr (hsub j hj))).2.1
  refine ⟨_, State.afterResume_only hg (Gang.mem_members.mp hlead).1 (hu _ hlead), ?_, fun j hj => ?_⟩
  · rw [hgq]
    rfl
  · rw [← hquad j hj]
    exact Gang.quad_resumed (Gang.lt_of_unretired (hu j hj)) hj

/-- A JOIN either completes its innermost join entry, which is on top, or goes on with the path on top. -/
theorem joinCompletesOrResumesThePath : Claim.JoinCompletesOrResumesThePath := by
  unfold Claim.JoinCompletesOrResumesThePath
  intro s p below pc want got hr hlead hpc
  have hmem := fun j => Gang.members_mapParty (g := p.g) (lead := p.lead) Quad.arrive_keepsParty j
  refine ⟨fun hst hw => ?_, fun base rejoin target taken hb hst ht => ?_⟩
  · have hq : ∀ j ∈ p.g.members p.lead, (p.g.mapParty p.lead Quad.arrive).quad j =
        { p.g.quad j with stack := below j ++ [⟨false, pc, want j, got j ||| (p.g.quad j).active⟩], active := 0 } := fun j hj => by
      rw [Gang.quad_mapParty _ hj, Quad.arrive_join (hst j hj).1]
    rw [execJoin_arrive hr fun q hq => by simp [(hst q hq).1, innermostJoin_append_join]]
    obtain ⟨h, h1, h2, h3⟩ := State.resumeWith_pop (g := p.g.mapParty p.lead Quad.arrive) (lead := p.lead) (n := 7)
      (e := ⟨false, pc, want p.lead, got p.lead ||| (p.g.quad p.lead).active⟩) hr.gang rfl (fun j hj => by rwa [hmem]) hlead
      (by rw [hq _ hlead]; simp) (.inr fun j hj => by
        rw [hmem] at hj
        simpa [Quad.allArrived, hq j hj] using (hst j hj).2)
      (by
        obtain ⟨j, hj, hne⟩ := hw
        exact ⟨j, hj, by simpa [Quad.pop, hq j hj] using hne⟩) hpc
    refine ⟨_, h, rfl, h1, h2, fun j hj => ?_⟩
    obtain ⟨r, hr⟩ := h3 j hj
    simp [hr, hq j hj, Quad.pop]
  · have hq : ∀ j ∈ p.g.members p.lead, (p.g.mapParty p.lead Quad.arrive).quad j =
        { p.g.quad j with
          stack := base j ++ [⟨false, rejoin, want j, got j ||| (p.g.quad j).active⟩, ⟨true, target, taken j, 0⟩], active := 0 } := fun j hj => by
      rw [Gang.quad_mapParty _ hj, Quad.arrive_path (hst j hj)]
    rw [execJoin_arrive hr fun q hq => by simp [hst q hq, innermostJoin_join_path]]
    obtain ⟨h, h1, h2, h3⟩ := State.resumeWith_pop (g := p.g.mapParty p.lead Quad.arrive) (lead := p.lead) (n := 7)
      (e := ⟨true, target, taken p.lead, 0⟩) hr.gang rfl (fun j hj => by rwa [hmem]) hlead
      (by rw [hq _ hlead]; simp) (.inl rfl) (by
        obtain ⟨j, hj, hne⟩ := ht
        exact ⟨j, hj, by simpa [Quad.pop, hq j hj] using hne⟩) hb
    refine ⟨_, h, rfl, h1, h2, fun j hj => ?_⟩
    obtain ⟨r, hr⟩ := h3 j hj
    simp [hr, hq j hj, Quad.pop]

/-- Settles O16: MARK pushes, and JOIN takes off the entry that RESUME finds on top (State.resumeWith_pop). -/
theorem joinsFollowTheirMarks : Obligations.JoinsFollowTheirMarks := ⟨markPushesAJoinEntry, joinCompletesOrResumesThePath⟩

/-! ### EXIT -/

/-- The active lanes of a quad leave: they become helpers and no join entry wants them or has them any more (R115). -/
def Quad.exitLanes (d : Quad) : Quad :=
  { d with stack := d.stack.map fun e => if e.path then e else { e with mask := e.mask &&& ~~~ d.active, got := e.got &&& ~~~ d.active }
           helper := d.helper ||| d.active, active := 0 }

theorem Quad.exitLanes_keepsParty : KeepsParty fun _ => Quad.exitLanes := fun _ _ => ⟨rfl, rfl, rfl⟩

/-- The party's quads after their active lanes have left. -/
def Gang.exited (g : Gang) (lead : Nat) : Gang := g.mapParty lead Quad.exitLanes

theorem Gang.quad_exited {g : Gang} {lead j : Nat} (h : j ∈ g.members lead) : (g.exited lead).quad j = (g.quad j).exitLanes :=
  Gang.quad_mapParty _ h

theorem Gang.members_exited (g : Gang) (lead l : Nat) : (g.exited lead).members l = g.members l :=
  Gang.members_mapParty Quad.exitLanes_keepsParty l

/-- EXIT retires the quads in which no lane waits; RESUME goes on with the others, whose party their lowest names (R115). -/
theorem execExit_eq (hr : Runs s p .exit) (gone left : List Nat)
    (hgone : gone = (p.g.members p.lead).filter fun q => ((p.g.exited p.lead).quad q).waiting == 0)
    (hleft : left = (p.g.members p.lead).filter fun q => !gone.contains q) :
    exec .exit s = .next (match (generalizing := false) left with
      | [] => s.afterResume p ((p.g.exited p.lead).retireQuads gone)
      | lead :: _ => s.resumeWith p ((((p.g.exited p.lead).retireQuads gone).mapQuads fun q d =>
          if left.contains q then { d with party := BitVec.ofNat 3 lead } else d).resume lead 8)) := by
  have hx : exec .exit s = execExit s := rfl
  subst hleft hgone
  rw [hx, execExit, hr.issue]
  rfl

theorem Gang.unretired_retireQuads {g : Gang} {qs : List Nat} {j : Nat} :
    (g.retireQuads qs).unretired j = (!qs.contains j && g.unretired j) := by
  unfold Gang.unretired Gang.retireQuads
  rw [Gang.quad_mapQuads]
  split
  · cases qs.contains j <;> simp
  · next h => simp [Gang.quad, List.getElem?_eq_none (Nat.le_of_not_lt h)]

/-- Putting a gang back whose quads are all retired ends it. -/
theorem State.afterResume_ends {g : Gang} (hg : s.gangAt p.core p.slot = some p.g) (hu : ∀ j < 8, g.unretired j = false) :
    (s.afterResume p g).gangAt p.core p.slot = none := by
  unfold State.afterResume
  refine State.gangAt_endGang (g := g.resumed p s.now) ?_ fun j hj => (Gang.unretired_resumed p s.now g j).trans (hu j hj)
  rw [State.gangAt_of_cores (OnlyAgenda.foldl (fun s m => .at ..) _ _).cores]
  simp [hg, Gang.resumed]

theorem foldl_or_append (l : List JEntry) (f : JEntry → BitVec 4) (e : JEntry) :
    (l ++ [e]).foldl (fun m x => m ||| f x) 0 = l.foldl (fun m x => m ||| f x) 0 ||| f e := by simp

/-- A path entry on top in which a lane waits. -/
theorem Quad.waiting_ne_zero {d : Quad} {l : List JEntry} {e : JEntry} (h : d.stack = l ++ [e]) (hp : e.path = true) (hm : e.mask ≠ 0) :
    d.waiting ≠ 0 := by
  unfold Quad.waiting
  rw [h, foldl_or_append, if_pos hp]
  intro h0
  exact hm (BitVec.or_eq_zero_iff.mp h0).2

@[simp] theorem Gang.retireQuads_nil (g : Gang) : g.retireQuads [] = g := by
  have : g.quads.mapIdx (fun _ d => d) = g.quads := List.mapIdx_eq_iff.mpr fun i => by simp
  simp [Gang.retireQuads, Gang.mapQuads, this]

/-- Some quads become one party. -/
def Gang.regroup (g : Gang) (qs : List Nat) (lead : Nat) : Gang :=
  g.mapQuads fun q d => if qs.contains q then { d with party := BitVec.ofNat 3 lead } else d

theorem Gang.quad_regroup {g : Gang} {qs : List Nat} {lead j : Nat} (hj : j ∈ qs) (hu : g.unretired j = true) :
    (g.regroup qs lead).quad j = { g.quad j with party := BitVec.ofNat 3 lead } := by
  simp [Gang.regroup, Gang.quad_mapQuads, Gang.lt_of_unretired hu, hj]

theorem Gang.mem_members_regroup {g : Gang} {qs : List Nat} {lead j : Nat} (hj : j ∈ qs) (h8 : j < 8) (hl : lead < 8)
    (hu : g.unretired j = true) : j ∈ (g.regroup qs lead).members lead := by
  refine Gang.mem_members.mpr ⟨h8, ?_, ?_⟩
  · simpa [Gang.unretired, Gang.quad_regroup hj hu] using hu
  · simp [Gang.quad_regroup hj hu]
    omega

/-- EXIT ends a gang whose last party has empty stacks, or goes on with the paths on top. -/
theorem exitEndsTheGangOrResumes : Claim.ExitEndsTheGangOrResumes := by
  unfold Claim.ExitEndsTheGangOrResumes
  intro s p hr
  refine ⟨fun hall hst => ?_, fun base target taken hb hlead hst => ?_⟩
  · have hgone : p.g.members p.lead = (p.g.members p.lead).filter fun q => ((p.g.exited p.lead).quad q).waiting == 0 :=
      (List.filter_eq_self.mpr fun q hq => by simp [Gang.quad_exited hq, Quad.exitLanes, hst q hq, Quad.waiting]).symm
    have hleft : [] = (p.g.members p.lead).filter fun q => !(p.g.members p.lead).contains q :=
      (List.filter_eq_nil_iff.mpr fun q hq => by simp [hq]).symm
    refine ⟨_, execExit_eq hr _ _ hgone hleft, State.afterResume_ends hr.gang fun j hj => ?_⟩
    rw [Gang.unretired_retireQuads, Gang.exited, Gang.mapParty_eq,
      Gang.unretired_mapQuads fun q d => ⟨(Quad.exitLanes_keepsParty.on _ q d).1, (Quad.exitLanes_keepsParty.on _ q d).2.1⟩]
    cases hu : p.g.unretired j with
    | false => simp
    | true => simp [hall j hj hu]
  · have hq : ∀ j ∈ p.g.members p.lead, (p.g.exited p.lead).quad j = { p.g.quad j with
        stack := ((base j).map fun e => if e.path then e else
          { e with mask := e.mask &&& ~~~ (p.g.quad j).active, got := e.got &&& ~~~ (p.g.quad j).active }) ++ [⟨true, target, taken j, 0⟩]
        helper := (p.g.quad j).helper ||| (p.g.quad j).active, active := 0 } := fun j hj => by
      rw [Gang.quad_exited hj]
      simp [Quad.exitLanes, (hst j hj).1]
    have hgone : [] = (p.g.members p.lead).filter fun q => ((p.g.exited p.lead).quad q).waiting == 0 :=
      (List.filter_eq_nil_iff.mpr fun q hm => by
        simpa using Quad.waiting_ne_zero (d := (p.g.exited p.lead).quad q) (by rw [hq q hm]) rfl (hst q hm).2).symm
    have hleft : p.g.members p.lead = (p.g.members p.lead).filter fun q => !([] : List Nat).contains q := by simp
    rw [execExit_eq hr _ _ hgone hleft]
    obtain ⟨lead, rest, hl⟩ := List.exists_cons_of_ne_nil (List.ne_nil_of_mem hlead)
    have hmem : lead ∈ p.g.members p.lead := hl ▸ List.mem_cons_self
    have hu : ∀ j ∈ p.g.members p.lead, j < 8 ∧ (p.g.exited p.lead).unretired j = true := fun j hj => by
      rw [← Gang.members_exited p.g p.lead p.lead] at hj
      exact ⟨(Gang.mem_members.mp hj).1, (Gang.mem_members.mp hj).2.1⟩
    have hr3 : ∀ j ∈ p.g.members p.lead, ((p.g.exited p.lead).regroup (p.g.members p.lead) lead).quad j =
        { (p.g.exited p.lead).quad j with party := BitVec.ofNat 3 lead } := fun j hj => Gang.quad_regroup hj (hu j hj).2
    obtain ⟨h, h1, h2, h3⟩ := State.resumeWith_pop (g := (p.g.exited p.lead).regroup (p.g.members p.lead) lead) (lead := lead) (n := 7)
      (e := ⟨true, target, taken lead, 0⟩) hr.gang rfl (fun j hj => Gang.mem_members_regroup hj (hu j hj).1 (hu lead hmem).1 (hu j hj).2) hlead
      (by rw [hr3 lead hmem, hq lead hmem]; simp) (.inl rfl)
      ⟨lead, hmem, by simpa [hr3 lead hmem, hq lead hmem, Quad.pop] using (hst lead hmem).2⟩ hb
    refine ⟨_, h, ?_, h1, h2, fun j hj => ?_⟩
    · rw [hl, Gang.retireQuads_nil]
      rfl
    · obtain ⟨r, hr⟩ := h3 j hj
      simp [hr, hr3 j hj, hq j hj, Quad.pop]

/-! ### PART -/

/-- PART renames the parties of its quads, moves them on and closes the mark. -/
theorem partNamesNewParties : Claim.PartNamesNewParties := by
  unfold Claim.PartNamesNewParties
  intro s p m hr
  have hx : exec (.part m) s = execPart m s := rfl
  rw [hx, execPart, hr.issue]
  simp only [State.modGang_party hr.gang, State.modGang_withGangOf, State.closeMark_withGangOf, Gang.mapQuads_mapQuads]
  congr 2
  unfold Gang.mapQuads
  congr 1
  refine congrArg (List.mapIdx · p.g.quads) (funext fun j => funext fun d => ?_)
  by_cases hj : j ∈ p.g.members p.lead <;> cases hm : m.getLsbD j <;> simp [hj, hm]

/-- Settles O17: EXIT by what its lanes leave in the stacks, PART by its renaming of the quads. -/
theorem exitsAndParts : Obligations.ExitsAndParts := ⟨exitEndsTheGangOrResumes, partNamesNewParties⟩

/-! ### REGANG and SETMARK -/

/-- The head of a range's filter is its lowest element. -/
theorem filter_range_eq_cons {f : Nat → Bool} {n k : Nat} (hk : k < n) (hf : f k = true) (hlow : ∀ j < k, f j = false) :
    ∃ rest, (List.range n).filter f = k :: rest := by
  have hfind : (List.range n).find? f = some k := by
    rw [List.find?_range_eq_some]
    exact ⟨hf, by simpa using hk, fun j hj => by simp [hlow j hj]⟩
  rw [← List.head?_filter] at hfind
  exact List.head?_eq_some_iff.mp hfind

/-- A REGANG waits, and its completion merges the waiting quads that it names. -/
theorem regangMergesWaitingQuads : Claim.RegangMergesWaitingQuads := by
  unfold Claim.RegangMergesWaitingQuads
  refine ⟨fun s p m hr hm => ?_, fun s core slot lead g mask hg ht h8 hml hul hlow hq => ?_⟩
  · have hx : exec (.regang m) s = execRegang m s := rfl
    have hn : ((p.g.members p.lead).any fun q => !m.getLsbD q) = false := List.any_eq_false.mpr fun q hq => by simp [hm q hq]
    rw [hx, execRegang, hr.issue]
    simp [hn, State.modGang_party hr.gang]
  · have hx : exec (.regangCompletion core slot mask) s = execRegangCompletion core slot mask s := rfl
    have hw : ((List.range 8).filter fun q => mask.getLsbD q && g.unretired q && (g.quad q).park == .regang mask)
        = (List.range 8).filter fun q => mask.getLsbD q && g.unretired q := by
      refine List.filter_congr fun j hj => ?_
      cases hm : mask.getLsbD j <;> cases hu : g.unretired j <;> simp
      exact (hq j (List.mem_range.mp hj) hm hu).1
    obtain ⟨rest, hrest⟩ := filter_range_eq_cons (f := fun q => mask.getLsbD q && g.unretired q) h8 (by simp [hml, hul]) fun j hj => by
      cases hm : mask.getLsbD j
      · rfl
      · simp [hlow j hj hm]
    have hmem : ∀ j, j ∈ lead :: rest ↔ j < 8 ∧ mask.getLsbD j = true ∧ g.unretired j = true := fun j => by simp [← hrest]
    have hall : ((List.range 8).all fun q => !mask.getLsbD q || !g.unretired q ||
        ((lead :: rest).contains q && (g.quad q).pc == (g.quad lead).pc)) = true := by
      refine List.all_eq_true.mpr fun j hj => ?_
      cases hm : mask.getLsbD j
      · rfl
      · cases hu : g.unretired j
        · rfl
        · have hj := List.mem_range.mp hj
          simpa [(hq j hj hm hu).2.1] using (hmem j).mpr ⟨hj, hm, hu⟩
    have hshape : ((lead :: rest).all fun q => sameShape (g.quad q).stack (g.quad lead).stack) = true := by
      refine List.all_eq_true.mpr fun j hj => ?_
      obtain ⟨hj, hm, hu⟩ := (hmem j).mp hj
      simpa [sameShape] using (hq j hj hm hu).2.2
    rw [hx, execRegangCompletion, hg]
    simp only [ht, Option.isSome_none, Bool.false_eq_true, if_false, hw, hrest, hall, hshape, Bool.not_true, if_true, List.contains_iff_mem,
      hmem]
    rw [State.modGang_eq _ hg, State.modGang_eq _ hg]
    rfl

/-- SETMARK records its mark, and MARK_SETTLE settles the mark of its clock. -/
theorem setmarkRecordsASnapshot : Claim.SetmarkRecordsASnapshot := by
  unfold Claim.SetmarkRecordsASnapshot
  refine ⟨fun s p off hr hrep hl => ?_, fun s core slot g m hg hm => ?_⟩
  · have hx : exec (.setmark off) s = execSetmark off s := rfl
    rw [hx, execSetmark, hr.issue]
    simp only [hl, ne_eq, not_true_eq_false, if_false, State.modGang_party hr.gang]
    rw [State.advance_withGangOf_at hr.gang ?quads]
    case quads => rfl
    refine ⟨_, _, ⟨p.g.marks + 1, succPc p.pc, offsetPc p.pc off, s.now, (s.coreAt p.core).leatSeq, p.g.quads, p.g.gmode, p.g.routes⟩, rfl,
      (OnlyGang.withGangOf hr.gang _).at _ _, ?_, rfl, rfl, rfl, rfl, rfl, rfl, by simp⟩
    rw [Party.moved, hrep, Gang.moved_outside_rep, Gang.moved_outside_rep]
    rfl
  · have hx : exec (.markSettle core slot m.setAt) s = execMarkSettle core slot m.setAt s := rfl
    refine ⟨_, { g with settled := some m, copied := g.copied.filter fun c => decide (m.no ≤ c.1) }, rfl, ?_, rfl, hm, rfl⟩
    simp [hg, hm]

/-- Settles O18: the wait and the merge of REGANG, and the marks of SETMARK and MARK_SETTLE. -/
theorem regangsAndMarks : Obligations.RegangsAndMarks := ⟨regangMergesWaitingQuads, setmarkRecordsASnapshot⟩

end Sys2Proof.Machine
end

section
/-! SUPPORT. A REP sequence of a party that has no quad (R34, R107). -/

namespace Sys2Proof.Machine
open Sys2Proof

/-- A gang without quads, its REP armed for one iteration. -/
def quadlessGang : Gang := { rep := 0x80000001#32 }

/-- Core 0 runs that gang, and party 0 of it is executing, to which no quad belongs. -/
def quadless : State := { State.reset with cores := [(0, { gangs := [(0, quadlessGang)] })], cur := some ⟨0, 0, 0⟩ }

def quadlessParty : Party := ⟨0, 0, 0, quadlessGang⟩

/-- MOV v0, v0. -/
def movWord : Word := 0x58000000#32

theorem quadless_runs_mov : Runs quadless quadlessParty (.mov 0 0 0) := ⟨rfl, by decide, by decide, by decide⟩

/-- The quad of a number in the gang of slot 0 of core 0 after an outcome. -/
def quadAfter (j : Nat) : Result → Option Quad
  | .next t => (t.gangAt 0 0).map (·.quad j)
  | _ => none

/-- Refutes O13: the last iteration moves the quads of the party, and the clause asks for the PC of quad p.lead also where that quad is none of
them. With no quad the PC stays 0, where the statement asks for the successor. -/
theorem not_repsIterateTheirTarget : ¬ Obligations.RepsIterateTheirTarget := by
  unfold Obligations.RepsIterateTheirTarget
  rintro ⟨-, iterates⟩
  have h := (iterates quadless quadlessParty movWord rfl (by decide)).2 (.mov 0 0 0) rfl (by decide) (by decide) quadless_runs_mov (by decide) (by decide)
  obtain ⟨t, h, ht, honly, -, hlast⟩ := h.2 rfl
  have hpc : (h.quad 0).pc = 4 := (hlast (by decide)).2
  have hq : quadAfter 0 (exec (.repIteration movWord) quadless) = some {} := by decide +kernel
  rw [ht] at hq
  have hgang : t.gangAt 0 0 = some h := honly.gang
  simp only [quadAfter, hgang, Option.map_some, Option.some.injEq] at hq
  rw [hq] at hpc
  exact absurd hpc (by decide)

end Sys2Proof.Machine
end

section
/-! SUPPORT. Operands of one register, and the compares and SEL under the 32-bit types (R52, R60, R131, R132). -/

namespace Sys2Proof.Machine
open Sys2Proof

variable {s : State} {p : Party}

/-! ### Operands of one register -/

theorem State.regValue_one (s : State) (p : Party) (r : Reg) (lane : Nat) :
    s.regValue p r 1 lane = match kindOf r with
      | .v => if p.g.hasLane lane then (p.g.vreg r.toNat lane).toNat else 0
      | .s => (s.scalar p.core p.slot p.g (r.toNat - 0x60)).toNat
      | .z => 0
      | .q => p.g.lit.toNat := by
  unfold State.regValue
  cases kindOf r <;> simp

/-- A source of one register under a 32-bit type is its word as a number. -/
theorem State.opValue_one (s : State) (p : Party) (r : Reg) (route : BitVec 2) (lane : Nat) :
    s.opValue p r route 1 lane = (s.source p r route lane).toNat := by
  unfold State.opValue State.source
  rw [State.regValue_one]
  cases h : kindOf r
  · simp only [if_true]
    split <;> rfl
  · rfl
  · rfl
  · rfl

theorem wideTy_of_le_two {ty : BitVec 5} (h : ty.toNat ≤ 2) : wideTy ty = false := by
  simp only [wideTy, Bool.or_eq_false_iff, decide_eq_false_iff_not]
  omega

theorem Party.opRegs_one (h : p.ty.toNat ≤ 2) : p.opRegs = 1 := by simp [Party.opRegs, wideTy_of_le_two h]

theorem elemWidth_of_le_two {ty : BitVec 5} (h : ty.toNat ≤ 2) : elemWidth ty = 32 := by
  unfold elemWidth
  split <;> omega

/-- Every type but the packed and the 64-bit ones has one element of 32 bits. -/
theorem elems_one {ty : BitVec 5} (h : ty.toNat ≤ 2) (w : Word) : elems ty w.toNat = [w.toNat] := by
  simp [elems, opWidth, elemWidth_of_le_two h, wideTy_of_le_two h, List.range_succ, Nat.mod_eq_of_lt w.isLt]

/-! ### Compares -/

/-- A condition code that R60 gives no meaning holds nowhere. -/
theorem condition_undefined {c : Nat} (h : 0xE ≤ c) (r : Cmp) (x y : Int) : condHolds c r = false ∧ intCondition c x y = false := by
  unfold condHolds intCondition
  constructor <;> split <;> first | omega | rfl

/-- The conditions of R60 on the order of two integers. -/
theorem condHolds_cmpInt (c : Nat) (x y : Int) : condHolds c (cmpInt x y) = intCondition c x y := by
  by_cases hc : 0xE ≤ c
  · rw [(condition_undefined hc _ x y).1, (condition_undefined hc .un x y).2]
  · rcases Int.lt_trichotomy x y with h | h | h
    · have hr : cmpInt x y = .lt := by simp [cmpInt, h]
      rw [hr]
      interval_cases c <;> simp [condHolds, intCondition, h, Int.le_of_lt h, ne_of_lt h, Int.not_le.mpr h, Int.not_lt.mpr (Int.le_of_lt h)]
    · have hr : cmpInt x y = .eq := by simp [cmpInt, h]
      rw [hr]
      interval_cases c <;> simp [condHolds, intCondition, h]
    · have hr : cmpInt x y = .gt := by simp [cmpInt, Int.not_lt.mpr (Int.le_of_lt h), (ne_of_lt h).symm]
      rw [hr]
      interval_cases c <;> simp [condHolds, intCondition, h, Int.le_of_lt h, (ne_of_lt h).symm, Int.not_le.mpr h, Int.not_lt.mpr (Int.le_of_lt h)]

/-- The elements of a compare under I32 are signed words. -/
theorem intElem_signed {ty : BitVec 5} (h : ty = 0) (w : Word) : intElem ty w.toNat = w.toInt := by
  subst h
  have hs : intElem 0 w.toNat = sext 32 w.toNat := rfl
  rw [hs, sext, Nat.mod_eq_of_lt w.isLt, BitVec.toInt_eq_toNat_cond]
  split <;> split <;> omega

theorem intElem_unsigned {ty : BitVec 5} (h : ty = 1) (w : Word) : intElem ty w.toNat = w.toNat := by
  subst h
  rfl

/-- A compare of two words under I32 and N32 (R132). -/
theorem cmpOperands_word {gm : BitVec 15} (h : (tyOf gm).toNat ≤ 1) (c : Nat) (a b : Word) :
    cmpOperands gm c a.toNat b.toNat =
      if tyOf gm = 0 then intCondition c a.toInt b.toInt else intCondition c a.toNat b.toNat := by
  have hf : floatTy (tyOf gm) = false := by simp [floatTy]; omega
  have hc : cmpOperands gm c a.toNat b.toNat = condHolds c (cmpInt (intElem (tyOf gm) a.toNat) (intElem (tyOf gm) b.toNat)) := by
    simp [cmpOperands, elems_one (show (tyOf gm).toNat ≤ 2 by omega), cmpElem, hf]
  rw [hc, condHolds_cmpInt]
  split
  · next h0 => rw [intElem_signed h0, intElem_signed h0]
  · next h0 =>
    have h1 : tyOf gm = 1 := BitVec.eq_of_toNat_eq (by have := fun e => h0 (BitVec.eq_of_toNat_eq (y := 0#5) e); simp at this ⊢; omega)
    rw [intElem_unsigned h1, intElem_unsigned h1]

/-- The immediate of CMPI under I32 and N32 is its sign-extended value (R125). -/
theorem immediate_word {ty : BitVec 5} (h : ty.toNat ≤ 1) (k : BitVec 11) : immediate ty true k = (k.signExtend 32 : Word).toNat := by
  have h2 : ty.toNat ≤ 2 := by omega
  have hf : floatTy ty = false := by simp [floatTy]; omega
  have hk : (k.signExtend 32 : Word).toNat = wrap 32 k.toInt := BitVec.toNat_ofInt ..
  have hlt : wrap 32 k.toInt < 2 ^ 32 := hk ▸ BitVec.isLt _
  rw [hk]
  simpa [immediate, hf, elemWidth_of_le_two h2, opWidth, wideTy_of_le_two h2, joinElems] using hlt

/-- A predicate per executing lane, after 4 clocks. -/
theorem perLanePred_spec {i : Instr} (hr : Runs s p i) (lat n : Nat) (f : Nat → Bool) :
    ∃ h : Gang, OnlyGang s (s.perLanePred p lat n f) p h ∧ h = { p.moved s with inflight := h.inflight } ∧
      Lands s (s.perLanePred p lat n f) p h lat
        (if n = 7 then [] else (lanesOf p.executing).map fun l => ⟨.p n l, if f l then 1 else 0⟩) := by
  obtain ⟨h, h1, h2, h3⟩ := State.fixedResult_advance' (s := s) lat
    (if n = 7 then [] else (lanesOf p.executing).map fun l => ⟨.p n l, if f l then 1 else 0⟩) hr.gang
  exact ⟨h, h1, h3, h2⟩

/-- CMP and CMPI deliver the bit of their condition. -/
theorem compareWritesThePredicate : Claim.CompareWritesThePredicate := by
  unfold Claim.CompareWritesThePredicate
  intro s p i c q a b hi hr ht
  have hreg : p.opRegs = 1 := Party.opRegs_one (by omega)
  have hlat : latencyOf p.ty i = 4 := by
    cases i <;> simp [compared] at hi <;> simp [latencyOf, wideTy_of_le_two (show p.ty.toNat ≤ 2 by omega)]
  have hx : exec i s = .next (s.perLanePred p 4 q fun l =>
      if p.ty = 0 then intCondition c (a l).toInt (b l).toInt else intCondition c (a l).toNat (b l).toNat) := by
    rw [← hlat]
    cases i <;> simp only [compared, Option.some.injEq, Prod.mk.injEq, reduceCtorEq] at hi
    case cmp c' q' a' ra b' rb =>
      obtain ⟨rfl, rfl, rfl, rfl⟩ := hi
      have hx : exec (.cmp c' q' a' ra b' rb) s = execCmp c' q' a' ra b' rb s := rfl
      rw [hx, execCmp, hr.issue, hreg]
      simp only [State.opValue_one, cmpOperands_word ht, Party.ty]
      rfl
    case cmpi c' q' a' k =>
      obtain ⟨rfl, rfl, rfl, rfl⟩ := hi
      have hx : exec (.cmpi c' q' a' k) s = execCmpi c' q' a' k s := rfl
      rw [hx, execCmpi, hr.issue, hreg, immediate_word ht]
      simp only [State.opValue_one, cmpOperands_word ht, Party.ty]
      rfl
  rw [hx]
  obtain ⟨h, h1, h2, h3⟩ := perLanePred_spec hr 4 q fun l =>
    if p.ty = 0 then intCondition c (a l).toInt (b l).toInt else intCondition c (a l).toNat (b l).toNat
  exact ⟨_, h, rfl, h1, h2, h3⟩

/-! ### SEL -/

theorem destWrites_v_one {d : Reg} (h : kindOf d = .v) (lane : Nat) (w : Word) : destWrites d 1 lane w.toNat = [⟨.v d.toNat lane, w⟩] := by
  simp [destWrites, h, List.range_succ, word]

/-- SEL reads its guard as a selector. -/
theorem selectReadsTheGuardAsSelector : Claim.SelectReadsTheGuardAsSelector := by
  unfold Claim.SelectReadsTheGuardAsSelector
  intro s p d a b ra rb hd ht hr
  have hx : exec (.sel d a ra b rb) s = execSel d a ra b rb s := rfl
  have hlat : latencyOf p.ty (.sel d a ra b rb) = 4 := by simp [latencyOf, wideTy_of_le_two ht]
  have hw : ∀ l, destWrites d 1 l (if p.g.guard.getLsbD l then s.opValue p a ra 1 l else s.opValue p b rb 1 l) =
      [⟨.v d.toNat l, if p.g.guard.getLsbD l then s.source p a ra l else s.source p b rb l⟩] := fun l => by
    rw [State.opValue_one, State.opValue_one, ← destWrites_v_one hd]
    split <;> rfl
  rw [hx, execSel, hr.issue, hlat, Party.opRegs_one ht]
  simp only [hd, hw, reduceCtorEq, if_false, ← List.map_eq_flatMap]
  obtain ⟨h, h1, h2, h3⟩ := State.fixedResult_advance' (s := s) 4 ((lanesOf (p.g.act p.lead ||| p.g.helpers p.lead)).map fun l =>
    ⟨.v d.toNat l, if p.g.guard.getLsbD l then s.source p a ra l else s.source p b rb l⟩) hr.gang
  exact ⟨_, h, rfl, h1, h3, h2⟩

/-- Settles O9: a compare by its condition on the order of the operands (condHolds_cmpInt), SEL by its selector. -/
theorem comparesAndSelects : Obligations.ComparesAndSelects := ⟨compareWritesThePredicate, selectReadsTheGuardAsSelector⟩

end Sys2Proof.Machine
end

section
/-! SUPPORT. What bring-up leaves (R14, R154, R275, R425, R427, R461). -/

namespace Sys2Proof.Machine
open Sys2Proof

/-- Function 0 is the only one that bring-up gives a share. -/
theorem State.funcAt_reset_of_pos {f : Nat} (h : 0 < f) : State.reset.funcAt f = {} := by
  have : ¬ 0 = f := by omega
  simp [State.funcAt, State.reset, Kv.get?, this]

/-- Each value stands in State.reset or is a default. -/
theorem resetLeavesTheGivenValues : Claim.ResetLeavesTheGivenValues := by
  unfold Claim.ResetLeavesTheGivenValues
  refine ⟨rfl, rfl, rfl, rfl, rfl, rfl, rfl, rfl, rfl, rfl, rfl, rfl, fun f hf => ?share, rfl, rfl, rfl, rfl, rfl, rfl, rfl, rfl, rfl, rfl, rfl,
    rfl, rfl, rfl, rfl, rfl, fun f => rfl, rfl, by decide, fun core => ⟨rfl, rfl, rfl, rfl⟩, rfl, rfl, rfl, fun d n => ⟨rfl, rfl, BitVec.getLsbD_zero, rfl⟩⟩
  case share =>
    rw [State.funcAt_reset_of_pos hf]

/-- No function is ready after bring-up, so no cluster is in the map. -/
theorem resetIsReadyConsistent : Claim.ResetIsReadyConsistent := by
  unfold Claim.ResetIsReadyConsistent ReadyConsistent
  have hready : State.reset.pr.ready = 0 := rfl
  have hmap : State.reset.pr.clumap = 0 := rfl
  simp [hready, hmap]

/-- Settles O4: every value is one that State.reset writes out or a default of its type. -/
theorem resetLeavesWhatTheRulesGive : Obligations.ResetLeavesWhatTheRulesGive := ⟨resetLeavesTheGivenValues, resetIsReadyConsistent⟩

end Sys2Proof.Machine
end

section
/-! SUPPORT. The BAR sub-ops at their issue (R195 to R197, R209). -/

namespace Sys2Proof.Machine
open Sys2Proof

variable {s : State} {p : Party}

/-! ### Blocks -/

theorem find?_replaceFirst {α : Type} {q : α → Bool} {f : α → α} (hf : ∀ x, q (f x) = q x) (l : List α) :
    (replaceFirst q f l).find? q = (l.find? q).map f := by
  induction l with
  | nil => rfl
  | cons x l ih =>
    simp only [replaceFirst]
    cases h : q x
    · simp [h, ih]
    · simp [h, hf]

/-- A block after a change that keeps its key. -/
theorem State.blockAt_modBlock {key : Nat} {f : Block → Block} (hf : ∀ b, (f b).key = b.key) (s : State) :
    (s.modBlock key f).blockAt key = (s.blockAt key).map f :=
  find?_replaceFirst (fun b => by rw [hf]) s.blocks

theorem State.blockAt_key {key : Nat} {b : Block} (h : s.blockAt key = some b) : b.key = key := by
  simpa using List.find?_some h

theorem State.blockAt_of_blocks {s t : State} (h : t.blocks = s.blocks) (key : Nat) : t.blockAt key = s.blockAt key := by
  simp [State.blockAt, h]

/-- The gang's change touches the cores only. -/
theorem State.withGangOf_cores {s t : State} (h : t.cores = s.cores) (g : Gang) : (t.withGangOf p g).cores = (s.withGangOf p g).cores := by
  unfold State.withGangOf State.modGang
  rw [State.gangAt_of_cores h]
  split
  · exact h
  · simp only [State.modCore, State.coreAt_of_cores h, h]

theorem State.withGangOf_rest (s : State) (p : Party) (g : Gang) : s.withGangOf p g = { s with cores := (s.withGangOf p g).cores } := by
  unfold State.withGangOf State.modGang
  split <;> rfl

/-! ### What is sent to a gate -/

@[simp] theorem State.sendGate_cores (s : State) (b : Block) (p : Party) (gate : Nat) (after : List Nat) (c : GateChange) :
    (s.sendGate b p gate after c).cores = s.cores := rfl
@[simp] theorem State.sendGate_now (s : State) (b : Block) (p : Party) (gate : Nat) (after : List Nat) (c : GateChange) :
    (s.sendGate b p gate after c).now = s.now := rfl

theorem State.gangAt_sendGate (s : State) (b : Block) (p : Party) (gate : Nat) (after : List Nat) (c : GateChange) (core slot : Nat) :
    (s.sendGate b p gate after c).gangAt core slot = s.gangAt core slot := State.gangAt_of_cores rfl ..

/-- The block that a change is sent to has it on the way. -/
theorem State.gateIn_sendGate {b x : Block} (hx : s.blockAt b.key = some x) (p : Party) (gate : Nat) (after : List Nat) (c : GateChange) :
    (s.sendGate b p gate after c).blockAt b.key =
      some { x with gateIn := x.gateIn ++ [⟨s.now + gateDelay b p.core, gate, p.core, p.slot, after, c⟩] } := by
  unfold State.sendGate State.sendGateAfter
  rw [State.blockAt_of_blocks (State.at_blocks ..), State.blockAt_modBlock fun _ => by rfl, hx]
  rfl

/-- A BAR sub-op on a gate of the block has its effect. -/
theorem Runs.barOp {i : Instr} {b : Block} (hr : Runs s p i) (a : Reg) (f : Party → Block → Nat → State) (hb : s.blockOf p = some b)
    (ho : p.once = true) : barOp i a f s = .next (if b.ngates ≤ s.uniform p a 1 then s.raise p xGateNum (s.uniform p a 1) else f p b (s.uniform p a 1)) := by
  rw [Machine.barOp, hr.issue, hb]
  simp [ho]

/-- A gate number beyond the block's count traps GATENUM, whatever the sub-op does. -/
theorem gateNumberTraps : Claim.GateNumberTraps := by
  unfold Claim.GateNumberTraps
  intro s p b i d a hb ho hi hr hn
  have trap : ∀ f, barOp i a f s = .next (s.raise p 0x31 (s.uniform p a 1)) := fun f => by rw [hr.barOp a f hb ho, if_pos hn]; rfl
  simp only [List.mem_cons, List.not_mem_nil, or_false] at hi
  rcases hi with rfl | rfl | rfl | rfl | rfl | rfl | rfl | rfl
  · exact show execBinit d a s = _ by rw [execBinit, trap]
  · exact show execBarr d a s = _ by rw [execBarr, arriveOp, trap]
  · exact show execBarw d a s = _ by rw [execBarw, arriveOp, trap]
  · exact show execBwait d a s = _ by rw [execBwait, trap]
  · exact show execBexp d a s = _ by rw [execBexp, trap]
  · exact show execBtest d a s = _ by rw [execBtest, trap]
  · exact show execBtile d a s = _ by rw [execBtile, trap]
  · exact show execBrd d a s = _ by rw [execBrd, trap]

/-- An arrival on a gate of the block with the count that its EXPECT asks for has its effect. -/
theorem Runs.arriveOp {i : Instr} {b : Block} (hr : Runs s p i) (d a : Reg) (f : Party → Block → Nat → State → State) (hb : s.blockOf p = some b)
    (ho : p.once = true) (hn : s.uniform p a 1 < b.ngates)
    (hc : (s.uniform p d 1 == expectNow b p.core p.slot (s.uniform p a 1) && expectNow b p.core p.slot (s.uniform p a 1) != 0) = true) :
    arriveOp i d a f s = .next (f p b (s.uniform p a 1)
      ((s.sendGate b p (s.uniform p a 1) (arrivalAfter s p) .arrive).closeMark p)) := by
  simp only [Bool.and_eq_true, beq_iff_eq, bne_iff_ne, ne_eq] at hc
  obtain ⟨he, h0⟩ := hc
  rw [Machine.arriveOp, hr.barOp a _ hb ho, if_neg (Nat.not_le.mpr hn)]
  dsimp only
  rw [if_neg fun h => h.elim (fun h => h he) h0]

/-- BINIT, BARR and BEXP send their change, close the mark and go on; BTILE leaves the mark open (R38, R197). -/
theorem exec_gateSent {i : Instr} {b : Block} {a : Reg} {chg : GateChange} {after : List Nat} (hs : gateSent s p i = some (a, chg, after))
    (hr : Runs s p i) (hb : s.blockOf p = some b) (ho : p.once = true) (hn : s.uniform p a 1 < b.ngates)
    (hc : gateCountOk s p b (s.uniform p a 1) i = true) :
    (∃ d a, i = .btile d a) ∧ exec i s = .next ((s.sendGate b p (s.uniform p a 1) after chg).advance p) ∨
    (¬ ∃ d a, i = .btile d a) ∧ exec i s = .next (((s.sendGate b p (s.uniform p a 1) after chg).closeMark p).advance p) := by
  have hn' := Nat.not_le.mpr hn
  cases i <;> simp only [gateSent, Option.some.injEq, Prod.mk.injEq, reduceCtorEq] at hs
  case binit d a' =>
    obtain ⟨rfl, rfl, rfl⟩ := hs
    simp only [gateCountOk, Bool.and_eq_true, decide_eq_true_eq] at hc
    refine .inr ⟨by simp, show execBinit d a' s = _ from ?_⟩
    rw [execBinit, hr.barOp a' _ hb ho, if_neg hn']
    dsimp only
    rw [if_neg (by omega)]
  case barr d a' =>
    obtain ⟨rfl, rfl, rfl⟩ := hs
    exact .inr ⟨by simp, show execBarr d a' s = _ by rw [execBarr, hr.arriveOp d a' _ hb ho hn hc]⟩
  case bexp d a' =>
    obtain ⟨rfl, rfl, rfl⟩ := hs
    exact .inr ⟨by simp, show execBexp d a' s = _ by rw [execBexp, hr.barOp a' _ hb ho, if_neg hn']⟩
  case btile d a' =>
    obtain ⟨rfl, rfl, rfl⟩ := hs
    simp only [gateCountOk, decide_eq_true_eq] at hc
    refine .inl ⟨⟨d, a', rfl⟩, show execBtile d a' s = _ from ?_⟩
    rw [execBtile, hr.barOp a' _ hb ho, if_neg hn']
    dsimp only
    rw [if_neg (by omega)]

/-- A sub-op that goes on leaves its change on the way and its party at the next word. -/
theorem gateSubopsSendTheirChange : Claim.GateSubopsSendTheirChange := by
  unfold Claim.GateSubopsSendTheirChange
  intro s p b i a chg after gate hs hr hrep hb hgate ho hn hc
  subst hgate
  have htg : (s.sendGate b p (s.uniform p a 1) after chg).gangAt p.core p.slot = some p.g := (State.gangAt_sendGate ..).trans hr.gang
  rcases exec_gateSent hs hr hb ho hn hc with ⟨hi, hx⟩ | ⟨hi, hx⟩
  · rw [State.advance_only htg] at hx
    refine ⟨_, _, hx, State.gangAt_withGangOf htg _, State.withGangOf_cores (State.sendGate_cores ..) _, ?_, State.withGangOf_blocks .., ?_⟩
    · rw [if_pos hi]
      rfl
    · rw [State.withGangOf_rest]
      rfl
  · rw [State.closeMark, State.modGang_party htg, State.advance_withGangOf htg ?quads, hrep] at hx
    case quads => rfl
    refine ⟨_, _, hx, State.gangAt_withGangOf htg _, State.withGangOf_cores (State.sendGate_cores ..) _, ?_, State.withGangOf_blocks .., ?_⟩
    · rw [if_neg hi, Party.moved, hrep]
      rfl
    · rw [State.withGangOf_rest]
      rfl

/-! ### Waits and reads -/

theorem State.gateWait_party {b : Block} (hg : s.gangAt p.core p.slot = some p.g) (gate : Nat) (d : Reg) :
    s.gateWait p b gate d = (s.withGangOf p (p.g.mapParty p.lead fun q => { q with park := .bwait gate .onWay d, last := some s.now })).sendGate
      b p gate [] (.wait p.lead) := by
  rw [State.gateWait, State.modGang_party hg]

/-- BWAIT parks its party, BARW after its arrival. -/
theorem gateWaitsPark : Claim.GateWaitsPark := by
  unfold Claim.GateWaitsPark
  intro s p b d a gate hb hgate ho hn
  subst hgate
  have hn' := Nat.not_le.mpr hn
  have hkey := State.blockAt_key hb
  have hb' : s.blockAt b.key = some b := hkey ▸ hb
  refine ⟨fun hr => ?_, fun hr hc => ?_⟩
  · have hx : exec (.bwait d a) s = .next (s.gateWait p b (s.uniform p a 1) d) :=
      show execBwait d a s = _ by rw [execBwait, hr.barOp a _ hb ho, if_neg hn']
    rw [State.gateWait_party hr.gang] at hx
    refine ⟨_, hx, ?_, ?_⟩
    · rw [State.gangAt_sendGate, State.gangAt_withGangOf hr.gang]
    · rw [← hkey, State.gateIn_sendGate ((State.blockAt_of_blocks (State.withGangOf_blocks ..) _).trans hb')]
      simp
  · have hx : exec (.barw d a) s = .next (((s.sendGate b p (s.uniform p a 1) (arrivalAfter s p) .arrive).closeMark p).gateWait p b
        (s.uniform p a 1) 0x7E#7) := show execBarw d a s = _ by rw [execBarw, hr.arriveOp d a _ hb ho hn hc]
    have htg : (s.sendGate b p (s.uniform p a 1) (arrivalAfter s p) .arrive).gangAt p.core p.slot = some p.g :=
      (State.gangAt_sendGate ..).trans hr.gang
    rw [State.closeMark, State.modGang_party htg, State.gateWait, State.modGang_withGangOf] at hx
    refine ⟨_, hx, ?_, ?_⟩
    · rw [State.gangAt_sendGate, State.gangAt_withGangOf htg, State.withGangOf_now, State.sendGate_now]
      rfl
    · rw [← hkey, State.gateIn_sendGate ((State.blockAt_of_blocks (State.withGangOf_blocks ..) _).trans (State.gateIn_sendGate hb' ..))]
      simp

/-- An outstanding operation of the party's gang is recorded under the next number. -/
theorem State.addPend_party (hg : s.gangAt p.core p.slot = some p.g) (regs : List Nat) (body : PendBody) :
    s.addPend p regs body = (s.withGangOf p { p.g with pend := p.g.pend ++ [⟨s.fresh, p.lead, regs, p.g.super, body⟩] }).bump := by
  rw [State.addPend, State.modGang_party hg]

/-- The end of an instruction does not look at what is outstanding. -/
theorem Gang.moved_pend (g : Gang) (l : List Pend) (lead now : Nat) (r : Bool) :
    ({ g with pend := l } : Gang).moved lead now r = { g.moved lead now r with pend := l } := by
  unfold Gang.moved
  cases r
  · rfl
  · by_cases h : repIndex g.rep + 1 < repCount g.rep
    · simp only [if_pos h, if_true]; rfl
    · simp only [if_neg h, if_true]; rfl

/-- A read on its way to its gate, with its result outstanding. -/
theorem State.sendRead {b : Block} (hg : s.gangAt p.core p.slot = some p.g) (hb : s.blockAt b.key = some b) (regs : List Nat) (body : PendBody)
    (gate : Nat) (c : GateChange) :
    (((s.addPend p regs body).sendGate b p gate [] c).advance p).gangAt p.core p.slot =
      some { p.moved s with pend := p.g.pend ++ [⟨s.fresh, p.lead, regs, p.g.super, body⟩] } ∧
    (((s.addPend p regs body).sendGate b p gate [] c).advance p).blockAt b.key =
      some { b with gateIn := b.gateIn ++ [⟨s.now + gateDelay b p.core, gate, p.core, p.slot, [], c⟩] } := by
  rw [State.addPend_party hg]
  have htg : ((s.withGangOf p { p.g with pend := p.g.pend ++ [⟨s.fresh, p.lead, regs, p.g.super, body⟩] }).bump.sendGate b p gate [] c).gangAt
      p.core p.slot = some { p.g with pend := p.g.pend ++ [⟨s.fresh, p.lead, regs, p.g.super, body⟩] } := by
    rw [State.gangAt_sendGate, State.gangAt_bump, State.gangAt_withGangOf hg]
  rw [State.advance_eq (s := s) htg rfl (by simp), Gang.moved_pend]
  constructor
  · rw [State.gangAt_modGang_self, htg]
    rfl
  · rw [State.blockAt_of_blocks (State.modGang_blocks ..), State.gateIn_sendGate (x := b)]
    · simp
    · exact (State.blockAt_of_blocks (State.withGangOf_blocks ..) _).trans hb

/-- BTEST and BRD have their result outstanding and their read on the way. -/
theorem gateReadsAreOutstanding : Claim.GateReadsAreOutstanding := by
  unfold Claim.GateReadsAreOutstanding
  intro s p b d a gate hb hgate ho hn
  subst hgate
  have hn' := Nat.not_le.mpr hn
  have hkey := State.blockAt_key hb
  have hb' : s.blockAt b.key = some b := hkey ▸ hb
  refine ⟨fun hr => ?_, fun hr => ?_⟩
  · have hx : exec (.btest d a) s = .next (((s.addPend p (resultCodes d 1) .test).sendGate b p (s.uniform p a 1) []
        (.test s.fresh d p.executing)).advance p) := show execBtest d a s = _ by rw [execBtest, hr.barOp a _ hb ho, if_neg hn']
    obtain ⟨hgang, hblock⟩ := State.sendRead hr.gang hb' (resultCodes d 1) .test (s.uniform p a 1) (.test s.fresh d p.executing)
    exact ⟨_, hx, hgang, by rw [← hkey, hblock]; rfl⟩
  · have hx : exec (.brd d a) s = .next (((s.addPend p (resultCodes d 4) .gate).sendGate b p (s.uniform p a 1) []
        (.read s.fresh d p.executing)).advance p) := show execBrd d a s = _ by rw [execBrd, hr.barOp a _ hb ho, if_neg hn']
    obtain ⟨hgang, hblock⟩ := State.sendRead hr.gang hb' (resultCodes d 4) .gate (s.uniform p a 1) (.read s.fresh d p.executing)
    exact ⟨_, hx, hgang, by rw [← hkey, hblock]; rfl⟩

/-- Settles O26: each sub-op by what it sends to its gate (Runs.barOp, Runs.arriveOp). -/
theorem gateSubops : Obligations.GateSubops := ⟨gateSubopsSendTheirChange, gateWaitsPark, gateReadsAreOutstanding, gateNumberTraps⟩

end Sys2Proof.Machine
end

section
/-! SUPPORT. RDS and the registers it reads (R100 to R102). -/

namespace Sys2Proof.Machine
open Sys2Proof

variable {s : State} {p : Party}

/-- Each register reads the field that holds it. -/
theorem stateRegistersRead : Claim.StateRegistersRead := by
  unfold Claim.StateRegistersRead
  intro s p
  exact ⟨rfl, rfl, rfl, rfl, rfl, rfl, rfl, rfl, rfl, rfl, rfl, rfl, rfl, rfl, rfl, rfl, rfl, rfl, rfl, rfl, rfl, rfl, rfl⟩

theorem Party.moved_pend (p : Party) (s : State) : (p.moved s).pend = p.g.pend := by
  have h : p.moved s = { p.moved s with pend := p.g.pend } := Gang.moved_pend p.g p.g.pend p.lead s.now p.inRep
  rw [h]

/-- As `advance_withGangOf`, with a number taken and an entry of open latency put on the agenda before. -/
theorem State.advance_withGangOf_later {g : Gang} (hg : s.gangAt p.core p.slot = some p.g) (hq : g.quads = p.g.quads) (e : Instr) :
    ((s.withGangOf p g).bump.later e).advance p = (s.withGangOf p (g.moved p.lead s.now p.inRep)).bump.later e := by
  have htg : ((s.withGangOf p g).bump.later e).gangAt p.core p.slot = some g := by
    rw [State.gangAt_later, State.gangAt_bump, State.gangAt_withGangOf hg]
  rw [State.advance_eq (s := s) htg hq (by simp), State.modGang_later, State.modGang_bump, State.modGang_withGangOf]

/-- The end of an instruction with a result of open latency: the result is outstanding, its landing stands on the agenda, and the party moves on
(R50, R153). -/
theorem State.variableResult_advance (ws : List RegWrite) (hg : s.gangAt p.core p.slot = some p.g) :
    ∃ h : Gang, OnlyGang s ((s.variableResult p ws).advance p) p h ∧ Returns s ((s.variableResult p ws).advance p) p h ws ∧
      h = { p.moved s with pend := h.pend } := by
  by_cases hw : ws = []
  · subst hw
    have e : (s.variableResult p []).advance p = s.withGangOf p (p.moved s) := State.advance_only hg
    rw [e]
    exact ⟨p.moved s, .withGangOf hg _, ⟨by simp [Party.moved_pend], s.now + 1, Nat.lt_succ_self _, by simp⟩, rfl⟩
  · have he : s.variableResult p ws = ((s.withGangOf p { p.g with pend := p.g.pend ++ [⟨s.fresh, p.lead, codesOf ws, p.g.super, .value ws⟩] }).bump).later
        (.variableReturnLanding p.core p.slot s.fresh) := by
      rw [State.variableResult, if_neg (by simp [hw]), State.addPend_party hg]
    rw [he, State.advance_withGangOf_later hg ?quads, Gang.moved_pend]
    case quads => rfl
    refine ⟨{ p.moved s with pend := p.g.pend ++ [⟨s.fresh, p.lead, codesOf ws, p.g.super, .value ws⟩] },
      OnlyGang.of_eq hg (s.agenda ++ [(s.now + 1 + Config.latency (s.fresh + 1), .variableReturnLanding p.core p.slot s.fresh)]) (s.fresh + 2) ?_,
      ⟨by simp [hw], s.now + 1 + Config.latency (s.fresh + 1), by omega, by simp [hw]⟩, rfl⟩
    rw [State.later, State.bump]
    simp [Party.moved]

/-- The writes of a per-lane register into v. -/
theorem destWrites_lane {d : Reg} (h : kindOf d = .v) (ls : List Nat) (f : Nat → Word) :
    (ls.flatMap fun l => destWrites d 1 l (f l).toNat) = ls.map fun l => ⟨.v d.toNat l, f l⟩ := by
  simp only [destWrites_v_one h, List.map_eq_flatMap]

/-- RDS delivers its register after 4 clocks or an open latency. -/
theorem rdsDeliversTheRegister : Claim.RdsDeliversTheRegister := by
  unfold Claim.RdsDeliversTheRegister
  intro s p d k hr
  have hx : exec (.rds d k) s = execRds d k s := rfl
  rw [hx, execRds, hr.issue]
  refine ⟨fun hl => ?_, fun hk hd => ?_⟩
  · simp only [hl, Bool.false_eq_true, if_false]
    cases hf : rdsFixed k.toNat with
    | true =>
      obtain ⟨h, h1, h2, h3⟩ := State.fixedResult_advance' (s := s) 4 (p.uniformWrites d (if wideReg k then 2 else 1) (stateValue s p k.toNat)) hr.gang
      refine ⟨_, h, _, rfl, h1, rfl, fun _ => ⟨h2, h3⟩, fun hk => ?_⟩
      simp [rdsFixed] at hf
      omega
    | false =>
      obtain ⟨h, h1, h2, h3⟩ := State.variableResult_advance (s := s) (p.uniformWrites d (if wideReg k then 2 else 1) (stateValue s p k.toNat)) hr.gang
      refine ⟨_, h, _, rfl, h1, rfl, fun hk => ?_, fun _ => ⟨h2, h3⟩⟩
      simp [rdsFixed] at hf
      omega
  · subst hk
    have hl : laneReg 0x045 = true := by decide
    have hf : rdsFixed (0x045 : BitVec 11).toNat = true := by decide
    have hw : ((lanesOf p.executing).flatMap fun l => destWrites d 1 l (laneReadout p.g (0x045 : BitVec 11).toNat l)) =
      (lanesOf p.executing).map fun l => ⟨.v d.toNat l, p.g.rng l⟩ := destWrites_lane hd _ _
    simp only [hl, hf, hd, hw, if_true]
    obtain ⟨h, h1, h2, h3⟩ := State.fixedResult_advance' (s := s) 4 ((lanesOf p.executing).map fun l => ⟨.v d.toNat l, p.g.rng l⟩) hr.gang
    exact ⟨_, h, rfl, h1, h3, h2⟩

/-- Settles O22: the registers by their fields, RDS by the latency of its register. -/
theorem stateRegistersAreDelivered : Obligations.StateRegistersAreDelivered := ⟨stateRegistersRead, rdsDeliversTheRegister⟩

end Sys2Proof.Machine
end

section
/-! SUPPORT. A return on a core whose gangs stand out of order (R153). -/

namespace Sys2Proof.Machine
open Sys2Proof

/-- A gang with a result of ten vector registers due at clock 0 and a returned value of six more, sixteen write slots in all. -/
def fullGang : Gang :=
  { inflight := [⟨9, 0, List.range 10, []⟩], pend := [⟨1, 0, List.range 6, false, .value []⟩] }

/-- Core 0 lists its slot 1 before its slot 0, where that gang stands. -/
def unordered : State := { State.reset with cores := [(0, { gangs := [(1, {}), (0, fullGang)] })] }

/-- Before the landing the clock has the six slots that the value needs. -/
theorem unordered_returnMay : (unordered.coreAt 0).returnMay unordered.now (quarterOf 0) 1 (writeSlots (List.range 6)) = true := by decide

/-- The gang of slot 0 of core 0 still waits for operation 1 after an outcome. -/
def stillWaits : Result → Option Bool
  | .next t => (t.gangAt 0 0).map fun g => g.pend.any (·.id == 1)
  | _ => none

/-- The landing first looks for bytes over the bridge (R212), which puts the gang a second time before its slot 1. The clock then counts its ten
slots twice, and holds the return. -/
theorem unordered_landing : stillWaits (exec (.variableReturnLanding 0 0 1) unordered) = some true := by decide +kernel

/-- Refutes O11: the clauses of returns ask of no core that its gangs stand in rising order of their slots. Where they do not, a value that has
write slots is not landed. -/
theorem not_resultsLand : ¬ Obligations.ResultsLand := by
  unfold Obligations.ResultsLand
  rintro ⟨-, -, -, returns⟩
  obtain ⟨values, -, -⟩ := returns unordered 0 0 1 fullGang rfl
  obtain ⟨T, h, hT, hg, hpend, -⟩ := (values ⟨1, 0, List.range 6, false, .value []⟩ [] rfl rfl).1 unordered_returnMay
  have hw : stillWaits (exec (.variableReturnLanding 0 0 1) unordered) = some true := unordered_landing
  rw [hT, stillWaits, hg, Option.map_some, hpend] at hw
  exact absurd hw (by decide)

end Sys2Proof.Machine
end

section
/-! SUPPORT. What comes before an instruction's own effect (R62, R67, R68). -/

namespace Sys2Proof.Machine
open Sys2Proof

/-! ### Every instruction word is issued -/

/-- An instruction whose operand values do not count is issued: its meaning is State.issue of its own effect. -/
theorem exec_issues (s : State) (i : Instr) (hw : hasWord i = true) (hv : byValue i = false) : ∃ f, exec i s = s.issue i f := by
  cases i
  all_goals try exact absurd hw Bool.false_ne_true
  all_goals try exact absurd hv Bool.noConfusion
  all_goals simp only [exec,
    execNop, execLimm, execLimh, execMode, execMroute, execAdd, execSub, execMul, execMulh, execMad, execMsb, execMin, execMax, execAnd,
    execOr, execXor, execAndn, execShl, execShr, execSha, execRot, execNot, execNeg, execAbs, execClz, execPopc, execBrev, execRcp, execRsq,
    execSqrt, execExp2, execLog2, execSint, execCost, execTanh, execFlr, execCeil, execTrnc, execRint, execFrc, execFclass, execAbsd,
    execAddi, execMuli, execAndi, execOri, execXori, execShli, execShri, execShai, execMini, execMaxi, execQswh, execQswv, execQswd,
    execQbc0, execQbc1, execQbc2, execQbc3, execQsum, execQmin, execQmax, execQddx, execQddy, execBallot, execVany, execVall, execGsum,
    execGmin, execGmax, execGscan, execGscanx, execAtom, execRed, execBinit, execBarr, execBarw, execBwait, execBexp, execBtest, execBtile,
    execBrd, execCtrw, execCtrt, execCtrrd, execCwb, execCinv, execCpref, execCdisc, execAccz, execAccld, execAccst, execRole, execTtinit,
    execTtanc, execTtpos, execTtpar, execTtstok, execTtgtok, execTtssc, execTtgsc, execKvapp, execKvtrim, execBmask, execBpend, execBtake,
    execBhpc, execBself, execKeyw, execWaym, execKlass, execSplit, execPreqHold, execFreeze, execWingr, execJrnl, arriveOp, preqOp, tileMove]
  all_goals exact ⟨_, rfl⟩

/-! ### The traps before an instruction -/

/-- The first of some causes is the least of them. -/
theorem lowest_eq_none {l : List Nat} : lowest l = none ↔ l = [] := by
  cases l <;> simp [lowest]

theorem foldl_min_le (l : List Nat) (a : Nat) : l.foldl Nat.min a ≤ a := by
  induction l generalizing a with
  | nil => exact Nat.le_refl a
  | cons x l ih => exact (ih _).trans (Nat.min_le_left a x)

/-- More causes show a lower one or the same. -/
theorem lowest_append {l m : List Nat} {c : Nat} (h : lowest l = some c) : ∃ c' ≤ c, lowest (l ++ m) = some c' := by
  cases l with
  | nil => simp [lowest] at h
  | cons x l =>
    simp only [lowest, Option.some.injEq] at h
    exact ⟨_, (foldl_min_le m _).trans (Nat.le_of_eq h), by simp [lowest]⟩

/-- The traps that a stricter check of the operands gives: it stands before where the plain check traps, and its trap is the same or one that comes
before it (R68). -/
def ComesNoLater (code info code' info' : Nat) : Prop :=
  (code = 0x04 → code' = 0x04 ∧ info' = 0) ∧ (code = 0x01 → code' = 0x01 ∧ info' ≤ info) ∧ (code = 0x10 → code' = 0x01 ∨ code' = 0x10) ∧
    (code' = 0x01 ∨ code' = 0x02 ∨ code' = 0x04 ∨ code' = 0x10)

/-- A check with more ILLEGAL causes, and with operands that name at least the registers of the plain ones, traps where the plain check does. -/
theorem preTrapWith_of_preTrap {now : Nat} {p : Party} {i : Instr} {os : List Opnd} {code info : Nat} (more values : List Nat)
    (h : preTrap now p i = some (code, info)) (hr : (regRangeOf p (opnds i)).isSome = true → (regRangeOf p os).isSome = true)
    (hs : (stallShortOf p now i (opnds i)).isSome = true → (stallShortOf p now i os).isSome = true) :
    ∃ code' info', preTrapWith now p i os more values = some (code', info') ∧ ComesNoLater code info code' info' := by
  unfold preTrap at h
  unfold preTrapWith
  split at h
  · next hp =>
    obtain ⟨rfl, rfl⟩ : code = 4 ∧ info = 0 := by simpa [xPrivileged, eq_comm] using h
    exact ⟨4, 0, by simp [hp, xPrivileged], by simp [ComesNoLater]⟩
  · next hp =>
    cases hl : lowest (illegalCauses p.ty p.g.super i) with
    | some c =>
      obtain ⟨c', hle, hc'⟩ := lowest_append (m := more ++ if (regRangeOf p os).isSome then [] else values) hl
      obtain ⟨rfl, rfl⟩ : code = 1 ∧ info = c + (opcode i).toNat * 2 ^ 25 := by simpa [hl, xIllegal, eq_comm] using h
      refine ⟨1, c' + (opcode i).toNat * 2 ^ 25, ?_, by simp [ComesNoLater, hle]⟩
      rw [if_neg hp]
      simp only [List.append_assoc, hc', xIllegal]
    | none =>
      have hcode : (code = 0x10 ∧ (regRangeOf p os).isSome = true) ∨
          (code = 2 ∧ chkOf p.g.gmode = true ∧ (stallShortOf p now i os).isSome = true) := by
        simp only [hl] at h
        cases hx : regRange p i with
        | some x => exact .inl ⟨by simpa [hx, xRegRange, eq_comm] using congrArg (·.map Prod.fst) h, hr (Option.isSome_iff_exists.mpr ⟨x, hx⟩)⟩
        | none =>
          simp only [hx, Option.ite_none_right_eq_some, Option.map_eq_some_iff] at h
          obtain ⟨hc, x, hst, he⟩ := h
          exact .inr ⟨by simpa [xStallShort, eq_comm] using congrArg Prod.fst he, hc, hs (Option.isSome_iff_exists.mpr ⟨x, hst⟩)⟩
      rw [if_neg hp]
      cases hm : lowest (illegalCauses p.ty p.g.super i ++ more ++ if (regRangeOf p os).isSome then [] else values) with
      | some c => exact ⟨1, _, by dsimp only; rw [hm]; rfl, by rcases hcode with ⟨rfl, -⟩ | ⟨rfl, -⟩ <;> simp [ComesNoLater]⟩
      | none =>
        cases hx : regRangeOf p os with
        | some x => exact ⟨0x10, x, by dsimp only; rw [← hx, hm]; simp [xRegRange], by rcases hcode with ⟨rfl, -⟩ | ⟨rfl, -⟩ <;> simp [ComesNoLater]⟩
        | none =>
          obtain ⟨-, hno⟩ | ⟨rfl, hc, hst⟩ := hcode
          · simp [hx] at hno
          · obtain ⟨x, hst⟩ := Option.isSome_iff_exists.mp hst
            exact ⟨2, x, by dsimp only; rw [← hx, hm]; simp [hc, hst, xStallShort], by simp [ComesNoLater]⟩

/-! ### Operands that name more registers -/

/-- The shortfall of more registers is no smaller. -/
theorem shortOf_append (p : Party) (now : Nat) (cs ds : List Nat) : shortOf p now cs ≤ shortOf p now (cs ++ ds) := by
  have hle : ∀ (m : Nat), m ≤ ds.foldl (fun m c => match p.g.landsAt now c with | some t => Nat.max m (t - now) | none => m) m := by
    induction ds with
    | nil => exact fun m => Nat.le_refl m
    | cons d ds ih =>
      intro m
      refine le_trans ?_ (ih _)
      dsimp only
      split
      · exact Nat.le_max_left ..
      · exact Nat.le_refl m
  unfold shortOf
  rw [List.foldl_append]
  exact hle _

/-- An operand over a pair names the register that it names alone, and more. -/
theorem codes_pair (ty : BitVec 5) (o : Opnd) (ho : o.span = .n 1) : ∃ ds, ({ o with span := .n 2 } : Opnd).codes ty = o.codes ty ++ ds := by
  unfold Opnd.codes
  cases kindOf o.reg <;> simp [ho, Span.count, List.range_succ]

theorem shortOf_pair (p : Party) (now : Nat) (o : Opnd) (ho : o.span = .n 1) :
    shortOf p now (o.codes p.ty) ≤ shortOf p now (({ o with span := .n 2 } : Opnd).codes p.ty) := by
  obtain ⟨ds, h⟩ := codes_pair p.ty o ho
  rw [h]
  exact shortOf_append ..

/-- What ACCRD and ACCWR name: D and A. -/
def rowInstr (i : Instr) : Prop := ∃ d a, i = .accrd d a ∨ i = .accwr d a

/-- Such an instruction is short of an operand when some operand's writes are still to land. -/
theorem stallShortOf_isSome {p : Party} {now : Nat} {i : Instr} (hi : rowInstr i) (os : List Opnd) :
    (stallShortOf p now i os).isSome = true ↔ ∃ o ∈ os, 0 < shortOf p now (o.codes p.ty) := by
  have hs : stallShortOf p now i os = ((((os.filter (·.read)).filter (·.field != 3) ++ (os.filter (·.read)).filter (·.field == 3) ++
      os.filter (!·.read)).map fun o => (o.reg.toNat, o.field, shortOf p now (o.codes p.ty))).find? fun c => decide (0 < c.2.2)).map
        fun c => c.1 + c.2.1 * 256 + Nat.min 15 c.2.2 * 4096 := by
    obtain ⟨d, a, rfl | rfl⟩ := hi <;>
      exact congrArg (fun l : List (Nat × Nat × Nat) => (List.find? (fun c => decide (0 < c.2.2)) l).map fun c =>
        c.1 + c.2.1 * 256 + Nat.min 15 c.2.2 * 4096) (List.append_nil _)
  rw [hs, Option.isSome_map, List.find?_isSome]
  constructor
  · rintro ⟨x, hx, h⟩
    obtain ⟨o, ho, rfl⟩ := List.mem_map.mp hx
    exact ⟨o, by grind, by simpa using h⟩
  · rintro ⟨o, ho, h⟩
    exact ⟨_, List.mem_map_of_mem (a := o) (by grind), by simpa using h⟩

/-- Both operands of such an instruction name one register. -/
theorem rowInstr.span {i : Instr} (hi : rowInstr i) : ∀ o ∈ opnds i, o.span = .n 1 := by
  obtain ⟨d, a, rfl | rfl⟩ := hi
  · have ho : opnds (.accrd d a) = [⟨0, d, vz, .n 1, false, true, 0, false⟩, ⟨1, a, szq, .n 1, true, false, 0, false⟩] := rfl
    simp [ho]
  · have ho : opnds (.accwr d a) = [⟨0, d, vszq, .n 1, true, false, 0, false⟩, ⟨1, a, szq, .n 1, true, false, 0, false⟩] := rfl
    simp [ho]

/-- With a 64-bit tile such an instruction is short, or out of range, where it is so with a 32-bit one. -/
theorem stallShortOf_rowOpnds {p : Party} {now : Nat} {i : Instr} (hi : rowInstr i) (wide : Bool)
    (h : (stallShortOf p now i (opnds i)).isSome = true) : (stallShortOf p now i (rowOpnds i wide)).isSome = true := by
  rw [stallShortOf_isSome hi] at h ⊢
  obtain ⟨o, ho, h⟩ := h
  refine ⟨_, List.mem_map_of_mem ho, ?_⟩
  split
  · exact h.trans_le (shortOf_pair p now o (hi.span o ho))
  · exact h

theorem regRangeOf_rowOpnds {p : Party} {i : Instr} (hi : rowInstr i) (wide : Bool)
    (h : (regRangeOf p (opnds i)).isSome = true) : (regRangeOf p (rowOpnds i wide)).isSome = true := by
  simp only [regRangeOf, Option.isSome_map, List.find?_isSome, Bool.and_eq_true, decide_eq_true_eq] at h ⊢
  obtain ⟨o, ho, hk, h⟩ := h
  refine ⟨_, List.mem_map_of_mem ho, ?_⟩
  rw [hi.span o ho] at h
  split
  · exact ⟨hk, h.trans (by simp [Span.count])⟩
  · exact ⟨hk, by rwa [hi.span o ho]⟩

/-! ### Instructions whose operand values count -/

/-- As issue_trap, for an instruction whose operand values can make it ILLEGAL. -/
theorem State.issueChecked_trap {s : State} {i : Instr} {causes : Party → List Nat} {f : Party → State} {p : Party} {t : Nat × Nat}
    (hp : s.party? = some p) (hb : scoreboard p i = true) (hm : heldBack (s.coreAt p.core) p i = false)
    (ht : preTrapWith s.now p i (opnds i) [] (causes p) = some t) : s.issueChecked i causes f = .next (s.raise p t.1 t.2) := by
  simp [State.issueChecked, hp, hb, hm, ht]

/-- As issue_trap, for ACCRD and ACCWR. -/
theorem State.issueRow_trap {s : State} {i : Instr} {d a : Reg} {write : Bool} {f : Party → Nat → State} {p : Party} {t : Nat × Nat}
    (hp : s.party? = some p) (hb : scoreboard p i = true) (hm : heldBack (s.coreAt p.core) p i = false) (hh : s.pairHeld p d write = false)
    (ht : preTrapWith s.now p i (rowOpnds i (tdWide (s.uniform p a 1))) (if tdWide (s.uniform p a 1) then pairCauses d else []) [] = some t) :
    s.issueRow i d a write f = .next (s.raise p t.1 t.2) := by
  simp [State.issueRow, hp, hb, hm, hh, ht]

theorem exec_wrs (a : Reg) (k : BitVec 11) (s : State) : ∃ f, exec (.wrs a k) s = s.issueChecked (.wrs a k) (wrsCauses s a k) f := by
  have hx : exec (.wrs a k) s = execWrs a k s := rfl
  rw [hx, execWrs]
  exact ⟨_, rfl⟩

theorem exec_wrp (a : Reg) (k : BitVec 11) (s : State) : ∃ causes f, exec (.wrp a k) s = s.issueChecked (.wrp a k) causes f := by
  have hx : exec (.wrp a k) s = execWrp a k s := rfl
  rw [hx, execWrp]
  exact ⟨_, _, rfl⟩

theorem exec_accrd (d a : Reg) (s : State) : ∃ f, exec (.accrd d a) s = s.issueRow (.accrd d a) d a true f := by
  have hx : exec (.accrd d a) s = execAccrd d a s := rfl
  rw [hx, execAccrd, rowOp]
  exact ⟨_, rfl⟩

theorem exec_accwr (d a : Reg) (s : State) : ∃ f, exec (.accwr d a) s = s.issueRow (.accwr d a) d a false f := by
  have hx : exec (.accwr d a) s = execAccwr d a s := rfl
  rw [hx, execAccwr, rowOp]
  exact ⟨_, rfl⟩

/-- An instruction whose operand values count takes the trap of its fields or one that comes before it. -/
theorem exec_byValue_trap {s : State} {p : Party} {i : Instr} {code info : Nat} (hp : s.party? = some p) (hb : scoreboard p i = true)
    (hm : heldBack (s.coreAt p.core) p i = false) (ht : preTrap s.now p i = some (code, info)) (hv : byValue i = true)
    (hrd : ∀ d a, i = .accrd d a → s.pairHeld p d true = false) (hwr : ∀ d a, i = .accwr d a → s.pairHeld p d false = false) :
    ∃ code' info', exec i s = .next (s.raise p code' info') ∧ ComesNoLater code info code' info' := by
  have hform : (∃ causes f, exec i s = s.issueChecked i causes f) ∨
      (rowInstr i ∧ ∃ d a write f, s.pairHeld p d write = false ∧ exec i s = s.issueRow i d a write f) := by
    cases i
    case wrs a k => exact .inl ⟨_, exec_wrs a k s⟩
    case wrp a k => exact .inl (exec_wrp a k s)
    case accrd d a =>
      obtain ⟨f, hf⟩ := exec_accrd d a s
      exact .inr ⟨⟨d, a, .inl rfl⟩, d, a, true, f, hrd d a rfl, hf⟩
    case accwr d a =>
      obtain ⟨f, hf⟩ := exec_accwr d a s
      exact .inr ⟨⟨d, a, .inr rfl⟩, d, a, false, f, hwr d a rfl, hf⟩
    all_goals exact absurd hv Bool.false_ne_true
  obtain ⟨causes, f, hf⟩ | ⟨hi, d, a, write, f, hh, hf⟩ := hform
  · obtain ⟨code', info', h, hle⟩ := preTrapWith_of_preTrap [] (causes p) ht id id
    exact ⟨code', info', by rw [hf, State.issueChecked_trap hp hb hm h], hle⟩
  · obtain ⟨code', info', h, hle⟩ := preTrapWith_of_preTrap (if tdWide (s.uniform p a 1) then pairCauses d else []) [] ht
      (regRangeOf_rowOpnds hi (tdWide (s.uniform p a 1))) (stallShortOf_rowOpnds hi _)
    exact ⟨code', info', by rw [hf, State.issueRow_trap hp hb hm hh h], hle⟩

/-! ### The clauses of O21 -/

theorem trapsComeBeforeTheEffect : Claim.TrapsComeBeforeTheEffect := by
  unfold Claim.TrapsComeBeforeTheEffect
  intro s p i code info hw hp hb hm ht
  refine ⟨fun hv => ?_, fun hv hrd hwr => exec_byValue_trap hp hb hm ht hv hrd hwr⟩
  obtain ⟨f, hf⟩ := exec_issues s i hw hv
  rw [hf, State.issue_trap hp hb hm ht]

/-- Where no trap of the fields comes before, the causes that the values give decide. -/
theorem preTrapWith_of_clear {now : Nat} {p : Party} {i : Instr} {os : List Opnd} {more values : List Nat} {c : Nat} (h : preTrap now p i = none)
    (hc : lowest (more ++ if (regRangeOf p os).isSome then [] else values) = some c) :
    preTrapWith now p i os more values = some (0x01, c + (opcode i).toNat * 2 ^ 25) := by
  unfold preTrap at h
  unfold preTrapWith
  split at h
  · cases h
  · next hp =>
    cases hl : lowest (illegalCauses p.ty p.g.super i) with
    | some c => simp [hl] at h
    | none =>
      rw [if_neg hp, lowest_eq_none.mp hl]
      simp only [List.nil_append, hc, xIllegal]

theorem regRange_of_clear {now : Nat} {p : Party} {i : Instr} (h : preTrap now p i = none) : regRange p i = none := by
  unfold preTrap at h
  split at h
  · cases h
  · split at h
    · cases h
    · split at h
      · cases h
      · next hx => exact hx

theorem operandValuesTrapIllegal : Claim.OperandValuesTrapIllegal := by
  unfold Claim.OperandValuesTrapIllegal
  refine ⟨fun s p a k c hr hlane honce hc => ?_, fun s p d a i hi hr hwide => ?_⟩
  · obtain ⟨f, hf⟩ := exec_wrs a k s
    have hrange : regRangeOf p (opnds (.wrs a k)) = none := regRange_of_clear hr.clear
    have hpre : preTrapWith s.now p (.wrs a k) (opnds (.wrs a k)) [] (wrsCauses s a k p) = some (0x01, c + (opcode (.wrs a k)).toNat * 2 ^ 25) :=
      preTrapWith_of_clear hr.clear (by simp [hrange, wrsCauses, hlane, honce, hc])
    rw [hf, State.issueChecked_trap hr.party hr.free hr.unheld hpre]
  · have hill : ∀ c, lowest (pairCauses d) = some c → s.pairHeld p d (decide (i = .accrd d a)) = false →
        exec i s = .next (s.raise p 0x01 (c + (opcode i).toNat * 2 ^ 25)) := by
      intro c hc hh
      have hpre : preTrapWith s.now p i (rowOpnds i (tdWide (s.uniform p a 1))) (if tdWide (s.uniform p a 1) then pairCauses d else []) [] =
          some (0x01, c + (opcode i).toNat * 2 ^ 25) := preTrapWith_of_clear hr.clear (by simp [hwide, hc])
      rcases hi with rfl | rfl
      · obtain ⟨f, hf⟩ := exec_accrd d a s
        rw [hf, State.issueRow_trap hr.party hr.free hr.unheld (by simpa using hh) hpre]
      · obtain ⟨f, hf⟩ := exec_accwr d a s
        rw [hf, State.issueRow_trap hr.party hr.free hr.unheld (by simpa using hh) hpre]
    exact ⟨fun hk => hill 3 (by simp [pairCauses, hk, when, lowest]) (by simp [State.pairHeld, hk]),
      fun hk hodd hh => hill 4 (by simp [pairCauses, hk, hodd, when, lowest]) hh⟩

theorem unassignedOpcodesRejected : Claim.UnassignedOpcodesRejected := by
  unfold Claim.UnassignedOpcodesRejected
  intro w h
  have hlt : (opcodeOf w).toNat < 128 := (opcodeOf w).isLt
  unfold decode
  generalize (opcodeOf w).toNat = n at h hlt
  rcases h with h | h
  · fin_cases h <;> rfl
  · interval_cases n <;> rfl
theorem noInstructionTrapsIllegal : Claim.NoInstructionTrapsIllegal := by
  unfold Claim.NoInstructionTrapsIllegal
  intro s p cause op hp
  have hx : exec (.illegalInstruction cause op) s = execIllegalInstruction cause op s := rfl
  rw [hx, execIllegalInstruction, hp]
  rfl
theorem privilegedTrapsInUserMode : Claim.PrivilegedTrapsInUserMode := by
  unfold Claim.PrivilegedTrapsInUserMode
  intro now p i
  refine ⟨fun hi hs => by simp [preTrap, hi, hs, xPrivileged], fun h info => ?_, fun _ _ => ⟨rfl, rfl, rfl, rfl⟩, rfl, fun _ _ => rfl, fun _ _ => rfl,
    fun _ => ⟨rfl, rfl⟩, fun _ => rfl⟩
  have hn : (privileged i && !p.g.super) = false := by rcases h with h | h <;> simp [h]
  simp only [preTrap, hn, Bool.false_eq_true, if_false]
  split
  · simp [xIllegal]
  · split
    · simp [xRegRange]
    · split <;> simp [xStallShort]
theorem illegalAndRangeTrapsReport : Claim.IllegalAndRangeTrapsReport := by
  unfold Claim.IllegalAndRangeTrapsReport
  intro now p i hpr
  have hn : (privileged i && !p.g.super) = false := by
    cases h : privileged i <;> simp [hpr, h]
  simp only [preTrap, hn, Bool.false_eq_true, if_false]
  refine ⟨fun c hc => by simp [hc, xIllegal], fun o ho hl hk hr hother => ?_⟩
  have hfind : (opnds i).find? (fun o => kindOf o.reg == .v && decide (p.g.allot < o.reg.toNat + o.span.count p.ty)) = some o := by
    obtain ⟨o', hf⟩ : ∃ o', (opnds i).find? (fun o => kindOf o.reg == .v && decide (p.g.allot < o.reg.toNat + o.span.count p.ty)) = some o' :=
      Option.isSome_iff_exists.mp (List.find?_isSome.mpr ⟨o, ho, by simp [hk, hr]⟩)
    obtain rfl | h | h := hother o' (List.mem_of_find?_eq_some hf)
    · exact hf
    · have := List.find?_some hf
      simp [h] at this
    · have := List.find?_some hf
      simp at this
      omega
  simp [hl, regRange, regRangeOf, hfind, xRegRange]

/-- Settles O21, clause by clause: every instruction word is issued (exec_issues), and a stricter check of its operands traps no later. -/
theorem trapsBeforeTheEffect : Obligations.TrapsBeforeTheEffect :=
  ⟨trapsComeBeforeTheEffect, operandValuesTrapIllegal, privilegedTrapsInUserMode, illegalAndRangeTrapsReport, noInstructionTrapsIllegal,
    unassignedOpcodesRejected⟩

end Sys2Proof.Machine
end

section
/-! SUPPORT. Traps at a boundary, and the turn's end (R150, R185, R344, R350). -/

namespace Sys2Proof.Machine
open Sys2Proof

variable {s : State} {core slot : Nat} {g : Gang}

/-- A pending PREEMPT at a boundary (R350). -/
theorem preemptTrap_cases (hg : s.gangAt core slot = some g) (hr : g.rolling = none) (hd : g.redo = false) :
    (g.pre.pending = false ∨ g.super = true ∨ g.awaitsRestore = true ∨ g.trap.isSome = true ∨ g.late ≠ [] →
      exec (.preemptTrap core slot) s = .next s) ∧
    (g.pre.pending = true → g.super = false → g.awaitsRestore = false → g.trap = none → g.late = [] →
      (g.busyHold = true → exec (.preemptTrap core slot) s = .next (s.at (s.now + 1) (.preemptTrap core slot))) ∧
      (g.busyHold = false → exec (.preemptTrap core slot) s = .next
        (s.takeTrap core slot ⟨0x08, 0, g.boundaryPc.1, g.boundaryPc.2, none⟩))) := by
  have hx : exec (.preemptTrap core slot) s = execPreemptTrap core slot s := rfl
  rw [hx, execPreemptTrap, hg]
  dsimp only
  refine ⟨fun h => if_pos ?_, fun hp hs ha ht hl => ?_⟩
  · rcases h with h | h | h | h | h <;> simp [h]
  · have hno : (!g.pre.pending || g.super || g.awaitsRestore || g.trap.isSome || !g.late.isEmpty || g.rolling.isSome || g.redo) ≠ true := by
      simp [hp, hs, ha, ht, hl, hr, hd]
    rw [if_neg hno]
    exact ⟨fun hb => if_pos hb, fun hb => if_neg (by simp [hb])⟩

/-- A delayed trap at a boundary (R344, R347). -/
theorem lateTrap_cases (hg : s.gangAt core slot = some g) (hr : g.rolling = none) (hd : g.redo = false) {t : Trap} {bySuper : Bool}
    {rest : List (Trap × Bool)} (hl : g.late = (t, bySuper) :: rest) :
    (g.super = true → s.lateTrap core slot = if bySuper = true then s.killBlock g.blk 4 0x2D t.info.toNat else s) ∧
    (g.super = false → (g.awaitsRestore = true ∨ ∃ x, g.trap = some x ∧ x.code ≠ 0x08) → s.lateTrap core slot = s) ∧
    (g.super = false → g.awaitsRestore = false → (∀ x, g.trap = some x → x.code = 0x08) →
      s.lateTrap core slot = (s.modGang core slot fun g => { g with late := rest, trap := none }).takeTrap core slot
        { t with pc := g.boundaryPc.1, lead := g.boundaryPc.2 }) := by
  have hroll : (g.rolling.isSome || g.redo) = false := by simp [hr, hd]
  have hcode : ∀ c : BitVec 8, (c.toNat != xPreempt) = true ↔ c ≠ 0x08#8 := fun c => by
    simp only [bne_iff_ne, ne_eq, xPreempt, ← BitVec.toNat_inj]
    rfl
  simp only [State.lateTrap, hg, hl, hroll, Bool.false_eq_true, if_false]
  refine ⟨fun hs => by simp [hs, xNested], fun hs h => ?_, fun hs ha h => ?_⟩
  · have hstay : (g.awaitsRestore || g.trap.any fun x => x.code.toNat != xPreempt) = true := by
      rcases h with h | ⟨x, hx, hc⟩
      · simp [h]
      · exact Bool.or_eq_true_iff.mpr (.inr (by rw [hx]; exact (hcode x.code).mpr hc))
    simp [hs, hstay]
  · have hgo : (g.awaitsRestore || g.trap.any fun x => x.code.toNat != xPreempt) = false := by
      cases hx : g.trap with
      | none => simp [ha]
      | some x => simp [ha, h x hx, xPreempt]
    simp only [hs, hgo, Bool.false_eq_true, if_false]
    rw [State.modGang_eq _ hg, State.modGang_eq _ hg, hl]
    rfl

/-- The end of a turn sets the quarter's bit and no other (R150). -/
theorem schedulerTurnEnd_sched (s : State) (core quarter : Nat) (hlen : (s.coreAt core).sched.length = 4) :
    ∃ t : State, exec (.schedulerTurnEnd core quarter) s = .next t ∧
    ((t.coreAt core).sched.getD (quarter % 4) {}).ended = true ∧
    (∀ q, q ≠ quarter % 4 → (t.coreAt core).sched.getD q {} = (s.coreAt core).sched.getD q {}) ∧
    t = s.modCore core fun c => { c with sched := (t.coreAt core).sched } := by
  have hx : exec (.schedulerTurnEnd core quarter) s = execSchedulerTurnEnd core quarter s := rfl
  refine ⟨_, hx, ?_, fun q hq => ?_, ?_⟩
  · rw [State.coreAt_modCore_self]
    have hq : quarter % 4 < 4 := Nat.mod_lt _ (by decide)
    simp [setAt, List.getD_eq_getElem?_getD, hlen, hq]
  · rw [State.coreAt_modCore_self]
    simp [setAt, List.getD_eq_getElem?_getD, Ne.symm hq]
  · rw [State.coreAt_modCore_self]
    rfl

theorem boundaryTraps : Claim.BoundaryTraps := by
  unfold Claim.BoundaryTraps
  refine ⟨fun s core slot g hg hr hd => ?_, schedulerTurnEnd_sched⟩
  obtain ⟨hstay, htake⟩ := preemptTrap_cases hg hr hd
  refine ⟨hstay, htake, fun t bySuper rest hl i hi => ?_⟩
  have hx : exec i s = .next (s.lateTrap core slot) := by
    fin_cases hi <;> rfl
  obtain ⟨hsuper, hheld, hgo⟩ := lateTrap_cases hg hr hd hl
  rw [hx]
  exact ⟨fun h => by rw [hsuper h], fun h h' => by rw [hheld h h'], fun h h' h'' => by rw [hgo h h' h'']⟩

end Sys2Proof.Machine
end

section
/-! SUPPORT. The clock, the blocks and the poisoned lines: what the caches, a core's operations and a device's writes leave alone. -/

namespace Sys2Proof.Machine
open Sys2Proof

/-- The clock, the blocks and the poisoned lines of a state. -/
def State.book (s : State) : Nat × List Block × List Nat := (s.now, s.blocks, s.poison)

theorem State.now_of_book {s t : State} (h : t.book = s.book) : t.now = s.now := congrArg Prod.fst h
theorem State.blocks_of_book {s t : State} (h : t.book = s.book) : t.blocks = s.blocks := congrArg (·.2.1) h
theorem State.poison_of_book {s t : State} (h : t.book = s.book) : t.poison = s.poison := congrArg (·.2.2) h

variable {s : State}

@[simp] theorem foldl_book {α : Type} {f : State → α → State} (l : List α) (hf : ∀ s x, (f s x).book = s.book) : (l.foldl f s).book = s.book := by
  induction l generalizing s with
  | nil => rfl
  | cons x l ih => exact ih.trans (hf s x)

/-! ### The shared operations -/

@[simp] theorem State.modCore_book (k : Nat) (f : Core → Core) : (s.modCore k f).book = s.book := rfl
@[simp] theorem State.at_book (c : Nat) (e : Instr) : (s.at c e).book = s.book := rfl
@[simp] theorem State.later_book (e : Instr) : (s.later e).book = s.book := rfl
@[simp] theorem State.bump_book : s.bump.book = s.book := rfl

@[simp] theorem State.modGang_book (core slot : Nat) (f : Gang → Gang) : (s.modGang core slot f).book = s.book := by
  unfold State.modGang
  split
  · rfl
  · rw [State.modCore_book]

theorem OnlyAgenda.book {t : State} (h : OnlyAgenda s t) : t.book = s.book := by rw [h]; rfl

@[simp] theorem State.wake_book (core : Nat) : (s.wake core).book = s.book := (State.wake_onlyAgenda s core).book

/-! ### Lines and their homes -/

@[simp] theorem State.modSlice_book (die line : Nat) (f : Slice → Slice) : (s.modSlice die line f).book = s.book := rfl
@[simp] theorem State.modLine_book (die line : Nat) (f : L2Line → L2Line) : (s.modLine die line f).book = s.book := rfl
@[simp] theorem State.memDrop_book (die line : Nat) : (s.memDrop die line).book = s.book := rfl

@[simp] theorem State.setHomeByte_book (va : Nat) (b : Byte) : (s.setHomeByte va b).book = s.book := by
  unfold State.setHomeByte
  split
  · rfl
  · dsimp only
    split <;> rfl

@[simp] theorem State.setHomeBytes_book (va : Nat) (bs : List Byte) : (s.setHomeBytes va bs).book = s.book :=
  foldl_book _ fun _ _ => State.setHomeByte_book _ _

@[simp] theorem State.recallOwner_book (die line : Nat) : (s.recallOwner die line).book = s.book := by
  unfold State.recallOwner
  split
  · rfl
  · rw [State.modCore_book]
    split <;> simp

@[simp] theorem State.dropCopy_book (core line : Nat) : (s.dropCopy core line).book = s.book := by
  unfold State.dropCopy
  rw [State.modCore_book]
  split <;> simp

@[simp] theorem State.dropCopies_book (cores : List Nat) (line : Nat) : (s.dropCopies cores line).book = s.book :=
  foldl_book _ fun _ _ => State.dropCopy_book _ _

@[simp] theorem State.acked_book (w : SliceWait) : (s.acked w).book = s.book := by
  unfold State.acked
  split
  · rfl
  · rfl
  · split <;> rfl
  · rfl

@[simp] theorem State.revokeLine_book (die line : Nat) : (s.revokeLine die line).book = s.book := by
  unfold State.revokeLine
  split
  · rfl
  · rw [foldl_book _ fun _ _ => State.acked_book _, State.modLine_book]
    split <;> simp

@[simp] theorem State.evictLine_book (die line : Nat) : (s.evictLine die line).book = s.book := by
  have h : ((s.recallOwner die line).revokeLine die line).book = s.book := by simp
  unfold State.evictLine
  dsimp only
  split
  · exact h
  · rw [State.modSlice_book, State.memDrop_book]
    split <;> simp

@[simp] theorem State.flushLine_book (line : Nat) : (s.flushLine line).book = s.book := by
  unfold State.flushLine
  simp

@[simp] theorem State.invalidateRange_book (core lo hi : Nat) : (s.invalidateRange core lo hi).book = s.book :=
  foldl_book _ fun _ _ => State.dropCopy_book _ _

/-! ### A device's writes -/

@[simp] theorem State.counterChanged_book (line : Nat) : (s.counterChanged line).book = s.book := by
  refine foldl_book _ fun t c => foldl_book _ fun t g => ?_
  dsimp only
  split
  · rfl
  · rw [foldl_book _ fun _ _ => State.at_book _ _, State.modGang_book]

@[simp] theorem State.devWrite_book (va : Nat) (bs : List Byte) : (s.devWrite va bs).book = s.book := by
  unfold State.devWrite
  simp

@[simp] theorem State.devWrite32_book (va v : Nat) : (s.devWrite32 va v).book = s.book := by
  rw [State.devWrite32, State.devWrite_book]

theorem State.appendRing_book {r : Addr} {size : Nat} {bs : List Byte} {t : State} (h : s.appendRing r size bs = some t) : t.book = s.book := by
  unfold State.appendRing at h
  dsimp only at h
  split at h
  · cases h
  · cases h
    simp

@[simp] theorem State.supRing_book (domain : Nat) (last : Option Nat) : (s.supRing domain last).book = s.book := by
  unfold State.supRing
  split <;> rfl

theorem State.withPr_book (pr : PkgRegs) : ({ s with pr := pr } : State).book = s.book := rfl

@[simp] theorem State.errorRecord_book (kind : Nat) (fs : List Nat) : (s.errorRecord kind fs).book = s.book := by
  unfold State.errorRecord
  split
  · rfl
  · dsimp only
    split
    · next t ht => rw [State.withPr_book, State.supRing_book, State.appendRing_book ht]
    · rw [State.devWrite32_book]

/-! ### A block's end -/

@[simp] theorem State.freeSlot_book (core slot blk : Nat) : (s.freeSlot core slot blk).book = s.book := by
  unfold State.freeSlot
  simp

@[simp] theorem State.discard_book (core : Nat) (p : LeatEntry → Bool) : (s.discard core p).book = s.book := by
  unfold State.discard
  dsimp only
  split
  · rfl
  · rw [State.wake_book, foldl_book _ fun _ _ => State.at_book _ _]
    rfl

@[simp] theorem State.dropHandler_book (core slot : Nat) : (s.dropHandler core slot).book = s.book := rfl
@[simp] theorem State.leaveEngines_book (core slot : Nat) : (s.leaveEngines core slot).book = s.book := rfl

@[simp] theorem State.dropSavedHandler_book (key : Nat) : (s.dropSavedHandler key).book = s.book := by
  unfold State.dropSavedHandler
  split
  · rfl
  · split <;> rfl

/-- A dropped block is a block no longer, and the others stay. -/
theorem State.dropBlock_blocks (key : Nat) : (s.dropBlock key).blocks = s.blocks.filter (·.key != key) := by
  unfold State.dropBlock
  refine congrArg (List.filter (·.key != key)) (State.blocks_of_book ?_)
  rw [State.dropSavedHandler_book, foldl_book _ fun _ _ => ?engines, foldl_book _ fun _ _ => State.discard_book _ _]
  case engines => rw [State.leaveEngines_book, State.dropHandler_book]
  exact (foldl_book _ fun _ _ => State.freeSlot_book _ _ _).trans (foldl_book _ fun _ _ => State.modCore_book _ _)

/-- A kill leaves no block of its key. -/
theorem State.killBlock_blocks {key status code info : Nat} {b : Block} (hb : s.blockAt key = some b) :
    ∀ x ∈ (s.killBlock key status code info).blocks, x.key ≠ key := by
  have hdrop : ∀ (l : List Block) (t : State), (∀ x ∈ t.blocks, x.key ≠ key) →
      ∀ x ∈ (l.foldl (fun s m => s.dropBlock m.key) t).blocks, x.key ≠ key := by
    intro l
    induction l with
    | nil => exact fun _ h => h
    | cons m l ih => exact fun t h => ih _ fun x hx => h x (List.mem_of_mem_filter (by rwa [State.dropBlock_blocks] at hx))
  unfold State.killBlock
  rw [hb]
  refine hdrop _ _ fun x hx => ?_
  rw [State.dropBlock_blocks] at hx
  simpa using (List.mem_filter.mp hx).2

end Sys2Proof.Machine
end

section
/-! SUPPORT. Rollback of a block that is one gang (R39, R172 to R175, R379, R380). -/

namespace Sys2Proof.Machine
open Sys2Proof

variable {s t : State} {core slot key : Nat} {g h : Gang} {P : Gang → Prop}

/-! ### The gangs of a block, all in one slot -/

/-- Every gang of a block, over all the cores listed, stands in one slot of one core, and has a property. -/
def GangsAt (s : State) (core slot key : Nat) (P : Gang → Prop) : Prop :=
  ∀ k c, (k, c) ∈ s.cores → ∀ j x, (j, x) ∈ c.gangs → x.blk = key → k = core ∧ j = slot ∧ P x

theorem State.mem_gangsOf {k j : Nat} {x : Gang} : (k, j, x) ∈ s.gangsOf key ↔ ∃ c, (k, c) ∈ s.cores ∧ (j, x) ∈ c.gangs ∧ x.blk = key := by
  simp only [State.gangsOf, List.mem_flatMap, List.mem_map, List.mem_filter, Prod.exists, Prod.mk.injEq, beq_iff_eq]
  constructor
  · rintro ⟨k', c, hc, j', x', ⟨hx, hk⟩, rfl, rfl, rfl⟩
    exact ⟨c, hc, hx, hk⟩
  · rintro ⟨c, hc, hx, hk⟩
    exact ⟨k, c, hc, j, x, ⟨hx, hk⟩, rfl, rfl, rfl⟩

theorem Kv.mem_of_get? {α : Type} {m : List (Nat × α)} {k : Nat} {v : α} (h : Kv.get? m k = some v) : (k, v) ∈ m := by
  induction m with
  | nil => cases h
  | cons e m ih =>
    obtain ⟨a, u⟩ := e
    rw [Kv.get?] at h
    split at h
    · next ha =>
      cases h
      subst ha
      exact List.mem_cons_self
    · exact List.mem_cons_of_mem _ (ih h)

theorem Kv.mem_put {α : Type} {m : List (Nat × α)} {k j : Nat} {u v : α} (h : (j, u) ∈ Kv.put m k v) : (j = k ∧ u = v) ∨ (j, u) ∈ m := by
  induction m with
  | nil => simpa [Kv.put] using h
  | cons e m ih =>
    obtain ⟨a, x⟩ := e
    rw [Kv.put] at h
    split at h
    · simpa using h
    · split at h
      · simp only [List.mem_cons, Prod.mk.injEq] at h ⊢
        exact h.imp_right .inr
      · rcases List.mem_cons.mp h with h | h
        · exact .inr (h ▸ List.mem_cons_self)
        · exact (ih h).imp_right (List.mem_cons_of_mem _)

/-- A core that is not listed has no gang. -/
theorem State.mem_cores_of_gang {k j : Nat} {x : Gang} (h : (j, x) ∈ (s.coreAt k).gangs) : (k, s.coreAt k) ∈ s.cores := by
  unfold State.coreAt at h ⊢
  cases hc : Kv.get? s.cores k with
  | none => simp [hc] at h
  | some c => exact Kv.mem_of_get? hc

theorem State.mem_gangsOf_of_gangAt (hg : s.gangAt core slot = some g) : (core, slot, g) ∈ s.gangsOf g.blk :=
  State.mem_gangsOf.mpr ⟨_, State.mem_cores_of_gang (Kv.mem_of_get? hg), Kv.mem_of_get? hg, rfl⟩

theorem GangsAt.of_gangsOf (h : s.gangsOf key = [(core, slot, g)]) (hP : P g) : GangsAt s core slot key P := by
  intro k c hc j x hx hk
  have hm : (k, j, x) ∈ s.gangsOf key := State.mem_gangsOf.mpr ⟨c, hc, hx, hk⟩
  simp only [h, List.mem_singleton, Prod.mk.injEq] at hm
  obtain ⟨rfl, rfl, rfl⟩ := hm
  exact ⟨rfl, rfl, hP⟩

theorem GangsAt.mem {x : Nat × Nat × Gang} (h : GangsAt s core slot key P) (hx : x ∈ s.gangsOf key) : x.1 = core ∧ x.2.1 = slot ∧ P x.2.2 := by
  obtain ⟨k, j, y⟩ := x
  obtain ⟨c, hc, hy, hk⟩ := State.mem_gangsOf.mp hx
  exact h k c hc j y hy hk

theorem GangsAt.imp {Q : Gang → Prop} (h : GangsAt s core slot key P) (hPQ : ∀ x, P x → Q x) : GangsAt s core slot key Q := by
  intro k c hc j x hx hk
  obtain ⟨h1, h2, h3⟩ := h k c hc j x hx hk
  exact ⟨h1, h2, hPQ x h3⟩

theorem GangsAt.of_cores (h : GangsAt s core slot key P) (hc : t.cores = s.cores) : GangsAt t core slot key P := by
  unfold GangsAt
  rwa [hc]

theorem GangsAt.modCore (h : GangsAt s core slot key P) (k : Nat) {f : Core → Core} (hf : ∀ c, (f c).gangs = c.gangs) :
    GangsAt (s.modCore k f) core slot key P := by
  intro k' c hc j x hx hk
  rcases Kv.mem_put hc with ⟨rfl, rfl⟩ | hc
  · rw [hf] at hx
    exact h _ _ (State.mem_cores_of_gang hx) j x hx hk
  · exact h k' c hc j x hx hk

theorem GangsAt.mapCores (h : GangsAt s core slot key P) {f : Nat × Core → Core} (hf : ∀ x, (f x).gangs = x.2.gangs) :
    GangsAt { s with cores := s.cores.map fun x => (x.1, f x) } core slot key P := by
  intro k c hc j x hx hk
  obtain ⟨⟨k', c'⟩, hc', he⟩ := List.mem_map.mp hc
  simp only [Prod.mk.injEq] at he
  obtain ⟨rfl, rfl⟩ := he
  rw [hf] at hx
  exact h k' c' hc' j x hx hk

theorem GangsAt.modGang (h : GangsAt s core slot key P) {f : Gang → Gang} (hf : ∀ x, P x → P (f x)) (hb : ∀ x, (f x).blk = x.blk) :
    GangsAt (s.modGang core slot f) core slot key P := by
  cases hg : s.gangAt core slot with
  | none => rwa [State.modGang_none f hg]
  | some g =>
    rw [State.modGang_eq f hg]
    intro k c hc j x hx hk
    rcases Kv.mem_put hc with ⟨rfl, rfl⟩ | hc
    · rcases Kv.mem_put hx with ⟨rfl, rfl⟩ | hx
      · exact ⟨rfl, rfl, hf g (h _ _ (State.mem_cores_of_gang (Kv.mem_of_get? hg)) _ g (Kv.mem_of_get? hg) (by rwa [hb] at hk)).2.2⟩
      · exact h _ _ (State.mem_cores_of_gang hx) j x hx hk
    · exact h k c hc j x hx hk

/-! ### What the steps of a rollback keep -/

/-- Every lane copy, LDX, MMA and tile move of a gang has landed, in the core's own lists (R39). -/
def Core.landed (c : Core) (slot blk : Nat) : Bool :=
  c.works.all (fun w => w.slot != slot || w.blk != blk || w.rticket.isSome)
    && c.mmas.all (fun m => m.slot != slot || m.blk != blk)
    && c.moves.all fun m => m.slot != slot || m.blk != blk

theorem State.landed_eq (s : State) (core slot blk : Nat) : s.landed core slot blk = (s.coreAt core).landed slot blk := rfl

/-- The keys of the blocks stay, what has landed has, and the block's gangs stand where they stood. -/
structure RollKeeps (core slot key : Nat) (s t : State) : Prop where
  keys : t.blocks.map (·.key) = s.blocks.map (·.key)
  landed : t.landed core slot key = s.landed core slot key
  gangs : GangsAt s core slot key (fun _ => True) → GangsAt t core slot key (fun _ => True)

theorem RollKeeps.refl (s : State) : RollKeeps core slot key s s := ⟨rfl, rfl, id⟩

theorem RollKeeps.trans {u : State} (h : RollKeeps core slot key s t) (h' : RollKeeps core slot key t u) : RollKeeps core slot key s u :=
  ⟨h'.keys.trans h.keys, h'.landed.trans h.landed, fun hg => h'.gangs (h.gangs hg)⟩

theorem RollKeeps.foldl {α : Type} {f : State → α → State} (hf : ∀ s x, RollKeeps core slot key s (f s x)) (l : List α) (s : State) :
    RollKeeps core slot key s (l.foldl f s) := by
  induction l generalizing s with
  | nil => exact .refl s
  | cons x l ih => exact (hf s x).trans (ih _)

theorem RollKeeps.of_cores (hc : t.cores = s.cores) (hb : t.blocks.map (·.key) = s.blocks.map (·.key)) : RollKeeps core slot key s t :=
  ⟨hb, by rw [State.landed_eq, State.landed_eq, State.coreAt_of_cores hc], fun h => h.of_cores hc⟩

theorem RollKeeps.at (s : State) (c : Nat) (e : Instr) : RollKeeps core slot key s (s.at c e) := .of_cores rfl rfl

theorem RollKeeps.modCore (s : State) (k : Nat) {f : Core → Core} (hg : ∀ c, (f c).gangs = c.gangs)
    (hl : ∀ c, (f c).landed slot key = c.landed slot key) : RollKeeps core slot key s (s.modCore k f) where
  keys := rfl
  landed := by
    rw [State.landed_eq, State.landed_eq]
    by_cases hk : core = k
    · subst hk
      rw [State.coreAt_modCore_self, hl]
    · rw [State.coreAt_modCore_ne _ _ hk]
  gangs h := h.modCore k hg

theorem State.coreAt_mapCores (s : State) (f : Nat × Core → Core) (k : Nat) (hf : f (k, {}) = {}) :
    ({ s with cores := s.cores.map fun x => (x.1, f x) } : State).coreAt k = f (k, s.coreAt k) := by
  have hget : ∀ m : List (Nat × Core), Kv.get? (m.map fun x => (x.1, f x)) k = (Kv.get? m k).map fun c => f (k, c) := by
    intro m
    induction m with
    | nil => rfl
    | cons e m ih =>
      obtain ⟨a, c⟩ := e
      simp only [List.map_cons, Kv.get?]
      split
      · next ha => simp [ha]
      · exact ih
  simp only [State.coreAt, hget]
  cases Kv.get? s.cores k with
  | none => exact hf.symm
  | some c => rfl

theorem RollKeeps.mapCores (s : State) {f : Nat × Core → Core} (hg : ∀ x, (f x).gangs = x.2.gangs) (h0 : f (core, {}) = {})
    (hl : ∀ c, (f (core, c)).landed slot key = c.landed slot key) :
    RollKeeps core slot key s { s with cores := s.cores.map fun x => (x.1, f x) } where
  keys := rfl
  landed := by rw [State.landed_eq, State.landed_eq, State.coreAt_mapCores s f core h0, hl]
  gangs h := h.mapCores hg

theorem RollKeeps.modGang (s : State) {f : Gang → Gang} (hb : ∀ x, (f x).blk = x.blk) : RollKeeps core slot key s (s.modGang core slot f) where
  keys := by rw [State.modGang_blocks]
  landed := by
    cases hg : s.gangAt core slot with
    | none => rw [State.modGang_none f hg]
    | some g =>
      rw [State.modGang_eq f hg, State.landed_eq, State.landed_eq, State.coreAt_modCore_self]
      rfl
  gangs h := h.modGang (fun _ _ => trivial) hb

theorem RollKeeps.agenda (h : OnlyAgenda s t) : RollKeeps core slot key s t := .of_cores h.cores (by rw [h.blocks])

/-! ### Waits, loads and entries go -/

/-- The waits of table changes and of the allocator stand in no core. -/
theorem RollKeeps.withWaits (h : RollKeeps core slot key s t) (tables : List TableChange) (kvq : List KvReq) (kvWait : List ResumeWait) :
    RollKeeps core slot key s { t with tables := tables, kvWait := kvWait, kvq := kvq } := h.trans (.of_cores rfl rfl)

theorem State.dropWaits_keeps (s : State) : RollKeeps core slot key s (s.dropWaits core slot) := by
  unfold State.dropWaits
  split
  · exact .refl s
  · dsimp only
    refine .withWaits ?_ _ _ _
    refine .trans ?_ (.modCore _ core (fun _ => rfl) fun _ => rfl)
    exact .modGang s fun _ => rfl

theorem State.cancelLoads_keeps (s : State) : RollKeeps core slot key s (s.cancelLoads core slot) := by
  unfold State.cancelLoads
  split
  · exact .refl s
  · dsimp only
    refine .trans ?_ (.modCore _ core (fun _ => rfl) fun _ => rfl)
    exact .modGang s fun _ => rfl

theorem State.discard_keeps (s : State) (k : Nat) (p : LeatEntry → Bool) : RollKeeps core slot key s (s.discard k p) := by
  unfold State.discard
  dsimp only
  split
  · exact .refl s
  · refine .trans ?_ (.agenda (State.wake_onlyAgenda _ k))
    refine .trans ?_ (.foldl (fun _ _ => .at _ _ _) _ _)
    refine .trans ?_ (.modCore _ k (fun _ => rfl) fun _ => rfl)
    refine .trans ?_ (.modCore _ k (fun _ => rfl) fun _ => rfl)
    refine .trans ?_ (.modCore _ k (fun _ => rfl) fun _ => rfl)
    refine .mapCores s (fun _ => rfl) rfl fun c => ?_
    simp only [Core.landed, List.all_map]
    rfl

theorem State.gangAt_mapCores (s : State) {f : Nat × Core → Core} (hf : f (core, {}) = {}) (hg : ∀ c, (f (core, c)).gangs = c.gangs) :
    ({ s with cores := s.cores.map fun x => (x.1, f x) } : State).gangAt core slot = s.gangAt core slot := by
  unfold State.gangAt Core.gangAt
  rw [State.coreAt_mapCores s f core hf, hg]

theorem State.gangAt_discard (s : State) (k : Nat) (p : LeatEntry → Bool) : (s.discard k p).gangAt core slot = s.gangAt core slot := by
  unfold State.discard
  dsimp only
  split
  · rfl
  · rw [State.gangAt_of_cores (State.wake_onlyAgenda _ k).cores,
      State.gangAt_of_cores (OnlyAgenda.foldl (fun s a => OnlyAgenda.at s _ _) _ _).cores]
    rw [State.gangAt_modCore _ _ ?reverted, State.gangAt_modCore _ _ ?asked, State.gangAt_modCore _ _ ?left, State.gangAt_mapCores _ ?absent ?noted]
    all_goals intros; rfl

/-- What is left of a gang once its issue stops: its waits and its loads are gone, and it is on its way to a mark (R39, R379). -/
def Gang.onWay (g : Gang) (pend : List Pend) (m : Mark) : Gang := { g with pend := pend, trap := none, rolling := some m, redo := false }

theorem State.gangAt_withWaits (s : State) (tables : List TableChange) (kvq : List KvReq) (kvWait : List ResumeWait) :
    ({ s with tables := tables, kvWait := kvWait, kvq := kvq } : State).gangAt core slot = s.gangAt core slot := rfl

theorem State.gangAt_dropWaits (hg : s.gangAt core slot = some g) : ∃ pend, (s.dropWaits core slot).gangAt core slot = some { g with pend := pend } := by
  unfold State.dropWaits
  rw [hg]
  dsimp only
  rw [State.gangAt_withWaits]
  rw [State.gangAt_modCore _ _ ?promos, State.gangAt_modGang_self, hg]
  case promos => exact fun _ => rfl
  exact ⟨_, rfl⟩

theorem State.gangAt_cancelLoads (hg : s.gangAt core slot = some g) :
    (s.cancelLoads core slot).gangAt core slot = some { g with pend := g.pend.filter fun d => !d.isLoad } := by
  unfold State.cancelLoads
  rw [hg]
  dsimp only
  rw [State.gangAt_modCore _ _ ?missed, State.gangAt_modGang_self, hg]
  case missed => exact fun _ => rfl
  rfl

/-- Issue of a gang that goes to a mark stops (R39, R174). -/
theorem State.gangAt_beginRoll (hg : s.gangAt core slot = some g) (m : Mark) :
    ∃ pend, (∀ d ∈ pend, d.isLoad = false) ∧ (s.beginRoll core slot (.mark m)).gangAt core slot = some (g.onWay pend m) := by
  obtain ⟨pend, hd⟩ := State.gangAt_dropWaits hg
  refine ⟨pend.filter fun d => !d.isLoad, fun d h => by simpa using (List.mem_filter.mp h).2, ?_⟩
  unfold State.beginRoll
  rw [hg]
  dsimp only
  rw [State.gangAt_modGang_self, State.gangAt_discard, State.gangAt_cancelLoads hd]
  rfl

theorem State.beginRoll_keeps (s : State) (t : RollTo) : RollKeeps core slot key s (s.beginRoll core slot t) := by
  unfold State.beginRoll
  split
  · exact .refl s
  · refine .trans ?_ (.modGang _ fun x => ?_)
    · exact ((State.dropWaits_keeps s).trans (State.cancelLoads_keeps _)).trans (State.discard_keeps _ _ _)
    · split <;> rfl

/-! ### The last steps -/

theorem foldl_cores {α : Type} {f : State → α → State} (hf : ∀ s x, (f s x).cores = s.cores) (l : List α) (s : State) :
    (l.foldl f s).cores = s.cores := by
  induction l generalizing s with
  | nil => rfl
  | cons x l ih => exact (ih _).trans (hf s x)

theorem State.sendGateAfter_cores (s : State) (b : Block) (delay k j gate : Nat) (after : List Nat) (chg : GateChange) :
    (s.sendGateAfter b delay k j gate after chg).cores = s.cores := rfl

theorem map_key_replaceFirst (p : Block → Bool) {f : Block → Block} (hf : ∀ b, (f b).key = b.key) (l : List Block) :
    (replaceFirst p f l).map (·.key) = l.map (·.key) := by
  induction l with
  | nil => rfl
  | cons b l ih =>
    rw [replaceFirst]
    split <;> simp [hf, ih]

theorem State.sendGateAfter_keeps (s : State) (b : Block) (delay k j gate : Nat) (after : List Nat) (chg : GateChange) :
    RollKeeps core slot key s (s.sendGateAfter b delay k j gate after chg) :=
  .of_cores rfl <| by
    have h := map_key_replaceFirst (·.key == b.key) (f := fun b => { b with gateIn := b.gateIn ++ [⟨s.now + delay, gate, k, j, after, chg⟩] })
      (fun _ => rfl) s.blocks
    exact h

/-- The bytes that go back to the gates change no gang but the record of the copies (R193). -/
theorem State.addBack_keeps (s : State) (m : Mark) : RollKeeps core slot key s (s.addBack core slot m) := by
  unfold State.addBack
  split
  · exact .refl s
  · refine .trans ?_ (.modGang _ fun _ => rfl)
    split
    · exact .refl s
    · exact .foldl (fun s c => State.sendGateAfter_keeps _ _ _ _ _ _ _ _) _ _

theorem State.gangAt_addBack (hg : s.gangAt core slot = some g) (m : Mark) :
    ∃ copied, (s.addBack core slot m).gangAt core slot = some { g with copied := copied } := by
  unfold State.addBack
  rw [hg]
  dsimp only
  rw [State.gangAt_modGang_self]
  refine ⟨g.copied.filter fun c => !decide (m.no ≤ c.1), ?_⟩
  split
  · rw [hg]
    rfl
  · rw [State.gangAt_of_cores (foldl_cores (fun _ _ => State.sendGateAfter_cores _ _ _ _ _ _ _ _) _ _), hg]
    rfl

theorem State.endRoll_keeps (s : State) (hg : s.gangAt core slot = some g) (hm : g.rolling.isSome = true ∨ g.redo = false) :
    RollKeeps core slot key s (s.endRoll core slot) := by
  unfold State.endRoll
  rw [hg]
  dsimp only
  cases hr : g.rolling with
  | some m =>
    dsimp only
    have h : RollKeeps core slot key s ((s.addBack core slot m).modGang core slot fun g => g.toMark m s.now) :=
      (State.addBack_keeps s m).trans (.modGang _ fun _ => rfl)
    split
    · exact ((h.trans (.at _ _ _)).trans (.at _ _ _)).trans (.at _ _ _)
    · exact (h.trans (.at _ _ _)).trans (.at _ _ _)
  | none =>
    have hd : g.redo = false := by simpa [hr] using hm
    simpa [hd] using RollKeeps.refl s

/-- The gang stands at its mark once its rollback ends (R39). -/
theorem State.gangAt_endRoll_mark {m : Mark} (hg : s.gangAt core slot = some g) (hr : g.rolling = some m) :
    ∃ copied, (s.endRoll core slot).gangAt core slot = some (({ g with copied := copied } : Gang).toMark m s.now) := by
  obtain ⟨copied, hc⟩ := State.gangAt_addBack hg m
  refine ⟨copied, ?_⟩
  unfold State.endRoll
  rw [hg]
  dsimp only
  rw [hr]
  dsimp only
  split <;> simp [hc, Gang.toMark]

/-- A gang that rolls nowhere stays. -/
theorem State.endRoll_idle (hg : s.gangAt core slot = some g) (hr : g.rolling = none) (hd : g.redo = false) : s.endRoll core slot = s := by
  unfold State.endRoll
  rw [hg]
  simp [hr, hd]

/-- What every turn of a loop whose elements name one slot does from the first turn on, the loop does. -/
theorem foldl_same_slot {β : Type} {A B : State → Prop} {f : State → Nat → Nat → β → State} {l : List (Nat × Nat × β)}
    (hl : ∀ x ∈ l, x.1 = core ∧ x.2.1 = slot) (hAB : ∀ t, ∀ x ∈ l, A t → B (f t core slot x.2.2)) (hBA : ∀ t, B t → A t) (hs : A s) (hne : l ≠ []) :
    B (l.foldl (fun s x => f s x.1 x.2.1 x.2.2) s) := by
  have hgo : ∀ (m : List (Nat × Nat × β)), (∀ x ∈ m, x ∈ l) → ∀ t, B t → B (m.foldl (fun s x => f s x.1 x.2.1 x.2.2) t) := by
    intro m
    induction m with
    | nil => exact fun _ t h => h
    | cons x m ih =>
      intro hm t h
      have hx := hm x List.mem_cons_self
      refine ih (fun y hy => hm y (List.mem_cons_of_mem _ hy)) _ ?_
      dsimp only
      rw [(hl x hx).1, (hl x hx).2]
      exact hAB t x hx (hBA t h)
  cases l with
  | nil => exact absurd rfl hne
  | cons x m =>
    refine hgo m (fun y hy => List.mem_cons_of_mem _ hy) _ ?_
    dsimp only
    rw [(hl x List.mem_cons_self).1, (hl x List.mem_cons_self).2]
    exact hAB s x List.mem_cons_self hs

/-- A gang at its mark is as R39 says. -/
theorem rolledBack_of_toMark {m : Mark} {pend : List Pend} {copied : List (Nat × Nat × Nat)} {now : Nat} (hp : ∀ d ∈ pend, d.isLoad = false)
    (hg : t.gangAt core slot = some (({ g.onWay pend m with copied := copied } : Gang).toMark m now)) : RolledBack t core slot g m := by
  refine ⟨_, hg, rfl, rfl, rfl, rfl, rfl, rfl, rfl, rfl, rfl, rfl, rfl, rfl, rfl, rfl, rfl, hp, ?_, fun q x hx => ?_⟩
  · simp [Gang.toMark]
  · simp [Gang.toMark, hx]

/-- From a state on, the block's gang is on its way to a mark, its loads cancelled. -/
def OnWayFrom (s : State) (core slot : Nat) (g : Gang) (m : Mark) (t : State) : Prop :=
  RollKeeps core slot g.blk s t ∧ ∃ pend, (∀ d ∈ pend, d.isLoad = false) ∧ t.gangAt core slot = some (g.onWay pend m)

/-- From a state on, the block's gang has come to a mark. -/
def AtMarkFrom (s : State) (core slot : Nat) (g : Gang) (m : Mark) (t : State) : Prop :=
  RollKeeps core slot g.blk s t ∧ ∃ pend copied now, (∀ d ∈ pend, d.isLoad = false) ∧
    t.gangAt core slot = some (({ g.onWay pend m with copied := copied } : Gang).toMark m now)

/-- A gang that is stopped again stops as the first time. -/
theorem OnWayFrom.beginRoll {m : Mark} {u : State} (h : t.gangAt core slot = some g ∨ OnWayFrom s core slot g m t)
    (hk : RollKeeps core slot g.blk s t) (hu : u = t.beginRoll core slot (.mark m)) : OnWayFrom s core slot g m u := by
  subst hu
  refine ⟨hk.trans (State.beginRoll_keeps _ _), ?_⟩
  obtain hg | ⟨-, pend, -, hg⟩ := h
  · exact (State.gangAt_beginRoll hg m).imp fun _ h => h
  · exact (State.gangAt_beginRoll hg m).imp fun _ h => h

/-- The last steps bring the gang to its mark, and leave it there. -/
theorem AtMarkFrom.endRoll {m : Mark} (h : OnWayFrom s core slot g m t ∨ AtMarkFrom s core slot g m t) :
    AtMarkFrom s core slot g m (t.endRoll core slot) := by
  obtain ⟨hk, pend, hp, hg⟩ | ⟨hk, pend, copied, now, hp, hg⟩ := h
  · obtain ⟨copied, hc⟩ := State.gangAt_endRoll_mark hg rfl
    exact ⟨hk.trans (State.endRoll_keeps t hg (.inl rfl)), pend, copied, t.now, hp, hc⟩
  · rw [State.endRoll_idle hg rfl rfl]
    exact ⟨hk, pend, copied, now, hp, hg⟩

/-- Once the block's gang is on its way and all has landed, the rollback brings it to its mark. -/
theorem OnWayFrom.rollOn {m : Mark} (h : OnWayFrom s core slot g m t) (hG : GangsAt s core slot g.blk fun _ => True)
    (hl : s.landed core slot g.blk = true) : AtMarkFrom s core slot g m (t.rollOn g.blk) := by
  obtain ⟨hk, pend, hp, hg⟩ := h
  have hpos : ∀ x ∈ (t.gangsOf g.blk).filter (fun g => g.2.2.rolling.isSome || g.2.2.redo), x.1 = core ∧ x.2.1 = slot := fun x hx =>
    have h := (hk.gangs hG).mem (List.mem_filter.mp hx).1
    ⟨h.1, h.2.1⟩
  have hall : ((t.gangsOf g.blk).filter fun g => g.2.2.rolling.isSome || g.2.2.redo).all (fun x => t.landed x.1 x.2.1 g.blk) = true :=
    List.all_eq_true.mpr fun x hx => by rw [(hpos x hx).1, (hpos x hx).2, hk.landed, hl]
  have hmem : (core, slot, g.onWay pend m) ∈ (t.gangsOf g.blk).filter fun g => g.2.2.rolling.isSome || g.2.2.redo :=
    List.mem_filter.mpr ⟨State.mem_gangsOf_of_gangAt hg, rfl⟩
  unfold State.rollOn
  rw [if_pos hall]
  exact foldl_same_slot (f := fun s k j _ => s.endRoll k j) (A := fun t => OnWayFrom s core slot g m t ∨ AtMarkFrom s core slot g m t)
    (B := AtMarkFrom s core slot g m) hpos (fun _ _ _ h => AtMarkFrom.endRoll h) (fun _ h => .inr h) (.inl ⟨hk, pend, hp, hg⟩)
    (List.ne_nil_of_mem hmem)

/-- The rollback of a block that is one gang, which goes to a mark with nothing of it under way: the block's gang stands at the mark, and the blocks
stay (R39, R379). -/
theorem State.rollBlock_mark {m : Mark} {strike : Bool} {code info : Nat} (hg : s.gangAt core slot = some g)
    (hG : GangsAt s core slot g.blk fun x => x.rollTo strike = .mark m) (hl : s.landed core slot g.blk = true) :
    AtMarkFrom s core slot g m (s.rollBlock g.blk strike code info) := by
  have hroll : ∀ x ∈ s.gangsOf g.blk, x.1 = core ∧ x.2.1 = slot ∧ x.2.2.rollTo strike = .mark m := fun x hx => hG.mem hx
  have hany : ¬ (s.gangsOf g.blk).any (fun x => x.2.2.rollTo strike == .none) = true := by
    simp only [List.any_eq_true, not_exists, not_and]
    exact fun x hx => by simp [(hroll x hx).2.2]
  unfold State.rollBlock
  dsimp only
  rw [if_neg hany]
  refine OnWayFrom.rollOn ?_ (hG.imp fun _ _ => trivial) hl
  have hstep : ∀ t, ∀ x ∈ s.gangsOf g.blk, (RollKeeps core slot g.blk s t ∧ (t.gangAt core slot = some g ∨ OnWayFrom s core slot g m t)) →
      OnWayFrom s core slot g m (t.beginRoll core slot (x.2.2.rollTo strike)) := by
    intro t x hx h
    rw [(hroll x hx).2.2]
    exact .beginRoll h.2 h.1 rfl
  exact foldl_same_slot (β := Gang) (f := fun s k j x => s.beginRoll k j (x.rollTo strike)) (B := OnWayFrom s core slot g m)
    (A := fun t => RollKeeps core slot g.blk s t ∧ (t.gangAt core slot = some g ∨ OnWayFrom s core slot g m t)) (fun x hx => ⟨(hroll x hx).1, (hroll x hx).2.1⟩) hstep
    (fun t h => ⟨h.1, .inr h⟩) ⟨.refl s, .inl hg⟩ (List.ne_nil_of_mem (State.mem_gangsOf_of_gangAt hg))

/-- A block with a gang that has nowhere to go is killed (R174, R175). -/
theorem State.rollBlock_none {strike : Bool} {code info : Nat} (hg : s.gangAt core slot = some g) (hr : g.rollTo strike = .none) :
    s.rollBlock g.blk strike code info = s.killBlock g.blk 4 code info :=
  if_pos (List.any_eq_true.mpr ⟨_, State.mem_gangsOf_of_gangAt hg, by simp [hr]⟩)

/-! ### The clauses -/

theorem AtMarkFrom.rolledBack {m : Mark} (h : AtMarkFrom s core slot g m t) :
    RolledBack t core slot g m ∧ t.blocks.map (·.key) = s.blocks.map (·.key) ∧ (t.gangAt core slot).map (·.eccOnce) = some g.eccOnce := by
  obtain ⟨hk, pend, copied, now, hp, hg⟩ := h
  exact ⟨rolledBack_of_toMark hp hg, hk.keys, by rw [hg]; rfl⟩

/-- Where a gang outside its PREEMPT and RESUME handlers goes. -/
theorem Gang.rollTo_eq (hs : g.inSave = false) (hr : g.inRestore = false) (strike : Bool) :
    g.rollTo strike = match (if strike then g.settled else g.mark) with | some m => .mark m | none => .none := by
  unfold Gang.rollTo
  rw [hs, hr]
  rfl

theorem Gang.rollTo_eccOnce (g : Gang) (strike : Bool) : ({ g with eccOnce := true } : Gang).rollTo strike = g.rollTo strike := rfl

/-- An error of DRAM poisons its line (R380). -/
theorem eccUncorrectable_dram {offset : Nat} {pg : Page} (hp : s.pageOf offset = some pg) (ht : pg.tier ≠ 2) :
    ∃ T : State, exec (.eccUncorrectable core slot 4 offset) s = .next T ∧ pg.poisonKey offset ∈ T.poison := by
  have hx : exec (.eccUncorrectable core slot 4 offset) s = execEccUncorrectable core slot 4 offset s := rfl
  refine ⟨s.poisonPlace pg offset, ?_, ?_⟩
  · rw [hx, execEccUncorrectable, if_pos rfl, hp]
    simp [ht]
  · unfold State.poisonPlace
    rw [State.poison_of_book (State.errorRecord_book _ _)]
    exact List.mem_cons_self

/-- Counting a strike changes no gang and nothing under way. -/
theorem countStrike_keeps (s : State) (high : Bool) : RollKeeps core slot key s (s.modCore core fun c => c.countStrike high) :=
  .modCore s core (fun _ => rfl) fun _ => rfl

theorem GangsAt.countStrike (h : GangsAt s core slot key P) (high : Bool) :
    GangsAt (s.modCore core fun c => c.countStrike high) core slot key P := h.modCore core fun _ => rfl

theorem gangAt_countStrike (s : State) (high : Bool) : (s.modCore core fun c => c.countStrike high).gangAt core slot = s.gangAt core slot :=
  State.gangAt_modCore s core (f := fun c => c.countStrike high) (fun _ => rfl) core slot

/-- The report of a strike of a quarter whose core holds one gang rolls that gang's block back (R172). -/
theorem strikeReport_eq {quarter : Nat} (hgs : (s.coreAt core).gangs = [(slot, g)]) (hq : quarterOf slot = quarter % 4) :
    ∃ info, exec (.strikeReport core quarter) s = .next ((s.modCore core fun c => c.countStrike false).rollBlock g.blk true 0x28 info) := by
  have hx : exec (.strikeReport core quarter) s = execStrikeReport core quarter s := rfl
  rw [hx, execStrikeReport]
  simp only [hgs, List.filter_cons, hq, beq_self_eq_true, if_true, List.filter_nil, List.map_cons, List.map_nil]
  exact ⟨_, rfl⟩

/-- A strike report (R172 to R174). -/
theorem strikeReport_rolls {quarter : Nat} {b : Block} (hgs : (s.coreAt core).gangs = [(slot, g)]) (hq : quarterOf slot = quarter % 4)
    (hof : s.gangsOf g.blk = [(core, slot, g)]) (hb : s.blockAt g.blk = some b) (hsave : g.inSave = false) (hrest : g.inRestore = false) :
    ∃ T : State, exec (.strikeReport core quarter) s = .next T ∧ (g.settled = none → ∀ x ∈ T.blocks, x.key ≠ g.blk) ∧
      (∀ m, g.settled = some m → s.landed core slot g.blk = true →
        RolledBack T core slot g m ∧ T.blocks.map (·.key) = s.blocks.map (·.key)) := by
  obtain ⟨info, hx⟩ := strikeReport_eq hgs hq
  have hg : (s.modCore core fun c => c.countStrike false).gangAt core slot = some g := by
    rw [gangAt_countStrike]
    simp [State.gangAt, Core.gangAt, hgs, Kv.get?]
  refine ⟨_, hx, fun hn => ?_, fun m hm hl => ?_⟩
  · rw [State.rollBlock_none hg (by simp [g.rollTo_eq hsave hrest, hn])]
    exact State.killBlock_blocks hb
  · have hto : g.rollTo true = .mark m := by simp [g.rollTo_eq hsave hrest, hm]
    obtain ⟨hback, hkeys, -⟩ := (State.rollBlock_mark (code := 0x28) (info := info) hg ((GangsAt.of_gangsOf hof hto).countStrike false)
      (by rw [(countStrike_keeps s false).landed, hl])).rolledBack
    exact ⟨hback, hkeys⟩

/-- An uncorrectable error that the gang has consumed (R175, R176). -/
theorem eccUncorrectable_eq {store offset : Nat} (hs : store ≠ 4) (hg : s.gangAt core slot = some g) :
    ∃ (u : State) (info : Nat), (u = s ∨ u = s.modCore core fun c => c.countStrike true) ∧
      exec (.eccUncorrectable core slot store offset) s = .next (if g.eccOnce = true then u.killBlock g.blk 4 0x29 info
        else (u.modGang core slot fun g => { g with eccOnce := true }).rollBlock g.blk false 0x29 info) := by
  have hx : exec (.eccUncorrectable core slot store offset) s = execEccUncorrectable core slot store offset s := rfl
  rw [hx, execEccUncorrectable, if_neg hs, hg]
  refine ⟨if store < 2 then s.modCore core fun c => c.countStrike true else s, store % 8 + offset / 8 % 2 ^ 20 * 8, ?_, ?_⟩
  · split
    · exact .inr rfl
    · exact .inl rfl
  · exact (apply_ite Host.Outcome.next _ _ _).symm

theorem eccUncorrectable_rolls {store offset : Nat} {b : Block} (hs : store ≠ 4) (hgs : (s.coreAt core).gangs = [(slot, g)])
    (hof : s.gangsOf g.blk = [(core, slot, g)]) (hb : s.blockAt g.blk = some b) (hsave : g.inSave = false) (hrest : g.inRestore = false) :
    ∃ T : State, exec (.eccUncorrectable core slot store offset) s = .next T ∧ (g.eccOnce = true ∨ g.mark = none → ∀ x ∈ T.blocks, x.key ≠ g.blk) ∧
      (∀ m, g.eccOnce = false → g.mark = some m → s.landed core slot g.blk = true →
        RolledBack T core slot g m ∧ (T.gangAt core slot).map (·.eccOnce) = some true) := by
  have hg : s.gangAt core slot = some g := by simp [State.gangAt, Core.gangAt, hgs, Kv.get?]
  obtain ⟨u, info, hu, hx⟩ := eccUncorrectable_eq (offset := offset) hs hg
  have hk : RollKeeps core slot g.blk s u := by
    obtain rfl | rfl := hu
    · exact .refl _
    · exact countStrike_keeps s true
  have hgu : u.gangAt core slot = some g := by
    obtain rfl | rfl := hu
    · exact hg
    · exact (gangAt_countStrike s true).trans hg
  have hbu : u.blockAt g.blk = some b := by
    obtain rfl | rfl := hu <;> exact hb
  have hG : ∀ m, g.mark = some m → GangsAt u core slot g.blk fun x => x.rollTo false = .mark m := by
    intro m hm
    have h := GangsAt.of_gangsOf (P := fun x => x.rollTo false = .mark m) hof (by simp [g.rollTo_eq hsave hrest, hm])
    obtain rfl | rfl := hu
    · exact h
    · exact h.countStrike true
  have hgm : (u.modGang core slot fun g => { g with eccOnce := true }).gangAt core slot = some { g with eccOnce := true } := by
    rw [State.gangAt_modGang_self, hgu]
    rfl
  refine ⟨_, hx, fun h => ?_, fun m ho hm hl => ?_⟩
  · split
    · exact State.killBlock_blocks hbu
    · next ho =>
      have hn : g.mark = none := h.resolve_left ho
      have hto : g.rollTo false = .none := by simp [g.rollTo_eq hsave hrest, hn]
      have hkill := State.rollBlock_none (code := 0x29) (info := info) hgm (g.rollTo_eccOnce false ▸ hto)
      rw [hkill]
      exact State.killBlock_blocks (b := b) ((congrArg (List.find? _) (State.modGang_blocks u core slot _)).trans hbu)
  · rw [if_neg (by simp [ho])]
    obtain ⟨hback, -, honce⟩ := (State.rollBlock_mark (code := 0x29) (info := info) hgm ((hG m hm).modGang (fun _ h => h) fun _ => rfl)
      (by rw [(RollKeeps.modGang u (f := fun g => { g with eccOnce := true }) fun _ => rfl).landed, hk.landed, hl])).rolledBack
    exact ⟨hback, honce⟩

theorem rollbacksRestoreTheMark : Claim.RollbacksRestoreTheMark := by
  unfold Claim.RollbacksRestoreTheMark
  intro s core slot quarter store offset g b hgs hq hof hb hsave hrest
  exact ⟨fun pg hp ht => eccUncorrectable_dram hp ht, strikeReport_rolls hgs hq hof hb hsave hrest,
    fun hs => eccUncorrectable_rolls hs hgs hof hb hsave hrest⟩

/-- Settles O56: boundaryTraps by the cases of the two functions, and the rollback by what each of its steps keeps (RollKeeps). -/
theorem boundariesAndRollback : Obligations.BoundariesAndRollback := ⟨boundaryTraps, rollbacksRestoreTheMark⟩

end Sys2Proof.Machine
end

section
/-! SUPPORT. Bay conversions and pre-emption requests (R154, R157, R349, R359). -/

namespace Sys2Proof.Machine
open Sys2Proof

variable {s : State}

/-! ### Bays -/

/-- Two bits each, the kinds of the bays make a number below four to their count. -/
def kindsVal (ks : List Nat) : Nat := ks.foldr (fun k v => k % 4 + 4 * v) 0

theorem kindsVal_lt (ks : List Nat) : kindsVal ks < 4 ^ ks.length := by
  induction ks with
  | nil => simp [kindsVal]
  | cons k ks ih =>
    have h : kindsVal (k :: ks) = k % 4 + 4 * kindsVal ks := rfl
    rw [h, List.length_cons, Nat.pow_succ]
    omega

theorem kindsVal_digit (ks : List Nat) (b : Nat) : kindsVal ks / 4 ^ b % 4 = ks.getD b 0 % 4 := by
  induction ks generalizing b with
  | nil => simp [kindsVal]
  | cons k ks ih =>
    have h : kindsVal (k :: ks) = k % 4 + 4 * kindsVal ks := rfl
    cases b with
    | zero => simp [h]
    | succ b =>
      rw [h, Nat.pow_succ', ← Nat.div_div_eq_div_mul, show (k % 4 + 4 * kindsVal ks) / 4 = kindsVal ks by omega, ih]
      simp

theorem kinds_foldl_eq (ks : List Nat) (v n : Nat) :
    (ks.zipIdx n).foldl (fun v k => v + k.1 % 4 * 2 ^ (2 * k.2)) v = v + 4 ^ n * kindsVal ks := by
  induction ks generalizing v n with
  | nil => simp [kindsVal]
  | cons k ks ih =>
    have h : kindsVal (k :: ks) = k % 4 + 4 * kindsVal ks := rfl
    rw [List.zipIdx_cons, List.foldl_cons, ih, h, Nat.pow_mul, Nat.pow_succ]
    ring

/-- The map of the bays gives back the kinds it was made of. -/
theorem fld_kindsMap {ks : List Nat} (hlen : ks.length = 32) (b : Nat) :
    fld (kindsMap ks).toNat (2 * b + 1) (2 * b) = ks.getD b 0 % 4 := by
  have hlt := kindsVal_lt ks
  rw [hlen] at hlt
  have hv : (kindsMap ks).toNat = kindsVal ks := by
    unfold kindsMap
    rw [kinds_foldl_eq]
    simp [addr64]
    omega
  rw [hv, ← kindsVal_digit, fld, Nat.shiftRight_eq_div_pow, Nat.pow_mul, show 2 * b + 1 + 1 - 2 * b = 2 by omega]
  norm_num

theorem Core.bayKinds_getD (c : Core) {b : Nat} (hb : b < 32) : c.bayKinds.getD b 0 = fld c.baymap.toNat (2 * b + 1) (2 * b) := by
  simp [Core.bayKinds, List.getD_eq_getElem?_getD, hb]

theorem fld_pair_lt (v b : Nat) : fld v (2 * b + 1) (2 * b) < 4 := by
  rw [fld, show 2 * b + 1 + 1 - 2 * b = 2 by omega]
  exact Nat.mod_lt _ (by decide)

/-- The bays of a core have the kinds they are given. -/
theorem State.baymap_setBays (s : State) (core : Nat) (kinds : List Nat) : ((s.setBays core kinds).coreAt core).baymap = kindsMap kinds := by
  unfold State.setBays
  dsimp only
  rw [State.coreAt_modCore_self]

theorem baysConvert : Claim.BaysConvert := by
  unfold Claim.BaysConvert
  intro s core bay kind
  have hx : exec (.bayConversion core bay kind) s = execBayConversion core bay kind s := rfl
  rw [hx, execBayConversion]
  refine ⟨fun h => if_pos h, fun hbay hkind hpin hcache => ⟨s.setBays core ((s.coreAt core).bayKinds.set bay kind), if_neg ?_, fun b hb => ?_⟩⟩
  · simp only [hpin, Bool.false_eq_true, false_or]
    omega
  · have hlen : (s.coreAt core).bayKinds.length = 32 := by simp [Core.bayKinds]
    rw [State.baymap_setBays, fld_kindsMap (by simpa using hlen) b]
    by_cases h : b = bay
    · subst h
      simp [List.getD_eq_getElem?_getD, hlen, hb]
      omega
    · have hget : ((s.coreAt core).bayKinds.set bay kind).getD b 0 = (s.coreAt core).bayKinds.getD b 0 := by
        simp [List.getD_eq_getElem?_getD, List.getElem?_set_ne (Ne.symm h)]
      rw [hget, Core.bayKinds_getD _ hb, if_neg h, Nat.mod_eq_of_lt (fld_pair_lt ..)]

/-! ### Pre-emption requests -/

/-- Where no block may leave, none is asked to. -/
theorem State.preemptFor_none {l : Launch} {p : Block → Bool} (h : ∀ b ∈ s.blocks, p b = false) : s.preemptFor l p = s := by
  have hv : ∀ cores, s.blocks.filter (fun b => b.resident && b.inPlace l cores && p b) = [] := fun cores =>
    List.filter_eq_nil_iff.mpr fun b hb => by simp [h b hb]
  have hone : ∀ cores, s.fewest l cores (victimOrder (s.blocks.filter fun b => b.resident && b.inPlace l cores && p b)) = none := fun cores => by
    rw [hv]
    rfl
  unfold State.preemptFor
  simp [hone]

theorem preemptionRequest_cases {die : Nat} {l : Launch} {t0 : Nat} (hl : (s.heads die).find? (·.idx == l.idx) = some l) (hw : l.waitSince = some t0) :
    (s.now < t0 + 2048 → exec (.preemptionRequest die l.idx) s = .next (s.at (t0 + 2048) (.preemptionRequest die l.idx))) ∧
    (t0 + 2048 ≤ s.now →
      ((s.tryPlace [] l (s.clustersFor l)).isSome = true → exec (.preemptionRequest die l.idx) s = .next ((s.waitOver l.idx).at s.now (.placementStep die))) ∧
      (s.tryPlace [] l (s.clustersFor l) = none → (∀ b ∈ s.blocks, l.prio ≤ b.prio) →
        exec (.preemptionRequest die l.idx) s = .next { s with
          launches := replaceFirst (fun x => x.idx == l.idx) (fun x => { x with waitSince := none }) s.launches })) := by
  have hx : exec (.preemptionRequest die l.idx) s = execPreemptionRequest die l.idx s := rfl
  rw [hx, execPreemptionRequest, hl]
  dsimp only
  rw [hw]
  refine ⟨fun h => if_pos h, fun h => ⟨fun hp => ?_, fun hp hprio => ?_⟩⟩
  · dsimp only
    rw [if_neg (by omega), if_pos hp]
  · dsimp only
    rw [if_neg (by omega), if_neg (by simp [hp]), State.preemptFor_none fun b hb => by simpa using hprio b hb]
    rfl

theorem preemptionRequest_gone {die idx : Nat} (h : (s.heads die).find? (·.idx == idx) = none) : exec (.preemptionRequest die idx) s =
    .next { s with launches := replaceFirst (fun x => x.idx == idx) (fun x => { x with waitSince := none }) s.launches } := by
  have hx : exec (.preemptionRequest die idx) s = execPreemptionRequest die idx s := rfl
  rw [hx, execPreemptionRequest, h]
  rfl

theorem sliceTimeEnd_early {f : Nat} (h : ∀ e ∈ (s.funcAt f).sliceEnds, s.now < e.2) : exec (.sliceTimeEnd f) s = .next s := by
  have hx : exec (.sliceTimeEnd f) s = execSliceTimeEnd f s := rfl
  have hnone : (s.funcAt f).sliceEnds.filter (fun e => decide (e.2 ≤ s.now)) = [] :=
    List.filter_eq_nil_iff.mpr fun e he => by simpa using h e he
  rw [hx, execSliceTimeEnd, hnone]
  rfl

/-- The end of a slice for which no launch of another function waits. -/
theorem sliceTimeEnd_unclaimed {f len t0 : Nat} (hs : (s.funcAt f).sliceEnds = [(len, t0)]) (ht : t0 ≤ s.now)
    (hw : ∀ l ∈ s.heads 0 ++ s.heads 1, l.function ≠ f → (s.tryPlace [] l (s.clustersFor l)).isSome = true) :
    exec (.sliceTimeEnd f) s = .next (if ∃ l ∈ s.launches, l.function = f ∧ l.slice = len ∧ l.closing = false then
        State.at { s with funcs := Kv.put s.funcs f { s.funcAt f with sliceEnds := [(len, s.now + len)] } } (s.now + len) (.sliceTimeEnd f)
      else { s with funcs := Kv.put s.funcs f { s.funcAt f with sliceEnds := [] } }) := by
  have hx : exec (.sliceTimeEnd f) s = execSliceTimeEnd f s := rfl
  have hnone : (s.heads 0 ++ s.heads 1).filter (fun l => l.function != f && (s.tryPlace [] l (s.clustersFor l)).isNone) = [] :=
    List.filter_eq_nil_iff.mpr fun l hl => by
      by_cases hf : l.function = f
      · simp [hf]
      · simp [Option.isSome_iff_ne_none.mp (hw l hl hf)]
  have hgoes : s.launches.any (fun l => l.function == f && l.slice == len && !l.closing) = true ↔
      ∃ l ∈ s.launches, l.function = f ∧ l.slice = len ∧ l.closing = false := by simp [and_assoc]
  rw [hx, execSliceTimeEnd, hs]
  simp only [List.filter_cons, ht, decide_true, if_true, List.filter_nil, List.map_cons, List.map_nil, List.foldl_cons, List.foldl_nil]
  unfold State.endSlice
  dsimp only
  rw [hnone]
  simp only [List.foldl_nil, hs, bne_self_eq_false, List.filter_cons, Bool.false_eq_true, if_false, List.filter_nil, List.nil_append, hgoes]
  split <;> rfl

/-! ### The reclaim of a cluster -/

/-- A gang is asked to be saved, or is being saved. -/
def Gang.asked (g : Gang) : Prop := g.pre.pending = true ∨ g.pre.saving ≠ 0

/-- Between two states gangs have only been asked to be saved. -/
def AsksMore (s t : State) : Prop :=
  t.blocks = s.blocks ∧ ∀ core slot g, s.gangAt core slot = some g → ∃ h, t.gangAt core slot = some h ∧ h.blk = g.blk ∧ (g.asked → h.asked)

theorem AsksMore.refl (s : State) : AsksMore s s := ⟨rfl, fun _ _ g h => ⟨g, h, rfl, id⟩⟩

theorem AsksMore.trans {t u : State} (h : AsksMore s t) (h' : AsksMore t u) : AsksMore s u := by
  refine ⟨h'.1.trans h.1, fun core slot g hg => ?_⟩
  obtain ⟨x, hx, hxb, hxa⟩ := h.2 core slot g hg
  obtain ⟨y, hy, hyb, hya⟩ := h'.2 core slot x hx
  exact ⟨y, hy, hyb.trans hxb, hya ∘ hxa⟩

theorem AsksMore.foldl {α : Type} {f : State → α → State} (hf : ∀ s x, AsksMore s (f s x)) (l : List α) (s : State) : AsksMore s (l.foldl f s) := by
  induction l generalizing s with
  | nil => exact .refl s
  | cons x l ih => exact (hf s x).trans (ih _)

/-- The gang of a slot is asked, and belongs to a block. -/
def AskedAt (s : State) (core slot key : Nat) : Prop := ∃ h, s.gangAt core slot = some h ∧ h.blk = key ∧ h.asked

theorem AskedAt.mono {t : State} {core slot key : Nat} (h : AskedAt s core slot key) (ht : AsksMore s t) : AskedAt t core slot key := by
  obtain ⟨x, hx, hk, ha⟩ := h
  obtain ⟨y, hy, hyk, hya⟩ := ht.2 core slot x hx
  exact ⟨y, hy, hyk.trans hk, hya ha⟩

/-- A loop that only asks gangs leaves those asked that one of its turns asks. -/
theorem AskedAt.foldl {α : Type} {f : State → α → State} {core slot key : Nat} (hf : ∀ s x, AsksMore s (f s x)) {l : List α} {x : α} (hx : x ∈ l)
    (hask : ∀ t, AsksMore s t → AskedAt (f t x) core slot key) : AskedAt (l.foldl f s) core slot key := by
  obtain ⟨l₁, l₂, rfl⟩ := List.append_of_mem hx
  rw [List.foldl_append, List.foldl_cons]
  exact (hask _ (.foldl hf l₁ s)).mono (.foldl hf l₂ _)

/-- A gang with the request, which leads its block or not. -/
def Gang.withRequest (g : Gang) (leads : Bool) : Gang := { g with pre := { g.pre with pending := true, leader := leads, waitsaved := false } }

/-- The request to one gang, as State.preemptOne makes it (R350, R351). -/
def State.askGang (s : State) (low core slot : Nat) (g : Gang) : State :=
  if g.pre.pending || g.pre.saving != 0 then s
  else
    (s.modGang core slot fun x => x.withRequest (g.number == low)).at s.now (.preemptTrap core slot)

theorem State.preemptOne_eq (s : State) (key : Nat) : ∃ low, s.preemptOne key =
    (s.gangsOf key).foldl (fun s x => s.askGang low x.1 x.2.1 x.2.2) s := ⟨_, rfl⟩

theorem State.askGang_asksMore (s : State) (low core slot : Nat) (g : Gang) : AsksMore s (s.askGang low core slot g) := by
  unfold State.askGang
  split
  · exact .refl s
  · refine ⟨by simp, fun core' slot' x hx => ?_⟩
    rw [State.gangAt_at]
    by_cases h : (core', slot') = (core, slot)
    · obtain ⟨rfl, rfl⟩ := Prod.mk.inj h
      rw [State.gangAt_modGang_self, hx]
      exact ⟨_, rfl, rfl, fun _ => .inl rfl⟩
    · rw [State.gangAt_modGang_ne _ _ h]
      exact ⟨x, hx, rfl, id⟩

theorem State.askGang_asks {low core slot : Nat} {g : Gang} (hg : s.gangAt core slot = some g) {t : State} (ht : AsksMore s t) :
    AskedAt (t.askGang low core slot g) core slot g.blk := by
  obtain ⟨x, hx, hk, ha⟩ := ht.2 core slot g hg
  by_cases h : g.asked
  · exact AskedAt.mono ⟨x, hx, hk, ha h⟩ (State.askGang_asksMore t low core slot g)
  · have hno : (g.pre.pending || g.pre.saving != 0) = false := by
      simpa [Gang.asked] using h
    unfold State.askGang
    rw [hno]
    refine ⟨x.withRequest (g.number == low), ?_, hk, .inl rfl⟩
    rw [if_neg (by simp), State.gangAt_at, State.gangAt_modGang_self, hx]
    rfl

theorem State.preemptOne_asksMore (s : State) (key : Nat) : AsksMore s (s.preemptOne key) := by
  obtain ⟨low, h⟩ := s.preemptOne_eq key
  rw [h]
  exact .foldl (α := Nat × Nat × Gang) (f := fun s x => s.askGang low x.1 x.2.1 x.2.2) (fun s x => s.askGang_asksMore _ _ _ _) _ _

theorem State.preemptOne_asks {core slot : Nat} {g : Gang} (hg : s.gangAt core slot = some g) : AskedAt (s.preemptOne g.blk) core slot g.blk := by
  obtain ⟨low, h⟩ := s.preemptOne_eq g.blk
  rw [h]
  exact AskedAt.foldl (α := Nat × Nat × Gang) (f := fun s x => s.askGang low x.1 x.2.1 x.2.2) (x := (core, slot, g))
    (fun s x => s.askGang_asksMore _ _ _ _) (State.mem_gangsOf_of_gangAt hg) fun t ht => State.askGang_asks hg ht

theorem State.preemptBlock_asksMore (s : State) (key : Nat) : AsksMore s (s.preemptBlock key) := by
  unfold State.preemptBlock
  split
  · exact .refl s
  · split
    · exact .foldl (α := Block) (f := fun s m => s.preemptOne m.key) (fun s m => s.preemptOne_asksMore m.key) _ _
    · exact .refl s

/-- A resident block that is pre-empted has its gangs asked. -/
theorem State.preemptBlock_asks {core slot : Nat} {g : Gang} {b : Block} (hg : s.gangAt core slot = some g) (hb : s.blockAt g.blk = some b)
    (hr : b.resident = true) : AskedAt (s.preemptBlock g.blk) core slot g.blk := by
  have hkey : b.key = g.blk := by simpa using List.find?_some hb
  unfold State.preemptBlock
  rw [hb]
  dsimp only
  rw [if_pos hr]
  refine AskedAt.foldl (x := b) (α := Block) (f := fun s m => s.preemptOne m.key) (fun s m => s.preemptOne_asksMore m.key) (by simp [hr]) fun t ht => ?_
  obtain ⟨x, hx, hk, -⟩ := ht.2 core slot g hg
  rw [hkey, ← hk]
  exact State.preemptOne_asks hx

theorem State.reclaim_asks {c f core slot : Nat} {g : Gang} {b : Block} (hg : s.gangAt core slot = some g) (hb : s.blockAt g.blk = some b)
    (hr : b.resident = true) (hc : b.core / 16 = c) (hf : (s.domainAt b.domain).function ≠ f) : AskedAt (s.reclaim c f) core slot g.blk := by
  have hkey : b.key = g.blk := by simpa using List.find?_some hb
  unfold State.reclaim
  refine AskedAt.foldl (x := b) (α := Block) (f := fun s m => s.preemptBlock m.key) (fun s m => s.preemptBlock_asksMore m.key)
    (List.mem_filter.mpr ⟨List.mem_of_find?_eq_some hb, by simp [hr, clusterOf, hc, hf]⟩) fun t ht => ?_
  obtain ⟨x, hx, hk, -⟩ := ht.2 core slot g hg
  rw [hkey, ← hk]
  exact State.preemptBlock_asks hx (by rw [hk, State.blockAt, ht.1]; exact hb) hr

theorem clusterReclaim_cases {die cluster c : Nat} (hc : c = die * 16 + cluster % 16) :
    ((∀ l ∈ s.heads die, l.ownerOf c = some l.function → s.ownBlocked l = false) → exec (.clusterReclaim die cluster) s = .next s) ∧
    ((∃ l ∈ s.heads die, l.ownerOf c = some l.function ∧ s.ownBlocked l = true) → ∃ l ∈ s.heads die, l.ownerOf c = some l.function ∧
      s.ownBlocked l = true ∧ ∃ T : State, exec (.clusterReclaim die cluster) s = .next T ∧
        ∀ (core slot : Nat) (g : Gang) (b : Block), s.gangAt core slot = some g → s.blockAt g.blk = some b → b.resident = true →
          b.core / 16 = c → (s.domainAt b.domain).function ≠ l.function →
          ∃ h, T.gangAt core slot = some h ∧ (h.pre.pending = true ∨ h.pre.saving ≠ 0)) := by
  have hx : exec (.clusterReclaim die cluster) s = execClusterReclaim die cluster s := rfl
  subst hc
  rw [hx, execClusterReclaim]
  refine ⟨fun h => ?_, fun ⟨l, hl, ho, hb⟩ => ?_⟩
  · have hnone : (s.heads die).find? (fun l => l.ownerOf (die * 16 + cluster % 16) == some l.function && s.ownBlocked l) = none :=
      List.find?_eq_none.mpr fun l hl => by
        by_cases ho : l.ownerOf (die * 16 + cluster % 16) = some l.function
        · simp [h l hl ho]
        · simp [ho]
    rw [hnone]
  · obtain ⟨k, hk⟩ := Option.isSome_iff_exists.mp
      ((List.find?_isSome (p := fun l => l.ownerOf (die * 16 + cluster % 16) == some l.function && s.ownBlocked l)).mpr ⟨l, hl, by simp [ho, hb]⟩)
    obtain ⟨hko, hkb⟩ : k.ownerOf (die * 16 + cluster % 16) = some k.function ∧ s.ownBlocked k = true := by simpa using List.find?_some hk
    refine ⟨k, List.mem_of_find?_eq_some hk, hko, hkb, s.reclaim (die * 16 + cluster % 16) k.function, by rw [hk], fun core slot g b hg hb hr hc hf => ?_⟩
    obtain ⟨h, hh, -, ha⟩ := State.reclaim_asks hg hb hr hc hf
    exact ⟨h, hh, ha⟩

theorem preemptionsAreRequested : Claim.PreemptionsAreRequested := by
  unfold Claim.PreemptionsAreRequested
  exact ⟨fun s die l t0 => preemptionRequest_cases, fun s die idx => preemptionRequest_gone, fun s f => sliceTimeEnd_early,
    fun s f len t0 => sliceTimeEnd_unclaimed, fun s die cluster c => clusterReclaim_cases⟩

end Sys2Proof.Machine
end

section
/-! SUPPORT. Placement of new and of saved blocks (R14, R79, R297, R340, R341, R355). -/

namespace Sys2Proof.Machine
open Sys2Proof

variable {s : State}

/-! ### When a step places -/

theorem die_of_heads {die : Nat} {l : Launch} (h : l ∈ s.heads die) : l.die = die := by
  simp only [State.heads, List.mem_filter, Bool.and_eq_true, beq_iff_eq] at h
  exact h.2.1.1.1

/-- The 16 clocks after the last step are over (R297). -/
theorem stepWait_over {last : Option Nat} {now : Nat} (h : ∀ t0, last = some t0 → t0 + 16 ≤ now) :
    (last.elim false fun t => decide (now < t + 16)) = false := by
  cases last with
  | none => rfl
  | some t0 => simpa using h t0 rfl

theorem placementStep_cases {die : Nat} {l : Launch} (hh : s.heads die = [l]) :
    (s.pr.ready.getLsbD die = false → exec (.placementStep die) s = .next s) ∧
    (∀ t0, s.pr.ready.getLsbD die = true → (s.dist.getD die {}).lastStep = some t0 → s.now < t0 + 16 →
      exec (.placementStep die) s = .next (s.at (t0 + 16) (.placementStep die))) ∧
    (s.pr.ready.getLsbD die = true → (∀ t0, (s.dist.getD die {}).lastStep = some t0 → t0 + 16 ≤ s.now) → s.lentClusters l = [] →
      (∀ t, s.tryPlace [] l (s.clustersFor l) = some t → exec (.placementStep die) s = .next ((t.placed l).at (s.now + 16) (.placementStep die))) ∧
      (s.tryPlace [] l (s.clustersFor l) = none → l.waitSince = none →
        ∃ T : State, exec (.placementStep die) s = .next T ∧ T = { s with
          launches := replaceFirst (fun x => x.idx == l.idx) (fun x => { x with waitSince := some s.now }) s.launches
          agenda := s.agenda ++ [(s.now + 2048, .preemptionRequest l.die l.idx)] })) := by
  have hx : exec (.placementStep die) s = execPlacementStep die s := rfl
  rw [hx, execPlacementStep]
  dsimp only
  refine ⟨fun hr => if_pos (by simp [hr]), fun t0 hr hl hn => ?_, fun hr hl hlent => ?_⟩
  · rw [if_neg (by simp [hr]), hl, if_pos (by simpa using hn)]
    rfl
  · have hwait := stepWait_over hl
    have hreclaim : s.reclaimFor l = s := by
      unfold State.reclaimFor
      rw [hlent]
      split <;> rfl
    rw [if_neg (by simp [hr]), if_neg (by rw [hwait]; exact Bool.false_ne_true), hh]
    simp only [List.insertionSort, List.foldr_cons, List.foldr_nil, List.orderedInsert, List.foldl_cons, List.foldl_nil, hreclaim, List.findSome?_cons,
      List.findSome?_nil, List.filter_cons, List.filter_nil]
    refine ⟨fun t ht => by simp [ht], fun ht hw => ?_⟩
    simp only [ht, Option.map_none, Option.isNone_none, if_true, List.foldl_cons, List.foldl_nil, State.blocked, hw, Option.isSome_none]
    exact ⟨_, rfl, rfl⟩

theorem blockRestore_cases {blk : Nat} {l : Launch} (hl : s.launches.find? (fun l => l.ready && (l.resume.head?) == some blk) = some l) :
    (∀ t0, (s.dist.getD l.die {}).lastStep = some t0 → s.now < t0 + 16 → exec (.blockRestore blk) s = .next s) ∧
    ((∀ t0, (s.dist.getD l.die {}).lastStep = some t0 → t0 + 16 ≤ s.now) →
      (∀ t, s.tryPlace [] l (s.clustersFor l) = some t → exec (.blockRestore blk) s = .next (t.placed l)) ∧
      (s.tryPlace [] l (s.clustersFor l) = none → exec (.blockRestore blk) s = .next s)) := by
  have hx : exec (.blockRestore blk) s = execBlockRestore blk s := rfl
  rw [hx, execBlockRestore, hl]
  dsimp only
  refine ⟨fun t0 h hn => if_pos (by rw [h]; simpa using hn), fun h => ?_⟩
  rw [if_neg (by rw [stepWait_over h]; exact Bool.false_ne_true)]
  exact ⟨fun t ht => by rw [ht], fun ht => by rw [ht]⟩

/-! ### The start of a block -/

@[simp] theorem State.dropSome_book (core : Nat) : (s.dropSome core).book = s.book := by
  unfold State.dropSome
  exact foldl_book _ fun _ _ => State.invalidateRange_book _ _ _

@[simp] theorem State.setBays_book (core : Nat) (kinds : List Nat) : (s.setBays core kinds).book = s.book := by
  unfold State.setBays
  dsimp only
  rw [State.modCore_book]
  split <;> simp

@[simp] theorem State.takeDomain_book (core d : Nat) : (s.takeDomain core d).book = s.book := rfl

@[simp] theorem State.placePart_book (l : Launch) (key : Nat) (p : PartPlan) : (s.placePart l key p).book = s.book := by
  unfold State.placePart
  dsimp only
  rw [State.modCore_book, State.setBays_book, State.takeDomain_book]

@[simp] theorem State.addGang_book (core slot : Nat) (g : Gang) : (s.addGang core slot g).book = s.book := rfl

theorem State.gangAt_addGang (core slot : Nat) (g : Gang) : (s.addGang core slot g).gangAt core slot = some g := by
  simp [State.addGang, State.gangAt, Core.gangAt]

/-- The words of the keys below a bound read back. -/
theorem Sp.get_setAll_range {w : Nat} (m : List (Nat × BitVec w)) (n : Nat) (f : Nat → BitVec w) (k : Nat) :
    Sp.get (Sp.setAll m ((List.range n).map fun i => (i, f i))) k = if k < n then f k else Sp.get m k := by
  induction n with
  | zero => rfl
  | succ n ih =>
    have hstep : Sp.setAll m ((List.range (n + 1)).map fun i => (i, f i)) =
        Sp.set (Sp.setAll m ((List.range n).map fun i => (i, f i))) n (f n) := by
      rw [List.range_succ, List.map_append, Sp.setAll, List.foldl_append]
      rfl
    rw [hstep, Sp.get_set, ih]
    rcases Nat.lt_trichotomy k n with h | rfl | h
    · rw [if_neg (by omega), if_pos h, if_pos (by omega)]
    · rw [if_pos rfl, if_pos (by omega)]
    · rw [if_neg (by omega), if_neg (by omega), if_neg (by omega)]

/-! ### The start of a gang -/

theorem startQuads_active : ∀ live ∈ [1, 2, 3, 4], ∀ j ∈ List.range 4, (BitVec.ofNat 4 (2 ^ live - 1)).getLsbD j = decide (j < live) := by decide

theorem startQuads_helper : ∀ live ∈ [1, 2, 3, 4], ∀ j ∈ List.range 4, (BitVec.ofNat 4 (16 - 2 ^ live)).getLsbD j = decide (live ≤ j) := by decide

/-- A quad of a gang with n live lanes: present where it has a live lane, its other lanes helpers (R14). -/
theorem startQuads_quad (n : Nat) (pc : Addr) (now : Nat) {q : Nat} (hq : q < 8) {d : Quad} (hd : d = (startQuads n pc now).getD q {}) :
    d.present = decide (4 * q < n) ∧
    (4 * q < n → d.pc = pc ∧ d.party = 0 ∧ d.retired = false ∧ d.stack = [] ∧ d.wake = now + 1 ∧
      ∀ j, j < 4 → d.active.getLsbD j = decide (4 * q + j < n) ∧ d.helper.getLsbD j = decide (n ≤ 4 * q + j)) := by
  have hget : (startQuads n pc now).getD q {} = if Nat.min 4 (n - 4 * q) = 0 then {} else
      { present := true, pc := pc, active := BitVec.ofNat 4 (2 ^ Nat.min 4 (n - 4 * q) - 1)
        helper := BitVec.ofNat 4 (16 - 2 ^ Nat.min 4 (n - 4 * q)), wake := now + 1 } := by
    simp only [startQuads, List.getD_eq_getElem?_getD, List.getElem?_map, List.getElem?_range hq, Option.map_some, Option.getD_some]
  rw [hget] at hd
  by_cases hn : 4 * q < n
  · obtain ⟨live, hlive⟩ : ∃ live, Nat.min 4 (n - 4 * q) = live := ⟨_, rfl⟩
    have hmin : live = min 4 (n - 4 * q) := hlive.symm
    have hmem : live ∈ [1, 2, 3, 4] := by
      simp only [List.mem_cons, List.not_mem_nil, or_false]
      omega
    rw [hlive, if_neg (by omega)] at hd
    subst hd
    refine ⟨by simp [hn], fun _ => ⟨rfl, rfl, rfl, rfl, rfl, fun j hj => ?_⟩⟩
    rw [startQuads_active live hmem j (List.mem_range.mpr hj), startQuads_helper live hmem j (List.mem_range.mpr hj)]
    exact ⟨decide_eq_decide.mpr (by omega), decide_eq_decide.mpr (by omega)⟩
  · have h0 : n - 4 * q = 0 := by omega
    rw [if_pos (by simp [h0])] at hd
    subst hd
    exact ⟨by simp [hn], fun h => absurd h hn⟩

theorem startGang_starts (l : Launch) (key bid number base now : Nat) : GangStarts l key bid number base now (startGang l key bid number base now) := by
  refine ⟨rfl, rfl, rfl, rfl, rfl, rfl, rfl, rfl, rfl, rfl, rfl, rfl, rfl, rfl, rfl, rfl, fun k => ?_, fun lane v hlane hv => ?_, fun q hq => ?_⟩
  · exact Sp.get_setAll_range [] 8 (fun k => word (l.w (20 + k))) k
  · refine (Sp.get_setAll_range [] 32 (fun k => seedOf (l.w 6) bid number k) lane).trans ?_
    rw [if_pos hlane, hv]
    rfl
  · exact startQuads_quad l.lanes (addr64 (l.entry + 4)) now hq rfl

/-- A new block of one core. -/
def Launch.newBlock (l : Launch) (bid : Nat) (p : PartPlan) (now : Nat) : Block :=
  { key := blockKey l bid, launch := l.idx, bid := bid, core := p.core, pair := l.pair, domain := l.domain, prio := l.prio, placedAt := now
    ngates := l.gates, slots := (p.lowSlot, 64), scrSize := 1024 * l.scratchKiB
    scrKiB := (p.scr, 0), scr := [], scrB := [], gates := List.replicate l.gates {}, gateIn := []
    shared := [], shWrites := [], trees := [], saved := [], resident := true }

/-- The block is added, its core prepared. -/
def State.prepared (s : State) (l : Launch) (bid : Nat) (p : PartPlan) : State :=
  State.placePart { s with blocks := s.blocks ++ [l.newBlock bid p s.now] } l (blockKey l bid) p

theorem State.prepared_book (s : State) (l : Launch) (bid : Nat) (p : PartPlan) :
    (s.prepared l bid p).book = (s.now, s.blocks ++ [l.newBlock bid p s.now], s.poison) := State.placePart_book l _ p

theorem State.placeNew_single (s : State) (l : Launch) (bid : Nat) {p : PartPlan} {number slot base : Nat} (hp : p.gangs = [(number, slot, base)]) :
    s.placeNew l bid [p] = (s.prepared l bid p).addGang p.core slot (startGang l (blockKey l bid) bid number base (s.prepared l bid p).now) := by
  have h : s.placeNew l bid [p] = p.gangs.foldl (fun t g => t.addGang p.core g.2.1 (startGang l (blockKey l bid) bid g.1 g.2.2 t.now))
      (s.prepared l bid p) := rfl
  rw [h, hp]
  rfl

/-- A block of one core that holds one gang (R14, R79, R341). -/
theorem placeNew_one {l : Launch} {bid core slot number base : Nat} {p : PartPlan} (hc : p.core = core) (hp : p.gangs = [(number, slot, base)])
    (hfree : ∀ b ∈ s.blocks, b.key ≠ l.idx * 2 ^ 32 + bid) :
    ∃ (b : Block) (g : Gang), (s.placeNew l bid [p]).blockAt (l.idx * 2 ^ 32 + bid) = some b ∧ (s.placeNew l bid [p]).gangAt core slot = some g ∧
      b.bid = bid ∧ b.core = core ∧ b.domain = l.domain ∧ b.ngates = fld (l.w 1) 30 22 ∧ b.shared = [] ∧ b.scr = [] ∧ b.resident = true ∧
      GangStarts l (l.idx * 2 ^ 32 + bid) bid number base s.now g := by
  have hnow : (s.prepared l bid p).now = s.now := congrArg Prod.fst (s.prepared_book l bid p)
  have hblocks : (s.prepared l bid p).blocks = s.blocks ++ [l.newBlock bid p s.now] := congrArg (·.2.1) (s.prepared_book l bid p)
  rw [s.placeNew_single l bid hp, hnow]
  refine ⟨l.newBlock bid p s.now, startGang l (blockKey l bid) bid number base s.now, ?_, hc ▸ State.gangAt_addGang _ _ _, rfl, hc, rfl, rfl, rfl, rfl,
    rfl, startGang_starts l _ bid number base s.now⟩
  have hno : s.blocks.find? (·.key == l.idx * 2 ^ 32 + bid) = none := List.find?_eq_none.mpr fun b hb => by simpa using hfree b hb
  rw [State.blockAt, State.blocks_of_book (State.addGang_book _ _ _), hblocks, List.find?_append, hno, Option.none_or, List.find?_singleton]
  exact if_pos (beq_self_eq_true _)

/-! ### The restore of a block -/

theorem State.poke_onlyAgenda (s : State) (d : Nat) : OnlyAgenda s (s.poke d) := by
  unfold State.poke
  extract_lets s1
  have h1 : OnlyAgenda s s1 := by
    unfold s1
    split
    · exact .at ..
    · exact .refl s
  refine h1.trans (.foldl (fun s c => .ite _ (.refl s) (.foldl (fun s g => .foldl (fun s lead => ?_) _ s) _ s)) _ _)
  split
  · exact .at ..
  · exact .refl s

theorem State.gangAt_headRequest (core slot : Nat) (e : Bool × Nat) (c k : Nat) :
    (s.headRequest core slot e).gangAt c k = s.gangAt c k := by
  rw [State.headRequest, State.gangAt_at, State.gangAt_modCore _ _ ?gangs]
  case gangs => exact fun _ => rfl

/-- The clocks of a restored gang's start come from a state; the rest is as it was saved. -/
def State.savedGang (s : State) (k : Saved) (core base : Nat) (pc : Addr) : Gang :=
  restoredGang k base s.now s.fresh (s.coreAt core).leatSeq pc

/-- One saved gang put into a slot, before the check of its vector (R355). -/
def State.restoreGang (s : State) (l : Launch) (b : Block) (k : Saved) (core slot base : Nat) (pc : Addr) : State :=
  let s1 := s.addGang core slot (s.savedGang k core base pc)
  let s2 := State.modCore { s1 with fresh := s1.fresh + 4 * 3200 } core fun c => c.reslot b.key (64 + k.gang.number) slot
  let s3 := if k.handler then s2.modBoard l.domain fun x => { x with hgang := hgangOf core slot, hres := true } else s2
  match k.engine with
  | some e => s3.headRequest core slot e
  | none => s3

theorem State.gangAt_restoreGang (l : Launch) (b : Block) (k : Saved) (core slot base : Nat) (pc : Addr) :
    (s.restoreGang l b k core slot base pc).gangAt core slot = some (s.savedGang k core base pc) := by
  unfold State.restoreGang
  extract_lets s1 s2 s3
  have h2 : s2.gangAt core slot = some (s.savedGang k core base pc) := by
    rw [State.gangAt_modCore _ _ ?gangs]
    case gangs => exact fun _ => rfl
    exact (State.gangAt_of_cores (s := s1) rfl core slot).trans (State.gangAt_addGang _ _ _)
  have h3 : s3.gangAt core slot = s2.gangAt core slot := by
    unfold s3
    split
    · exact State.gangAt_of_cores rfl _ _
    · rfl
  rw [← h2, ← h3]
  split
  · exact State.gangAt_headRequest _ _ _ _ _
  · rfl

/-- The launch, the block and the core of a restore, before its gangs. -/
def State.restorePrepared (s : State) (l : Launch) (b : Block) (p : PartPlan) : State :=
  let s := s.modLaunch l.idx fun x => { x with resume := x.resume.filter (· != b.key) }
  let s := s.modBlock b.key fun x =>
    { x with core := p.core, placedAt := s.now, slots := (p.lowSlot, 64), scrKiB := (p.scr, 0), saved := [], resident := true }
  let s := s.placePart l b.key p
  ([p].zip b.trees).foldl (fun s q => s.modCore q.1.core fun c => { c with trees := q.2 }) s

theorem State.placeOld_badRecords {l : Launch} {b : Block} {p : PartPlan} (h : s.recordsOk b = false) :
    s.placeOld l b [p] = s.killBlock b.key 4 xCtxBad 0 := by
  rw [State.placeOld, h]
  rfl

theorem State.placeOld_noVector {l : Launch} {b : Block} {p : PartPlan} (h : s.recordsOk b = true)
    (hv : (s.domainAt l.domain).restvec.getLsbD 0 = false) : s.placeOld l b [p] = s.killBlock b.key 4 xResume 0 := by
  rw [State.placeOld, h, vectorPc, hv]
  rfl

theorem State.placeOld_one {l : Launch} {b : Block} {p : PartPlan} {k : Saved} {slot base : Nat} (h : s.recordsOk b = true)
    (hv : (s.domainAt l.domain).restvec.getLsbD 0 = true) (hpc : badPc ((s.domainAt l.domain).restvec &&& ~~~ 3#64) = false)
    (hk : b.saved = [k]) (hp : p.gangs = [(k.gang.number, slot, base)]) :
    s.placeOld l b [p] =
      ((s.restorePrepared l b p).restoreGang l b k p.core slot base ((s.domainAt l.domain).restvec &&& ~~~ 3#64)).poke l.domain := by
  have hfind : b.saved.find? (fun x => x.gang.number == k.gang.number) = some k := by
    rw [hk, List.find?_singleton]
    exact if_pos (beq_self_eq_true _)
  rw [State.placeOld, h, vectorPc, hv]
  simp only [Bool.not_true, Bool.false_eq_true, if_false, if_true, List.foldl_cons, List.foldl_nil, hp, hfind, hpc]
  rfl

/-- What a restored gang keeps of the saved one, and what its start sets (R355). -/
theorem State.savedGang_fields (k : Saved) (core base : Nat) (pc : Addr) {g : Gang} (hg : g = s.savedGang k core base pc) :
    g.super = true ∧ g.xr.xcode = 0x09 ∧ g.xr.xpc = k.gang.xr.xpc ∧ g.held = k.gang.held ∧ g.kv = k.gang.kv ∧ g.yarr = k.gang.yarr ∧
      g.role = k.gang.role ∧ g.bs = k.gang.bs ∧ g.bellHeld = k.gang.bellHeld ∧ g.late = k.gang.late ∧ g.pre.restoring = true ∧
      Sp.get g.sregs 0 = word k.ctx.toNat ∧ Sp.get g.sregs 1 = word (k.ctx.toNat / 2 ^ 32) := by
  have hset (m : Words) (a b : Word) : Sp.get (Sp.setAll m [(0, a), (1, b)]) 0 = a ∧ Sp.get (Sp.setAll m [(0, a), (1, b)]) 1 = b := by
    simp only [Sp.setAll, List.foldl_cons, List.foldl_nil, Sp.get_set]
    exact ⟨rfl, rfl⟩
  subst hg
  exact ⟨rfl, rfl, rfl, rfl, rfl, rfl, rfl, rfl, rfl, rfl, rfl, (hset _ _ _).1, (hset _ _ _).2⟩

theorem placeOld_one_restores {l : Launch} {b : Block} {p : PartPlan} {k : Saved} {core slot base : Nat} {v : Addr} (hc : p.core = core)
    (hk : b.saved = [k]) (hp : p.gangs = [(k.gang.number, slot, base)]) (hv : v = (s.domainAt l.domain).restvec) (hr : s.recordsOk b = true)
    (hvalid : v.getLsbD 0 = true) (hpc : badPc (v &&& ~~~ 3#64) = false) :
    ∃ g, (s.placeOld l b [p]).gangAt core slot = some g ∧
      g.super = true ∧ g.xr.xcode = 0x09 ∧ g.xr.xpc = k.gang.xr.xpc ∧ g.held = k.gang.held ∧ g.kv = k.gang.kv ∧ g.yarr = k.gang.yarr ∧ g.role = k.gang.role ∧
      g.bs = k.gang.bs ∧ g.bellHeld = k.gang.bellHeld ∧ g.late = k.gang.late ∧ g.pre.restoring = true ∧
      Sp.get g.sregs 0 = word k.ctx.toNat ∧ Sp.get g.sregs 1 = word (k.ctx.toNat / 2 ^ 32) := by
  subst hc hv
  refine ⟨_, ?_, State.savedGang_fields (s := s.restorePrepared l b p) k p.core base ((s.domainAt l.domain).restvec &&& ~~~ 3#64) rfl⟩
  rw [State.placeOld_one hr hvalid hpc hk hp, State.gangAt_of_cores (State.poke_onlyAgenda _ _).cores, State.gangAt_restoreGang]

theorem blocksArePlaced : Claim.BlocksArePlaced :=
  ⟨fun _ _ _ => placementStep_cases, fun _ _ _ _ _ _ _ _ => placeNew_one, fun _ _ _ => blockRestore_cases,
    fun _ _ _ _ _ _ _ _ _ hc hk hp _ hv => ⟨State.placeOld_badRecords, fun hr h0 => State.placeOld_noVector hr (hv ▸ h0),
      placeOld_one_restores hc hk hp hv⟩⟩

/-- Settles O58, by how a placement step, a conversion and a request for pre-emptions run: what a placed or restored block's gang starts with is read
off the state after its core is prepared. -/
theorem distributorPlacesAndPreempts : Obligations.DistributorPlacesAndPreempts := ⟨blocksArePlaced, baysConvert, preemptionsAreRequested⟩

end Sys2Proof.Machine
end

section
/-! SUPPORT. Integers of w bits as numbers, and their wrap or clamp (R80). -/

namespace Sys2Proof.Machine
open Sys2Proof

theorem sext_toNat {w : Nat} (v : BitVec w) : sext w v.toNat = v.toInt := by
  rw [sext, Nat.mod_eq_of_lt v.isLt, BitVec.toInt_eq_toNat_cond]
  split <;> split <;> omega

theorem wrap_eq_ofInt (w : Nat) (x : Int) : wrap w x = (BitVec.ofInt w x).toNat := (BitVec.toNat_ofInt x).symm

theorem deliverInt_modulo (w : Nat) (uns : Bool) (x : Int) : deliverInt w uns false x = (BitVec.ofInt w x).toNat := wrap_eq_ofInt w x

theorem deliverInt_clamp_signed (x : Int) :
    deliverInt 32 false true x = (BitVec.ofInt 32 (max (-2 ^ 31) (min (2 ^ 31 - 1) x))).toNat := wrap_eq_ofInt 32 _

theorem deliverInt_clamp_unsigned (x : Int) :
    deliverInt 32 true true x = (BitVec.ofInt 32 (max 0 (min (2 ^ 32 - 1) x))).toNat := wrap_eq_ofInt 32 _

end Sys2Proof.Machine
end

section
/-! SUPPORT. Chunks of INT8 elements: every exact value on the way is an integer at exponent 0 (R88 to R91). -/

namespace Sys2Proof.Machine
open Sys2Proof

/-- The exact value is the integer `x`, held at exponent 0. -/
def FVal.IsInt (v : FVal) (x : Int) : Prop := ∃ (n : Bool) (m : Nat), v = .fin n m 0 ∧ (if n then -(m : Int) else m) = x

theorem FVal.isInt_zero (n : Bool) : (FVal.fin n 0 0).IsInt 0 := ⟨n, 0, rfl, by cases n <;> rfl⟩

theorem FVal.isInt_natAbs (x : Int) : (FVal.fin (decide (x < 0)) x.natAbs 0).IsInt x := by
  refine ⟨_, _, rfl, ?_⟩
  by_cases h : x < 0
  · simp only [h, decide_true, if_true]
    omega
  · simp only [h, decide_false, Bool.false_eq_true, if_false]
    omega

theorem elemValue_int8 (b : Byte) : (elemValue 0x08 b.toNat).IsInt b.toInt := by
  rw [← sext_toNat]
  exact FVal.isInt_natAbs _

theorem scaleTo_zero (n : Bool) (m : Nat) : scaleTo n m 0 0 = if n then -(m : Int) else m := by simp [scaleTo]

theorem FVal.IsInt.mul {v w : FVal} {x y : Int} (hv : v.IsInt x) (hw : w.IsInt y) : (v.mul w).IsInt (x * y) := by
  obtain ⟨n, m, rfl, rfl⟩ := hv
  obtain ⟨k, l, rfl, rfl⟩ := hw
  refine ⟨n != k, m * l, rfl, ?_⟩
  cases n <;> cases k <;> simp

theorem FVal.IsInt.add {v w : FVal} {x y : Int} (hv : v.IsInt x) (hw : w.IsInt y) : (FVal.add 0 v w).IsInt (x + y) := by
  obtain ⟨n, m, rfl, rfl⟩ := hv
  obtain ⟨k, l, rfl, rfl⟩ := hw
  simp only [FVal.add, min_self, scaleTo_zero]
  generalize (if n then -(m : Int) else m) + (if k then -(l : Int) else l) = t
  by_cases h : t = 0
  · rw [if_pos h, h]
    exact FVal.isInt_zero _
  · rw [if_neg h]
    exact FVal.isInt_natAbs t

/-- The sum of a list of integers, begun with one. -/
theorem FVal.IsInt.foldl_add {α : Type} {f : α → FVal} {g : α → Int} (hf : ∀ a, (f a).IsInt (g a)) (as : List α) {v : FVal} {x : Int}
    (hv : v.IsInt x) : ((as.map f).foldl (FVal.add 0) v).IsInt (x + (as.map g).sum) := by
  induction as generalizing v x with
  | nil => simpa using hv
  | cons a as ih => simpa [add_assoc] using ih (hv.add (hf a))

theorem chunkSum_isInt {α : Type} {f f' : α → FVal} {g g' : α → Int} (hf : ∀ a, (f a).IsInt (g a)) (hf' : ∀ a, (f' a).IsInt (g' a))
    (as : List α) : (chunkSum (as.map f) (as.map f')).IsInt (as.map fun a => g a * g' a).sum := by
  have hmul : ∀ a, ((f a).mul (f' a)).IsInt (g a * g' a) := fun a => (hf a).mul (hf' a)
  rw [chunkSum, List.zipWith_map, List.zipWith_self]
  cases as with
  | nil => exact FVal.isInt_zero false
  | cons a as => exact FVal.IsInt.foldl_add hmul as (hmul a)

/-- Scale 127 stands for 2^0 (R85). -/
theorem FVal.IsInt.scaledSum_one {v : FVal} {x : Int} (hv : v.IsInt x) : (scaledSum v 127 127).IsInt x := by
  obtain ⟨n, m, rfl, hx⟩ := hv
  exact ⟨n, m, rfl, hx⟩

theorem accInt_of_isInt (sat : Bool) (acc : Word) {v : FVal} {x : Int} (hv : v.IsInt x) :
    accInt sat acc.toNat v = deliverInt 32 false sat (acc.toInt + x) := by
  obtain ⟨n, m, rfl, rfl⟩ := hv
  rw [accInt, sext_toNat, scaleTo_zero]

theorem accumulate_int32_chunk (sat : Bool) (acc : Nat) (a b : Chunk) :
    accumulate 2 sat acc [a] [b] = accInt sat acc (scaledSum (chunkSum a.elems b.elems) a.scale b.scale) := rfl

/-- INT8 has class 4, whose only accumulator format is INT32 (R238). -/
theorem accAllowed_int8 {c : MxClass} {accf : Nat} (hc : mxClass 0x08 = some c) : accAllowed c.cell accf = true ↔ accf = 2 := by
  obtain rfl := Option.some.inj hc
  exact beq_iff_eq

/-- Settles O45: the sum of a chunk's products is an integer (chunkSum_isInt), which the accumulator takes by wrap or clamp. -/
theorem integerChunksAccumulate : Obligations.IntegerChunksAccumulate := by
  unfold Obligations.IntegerChunksAccumulate
  refine ⟨fun c accf => accAllowed_int8, ?_⟩
  intro sat acc xs exact hexact
  have hsum := chunkSum_isInt (fun x : Byte × Byte => elemValue_int8 x.1) (fun x => elemValue_int8 x.2) xs
  rw [accumulate_int32_chunk, accInt_of_isInt sat acc hsum.scaledSum_one, ← hexact]
  cases sat with
  | false => exact deliverInt_modulo 32 false exact
  | true => exact deliverInt_clamp_signed exact

end Sys2Proof.Machine
end

section
/-! SUPPORT. Integer instructions under I32 and N32 (R80, R125, R126, R128, R129, R133): the operations on one word, the shapes of the
instructions, and what they deliver. -/

namespace Sys2Proof.Machine
open Sys2Proof

variable {s : State} {p : Party} {i : Instr} {gm : BitVec 15}

/-! ### Operations on one element -/

theorem floatTy_of_le_one {ty : BitVec 5} (h : ty.toNat ≤ 1) : floatTy ty = false := by
  simp [floatTy]
  omega

/-- The word an exact integer result becomes, wrapped or clamped as GMODE says. -/
def delivered (gm : BitVec 15) (x : Int) : Word := BitVec.ofNat 32 (deliverInt 32 (unsignedTy (tyOf gm)) (satOf gm) x)

theorem intResult_word (h : (tyOf gm).toNat ≤ 1) (x : Int) : intResult gm x = pureGen (delivered gm x).toNat := by
  have hlt : deliverInt 32 (unsignedTy (tyOf gm)) (satOf gm) x < 2 ^ 32 := by
    unfold deliverInt
    split <;> exact wrap_eq_ofInt 32 _ ▸ BitVec.isLt _
  rw [intResult, elemWidth_of_le_two (by omega), delivered, BitVec.toNat_ofNat, Nat.mod_eq_of_lt hlt]

theorem delivered_modulo (hs : satOf gm = false) (x : Int) : delivered gm x = BitVec.ofInt 32 x := by
  rw [delivered, hs, deliverInt_modulo, BitVec.ofNat_toNat, BitVec.setWidth_eq]

theorem delivered_clamp_signed (ht : tyOf gm = 0) (hs : satOf gm = true) (x : Int) :
    delivered gm x = BitVec.ofInt 32 (max (-2 ^ 31) (min (2 ^ 31 - 1) x)) := by
  have hu : unsignedTy (tyOf gm) = false := ht ▸ rfl
  rw [delivered, hs, hu, deliverInt_clamp_signed, BitVec.ofNat_toNat, BitVec.setWidth_eq]

theorem delivered_clamp_unsigned (ht : tyOf gm = 1) (hs : satOf gm = true) (x : Int) :
    delivered gm x = BitVec.ofInt 32 (max 0 (min (2 ^ 32 - 1) x)) := by
  have hu : unsignedTy (tyOf gm) = true := ht ▸ rfl
  rw [delivered, hs, hu, deliverInt_clamp_unsigned, BitVec.ofNat_toNat, BitVec.setWidth_eq]

theorem elInt_signed (ht : tyOf gm = 0) : (fun w : Word => elInt gm w.toNat) = fun w => w.toInt := funext fun w => intElem_signed ht w

theorem elInt_unsigned (ht : tyOf gm = 1) : (fun w : Word => elInt gm w.toNat) = fun w => (w.toNat : Int) := funext fun w => intElem_unsigned ht w

/-- Signed or unsigned, the element is the word modulo 2^32. -/
theorem ofInt_elInt (h : (tyOf gm).toNat ≤ 1) (w : Word) : BitVec.ofInt 32 (elInt gm w.toNat) = w := by
  obtain h0 | h1 : tyOf gm = 0 ∨ tyOf gm = 1 := by
    rcases Nat.le_one_iff_eq_zero_or_eq_one.mp h with h | h
    · exact .inl (BitVec.eq_of_toNat_eq h)
    · exact .inr (BitVec.eq_of_toNat_eq h)
  · rw [congrFun (elInt_signed h0) w, BitVec.ofInt_toInt]
  · rw [congrFun (elInt_unsigned h1) w, BitVec.ofInt_natCast, BitVec.ofNat_toNat, BitVec.setWidth_eq]

/-- A shift of 32 or more leaves the sign alone. -/
theorem ediv_sign {x : Int} {n : Nat} (hlo : -2 ^ 31 ≤ x) (hhi : x < 2 ^ 31) (hn : 32 ≤ n) :
    x / ((2 ^ n : Nat) : Int) = if x < 0 then -1 else 0 := by
  have hpow : (2 : Int) ^ 32 ≤ ((2 ^ n : Nat) : Int) := by exact_mod_cast Nat.pow_le_pow_right (by omega) hn
  split
  · next h => exact Int.ediv_eq_neg_one_of_neg_of_le h (by omega)
  · next h => exact Int.ediv_eq_zero_of_lt (by omega) (by omega)

/-- SHA limits its amount to 32, which an arithmetic shift of a word need not do. -/
theorem ediv_shift_limit (a : Word) (n : Nat) : a.toInt / ((2 ^ Nat.min n 32 : Nat) : Int) = a.toInt >>> n := by
  rw [Int.shiftRight_eq_div_pow]
  rcases Nat.le_total n 32 with hn | hn
  · rw [show Nat.min n 32 = n from min_eq_left hn]
  · rw [show Nat.min n 32 = 32 from min_eq_right hn, ediv_sign a.le_toInt a.toInt_lt le_rfl, ediv_sign a.le_toInt a.toInt_lt hn]

/-- The two parts of a rotation share no bit. -/
theorem rotate_parts {x k : Nat} (hx : x < 2 ^ 32) (hk : k < 32) :
    x * 2 ^ k % 2 ^ 32 + x / 2 ^ (32 - k) % 2 ^ 32 = x <<< k % 2 ^ 32 ||| x >>> (32 - k) := by
  have hpow : 2 ^ 32 = 2 ^ (32 - k) * 2 ^ k := by rw [← pow_add, Nat.sub_add_cancel hk.le]
  have hlow : x / 2 ^ (32 - k) < 2 ^ k := Nat.div_lt_of_lt_mul (hpow ▸ hx)
  have hhigh : x * 2 ^ k % 2 ^ 32 = (x % 2 ^ (32 - k)) <<< k := by rw [hpow, Nat.mul_mod_mul_right, Nat.shiftLeft_eq]
  rw [Nat.mod_eq_of_lt (hlow.trans (Nat.pow_lt_pow_right (by omega) hk)), Nat.shiftLeft_eq x, hhigh, Nat.shiftRight_eq_div_pow,
    Nat.shiftLeft_add_eq_or_of_lt hlow]

section
variable (h : (tyOf gm).toNat ≤ 1) (a b c : Word)
include h

theorem addE_word : addE gm a.toNat b.toNat = pureGen (delivered gm (elInt gm a.toNat + elInt gm b.toNat)).toNat := by
  rw [addE, if_neg (by simp [floatTy_of_le_one h]), intResult_word h]

theorem subE_word : subE gm a.toNat b.toNat = pureGen (delivered gm (elInt gm a.toNat - elInt gm b.toNat)).toNat := by
  rw [subE, if_neg (by simp [floatTy_of_le_one h]), intResult_word h]

theorem mulE_word : mulE gm a.toNat b.toNat = pureGen (delivered gm (elInt gm a.toNat * elInt gm b.toNat)).toNat := by
  rw [mulE, if_neg (by simp [floatTy_of_le_one h]), intResult_word h]

theorem madE_word : madE gm a.toNat b.toNat c.toNat =
    pureGen (delivered gm (elInt gm a.toNat * elInt gm b.toNat + elInt gm c.toNat)).toNat := by
  rw [madE, if_neg (by simp [floatTy_of_le_one h]), intResult_word h]

theorem msbE_word : msbE gm a.toNat b.toNat c.toNat =
    pureGen (delivered gm (elInt gm c.toNat - elInt gm a.toNat * elInt gm b.toNat)).toNat := by
  rw [msbE, if_neg (by simp [floatTy_of_le_one h]), intResult_word h]

theorem negE_word (hs : satOf gm = false) : negE gm a.toNat = pureGen (-a).toNat := by
  rw [negE, if_neg (by simp [floatTy_of_le_one h]), intResult_word h, delivered_modulo hs, BitVec.ofInt_neg, ofInt_elInt h]

theorem compl_word : compl (elemWidth (tyOf gm)) a.toNat = (~~~ a).toNat := by
  rw [compl, elemWidth_of_le_two (by omega), Nat.mod_eq_of_lt a.isLt, BitVec.toNat_not]

theorem notE_word : notE gm a.toNat = pureGen (~~~ a).toNat := by rw [notE, compl_word h]

theorem andnE_word : andnE gm a.toNat b.toNat = pureGen (a &&& ~~~ b).toNat := by rw [andnE, compl_word h, BitVec.toNat_and]

theorem shlE_word : shlE gm a.toNat b.toNat = pureGen (a <<< b.toNat).toNat := by
  rw [shlE, elemWidth_of_le_two (by omega)]
  by_cases hb : 32 ≤ b.toNat
  · simp only [if_pos hb, BitVec.shiftLeft_eq_zero hb, BitVec.toNat_zero]
  · simp only [if_neg hb, BitVec.toNat_shiftLeft, Nat.shiftLeft_eq]

theorem shrE_word : shrE gm a.toNat b.toNat = pureGen (a >>> b.toNat).toNat := by
  rw [shrE, elemWidth_of_le_two (by omega)]
  by_cases hb : 32 ≤ b.toNat
  · simp only [if_pos hb, BitVec.ushiftRight_eq_zero hb, BitVec.toNat_zero]
  · simp only [if_neg hb, BitVec.toNat_ushiftRight, Nat.shiftRight_eq_div_pow]

theorem shaE_word : shaE gm a.toNat b.toNat = pureGen (a.sshiftRight b.toNat).toNat := by
  rw [shaE, elemWidth_of_le_two (by omega)]
  simp only [sext_toNat, ediv_shift_limit, wrap_eq_ofInt]
  rfl

theorem rotE_word : rotE gm a.toNat b.toNat = pureGen (a.rotateLeft b.toNat).toNat := by
  rw [rotE, elemWidth_of_le_two (by omega)]
  simp only [BitVec.toNat_rotateLeft, rotate_parts a.isLt (Nat.mod_lt b.toNat (show 0 < 32 by omega))]

end

/-! ### Shapes of instructions under the types of one 32-bit element -/

theorem lift1_word (h : (tyOf gm).toNat ≤ 2) {f : Nat → Gen Nat} {a v : Word} (hf : f a.toNat = pureGen v.toNat) :
    lift1 gm f a.toNat = pureGen v.toNat := by
  funext g
  simp [lift1, elems_one h, mapGen, hf, pureGen, joinElems, elemWidth_of_le_two h, Nat.mod_eq_of_lt v.isLt]

theorem lift2_word (h : (tyOf gm).toNat ≤ 2) {f : Nat → Nat → Gen Nat} {a b v : Word} (hf : f a.toNat b.toNat = pureGen v.toNat) :
    lift2 gm f a.toNat b.toNat = pureGen v.toNat := by
  funext g
  simp [lift2, elems_one h, mapGen, hf, pureGen, joinElems, elemWidth_of_le_two h, Nat.mod_eq_of_lt v.isLt]

theorem lift3_word (h : (tyOf gm).toNat ≤ 2) {f : Nat → Nat → Nat → Gen Nat} {a b c v : Word}
    (hf : f a.toNat b.toNat c.toNat = pureGen v.toNat) : lift3 gm f a.toNat b.toNat c.toNat = pureGen v.toNat := by
  funext g
  simp [lift3, elems_one h, mapGen, hf, pureGen, joinElems, elemWidth_of_le_two h, Nat.mod_eq_of_lt v.isLt]

/-- The latency of R48 for an instruction on words. -/
theorem latency_word {ty : BitVec 5} (h : ty.toNat ≤ 1) : (if wideTy ty then 8 else 4) = 4 := by
  simp [wideTy_of_le_two (Nat.le_succ_of_le h)]

/-- What an instruction leaves that computes one word in each lane, 4 clocks after issue, and steps no generator. -/
def State.deliverWords (s : State) (p : Party) (d : Reg) (v : Nat → Word) : State := s.perLane p 4 d 1 fun l => pureGen (v l).toNat

section
variable {d a b : Reg} {ra rb : BitVec 2} {v : Nat → Word} (hr : Runs s p i) (ht : p.ty.toNat ≤ 1) (hl : latencyOf p.ty i = 4)
include hr ht hl

theorem unary_word {f : BitVec 15 → Nat → Gen Nat} (hf : ∀ l, f p.g.gmode (s.source p a ra l).toNat = pureGen (v l).toNat) :
    unary i d a ra f s = .next (s.deliverWords p d v) := by
  have hv : ∀ l, lift1 p.g.gmode (f p.g.gmode) (s.source p a ra l).toNat = pureGen (v l).toNat := fun l =>
    lift1_word (Nat.le_succ_of_le ht) (hf l)
  simp only [unary, hr.issue, hl, Party.opRegs_one (Nat.le_succ_of_le ht), State.opValue_one, hv]
  rfl

theorem binary_word {f : BitVec 15 → Nat → Nat → Gen Nat}
    (hf : ∀ l, f p.g.gmode (s.source p a ra l).toNat (s.source p b rb l).toNat = pureGen (v l).toNat) :
    binary i d a ra b rb f s = .next (s.deliverWords p d v) := by
  have hv : ∀ l, lift2 p.g.gmode (f p.g.gmode) (s.source p a ra l).toNat (s.source p b rb l).toNat = pureGen (v l).toNat := fun l =>
    lift2_word (Nat.le_succ_of_le ht) (hf l)
  simp only [binary, hr.issue, hl, Party.opRegs_one (Nat.le_succ_of_le ht), State.opValue_one, hv]
  rfl

theorem ternary_word {f : BitVec 15 → Nat → Nat → Nat → Gen Nat}
    (hf : ∀ l, f p.g.gmode (s.source p a ra l).toNat (s.source p b rb l).toNat (s.source p d 0 l).toNat = pureGen (v l).toNat) :
    ternary i d a ra b rb f s = .next (s.deliverWords p d v) := by
  have hv : ∀ l, lift3 p.g.gmode (f p.g.gmode) (s.source p a ra l).toNat (s.source p b rb l).toNat (s.source p d 0 l).toNat =
      pureGen (v l).toNat := fun l => lift3_word (Nat.le_succ_of_le ht) (hf l)
  simp only [ternary, hr.issue, hl, Party.opRegs_one (Nat.le_succ_of_le ht), State.opValue_one, hv]
  rfl

/-- An immediate is its sign-extended word, whether the instruction is arithmetic or not (R125). -/
theorem immOp_word {arith : Bool} {k : BitVec 11} {f : BitVec 15 → Nat → Nat → Gen Nat}
    (hf : ∀ l, f p.g.gmode (s.source p a 0 l).toNat (k.signExtend 32 : Word).toNat = pureGen (v l).toNat) :
    immOp i arith d a k f s = .next (s.deliverWords p d v) := by
  have hk : immediate p.ty arith k = (k.signExtend 32 : Word).toNat := by
    rw [← immediate_word ht k]
    simp only [immediate, floatTy_of_le_one ht, Bool.and_false]
  have hv : ∀ l, lift2 p.g.gmode (f p.g.gmode) (s.source p a 0 l).toNat (k.signExtend 32 : Word).toNat = pureGen (v l).toNat := fun l =>
    lift2_word (Nat.le_succ_of_le ht) (hf l)
  simp only [immOp, hr.issue, hl, Party.opRegs_one (Nat.le_succ_of_le ht), State.opValue_one, hk, hv]
  rfl

theorem execMov_word {d a : Reg} {ra : BitVec 2} (hi : i = .mov d a ra) : execMov d a ra s = .next (s.deliverWords p d fun l => s.source p a ra l) := by
  subst hi
  simp only [execMov, hr.issue, hl, Party.opRegs_one (Nat.le_succ_of_le ht), State.opValue_one]
  rfl

end

/-! ### What an instruction delivers -/

theorem destWrites_s_one {d : Reg} (h : kindOf d = .s) (lane : Nat) (w : Word) :
    destWrites d 1 lane w.toNat = [⟨.s (d.toNat - 0x60), w⟩] := by
  simp [destWrites, h, List.range_succ, word]

theorem computing_writes (p : Party) (d : Reg) (v : Nat → Word) :
    ((p.computing d).flatMap fun l => destWrites d 1 l (v l).toNat) = p.results d v := by
  unfold Party.computing Party.results
  cases hd : kindOf d with
  | v => simp [destWrites_v_one hd, ← List.map_eq_flatMap]
  | s => simp [destWrites_s_one hd, ← List.map_eq_flatMap]
  | z => simp [destWrites, hd]
  | q => simp [destWrites, hd]

theorem deliverWords_spec (hr : Runs s p i) (d : Reg) (v : Nat → Word) :
    ∃ h : Gang, OnlyGang s (s.deliverWords p d v) p h ∧ Lands s (s.deliverWords p d v) p h 4 (p.results d v) ∧
      h = { p.moved s with inflight := h.inflight } :=
  computing_writes p d v ▸ State.perLane_pure 4 d 1 (fun l => (v l).toNat) hr.gang

/-! ### The instructions -/

/-- An instruction that honours SAT delivers its exact result, wrapped or clamped. -/
theorem exec_exact32 {d : Reg} {f : Nat → Int} (hr : Runs s p i) (ht : p.ty.toNat ≤ 1)
    (hx : exact32 s p (fun w => elInt p.g.gmode w.toNat) i = some (d, f)) :
    exec i s = .next (s.deliverWords p d fun l => delivered p.g.gmode (f l)) := by
  have hl := latency_word ht
  cases i <;> simp only [exact32, reduceCtorEq, Option.some.injEq, Prod.mk.injEq] at hx <;> obtain ⟨rfl, rfl⟩ := hx
  case add => exact binary_word hr ht hl fun l => addE_word ht _ _
  case sub => exact binary_word hr ht hl fun l => subE_word ht _ _
  case mul => exact binary_word hr ht hl fun l => mulE_word ht _ _
  case mad => exact ternary_word hr ht hl fun l => madE_word ht _ _ _
  case msb => exact ternary_word hr ht hl fun l => msbE_word ht _ _ _
  case addi => exact immOp_word hr ht hl fun l => addE_word ht _ _
  case muli => exact immOp_word hr ht hl fun l => mulE_word ht _ _

/-- The word of an instruction that honours SAT is its exact result modulo 2^32, however its operands are read. -/
theorem word32_of_exact32 {v : Word → Int} (hv : ∀ w, BitVec.ofInt 32 (v w) = w) {d : Reg} {f : Nat → Int}
    (hx : exact32 s p v i = some (d, f)) : word32 s p i = some (d, fun l => BitVec.ofInt 32 (f l)) := by
  cases i <;> simp only [exact32, reduceCtorEq, Option.some.injEq, Prod.mk.injEq] at hx <;> obtain ⟨rfl, rfl⟩ := hx <;>
    simp only [word32, BitVec.ofInt_add, BitVec.ofInt_mul, BitVec.ofInt_neg, Int.sub_eq_add_neg, BitVec.sub_eq_add_neg, hv]

/-- An integer instruction with SAT = 0 delivers its word. -/
theorem exec_word32 {d : Reg} {f : Nat → Word} (hw : word32 s p i = some (d, f)) (hr : Runs s p i) (ht : p.ty.toNat ≤ 1)
    (hs : satOf p.g.gmode = false) : exec i s = .next (s.deliverWords p d f) := by
  cases hx : exact32 s p (fun w => elInt p.g.gmode w.toNat) i with
  | some e =>
    have he := Option.some.inj (hw.symm.trans (word32_of_exact32 (ofInt_elInt ht) hx))
    obtain ⟨rfl, rfl⟩ := Prod.mk.inj he
    simpa only [delivered_modulo hs] using exec_exact32 hr ht hx
  | none =>
    have hl := latency_word ht
    cases i <;> simp only [exact32, word32, reduceCtorEq, Option.some.injEq, Prod.mk.injEq] at hx hw <;> obtain ⟨rfl, rfl⟩ := hw
    case and => exact binary_word hr ht hl fun l => rfl
    case or => exact binary_word hr ht hl fun l => rfl
    case xor => exact binary_word hr ht hl fun l => rfl
    case andn => exact binary_word hr ht hl fun l => andnE_word ht _ _
    case shl => exact binary_word hr ht hl fun l => shlE_word ht _ _
    case shr => exact binary_word hr ht hl fun l => shrE_word ht _ _
    case sha => exact binary_word hr ht hl fun l => shaE_word ht _ _
    case rot => exact binary_word hr ht hl fun l => rotE_word ht _ _
    case mov => exact execMov_word hr ht hl rfl
    case not => exact unary_word hr ht hl fun l => notE_word ht _
    case neg => exact unary_word hr ht hl fun l => negE_word ht _ hs
    case andi => exact immOp_word hr ht hl fun l => rfl
    case ori => exact immOp_word hr ht hl fun l => rfl
    case xori => exact immOp_word hr ht hl fun l => rfl
    case shli => exact immOp_word hr ht hl fun l => shlE_word ht _ _
    case shri => exact immOp_word hr ht hl fun l => shrE_word ht _ _
    case shai => exact immOp_word hr ht hl fun l => shaE_word ht _ _

theorem integerWordsModulo : Claim.IntegerWordsModulo := by
  unfold Claim.IntegerWordsModulo
  intro s p i d f hw hr ht hs
  obtain ⟨h, honly, hlands, hh⟩ := deliverWords_spec hr d f
  exact ⟨_, h, exec_word32 hw hr ht hs, honly, hlands, hh⟩

theorem saturatingWordsClamp : Claim.SaturatingWordsClamp := by
  unfold Claim.SaturatingWordsClamp
  intro s p i d f hr hs
  constructor
  · intro ht hx
    obtain ⟨h, honly, hlands, hh⟩ := deliverWords_spec hr d fun l => BitVec.ofInt 32 (max (-2 ^ 31) (min (2 ^ 31 - 1) (f l)))
    have he := exec_exact32 hr (by simp [ht]) ((elInt_signed ht).symm ▸ hx)
    simp only [delivered_clamp_signed ht hs] at he
    exact ⟨_, h, he, honly, hlands, hh⟩
  · intro ht hx
    obtain ⟨h, honly, hlands, hh⟩ := deliverWords_spec hr d fun l => BitVec.ofInt 32 (max 0 (min (2 ^ 32 - 1) (f l)))
    have he := exec_exact32 hr (by simp [ht]) ((elInt_unsigned ht).symm ▸ hx)
    simp only [delivered_clamp_unsigned ht hs] at he
    exact ⟨_, h, he, honly, hlands, hh⟩

/-- Settles O8: an instruction that honours SAT by its exact result (exec_exact32), the others word by word (exec_word32). -/
theorem integerResults : Obligations.IntegerResults := ⟨integerWordsModulo, saturatingWordsClamp⟩

end Sys2Proof.Machine
end

section
/-! SUPPORT. TRAP and YIELD (R118 to R120). -/

namespace Sys2Proof.Machine
open Sys2Proof

theorem trapRaisesUserTrap : Claim.TrapRaisesUserTrap := fun _ _ _ hr => hr.issue _

theorem yieldParksOnTheGate : Claim.YieldParksOnTheGate := by
  unfold Claim.YieldParksOnTheGate
  intro s p b gate off hr hb hone hgate
  show execYield gate off s = _
  rw [execYield, hr.issue, hb]
  dsimp only
  rw [if_neg (not_not.mpr hone), if_neg (Nat.not_le.mpr hgate), State.modGang_party hr.gang]
  simp [State.sendGate, State.sendGateAfter]

/-- Settles O19: either instruction, once it runs, has its own effect at once (Runs.issue). -/
theorem trapAndYield : Obligations.TrapAndYield := ⟨trapRaisesUserTrap, yieldParksOnTheGate⟩

end Sys2Proof.Machine
end

section
/-! SUPPORT. WRP of BDBOARD where another party of the gang waits for a counter that lies in the board's image (R327, R403, R415). -/

namespace Sys2Proof.Machine
open Sys2Proof

/-- A gang in supervisor mode with 0x401 in s0:s1. Party 1 waits for a counter at 0x400 that stands at its value. -/
def counterInBoardGang : Gang :=
  { super := true, sregs := [(0, 0x401)]
    quads := [{ present := true, active := 0xF }, { present := true, party := 1, park := .ctrw 0x400 0 (some false) false }] }

/-- Core 0 runs that gang, its party 0 is executing, and no block is resident. -/
def counterInBoard : State := { State.reset with cores := [(0, { gangs := [(0, counterInBoardGang)] })], cur := some ⟨0, 0, 0⟩ }

theorem counterInBoard_runs_wrp : Runs counterInBoard ⟨0, 0, 0, counterInBoardGang⟩ (.wrp 0x60 0x0A8) :=
  ⟨rfl, by decide, by decide, by decide⟩

/-- What quad 1 of the gang in slot 0 of core 0 waits for after an outcome. -/
def quadOneParkAfter : Result → Option Park
  | .next t => (t.gangAt 0 0).map fun g => (g.quad 1).park
  | _ => none

/-- The new board's image is written to 0x400, where the counter has then reached its value. -/
theorem counterInBoard_wrp : quadOneParkAfter (exec (.wrp 0x60 0x0A8) counterInBoard) = some (.ctrw 0x400 0 (some true) false) := by
  decide +kernel

/-- Refutes O24: a WRP of BDBOARD writes the image of the board, which resumes a party whose counter lies in its lines and stands at its value.
Where that party belongs to the writing gang, its park changes, and the statement lets only the trap registers and the writing party change. -/
theorem not_coreAndPackageRegisters : ¬ Obligations.CoreAndPackageRegisters := by
  unfold Obligations.CoreAndPackageRegisters
  rintro ⟨-, ⟨-, writes⟩, -⟩
  obtain ⟨t, h, ht, hg, -, hframe⟩ := writes counterInBoard ⟨0, 0, 0, counterInBoardGang⟩ 0x60 0x0A8 0x401 (by decide) counterInBoard_runs_wrp
    (by decide) (by decide) (by decide) (fun _ => rfl) (by decide)
  have hpark := counterInBoard_wrp
  have hquads : h.quads = (Party.moved ⟨0, 0, 0, counterInBoardGang⟩ counterInBoard).quads := by rw [hframe]
  rw [ht, quadOneParkAfter, hg, Option.map_some, Gang.quad, hquads] at hpark
  exact absurd hpark (by decide)

end Sys2Proof.Machine
end

section
/-! SUPPORT. What a change of a gang leaves of its core, and what a change of a party leaves of its gang. -/

namespace Sys2Proof.Machine
open Sys2Proof

/-! ### The gang's part of a core -/

/-- A change of a gang changes nothing of its core but the gangs. -/
theorem State.coreAt_modGang (s : State) (core slot : Nat) (f : Gang → Gang) (k : Nat) :
    (s.modGang core slot f).coreAt k = { s.coreAt k with gangs := ((s.modGang core slot f).coreAt k).gangs } := by
  cases hg : s.gangAt core slot with
  | none => rw [State.modGang_none f hg]
  | some g =>
    rw [State.modGang_eq f hg]
    by_cases hk : k = core
    · subst hk
      rw [State.coreAt_modCore_self]
    · rw [State.coreAt_modCore_ne _ _ hk]

@[simp] theorem State.port_modGang (s : State) (core slot : Nat) (f : Gang → Gang) (k : Nat) :
    ((s.modGang core slot f).coreAt k).port = (s.coreAt k).port := by rw [State.coreAt_modGang]

/-! ### The quads of a party -/

/-- A quad that is not of the party stays as it is. -/
theorem Gang.quad_mapParty_of_not_mem {g : Gang} {lead j : Nat} (f : Quad → Quad) (h : j ∉ g.members lead) :
    (g.mapParty lead f).quad j = g.quad j := by
  rw [Gang.mapParty_eq, Gang.quad_mapQuads]
  simp only [h, if_false]
  split
  · rfl
  · next hj => simp [Gang.quad, List.getElem?_eq_none (Nat.le_of_not_lt hj)]

theorem Gang.members_of_quads {g h : Gang} (hq : h.quads = g.quads) (lead : Nat) : h.members lead = g.members lead := by
  simp only [Gang.members, Gang.unretired, Gang.quad, hq]

/-- The end of an instruction changes only its party's quads, and leaves whose they are. -/
theorem Gang.moved_quads (g : Gang) (lead now : Nat) (r : Bool) :
    ∃ f, KeepsParty (fun _ => f) ∧ (g.moved lead now r).quads = (g.mapParty lead f).quads := by
  cases r with
  | false => exact ⟨fun q => { q with pc := succPc (g.quad lead).pc, last := some now }, fun _ _ => ⟨rfl, rfl, rfl⟩, rfl⟩
  | true =>
    simp only [Gang.moved, if_true]
    split
    · exact ⟨fun q => { q with last := some now }, fun _ _ => ⟨rfl, rfl, rfl⟩, rfl⟩
    · exact ⟨fun q => { q with pc := succPc (g.quad lead).pc, last := some now }, fun _ _ => ⟨rfl, rfl, rfl⟩, rfl⟩

theorem Gang.members_moved (g : Gang) (lead now : Nat) (r : Bool) (k : Nat) : (g.moved lead now r).members k = g.members k := by
  obtain ⟨f, hf, hq⟩ := g.moved_quads lead now r
  exact (Gang.members_of_quads hq k).trans (Gang.members_mapParty hf k)

end Sys2Proof.Machine
end

section
/-! SUPPORT. CTRW, CTRT and CTRRD (R200, R304, R327). -/

namespace Sys2Proof.Machine
open Sys2Proof

variable {s : State} {p : Party}

/-! ### What a counter sub-op does at its issue -/

/-- A counter sub-op without a writing lane only goes on. -/
theorem Runs.counterOp_idle {i : Instr} (hr : Runs s p i) (a : Reg) (f : Party → Nat → State) (ho : p.once = false) :
    counterOp i a f s = .next (s.withGangOf p (p.moved s)) := by
  rw [counterOp, hr.issue]
  dsimp only
  rw [if_pos (by simp [ho]), State.advance_only hr.gang]

/-- A counter sub-op with a writing lane and an address that its core may ask for has its effect. -/
theorem Runs.counterOp {i : Instr} (hr : Runs s p i) (a : Reg) (f : Party → Nat → State) (ho : p.once = true)
    (hg : globalTrap (s.coreAt p.core) 1 8 [(0, s.uniform p a 2)] = none) : counterOp i a f s = .next (f p (s.uniform p a 2)) := by
  rw [Machine.counterOp, hr.issue]
  dsimp only
  rw [if_neg (by simp [ho]), hg]

/-! ### A counter read on its way -/

/-- A request joins the queue of its core's port, and nothing else of the cores changes. -/
theorem State.toPort_cores (s : State) (core cost : Nat) (e : Instr) :
    (s.toPort core cost e).cores = (s.modCore core fun c => { c with port := { c.port with queue := c.port.queue ++ [(cost, e)] } }).cores := by
  unfold State.toPort State.active
  split <;> dsimp only <;> split <;> rfl

theorem State.toPort_now (s : State) (core cost : Nat) (e : Instr) : (s.toPort core cost e).now = s.now := by
  unfold State.toPort State.active
  split <;> dsimp only <;> split <;> rfl

theorem State.gangAt_toPort (s : State) (k cost : Nat) (e : Instr) (core slot : Nat) : (s.toPort k cost e).gangAt core slot = s.gangAt core slot := by
  rw [State.gangAt_of_cores (State.toPort_cores ..), State.gangAt_modCore _ _ fun _ => by rfl]

theorem State.queue_toPort (s : State) (core cost : Nat) (e : Instr) :
    ((s.toPort core cost e).coreAt core).port.queue = (s.coreAt core).port.queue ++ [(cost, e)] := by
  rw [State.coreAt_of_cores (State.toPort_cores ..), State.coreAt_modCore_self]

/-- CTRT and CTRRD: the read is outstanding and at the port, and the party, which has gone on, is held. -/
theorem State.counterRead_spec (hg : s.gangAt p.core p.slot = some p.g) (regs : List Nat) (va : Nat) (test : Option (Nat × Nat × BitVec 32))
    (d : Reg) :
    (s.counterRead p regs va test d).gangAt p.core p.slot = some
      (({ p.moved s with pend := p.g.pend ++ [⟨s.fresh, p.lead, regs, p.g.super, .counter va test d⟩] } : Gang).mapParty p.lead
        fun q => { q with park := .hold false }) ∧
    ((s.counterRead p regs va test d).coreAt p.core).port.queue = (s.coreAt p.core).port.queue ++
      [(2, .homeRequest ⟨5, va, false, false, .port p.core (.pend p.slot s.fresh), [], 0⟩)] := by
  unfold State.counterRead State.portHome
  extract_lets id s1 op s2 s3
  have hs1 : s1 = (s.withGangOf p { p.g with pend := p.g.pend ++ [⟨s.fresh, p.lead, regs, p.g.super, .counter va test d⟩] }).bump :=
    State.addPend_party hg ..
  have hg3 : s3.gangAt p.core p.slot = some { p.g with pend := p.g.pend ++ [⟨s.fresh, p.lead, regs, p.g.super, .counter va test d⟩] } := by
    rw [State.gangAt_toPort, State.gangAt_modCore _ _ fun _ => by rfl, hs1, State.gangAt_bump, State.gangAt_withGangOf hg]
  have hn3 : s3.now = s.now := by
    rw [State.toPort_now, State.modCore_now, hs1, State.bump_now, State.withGangOf_now]
  rw [State.advance_eq (s := s) hg3 ?quads hn3, Gang.moved_pend, State.park, State.modGang_modGang]
  case quads => rfl
  constructor
  · rw [State.gangAt_modGang_self, hg3]
    rfl
  · rw [State.port_modGang, State.queue_toPort, State.coreAt_modCore_self, hs1, State.coreAt_bump, State.withGangOf, State.port_modGang]
    rfl

/-- The quads of a party that has gone on and is then held. -/
theorem Party.quad_held (p : Party) (s : State) (pend : List Pend) (j : Nat) :
    (({ p.moved s with pend := pend } : Gang).mapParty p.lead fun q => { q with park := .hold false }).quad j =
      if j ∈ p.g.members p.lead then { (p.moved s).quad j with park := .hold false } else (p.moved s).quad j := by
  have hm : ({ p.moved s with pend := pend } : Gang).members p.lead = p.g.members p.lead := Gang.members_moved ..
  split
  · next hj => exact Gang.quad_mapParty _ (hm ▸ hj)
  · next hj => exact Gang.quad_mapParty_of_not_mem _ (hm ▸ hj)

theorem counterSubops : Claim.CounterSubops := by
  unfold Claim.CounterSubops
  intro s p d a va hva htrap
  subst hva
  refine ⟨fun ho i hi hr => ?_, fun ho hr => ?_, fun ho i hi hr => ?_⟩
  · simp only [List.mem_cons, List.not_mem_nil, or_false] at hi
    rcases hi with rfl | rfl | rfl
    · exact show execCtrw d a s = _ by rw [execCtrw, hr.counterOp_idle a _ ho]
    · exact show execCtrt d a s = _ by rw [execCtrt, hr.counterOp_idle a _ ho]
    · exact show execCtrrd d a s = _ by rw [execCtrrd, hr.counterOp_idle a _ ho]
  · refine ⟨_, show execCtrw d a s = _ by rw [execCtrw, hr.counterOp a _ ho htrap], ?_⟩
    rw [State.modGang_party hr.gang]
    exact ⟨OnlyGang.of_eq hr.gang (s.agenda ++ [(s.now + 1 + Config.latency s.fresh, .ctrwWake p.core p.slot p.lead)]) (s.fresh + 1)
      (by simp [State.later]), s.now + 1 + Config.latency s.fresh, by omega, by simp⟩
  · simp only [List.mem_cons, List.not_mem_nil, or_false] at hi
    rcases hi with rfl | rfl
    · obtain ⟨hgang, hqueue⟩ := State.counterRead_spec hr.gang (if d.toNat % 8 = 7 then [] else [128 + d.toNat % 8]) (s.uniform p a 2)
        (some (d.toNat % 8, s.uniform p a 4 / 2 ^ 64, p.writing)) d
      exact ⟨_, _, _, _, show execCtrt d a s = _ by rw [execCtrt, hr.counterOp a _ ho htrap], hgang, fun _ => ⟨rfl, rfl⟩,
        nofun, rfl, Party.quad_held _ _ _, hqueue⟩
    · obtain ⟨hgang, hqueue⟩ := State.counterRead_spec hr.gang (resultCodes d 2) (s.uniform p a 2) none d
      exact ⟨_, _, _, _, show execCtrrd d a s = _ by rw [execCtrrd, hr.counterOp a _ ho htrap], hgang, nofun,
        fun _ => ⟨rfl, rfl⟩, rfl, Party.quad_held _ _ _, hqueue⟩

/-! ### The end of a wait -/

theorem counterWaitEnds : Claim.CounterWaitEnds := by
  unfold Claim.CounterWaitEnds
  intro s s' core slot lead va value g seen stay hg hpark htrap
  have hx : exec (.ctrwWake core slot lead) s = execCtrwWake core slot lead s := rfl
  rw [hx, execCtrwWake, hg]
  dsimp only
  rw [hpark]
  dsimp only
  refine ⟨fun hh => by simp [hh], fun hh hseen hhome hcheck htickets hs' => ?_, fun hh hseen => ?_⟩
  · subst hs'
    have hticket : (s.tickets.any fun t => t.region == regionOf va && t.writer.isSome) = false := by
      simpa using fun t ht hr => htickets t ht hr
    simp only [htrap, hh, hseen, hhome, hcheck, hticket, Option.isSome_none, Bool.or_self, Bool.false_eq_true, Bool.not_true, if_false]
    exact ⟨fun h => if_pos h, fun h => if_neg (Nat.not_lt.mpr h)⟩
  · simp only [htrap, hh, hseen, Option.isSome_none, Bool.or_self, Bool.false_eq_true, if_false, if_true, State.ctrwGoesOn]
    exact ⟨fun hp => by simp [hp], fun hp hacq => by simp [hp, show (s.acquire core 3#3).2 = true from hacq]⟩

/-- Settles O32: the sub-ops by what counterOp does with a writing lane and without, the wait by the branches of its wake-up. -/
theorem countersAreReadAndAwaited : Obligations.CountersAreReadAndAwaited := ⟨counterSubops, counterWaitEnds⟩

end Sys2Proof.Machine
end

section
/-! SUPPORT. A YIELD whose continuation is a pace word, in a domain without a TRAPVEC (R43, R120, R343, R348). -/

namespace Sys2Proof.Machine
open Sys2Proof

/-- A gang whose one party has yielded on gate 0 with continuation 0, a pace word. -/
def paceYieldGang : Gang := { quads := [{ present := true, active := 0xF, park := .yield 0 (.waits false) 0 }] }

/-- Block 0 of core 0, whose gate 0 has advanced to phase 1. -/
def advancedBlock : Block :=
  { key := 0, launch := 0, bid := 0, core := 0, pair := false, domain := 0, prio := 0, placedAt := 0, ngates := 1, slots := (0, 0)
    scrSize := 0, scrKiB := (0, 0), scr := [], scrB := [], gates := [{ phase := true }], gateIn := [], shared := [], shWrites := []
    trees := [], saved := [], resident := true }

/-- Core 0 runs that gang of that block, and no domain has a TRAPVEC. -/
def paceYield : State := { State.reset with cores := [(0, { gangs := [(0, paceYieldGang)] })], blocks := [advancedBlock] }

/-- Whether slot 0 of core 0 holds a gang after an outcome. -/
def gangStaysAfter : Result → Option Bool
  | .next t => some (t.gangAt 0 0).isSome
  | _ => none

/-- The wait ends with PACETARGET at the continuation, and without a TRAPVEC that trap kills the block. -/
theorem paceYield_wake : gangStaysAfter (exec (.gateWaiterWake 0 0) paceYield) = some false := by decide +kernel

/-- Refutes O25: the clause of YIELD asks for the gang after the wake whatever the continuation is. At a pace word the wake traps PACETARGET, and
in a domain without a valid TRAPVEC the trap kills the block and frees the gang's slot. -/
theorem not_gatesCountAndWake : ¬ Obligations.GatesCountAndWake := by
  unfold Obligations.GatesCountAndWake
  rintro ⟨-, wakes⟩
  obtain ⟨T, h, hT, hg, -⟩ := (wakes paceYield 0 0 0 0 0 advancedBlock paceYieldGang false rfl rfl rfl rfl rfl rfl (by decide) (by decide)
    (by decide) (by decide)).1 0 rfl
  have hgone := paceYield_wake
  rw [hT, gangStaysAfter, hg] at hgone
  simp at hgone

end Sys2Proof.Machine
end

section
/-! SUPPORT. The entry of the trap handler, the kill of a block, and ERET (R51, R101, R173, R343 to R348). -/

namespace Sys2Proof.Machine
open Sys2Proof

variable {s t : State} {core slot : Nat} {g : Gang} {p : Party}

/-! ### The entry of the handler -/

theorem vectorPc_of_valid {v : Addr} (h : v.getLsbD 0 = true) : vectorPc v = some (v &&& ~~~ 3#64) := if_pos h

theorem vectorPc_of_invalid {v : Addr} (h : v.getLsbD 0 = false) : vectorPc v = none := if_neg (h ▸ Bool.false_ne_true)

theorem State.trapVec_eq {b : Block} (hb : s.blockAt g.blk = some b) : s.trapVec g = (s.domainAt b.domain).trapvec := by
  rw [State.trapVec, hb]

/-- A quad that takes part in the handler: every lane active, at its PC, with an empty stack (R343). -/
theorem handlerQuads_unretired {q : Nat} (h : g.unretired q = true) (pc : Addr) (now : Nat) :
    ((handlerQuads g pc now).getD q {}).pc = pc ∧ ((handlerQuads g pc now).getD q {}).active = 0xF ∧
      ((handlerQuads g pc now).getD q {}).stack = [] ∧ ((handlerQuads g pc now).getD q {}).park = .none := by
  simp [handlerQuads, h, List.getD_eq_getElem?_getD, List.getElem?_mapIdx, List.getElem?_eq_getElem (Gang.lt_of_unretired h)]

theorem Trap.isPreempt_iff (t : Trap) : t.code.toNat = xPreempt ↔ t.code = 0x08 := by
  rw [← BitVec.toNat_inj]
  rfl

/-- With a valid TRAPVEC the gang enters its handler there. -/
theorem State.enterTrap_valid {pc : Addr} (hg : s.gangAt core slot = some g) (hv : vectorPc (s.trapVec g) = some pc) (hpc : badPc pc = false)
    (t : Trap) : TrapEntered s (s.enterTrap core slot t) core slot g t pc := by
  obtain ⟨pend, hd⟩ := State.gangAt_dropWaits hg
  unfold State.enterTrap
  rw [hg]
  dsimp only
  rw [hv]
  dsimp only
  rw [if_neg (by simp [hpc])]
  refine ⟨_, by rw [State.gangAt_modGang_self, hd, Option.map_some], ?_, fun h => ?_, fun v h => ?_, fun q h => ?_⟩
  · simp only [Trap.isPreempt_iff]
  · simp [h]
  · simp [h]
  · exact handlerQuads_unretired (g := { g with pend := pend }) (show g.unretired q = true by simp [Gang.unretired, h.1, h.2]) pc s.now

/-- Without one its block is killed with the trap's code (R343). -/
theorem State.enterTrap_invalid (hg : s.gangAt core slot = some g) (hv : vectorPc (s.trapVec g) = none) (t : Trap) :
    s.enterTrap core slot t = s.killBlock g.blk 4 t.code.toNat t.info.toNat := by
  simp [State.enterTrap, hg, hv]

/-- A trap in handler context, of a gang with register writes still to land, and of one that is quiet (R343). -/
theorem State.takeTrap_cases (hg : s.gangAt core slot = some g) (hr : g.rolling = none) (hd : g.redo = false) (t : Trap) :
    (g.super = true → s.takeTrap core slot t = s.killBlock g.blk 4 0x2D t.info.toNat) ∧
    (g.super = false → g.quiet = false → s.takeTrap core slot t = s.modGang core slot fun g => { g with trap := some t }) ∧
    (g.super = false → g.quiet = true → s.takeTrap core slot t = s.enterTrap core slot t) := by
  simp only [State.takeTrap, hg, hr, hd]
  exact ⟨fun hs => by simp [hs, xNested], fun hs hq => by simp [hs, hq], fun hs hq => by simp [hs, hq]⟩

/-- A trap that waits, when its entry is looked at (R343, R347). -/
theorem exec_trapEntry_cases (hg : s.gangAt core slot = some g) (hr : g.rolling = none) (hd : g.redo = false) {t : Trap} (ht : g.trap = some t) :
    (t.code = 0x08 → g.late ≠ [] → g.quiet = true → g.super = false → exec (.trapEntry core slot) s = .next (s.lateTrap core slot)) ∧
    (g.quiet = false → exec (.trapEntry core slot) s = .next s) ∧
    (g.quiet = true → g.super = true → exec (.trapEntry core slot) s = .next (s.killBlock g.blk 4 0x2D t.info.toNat)) ∧
    ((t.code = 0x08 → g.late = []) → g.quiet = true → g.super = false → exec (.trapEntry core slot) s = .next (s.enterTrap core slot t)) := by
  have hx : exec (.trapEntry core slot) s = execTrapEntry core slot s := rfl
  simp only [hx, execTrapEntry, hg, hr, hd, ht, Trap.isPreempt_iff]
  refine ⟨fun hc hl hq hs => ?_, fun hq => ?_, fun hq hs => ?_, fun hl hq hs => ?_⟩
  · simp [hq, hs, hc, hl]
  · simp [hq]
  · simp [hq, hs, xNested]
  · have hno : ¬ (t.code = 0x08 ∧ g.late.isEmpty = false) := fun h => by simp [hl h.1] at h
    simp only [hq, hs, if_neg hno, Option.isSome_none, Bool.or_self, Bool.not_true, Bool.false_eq_true, if_false]

/-! ### The kill of a block -/

theorem foldl_launches {α : Type} {f : State → α → State} (l : List α) (hf : ∀ s x, (f s x).launches = s.launches) (s : State) :
    (l.foldl f s).launches = s.launches := by
  induction l generalizing s with
  | nil => rfl
  | cons x l ih => exact (ih (f s x)).trans (hf s x)

theorem OnlyAgenda.launches (h : OnlyAgenda s t) : t.launches = s.launches := by rw [h]

theorem State.wake_launches (s : State) (core : Nat) : (s.wake core).launches = s.launches := (State.wake_onlyAgenda s core).launches

theorem State.freeSlot_launches (s : State) (core slot blk : Nat) : (s.freeSlot core slot blk).launches = s.launches := by
  rw [State.freeSlot, State.wake_launches, State.modCore_launches]

theorem State.discard_launches (s : State) (core : Nat) (q : LeatEntry → Bool) : (s.discard core q).launches = s.launches := by
  unfold State.discard
  dsimp only
  split
  · rfl
  · rw [State.wake_launches, foldl_launches _ fun _ _ => State.at_launches ..]
    rfl

theorem State.dropSavedHandler_launches (s : State) (key : Nat) : (s.dropSavedHandler key).launches = s.launches := by
  unfold State.dropSavedHandler
  split
  · rfl
  · split <;> rfl

/-- The end of a block changes no launch. -/
theorem State.dropBlock_launches (s : State) (key : Nat) : (s.dropBlock key).launches = s.launches := by
  unfold State.dropBlock
  dsimp only
  rw [State.dropSavedHandler_launches, foldl_launches _ fun _ _ => ?engines, foldl_launches _ fun _ _ => State.discard_launches ..]
  case engines => rfl
  dsimp only
  rw [foldl_launches _ fun _ _ => State.freeSlot_launches .., foldl_launches _ fun _ _ => State.modCore_launches ..]

/-- A kill changes the launches by its own failure only. -/
theorem State.killBlock_launches {key : Nat} {b : Block} (hb : s.blockAt key = some b) (status code info : Nat) :
    (s.killBlock key status code info).launches = (s.failLaunch b.launch b.bid status code info).launches := by
  rw [State.killBlock, hb]
  dsimp only
  rw [State.at_launches, foldl_launches _ fun _ _ => State.dropBlock_launches .., State.dropBlock_launches]

/-- The first kill of a launch stands (R348). -/
theorem killBlock_recordsFirst {key code info : Nat} {b : Block} {l : Launch} (hb : s.blockAt key = some b)
    (hl : s.launches.find? (·.idx == b.launch) = some l) :
    ∃ l', (s.killBlock key 4 code info).launches.find? (·.idx == b.launch) = some l' ∧
      (l.state = 4 → l'.xcode = l.xcode ∧ l'.xinfo = l.xinfo ∧ l'.badBlock = l.badBlock ∧ l'.status = l.status) ∧
      (l.state ≠ 4 → l'.state = 4 ∧ l'.status = 4 ∧ l'.xcode = word code ∧ l'.xinfo = word info ∧ l'.badBlock = word b.bid) := by
  rw [State.killBlock_launches hb, State.failLaunch]
  dsimp only
  rw [find?_replaceFirst, hl]
  case hf =>
    intro x
    split <;> rfl
  refine ⟨_, rfl, fun h => ?_, fun h => ?_⟩
  · simp [h]
  · simp [h]

theorem trapsEnterTheHandler : Claim.TrapsEnterTheHandler := by
  unfold Claim.TrapsEnterTheHandler
  refine ⟨fun s core slot g bl v t hg hb hv hr hd => ?_, fun s key code info b l hb hl => ⟨State.killBlock_blocks hb, killBlock_recordsFirst hb hl⟩⟩
  obtain rfl : v = s.trapVec g := hv.trans (State.trapVec_eq hb).symm
  obtain ⟨hnested, hwaits, henters⟩ := State.takeTrap_cases hg hr hd t
  refine ⟨fun ht hc hl hq hs => (exec_trapEntry_cases hg hr hd ht).1 hc hl hq hs, fun ht hl => ?_, hnested, hwaits, fun hs hq h0 hpc => ?_⟩
  · obtain ⟨-, hstays, hkill, hgo⟩ := exec_trapEntry_cases hg hr hd ht
    refine ⟨hstays, hkill, fun hq hs h0 => ?_, fun hq hs h0 hpc => ⟨_, hgo hl hq hs, ?_⟩⟩
    · rw [hgo hl hq hs, State.enterTrap_invalid hg (vectorPc_of_invalid h0)]
    · exact State.enterTrap_valid hg (vectorPc_of_valid h0) hpc t
  · rw [henters hs hq]
    exact State.enterTrap_valid hg (vectorPc_of_valid h0) hpc t

/-! ### ERET -/

/-- Nothing differs but entries put on the agenda after the others. -/
def Appends (s t : State) : Prop := ∃ l, t = { s with agenda := s.agenda ++ l }

theorem Appends.refl (s : State) : Appends s s := ⟨[], by simp⟩

theorem Appends.at (s : State) (c : Nat) (e : Instr) : Appends s (s.at c e) := ⟨[(c, e)], rfl⟩

theorem Appends.trans {s t u : State} (h : Appends s t) (h' : Appends t u) : Appends s u := by
  obtain ⟨l, rfl⟩ := h
  obtain ⟨l', rfl⟩ := h'
  exact ⟨l ++ l', by simp⟩

theorem Appends.ite {s t u : State} (c : Prop) [Decidable c] (h : Appends s t) (h' : Appends s u) : Appends s (if c then t else u) := by
  split
  · exact h
  · exact h'

theorem Appends.foldl {α : Type} {f : State → α → State} (hf : ∀ s x, Appends s (f s x)) (l : List α) (s : State) : Appends s (l.foldl f s) := by
  induction l generalizing s with
  | nil => exact .refl s
  | cons x l ih => exact (hf s x).trans (ih (f s x))

theorem Appends.mem (h : Appends s t) {e : Nat × Instr} (he : e ∈ s.agenda) : e ∈ t.agenda := by
  obtain ⟨l, rfl⟩ := h
  exact List.mem_append_left _ he

theorem Appends.frame (h : Appends s t) : t = { s with agenda := t.agenda } := by
  obtain ⟨l, rfl⟩ := h
  rfl

theorem Appends.now (h : Appends s t) : t.now = s.now := by rw [h.frame]

/-- What the parties wait for is looked at again, and nothing else happens (R346). -/
theorem State.repark_appends (s : State) (core slot : Nat) : Appends s (s.repark core slot) := by
  unfold State.repark
  split
  · exact .refl s
  · refine .foldl (fun s lead => ?_) _ s
    split
    · exact .at ..
    · exact .at ..
    · exact .at ..
    · exact .at ..
    · exact .at ..
    · exact .at ..
    · exact .refl s

/-- A held quad as the end of a handler leaves it: the party `lead`, which the trap struck, stands at `target`, and every party's pace counts from
now (R51, R346). -/
def Quad.resumed (q : Quad) (lead : Nat) (target : Addr) (now : Nat) : Quad :=
  { q with pc := if q.present && !q.retired && q.party.toNat == lead then target else q.pc
           park := if q.park = .hold true then .none else q.park
           last := some now, wake := now + 1 }

theorem resumeQuads_eq (held : List Quad) (lead : Nat) (pc : Addr) (rep : Word) (now : Nat) :
    resumeQuads held lead pc rep now = held.map fun q => q.resumed lead (if repArmed rep then succPc pc else pc) now := by
  refine List.map_congr_left fun q _ => ?_
  unfold Quad.resumed
  by_cases hp : q.park = .hold true
  · simp only [hp, if_true]
    split <;> rfl
  · simp only [hp, if_false]
    split <;> rfl

/-- The gang once it has left its trap handler (R346). -/
def Gang.leftHandler (g : Gang) (held : List Quad) (now : Nat) : Gang :=
  { g with rep := g.xr.xrep, repLead := g.heldLead, gmode := g.xr.xmode, routes := g.xr.xroute, held := none, super := false
           quads := resumeQuads held g.heldLead g.xr.xpc g.xr.xrep now, pre := g.pre.left }

/-- A mark counts as set now and takes in the entries of `seq` and after (R173; log entry 97). -/
def Gang.markedAnew (g : Gang) (now : Nat) (seq : Word) : Gang :=
  match g.mark with
  | none => g
  | some m => { g with mark := some { m with setAt := now, seq := seq }, settled := none }

/-- The gang after ERET: its mark counts as set now where it was restored. -/
def Gang.afterEret (g : Gang) (held : List Quad) (now : Nat) (seq : Word) : Gang :=
  if g.pre.restoring then (g.leftHandler held now).markedAnew now seq else g.leftHandler held now

/-- The gang after ERET, field by field. -/
theorem Gang.afterEret_eq (g : Gang) (held : List Quad) (now : Nat) (seq : Word) : g.afterEret held now seq =
    { g with
      rep := g.xr.xrep, repLead := g.heldLead, gmode := g.xr.xmode, routes := g.xr.xroute, held := none, super := false
      quads := resumeQuads held g.heldLead g.xr.xpc g.xr.xrep now
      mark := if g.pre.restoring = true then g.mark.map fun m => { m with setAt := now, seq := seq } else g.mark
      settled := if g.pre.restoring = true ∧ g.mark ≠ none then none else g.settled
      pre := g.pre.left } := by
  unfold Gang.afterEret Gang.markedAnew Gang.leftHandler
  cases g.pre.restoring with
  | false => simp only [Bool.false_eq_true, if_false, false_and]
  | true =>
    cases g.mark with
    | none => simp only [if_true, Option.map_none, ne_eq, not_true_eq_false, and_false, if_false]
    | some m => simp only [if_true, Option.map_some, ne_eq, reduceCtorEq, not_false_eq_true, and_self]

/-- The mark of a restored gang is set anew, and settles after 96 clocks (R173). -/
theorem State.resetMark_withGangOf (hg : s.gangAt p.core p.slot = some p.g) (h : Gang) :
    Appends (s.withGangOf p (h.markedAnew s.now (s.coreAt p.core).leatSeq)) ((s.withGangOf p h).resetMark p.core p.slot) ∧
      (h.mark ≠ none → (s.now + 96, .markSettle p.core p.slot s.now) ∈ ((s.withGangOf p h).resetMark p.core p.slot).agenda) := by
  have hseq : ((s.withGangOf p h).coreAt p.core).leatSeq = (s.coreAt p.core).leatSeq := by rw [State.withGangOf, State.coreAt_modGang]
  unfold State.resetMark
  rw [State.gangAt_withGangOf hg, Option.bind_some]
  cases hm : h.mark with
  | none =>
    simp only [Gang.markedAnew, hm]
    exact ⟨.refl _, fun h => absurd rfl h⟩
  | some m =>
    simp only [Gang.markedAnew, hm, State.modGang_withGangOf, hseq, State.withGangOf_now]
    exact ⟨.at .., fun _ => by simp⟩

/-- What ERET does where no restored PC traps (R345, R346). -/
theorem State.leaveTrap_spec (hg : s.gangAt p.core p.slot = some p.g) {held : List Quad} (hh : p.g.held = some held)
    (hpc : badPc p.g.xr.xpc = false) :
    Appends (s.withGangOf p (p.g.afterEret held s.now (s.coreAt p.core).leatSeq)) (s.leaveTrap p.core p.slot) ∧
      (p.g.pre.restoring = true → p.g.mark ≠ none → (s.now + 96, .markSettle p.core p.slot s.now) ∈ (s.leaveTrap p.core p.slot).agenda) ∧
      (p.g.late ≠ [] → (s.now, .delayedTrap p.core p.slot) ∈ (s.leaveTrap p.core p.slot).agenda) := by
  generalize hr : s.leaveTrap p.core p.slot = r
  rw [State.leaveTrap, hg] at hr
  dsimp -zeta only at hr
  rw [hh] at hr
  dsimp -zeta only at hr
  extract_lets qs s1 s2 s3 s4 s5 at hr
  rw [if_neg (by simp [hpc])] at hr
  subst hr
  have hs1 : s1 = s.withGangOf p (p.g.leftHandler held s.now) := State.modGang_party hg _
  have hs2 : Appends (s.withGangOf p (p.g.afterEret held s.now (s.coreAt p.core).leatSeq)) s2 ∧
      (p.g.pre.restoring = true → p.g.mark ≠ none → (s.now + 96, .markSettle p.core p.slot s.now) ∈ s2.agenda) := by
    simp only [s2, hs1, Gang.afterEret]
    split
    · obtain ⟨happ, hmem⟩ := State.resetMark_withGangOf hg (p.g.leftHandler held s.now)
      exact ⟨happ, fun _ => hmem⟩
    · next hno => exact ⟨.refl _, fun h => absurd h hno⟩
  obtain ⟨hs2, hsettle⟩ := hs2
  have hs3 : Appends s2 s3 := State.repark_appends ..
  have hs4 : Appends s3 s4 := .ite _ (.refl _) (.at ..)
  have hs5 : Appends s4 s5 := (Appends.ite _ (.at ..) (.refl _)).trans (.at ..)
  have hnow : s3.now = s.now := (hs2.trans hs3).now.trans (State.withGangOf_now ..)
  refine ⟨((hs2.trans hs3).trans hs4).trans hs5, fun hr hm => (hs3.trans (hs4.trans hs5)).mem (hsettle hr hm), fun hl => hs5.mem ?_⟩
  simp [s4, hl, hnow]

theorem eretLeavesTheHandler : Claim.EretLeavesTheHandler := by
  unfold Claim.EretLeavesTheHandler
  intro s p hr
  have hx : exec .eret s = execEret s := rfl
  rw [hx, execEret, hr.issue]
  refine ⟨fun hc => by rw [if_pos hc], fun held hc hh hpc => ?_⟩
  rw [if_neg (by simp [hc])]
  obtain ⟨happ, hsettle, hlate⟩ := State.leaveTrap_spec hr.gang hh hpc
  rw [Gang.afterEret_eq] at happ
  refine ⟨_, _, rfl, happ.frame, rfl, by simp [resumeQuads_eq], fun q x hq => ?_, hsettle, hlate⟩
  refine ⟨x.resumed p.g.heldLead (if repArmed p.g.xr.xrep then succPc p.g.xr.xpc else p.g.xr.xpc) s.now, ?_, rfl, rfl, rfl, rfl, rfl, rfl,
    fun hpres hret hlead => ?_, fun hlead => ⟨?_, fun hpark => ?_⟩⟩
  · simp only [resumeQuads_eq, List.getElem?_map, hq, Option.map_some]
  · simp [Quad.resumed, hpres, hret, hlead, repArmed]
  · simp [Quad.resumed, hlead]
  · simp [Quad.resumed, hpark]

/-- Settles O55: the entry by the cases of a trap that waits and of one just taken, the kill by what it leaves of blocks and launches, and ERET
by its gang (Gang.afterEret_eq) and what it adds to the agenda. -/
theorem trapsEnterAndReturn : Obligations.TrapsEnterAndReturn := ⟨trapsEnterTheHandler, eretLeavesTheHandler⟩

end Sys2Proof.Machine
end

section
/-! SUPPORT. Quad exchange and votes under the types of one 32-bit element (R139 to R141). -/

namespace Sys2Proof.Machine
open Sys2Proof

variable {s : State} {p : Party} {i : Instr} {d a : Reg} {ra : BitVec 2}

/-! ### Quad exchange -/

theorem quadOp_pick (hr : Runs s p i) (ht : p.ty.toNat ≤ 2) (hl : latencyOf p.ty i = 4) (f : Nat → Nat) :
    quadOp i d a ra (quadPick f) s = .next (s.deliverWords p d fun l => s.source p a ra (l / 4 * 4 + f (l % 4))) := by
  simp only [quadOp, quadPick, quadVal, hr.issue, hl, Party.opRegs_one ht, State.opValue_one]
  rfl

/-- Each swap and broadcast is the pick of its lane of the quad. -/
theorem exec_quadLane {f : Nat → Nat} (hq : quadLane i = some (d, a, ra, f)) (hr : Runs s p i) (ht : p.ty.toNat ≤ 2) :
    exec i s = .next (s.deliverWords p d fun l => s.source p a ra (l / 4 * 4 + f (l % 4))) := by
  have hl : (if wideTy p.ty then 8 else 4) = 4 := by simp [wideTy_of_le_two ht]
  cases i <;> simp only [quadLane, reduceCtorEq, Option.some.injEq, Prod.mk.injEq] at hq <;> obtain ⟨rfl, rfl, rfl, rfl⟩ := hq
  all_goals exact quadOp_pick hr ht hl _

theorem quadExchangeMovesLanes : Claim.QuadExchangeMovesLanes := by
  unfold Claim.QuadExchangeMovesLanes
  intro s p i d a ra f hq hr ht
  obtain ⟨h, honly, hlands, hh⟩ := deliverWords_spec hr d fun l => s.source p a ra (l / 4 * 4 + f (l % 4))
  exact ⟨_, h, exec_quadLane hq hr ht, honly, hh, hlands⟩

/-! ### Votes -/

/-- The counted lanes whose operand, as a word, has a nonzero bit. -/
def State.voters (s : State) (p : Party) (a : Reg) (ra : BitVec 2) : List Nat := (lanesOf p.writing).filter fun l => s.source p a ra l ≠ 0

theorem votes_eq_voters (ht : p.ty.toNat ≤ 2) (a : Reg) (ra : BitVec 2) : votes s p a ra = s.voters p a ra := by
  refine List.filter_congr fun l _ => ?_
  rw [Party.opRegs_one ht, State.opValue_one, vote, Bool.eq_iff_iff, bne_iff_ne, decide_eq_true_eq]
  exact not_congr (BitVec.toNat_eq (y := 0#32)).symm

/-- No more lanes vote than a gang has. -/
theorem length_voters_le (s : State) (p : Party) (a : Reg) (ra : BitVec 2) : (s.voters p a ra).length ≤ 32 :=
  calc (s.voters p a ra).length
    _ ≤ (lanesOf p.writing).length := List.length_filter_le ..
    _ ≤ (List.range 32).length := List.length_filter_le ..
    _ = 32 := List.length_range

/-- As many voters as counted lanes: every counted lane votes. -/
theorem length_voters_eq_iff : (s.voters p a ra).length = (lanesOf p.writing).length ↔ ∀ l ∈ lanesOf p.writing, l ∈ s.voters p a ra := by
  simp only [State.voters, List.length_filter_eq_length_iff, List.mem_filter]
  exact forall₂_congr fun l hl => (and_iff_right hl).symm

theorem voteOp_word (hr : Runs s p i) (ht : p.ty.toNat ≤ 2) (hl : latencyOf p.ty i = 6) {f : List Nat → List Nat → Nat} {v : Word}
    (hv : f (lanesOf p.writing) (s.voters p a ra) = v.toNat) :
    voteOp i d a ra f s = .next (s.perLane p 6 d 1 fun _ => pureGen v.toNat) := by
  simp only [voteOp, hr.issue, hl, Party.counted, votes_eq_voters ht, hv]

section
variable (hr : Runs s p i) (ht : p.ty.toNat ≤ 2) (hl : latencyOf p.ty i = 6)
include hr ht hl

theorem execBallot_word (hi : i = .ballot d a ra) :
    execBallot d a ra s = .next (s.perLane p 6 d 1 fun _ => pureGen (maskOf (s.voters p a ra).contains).toNat) := by
  subst hi
  exact voteOp_word hr ht hl rfl

theorem execVany_word (hi : i = .vany d a ra) :
    execVany d a ra s = .next (s.perLane p 6 d 1 fun _ => pureGen (if s.voters p a ra = [] then 0 else 1 : Word).toNat) := by
  subst hi
  refine voteOp_word hr ht hl ?_
  simp only [List.isEmpty_iff]
  split <;> rfl

theorem execVall_word (hi : i = .vall d a ra) :
    execVall d a ra s = .next (s.perLane p 6 d 1 fun _ => pureGen
      (if ∀ l ∈ lanesOf p.writing, l ∈ s.voters p a ra then 1 else 0 : Word).toNat) := by
  subst hi
  refine voteOp_word hr ht hl ?_
  simp only [length_voters_eq_iff]
  split <;> rfl

/-- POPM counts all voters for an s destination, and those below the lane for v. -/
theorem execPopm_word (hi : i = .popm d a ra) :
    execPopm d a ra s = .next (s.perLane p 6 d 1 fun l => pureGen
      (word (if kindOf d = .s then (s.voters p a ra).length else ((s.voters p a ra).filter (· < l)).length)).toNat) := by
  subst hi
  have hword : ∀ l, (word (if kindOf d = .s then (s.voters p a ra).length else ((s.voters p a ra).filter (· < l)).length)).toNat =
      if kindOf d = .s then (s.voters p a ra).length else ((s.voters p a ra).filter (· < l)).length := fun l => by
    have hall := length_voters_le s p a ra
    have hbelow := (List.length_filter_le (· < l) (s.voters p a ra)).trans hall
    refine Nat.mod_eq_of_lt ?_
    split <;> omega
  simp only [execPopm, hr.issue, hl, Party.opRegs_one ht, votes_eq_voters ht, hword]

end

/-- Each vote instruction delivers its result to every computing lane, 6 clocks after issue. -/
theorem exec_voteResult {f : List Nat → List Nat → Nat → Word} (hf : voteResult i = some (d, a, ra, f)) (hr : Runs s p i)
    (ht : p.ty.toNat ≤ 2) :
    exec i s = .next (s.perLane p 6 d 1 fun l => pureGen (f (lanesOf p.writing) (s.voters p a ra) l).toNat) := by
  have hl : (if wideTy p.ty then 8 else 6) = 6 := by simp [wideTy_of_le_two ht]
  cases i <;> simp only [voteResult, reduceCtorEq, Option.some.injEq, Prod.mk.injEq] at hf <;> obtain ⟨rfl, rfl, rfl, rfl⟩ := hf
  case ballot => exact execBallot_word hr ht hl rfl
  case vany => exact execVany_word hr ht hl rfl
  case vall => exact execVall_word hr ht hl rfl
  case popm => exact execPopm_word hr ht hl rfl

theorem votesCountActiveGuardedLanes : Claim.VotesCountActiveGuardedLanes := by
  unfold Claim.VotesCountActiveGuardedLanes
  intro s p i d a ra f hf hr ht
  obtain ⟨h, honly, hlands, hh⟩ :=
    State.perLane_pure 6 d 1 (fun l => (f (lanesOf p.writing) (s.voters p a ra) l).toNat) hr.gang
  exact ⟨_, h, exec_voteResult hf hr ht, honly, hh, computing_writes p d _ ▸ hlands⟩

/-- Settles O10: a quad exchange is a pick in each lane (quadOp_pick), a vote a function of the counted lanes and the voters
(votes_eq_voters). -/
theorem quadsAndVotes : Obligations.QuadsAndVotes := ⟨quadExchangeMovesLanes, votesCountActiveGuardedLanes⟩

end Sys2Proof.Machine
end

section
/-! SUPPORT. LD, and the traps of memory accesses (R167, R181 to R186, R209). -/

namespace Sys2Proof.Machine
open Sys2Proof

variable {s t : State} {p : Party} {core : Nat}

/-! ### The lanes of a memory access -/

theorem lanesOf_eq_nil {m : BitVec 32} : lanesOf m = [] ↔ m = 0 := by
  simp only [lanesOf, List.filter_eq_nil_iff, List.mem_range]
  refine ⟨fun h => BitVec.eq_of_getLsbD_eq fun k hk => ?_, fun h k _ => by simp [h]⟩
  simpa using h k hk

theorem Party.executing_eq_zero : p.executing = 0 ↔ p.writing = 0 ∧ p.helping = 0 := BitVec.or_eq_zero_iff

/-- The lanes of a load: those that write, then the helpers, each with its address and no refusal (R182). -/
theorem loadLanes_eq (c : Core) (now need size : Nat) (p : Party) (addr : Nat → Nat) :
    ∃ help, loadLanes c now need size p addr =
        (lanesOf p.writing).map (fun l => (⟨l, addr l, false, c.viewBytes now (addr l) size, none⟩ : LoadLane)) ++ help ∧
      (∀ x ∈ help, x.helper = true ∧ x.lane ∈ lanesOf p.helping ∧ x.addr = addr x.lane ∧ x.refused = none) ∧
      help.map (·.addr) = (lanesOf p.helping).map addr := by
  refine ⟨_, rfl, fun x hx => ?_, ?_⟩
  · obtain ⟨l, hl, rfl⟩ := List.mem_map.mp hx
    split <;> exact ⟨rfl, hl, rfl, rfl⟩
  · rw [List.map_map]
    refine List.map_congr_left fun l _ => ?_
    dsimp only [Function.comp_apply]
    split <;> rfl

theorem loadLanes_addr (c : Core) (now need size : Nat) (p : Party) (addr : Nat → Nat) :
    (loadLanes c now need size p addr).map (·.addr) = (lanesOf p.writing ++ lanesOf p.helping).map addr := by
  obtain ⟨help, hl, -, ha⟩ := loadLanes_eq c now need size p addr
  simp [hl, ha]

theorem loadLanes_refused {c : Core} {now need size : Nat} {addr : Nat → Nat} :
    ∀ x ∈ loadLanes c now need size p addr, x.refused = none := by
  obtain ⟨help, hl, hh, -⟩ := loadLanes_eq c now need size p addr
  rw [hl]
  intro x hx
  rcases List.mem_append.mp hx with hx | hx
  · obtain ⟨l, -, rfl⟩ := List.mem_map.mp hx
    rfl
  · exact (hh x hx).2.2.2

theorem loadLanes_eq_nil {c : Core} {now need size : Nat} {addr : Nat → Nat} : loadLanes c now need size p addr = [] ↔ p.executing = 0 := by
  rw [Party.executing_eq_zero, ← lanesOf_eq_nil, ← lanesOf_eq_nil]
  simp [loadLanes]

/-- The lines that a load asks for: those of its lanes without bytes, each once (R183). -/
def missingLines (lanes : List LoadLane) : List Nat := ((lanes.filter fun l => !l.done).map fun l => lineOf l.addr).dedup

theorem mem_missingLines {lanes : List LoadLane} (h : ∀ x ∈ lanes, x.refused = none) (line : Nat) :
    line ∈ missingLines lanes ↔ ∃ x ∈ lanes, x.got = none ∧ lineOf x.addr = line := by
  simp only [missingLines, List.mem_dedup, List.mem_map, List.mem_filter, and_assoc]
  refine exists_congr fun x => and_congr_right fun hx => and_congr_left fun _ => ?_
  simp [LoadLane.done, h x hx]

theorem atomOn_nil (c : Core) (slot : Nat) : atomOn c slot [] = false := by simp [atomOn]

/-! ### The port -/

/-- Requests have joined the queue of a core's port, in order, and nothing else of the cores has changed (R267). -/
structure AtPort (s t : State) (core : Nat) (es : List Instr) : Prop where
  here : t.coreAt core = { s.coreAt core with port := (t.coreAt core).port }
  others : ∀ j, j ≠ core → t.coreAt j = s.coreAt j
  queue : (t.coreAt core).port.queue.map (·.2) = (s.coreAt core).port.queue.map (·.2) ++ es
  rest : t = { s with cores := t.cores, agenda := t.agenda, fresh := t.fresh, share := t.share }

theorem AtPort.refl (s : State) (core : Nat) : AtPort s s core [] := ⟨rfl, fun _ _ => rfl, by simp, rfl⟩

theorem State.toPort_rest (s : State) (core cost : Nat) (e : Instr) :
    s.toPort core cost e = { s with cores := (s.toPort core cost e).cores, agenda := (s.toPort core cost e).agenda
                                    share := (s.toPort core cost e).share } := by
  unfold State.toPort State.active
  split <;> dsimp only <;> split <;> rfl

theorem AtPort.toPort {es : List Instr} (h : AtPort s t core es) (cost : Nat) (e : Instr) : AtPort s (t.toPort core cost e) core (es ++ [e]) where
  here := by
    rw [State.coreAt_of_cores (State.toPort_cores ..), State.coreAt_modCore_self, h.here]
  others j hj := by rw [State.coreAt_of_cores (State.toPort_cores ..), State.coreAt_modCore_ne _ _ hj, h.others j hj]
  queue := by rw [State.queue_toPort, List.map_append, h.queue, List.append_assoc]; rfl
  rest := by rw [State.toPort_rest, h.rest]

theorem AtPort.later {es : List Instr} (h : AtPort s t core es) (e : Instr) : AtPort s (t.later e) core es :=
  ⟨h.here, h.others, h.queue, by rw [h.rest]; rfl⟩

/-- A request for each element of a list. -/
theorem AtPort.foldl {α : Type} {es : List Instr} (cost : State → α → Nat) (e : α → Instr) (l : List α) (h : AtPort s t core es) :
    AtPort s (l.foldl (fun t x => t.toPort core (cost t x) (e x)) t) core (es ++ l.map e) := by
  induction l generalizing t es with
  | nil => simpa using h
  | cons x l ih => simpa using ih (h.toPort (cost t x) (e x))

/-! ### LD -/

/-- A gang with one more outstanding operation of a party, under the state's next number (R50). -/
def State.pended (s : State) (p : Party) (g : Gang) (regs : List Nat) (body : PendBody) : Gang :=
  { g with pend := p.g.pend ++ [⟨s.fresh, p.lead, regs, p.g.super, body⟩] }

/-- The end of an instruction whose outstanding operation has been recorded, and whose requests stand at the port. -/
theorem AtPort.advance {es : List Instr} {regs : List Nat} {body : PendBody} (h : AtPort (s.addPend p regs body) t p.core es)
    (hg : s.gangAt p.core p.slot = some p.g) :
    (t.advance p).gangAt p.core p.slot = some (s.pended p (p.moved s) regs body) ∧
    ((t.advance p).coreAt p.core).port.queue.map (·.2) = (s.coreAt p.core).port.queue.map (·.2) ++ es ∧
    (t.advance p).coreAt p.core = { s.coreAt p.core with
      gangs := Kv.put (s.coreAt p.core).gangs p.slot (s.pended p (p.moved s) regs body), port := ((t.advance p).coreAt p.core).port } ∧
    (∀ j, j ≠ p.core → (t.advance p).coreAt j = s.coreAt j) ∧
    (t.advance p).agenda = t.agenda ∧
    t.advance p = { s with cores := (t.advance p).cores, agenda := (t.advance p).agenda, fresh := (t.advance p).fresh
                           share := (t.advance p).share } := by
  rw [State.addPend_party hg, ← State.pended] at h
  have hs : (s.withGangOf p (s.pended p p.g regs body)).bump.coreAt p.core =
      { s.coreAt p.core with gangs := Kv.put (s.coreAt p.core).gangs p.slot (s.pended p p.g regs body) } := by
    rw [State.coreAt_bump, State.withGangOf, State.modGang_eq _ hg, State.coreAt_modCore_self]
  have ht : t.gangAt p.core p.slot = some (s.pended p p.g regs body) := by
    rw [State.gangAt, h.here, hs]
    exact Kv.get?_put_self ..
  have hn : t.now = s.now := by
    rw [h.rest]
    exact State.withGangOf_now ..
  have hmoved : (s.pended p p.g regs body).moved p.lead s.now p.inRep = s.pended p (p.moved s) regs body := Gang.moved_pend ..
  rw [State.advance_eq (s := s) ht rfl hn, State.modGang_eq _ ht, hmoved]
  refine ⟨by simp [State.gangAt, Core.gangAt], ?_, ?_, fun j hj => ?_, rfl, ?_⟩
  · rw [State.coreAt_modCore_self]
    exact h.queue.trans (by rw [hs])
  · rw [State.coreAt_modCore_self, h.here, hs]
    simp
  · rw [State.coreAt_modCore_ne _ _ hj, h.others j hj, State.coreAt_bump, State.withGangOf, State.modGang_eq _ hg, State.coreAt_modCore_ne _ _ hj]
  · have hrest := h.rest
    rw [State.withGangOf_rest] at hrest
    rw [hrest]
    rfl

/-- The lines that a load misses are asked for, each once; a load that misses none lands at an open clock (R183). -/
def State.askLines (s : State) (p : Party) (id : Nat) (lanes : List LoadLane) (cost : State → Nat → Nat) : State :=
  let s := (missingLines lanes).foldl (fun s line => s.toPort p.core (cost s line) (.sliceFill p.core p.slot id line false)) s
  if (missingLines lanes).isEmpty then s.later (.variableReturnLanding p.core p.slot id) else s

theorem State.askLines_atPort (s : State) (p : Party) (id : Nat) (lanes : List LoadLane) (cost : State → Nat → Nat) :
    AtPort s (s.askLines p id lanes cost) p.core ((missingLines lanes).map fun line => .sliceFill p.core p.slot id line false) := by
  have h := (AtPort.refl s p.core).foldl cost (fun line => .sliceFill p.core p.slot id line false) (missingLines lanes)
  unfold State.askLines
  dsimp only
  split
  · exact h.later _
  · exact h

theorem State.askLines_lands {s : State} {p : Party} {id : Nat} {lanes : List LoadLane} {cost : State → Nat → Nat} (h : missingLines lanes = []) :
    ∃ clock, s.now < clock ∧ (clock, .variableReturnLanding p.core p.slot id) ∈ (s.askLines p id lanes cost).agenda :=
  ⟨s.now + 1 + Config.latency s.fresh, by omega, by simp [State.askLines, h]⟩

/-- LD that traps on nothing (R183): without lanes it only goes on, else it is outstanding with them and has asked for what they miss. -/
theorem Runs.execLd {t a : Reg} {kind : BitVec 3} {k : BitVec 8} {lanes : List LoadLane} (hr : Runs s p (.ld t a kind k))
    (htrap : globalTrap (s.coreAt p.core) 1 (kindSize kind) (laneAddrs s p a 2 (kindSize kind) (k.toNat * kindSize kind)) = none)
    (hl : lanes = loadLanes (s.coreAt p.core) s.now 1 (kindSize kind) p fun l => laneAddr s p a 2 (kindSize kind) (k.toNat * kindSize kind) l)
    (hatom : atomOn (s.coreAt p.core) p.slot (lanes.map (·.addr)) = false) :
    exec (.ld t a kind k) s = .next (if lanes = [] then s.withGangOf p (p.moved s) else
      ((s.addPend p (resultCodes t (kindRegs kind)) (.load kind t (s.coreAt p.core).leatSeq lanes)).askLines p s.fresh lanes
        fun s line => s.readCost line (kindSize kind) ((lanes.filter fun l => !l.done).map (·.addr))).advance p) := by
  have hx : exec (.ld t a kind k) s = Machine.execLd t a kind k s := rfl
  unfold laneAddrs at htrap
  rw [hx, Machine.execLd, hr.issue]
  dsimp only
  rw [htrap]
  dsimp only
  rw [← hl, ← State.advance_only hr.gang, hatom]
  cases lanes <;> rfl

theorem loadBecomesOutstanding : Claim.LoadBecomesOutstanding := by
  unfold Claim.LoadBecomesOutstanding
  intro s p t a kind k addr hr haddr htrap
  subst haddr
  obtain ⟨lanes, hlanes⟩ : ∃ lanes, lanes = loadLanes (s.coreAt p.core) s.now 1 (kindSize kind) p fun l =>
    laneAddr s p a 2 (kindSize kind) (k.toNat * kindSize kind) l := ⟨_, rfl⟩
  have hx := hr.execLd htrap hlanes
  have haddrs := loadLanes_addr (s.coreAt p.core) s.now 1 (kindSize kind) p fun l => laneAddr s p a 2 (kindSize kind) (k.toNat * kindSize kind) l
  rw [← hlanes] at haddrs
  have hnil : lanes = [] ↔ p.executing = 0 := hlanes ▸ loadLanes_eq_nil
  refine ⟨fun he => ?_, fun he hatom => ?_⟩
  · rw [hx (by rw [hnil.mpr he]; exact atomOn_nil ..), if_pos (hnil.mpr he)]
  · have hx := hx (haddrs ▸ hatom)
    rw [if_neg (hnil.not.mpr he)] at hx
    obtain ⟨help, hl, hhelp, -⟩ := loadLanes_eq (s.coreAt p.core) s.now 1 (kindSize kind) p fun l =>
      laneAddr s p a 2 (kindSize kind) (k.toNat * kindSize kind) l
    obtain ⟨hgang, hqueue, hcore, hothers, hagenda, hrest⟩ := (State.askLines_atPort (s.addPend p (resultCodes t (kindRegs kind))
      (.load kind t (s.coreAt p.core).leatSeq lanes)) p s.fresh lanes fun s line =>
        s.readCost line (kindSize kind) ((lanes.filter fun l => !l.done).map (·.addr))).advance hr.gang
    refine ⟨_, _, lanes, help, missingLines lanes, hx, hgang, rfl, hlanes.trans hl, hhelp,
      mem_missingLines (hlanes ▸ loadLanes_refused), List.nodup_dedup _, hqueue, fun hm => ?_, hcore, hothers, hrest⟩
    obtain ⟨clock, hlt, hmem⟩ := State.askLines_lands hm
    rw [hagenda]
    exact ⟨clock, by simpa [State.addPend] using hlt, hmem⟩

/-! ### Traps of an access -/

theorem globalTrap_misaligned {c : Core} {need size : Nat} {as : List (Nat × Nat)} {x : Nat × Nat}
    (hkey : ∀ y ∈ as, chipSheet y.2 = false ∧ need ≤ c.right (keyOf y.2)) (hx : as.find? (fun a => a.2 % size != 0) = some x) :
    globalTrap c need size as = some (0x30, x.1) := by
  have hk : keyViol c need as = none := by
    simp only [keyViol, Option.map_eq_none_iff, List.find?_eq_none]
    intro y hy
    simp [(hkey y hy).2]
  have hs : sheetViol as = none := by
    simp only [sheetViol, Option.map_eq_none_iff, List.find?_eq_none]
    intro y hy
    simp [(hkey y hy).1]
  simp [globalTrap, firstTrap, hk, hs, misaligned, hx, xMisalign]

variable {t a : Reg} {kind : BitVec 3} {k : BitVec 8} {b : Block} {x : Nat × Nat}

theorem Runs.ld_traps (hr : Runs s p (.ld t a kind k))
    (h : globalTrap (s.coreAt p.core) 1 (kindSize kind) (laneAddrs s p a 2 (kindSize kind) (k.toNat * kindSize kind)) = some x) :
    exec (.ld t a kind k) s = .next (s.raise p x.1 x.2) := by
  unfold laneAddrs at h
  refine (hr.issue _).trans ?_
  dsimp only
  rw [h]

theorem Runs.st_traps (hr : Runs s p (.st t a kind k))
    (h : globalTrap (s.coreAt p.core) 2 (kindSize kind) (laneAddrs s p a 2 (kindSize kind) (k.toNat * kindSize kind)) = some x) :
    exec (.st t a kind k) s = .next (s.raise p x.1 x.2) := by
  unfold laneAddrs at h
  refine (hr.issue _).trans ?_
  dsimp only
  rw [h]

theorem Runs.lds_traps (hr : Runs s p (.lds t a kind k)) (hb : s.blockOf p = some b)
    (h : firstTrap [misaligned (kindSize kind) 0 (laneAddrs s p a 1 (kindSize kind) (k.toNat * kindSize kind)),
      scrTrap b (kindSize kind) false (laneAddrs s p a 1 (kindSize kind) (k.toNat * kindSize kind))] = some x) :
    exec (.lds t a kind k) s = .next (s.raise p x.1 x.2) := by
  unfold laneAddrs at h
  refine (hr.issue _).trans ?_
  dsimp only
  rw [hb]
  dsimp only
  rw [h]

theorem Runs.sts_traps (hr : Runs s p (.sts t a kind k)) (hb : s.blockOf p = some b)
    (h : firstTrap [misaligned (kindSize kind) 0 (laneAddrs s p a 1 (kindSize kind) (k.toNat * kindSize kind)),
      scrTrap b (kindSize kind) true (laneAddrs s p a 1 (kindSize kind) (k.toNat * kindSize kind))] = some x) :
    exec (.sts t a kind k) s = .next (s.raise p x.1 x.2) := by
  unfold laneAddrs at h
  refine (hr.issue _).trans ?_
  dsimp only
  rw [hb]
  dsimp only
  rw [h]

theorem accessTraps : Claim.AccessTraps := by
  unfold Claim.AccessTraps
  refine ⟨fun s p t a kind k as x has hx hkey => ?_, fun s p t a kind k as b hb has => ⟨fun x hx => ?_, fun x hal hx hr => ?_, fun x hal hx hr => ?_⟩⟩
  · subst has
    exact ⟨fun hr => hr.ld_traps (x := (0x30, x.1)) (globalTrap_misaligned (fun y hy => ⟨(hkey y hy).1, Nat.le_of_succ_le (hkey y hy).2⟩) hx),
      fun hr => hr.st_traps (x := (0x30, x.1)) (globalTrap_misaligned hkey hx)⟩
  · subst has
    have hm : ∀ o, firstTrap [misaligned (kindSize kind) 0 (laneAddrs s p a 1 (kindSize kind) (k.toNat * kindSize kind)), o] = some (0x30, x.1) :=
      fun o => by simp [firstTrap, misaligned, hx, xMisalign]
    exact ⟨fun hr => hr.lds_traps hb (x := (0x30, x.1)) (hm _), fun hr => hr.sts_traps hb (x := (0x30, x.1)) (hm _)⟩
  · subst has
    exact hr.lds_traps hb (x := (0x32, x.1)) (by simp [firstTrap, misaligned, hal, scrTrap, hx, xScrRange])
  · subst has
    refine hr.sts_traps hb (x := (0x32, x.1 + if x.2 < 16 * b.ngates then 32 else 0)) ?_
    simp only [Bool.decide_or] at hx
    simp [firstTrap, misaligned, hal, scrTrap, hx, xScrRange]

/-- Settles O27: a load by its lanes and what they ask for at the port (Runs.execLd, AtPort.advance), the traps by the first check that finds one. -/
theorem loadsBecomeOutstanding : Obligations.LoadsBecomeOutstanding := ⟨loadBecomesOutstanding, accessTraps⟩

end Sys2Proof.Machine
end

section
/-! SUPPORT. ST, LDS and STS (R166, R167, R171, R184, R186, R187). -/

namespace Sys2Proof.Machine
open Sys2Proof

variable {s t : State} {p : Party} {core : Nat}

/-! ### What the own view takes from the leat -/

/-- The byte that the last of some (line, bytes) pairs gives a location. -/
def newByte (es : List (Nat × List (Nat × Byte))) (va : Nat) : Option Byte :=
  (es.filter fun e => e.1 == lineOf va).reverse.findSome? fun e => (e.2.find? (·.1 == va % 128)).map (·.2)

/-- The lines and bytes of the entries of a ring that are no release marks. -/
def entryBytes (l : List LeatEntry) : List (Nat × List (Nat × Byte)) := (l.filter (·.relm.isNone)).map fun e => (e.line, e.bytes)

theorem Core.leatByte_eq (c : Core) (va : Nat) : c.leatByte va = newByte (entryBytes c.leat) va := by
  rw [Core.leatByte, newByte, entryBytes, List.filter_map, List.filter_filter, ← List.map_reverse, List.findSome?_map]
  simp only [Function.comp_def, Bool.and_comm]

theorem newByte_append (a b : List (Nat × List (Nat × Byte))) (va : Nat) : newByte (a ++ b) va = (newByte b va).or (newByte a va) := by
  simp [newByte]

/-- A line's number with an offset in it. -/
theorem lineOf_mul_add {va : Nat} (h : va < 2 ^ 64) : lineOf va * 128 + va % 128 = va := by
  have : lineOf va = va / 128 := by
    rw [lineOf, fld, Nat.shiftRight_eq_div_pow]
    exact Nat.mod_eq_of_lt (by omega)
  omega

theorem find?_filterMap_range {α β : Type} (g : Nat → Option α) (h : α → β) (n k : Nat) :
    (((List.range n).filterMap fun j => (g j).map fun w => (j, h w)).find? (·.1 == k)).map (·.2) = if k < n then (g k).map h else none := by
  induction n with
  | zero => rfl
  | succ n ih =>
    rw [List.range_succ, List.filterMap_append, List.find?_append, Option.map_or, ih]
    rcases Nat.lt_trichotomy k n with hk | rfl | hk
    · rw [if_pos hk, if_pos (by omega)]
      cases hg : g n with
      | none => simp [hg]
      | some w => simp [hg, Nat.ne_of_gt hk]
    · cases hg : g k <;> simp [hg]
    · rw [if_neg (by omega), if_neg (by omega)]
      cases hg : g n with
      | none => simp [hg]
      | some w => simp [hg, Nat.ne_of_lt hk]

theorem filter_beq_of_nodup {l : List Nat} (h : l.Nodup) (a : Nat) : l.filter (· == a) = if a ∈ l then [a] else [] := by
  split
  · next ha => rw [List.filter_beq, List.count_eq_one_of_mem h ha]; rfl
  · next ha => exact List.filter_eq_nil_iff.mpr fun x hx he => ha (by simpa using (beq_iff_eq.mp he) ▸ hx)

/-- Of the entries of some writes a location takes the last byte written to it (R166). -/
theorem newByte_byLine {ws : List (Nat × Byte)} {va : Nat} (hva : va < 2 ^ 64) :
    newByte (byLine ws) va = ((ws.filter fun w => w.1 == va).getLast?).map (·.2) := by
  have hnodup : (((ws.map fun w => lineOf w.1).dedup).insertionSort (· ≤ ·)).Nodup :=
    (List.perm_insertionSort _ _).nodup_iff.mpr (List.nodup_dedup _)
  have hbyte := find?_filterMap_range (fun k => (ws.filter fun w => w.1 == lineOf va * 128 + k).getLast?) (·.2) 128 (va % 128)
  rw [if_pos (Nat.mod_lt _ (by decide)), lineOf_mul_add hva] at hbyte
  rw [newByte, byLine, List.filter_map]
  simp only [Function.comp_def, filter_beq_of_nodup hnodup]
  split
  · simpa using hbyte
  · next hline =>
    have hnone : ws.filter (fun w => w.1 == va) = [] := by
      simp only [List.filter_eq_nil_iff, beq_iff_eq]
      rintro w hw rfl
      exact hline (by simpa using ⟨w.1, ⟨w.2, hw⟩, rfl⟩)
    simp [hnone]

theorem lastByte_eq (ws : List (Nat × Byte)) (va : Nat) (old : Option Byte) :
    lastByte ws va old = (((ws.filter fun w => w.1 == va).getLast?).map (·.2)).or old := by
  unfold lastByte
  cases (ws.filter fun w => w.1 == va).getLast? <;> rfl

/-! ### Appending to the leat -/

/-- A core's leat has got entries with some bytes, and nothing else has changed but what its copies show and what its atomics have read. -/
structure Appended (s t : State) (core : Nat) (es : List (Nat × List (Nat × Byte))) : Prop where
  bytes : entryBytes (t.coreAt core).leat = entryBytes (s.coreAt core).leat ++ es
  gangs : (t.coreAt core).gangs = (s.coreAt core).gangs
  raws : (t.coreAt core).l1.map (fun l => (l.line, l.raw)) = (s.coreAt core).l1.map fun l => (l.line, l.raw)
  others : ∀ j, j ≠ core → t.coreAt j = s.coreAt j
  rest : t = { s with cores := t.cores, agenda := t.agenda }

theorem Appended.refl (s : State) (core : Nat) : Appended s s core [] := ⟨by simp, rfl, rfl, fun _ _ => rfl, rfl⟩

theorem Appended.trans {u : State} {es fs : List (Nat × List (Nat × Byte))} (h : Appended s t core es) (h' : Appended t u core fs) :
    Appended s u core (es ++ fs) where
  bytes := by rw [h'.bytes, h.bytes, List.append_assoc]
  gangs := h'.gangs.trans h.gangs
  raws := h'.raws.trans h.raws
  others j hj := (h'.others j hj).trans (h.others j hj)
  rest := by rw [h'.rest, h.rest]

theorem State.appendEntry_appended (s : State) (core slot : Nat) (g : Gang) (line : Nat) (bytes : List (Nat × Byte)) (atom : Bool) :
    Appended s (s.appendEntry core slot g line bytes none atom) core [(line, bytes)] := by
  unfold State.appendEntry
  extract_lets c e patch s1 s2
  have hs2 : Appended s s2 core [(line, bytes)] := by
    have hcore := State.coreAt_modCore_self s core
    refine ⟨?_, ?_, ?_, fun j hj => ?_, rfl⟩
    · simp only [s2, s1, State.coreAt_at, hcore]
      simp [entryBytes, c, e]
    · simp only [s2, s1, State.coreAt_at, hcore]
    · simp only [s2, s1, State.coreAt_at, hcore, List.map_map, Function.comp_def]
      refine List.map_congr_left fun l _ => ?_
      dsimp only [patch]
      split <;> rfl
    · simp only [s2, s1, State.coreAt_at, State.coreAt_modCore_ne _ _ hj]
  split
  · exact ⟨hs2.bytes, hs2.gangs, hs2.raws, hs2.others, rfl⟩
  · exact hs2

theorem State.appendWrites_appended (s : State) (core slot : Nat) (g : Gang) (ws : List (Nat × Byte)) (atom : Bool) :
    Appended s (s.appendWrites core slot g ws atom) core (byLine ws) := by
  unfold State.appendWrites
  generalize byLine ws = es
  induction es generalizing s with
  | nil => exact .refl s core
  | cons e es ih => exact (s.appendEntry_appended core slot g e.1 e.2 atom).trans (ih _)

/-! ### The coherent value of a byte -/

/-- The line that a core owns, as its slice does not know it (R292). -/
def State.rawAt (s : State) (core line : Nat) : Option Cells := ((s.coreAt core).l1.find? (·.line == line)).map (·.raw)

/-- The coherent value of a byte rests on the slices, on what the cores own and on the byte at its home. -/
theorem State.globalByte_congr {va : Nat} (hs : t.slices = s.slices) (hraw : ∀ k line, t.rawAt k line = s.rawAt k line)
    (hh : t.homeByte va = s.homeByte va) : t.globalByte va = s.globalByte va := by
  unfold State.globalByte
  extract_lets line hit hit'
  have hhit : hit = hit' := by
    funext die
    simp only [hit, hit', State.lineIn, State.sliceAt, hs]
    cases ((Kv.get? s.slices (sliceKey die line)).getD {}).lines.find? (·.line == line) with
    | none => rfl
    | some x =>
      cases hk : x.coreOwner with
      | none => simp [hk]
      | some k =>
        have hr := hraw k line
        unfold State.rawAt at hr
        simp only [Option.map_some, hk, Option.bind_some]
        have hcopy : ∀ o : Option L1Line, (match o with | some l => Sp.get l.raw (va % 128) | none => Sp.get x.data (va % 128)) =
            (o.map (·.raw)).elim (Sp.get x.data (va % 128)) (Sp.get · (va % 128)) := by
          rintro (- | l) <;> rfl
        have hsame := congrArg (fun o : Option Cells => o.elim (Sp.get x.data (va % 128)) (Sp.get · (va % 128))) hr
        exact congrArg some ((hcopy _).trans (hsame.trans (hcopy _).symm))
  rw [hhit, hh]

theorem Appended.globalByte {es : List (Nat × List (Nat × Byte))} (h : Appended s t core es) (va : Nat) : t.globalByte va = s.globalByte va := by
  refine State.globalByte_congr (by rw [h.rest]) (fun k line => ?_) (by rw [h.rest]; rfl)
  have find : ∀ c : Core, (c.l1.find? (·.line == line)).map (·.raw) = ((c.l1.map fun l => (l.line, l.raw)).find? (·.1 == line)).map (·.2) := by
    intro c
    rw [List.find?_map, Option.map_map]
    rfl
  unfold State.rawAt
  by_cases hk : k = core
  · rw [hk, find, find, h.raws]
  · rw [h.others k hk]

/-! ### ST -/

theorem storeEntersTheOwnView : Claim.StoreEntersTheOwnView := by
  unfold Claim.StoreEntersTheOwnView
  intro s p t a kind k addr ws hr haddr hws htrap hread hatom hroom
  subst haddr hws
  have hx : exec (.st t a kind k) s = .next ((s.appendWrites p.core p.slot p.g (storeBytes s p t kind
      fun l => laneAddr s p a 2 (kindSize kind) (k.toNat * kindSize kind) l) false).advance p) := by
    refine (hr.issue _).trans ?_
    dsimp only
    rw [htrap]
    dsimp only [State.writer]
    rw [hread, hatom, if_neg (by decide), if_neg (by decide), if_neg (by omega)]
  have h := s.appendWrites_appended p.core p.slot p.g (storeBytes s p t kind
    fun l => laneAddr s p a 2 (kindSize kind) (k.toNat * kindSize kind) l) false
  generalize s.appendWrites p.core p.slot p.g _ false = u at hx h
  have hg : u.gangAt p.core p.slot = some p.g := by
    rw [State.gangAt, Core.gangAt, h.gangs]
    exact hr.gang
  rw [State.advance_eq (s := s) hg rfl (by rw [h.rest])] at hx
  refine ⟨_, hx, by rw [State.gangAt_modGang_self, hg]; rfl, fun va hva => ?_, fun va _ => ?_, fun j hj => ?_, ?_⟩
  · rw [State.coreAt_modGang, Core.leatByte_eq, h.bytes, newByte_append, newByte_byLine hva, Core.leatByte_eq, lastByte_eq]
  · refine Eq.trans (State.globalByte_congr (by simp) (fun j line => ?_) ?_) (h.globalByte va)
    · rw [State.rawAt, State.coreAt_modGang]
      rfl
    · rw [State.modGang_eq _ hg]
      rfl
  · rw [← h.others j hj, State.modGang_eq _ hg, State.coreAt_modCore_ne _ _ hj]
  · rw [State.modGang_eq _ hg, h.rest]
    rfl

/-! ### LDS -/

/-- The end of an instruction that has recorded an outstanding operation and put something on the agenda. -/
theorem OnlyAgenda.advance_addPend {regs : List Nat} {body : PendBody} (hg : s.gangAt p.core p.slot = some p.g)
    (h : OnlyAgenda (s.addPend p regs body) t) :
    OnlyGang s (t.advance p) p (s.pended p (p.moved s) regs body) ∧ (t.advance p).agenda = t.agenda := by
  rw [State.addPend_party hg, ← State.pended] at h
  have ht : t.gangAt p.core p.slot = some (s.pended p p.g regs body) := by
    rw [State.gangAt_of_cores h.cores, State.gangAt_bump, State.gangAt_withGangOf hg]
  have hmoved : (s.pended p p.g regs body).moved p.lead s.now p.inRep = s.pended p (p.moved s) regs body := Gang.moved_pend ..
  rw [State.advance_eq (s := s) ht rfl (by rw [h.now]; exact State.withGangOf_now ..), hmoved]
  refine ⟨OnlyGang.of_eq hg t.agenda t.fresh ?_, State.modGang_agenda ..⟩
  rw [State.modGang_eq _ ht, h, State.withGangOf, State.withGangOf, State.modGang_eq _ hg, State.modGang_eq _ hg]
  simp [State.modCore, State.bump, State.coreAt]

/-- LDS that traps on nothing (R187): its lanes hold the bytes as they stand, but where a bed core's lane has to ask the gate (R212). -/
theorem Runs.execLds {t a : Reg} {kind : BitVec 3} {k : BitVec 8} {b : Block} {addr : Nat → Nat} (hr : Runs s p (.lds t a kind k))
    (hb : s.blockOf p = some b) (haddr : addr = fun l => laneAddr s p a 1 (kindSize kind) (k.toNat * kindSize kind) l)
    (htrap : firstTrap [misaligned (kindSize kind) 0 ((lanesOf p.writing).map fun l => (l, addr l)),
      scrTrap b (kindSize kind) false ((lanesOf p.writing).map fun l => (l, addr l))] = none) (he : p.executing ≠ 0) :
    ∃ (u : State) (help : List LoadLane), exec (.lds t a kind k) s = .next (u.advance p) ∧
      OnlyAgenda (s.addPend p (resultCodes t (kindRegs kind)) (.bridge kind t ((lanesOf p.writing).map (fun l => (⟨l, addr l, false,
        if b.partOf p.core = 1 ∧ addr l < 16 * b.ngates then none
        else some ((List.range (kindSize kind)).map fun j => b.ldsByte (b.partOf p.core) (addr l + j)), none⟩ : LoadLane)) ++ help))) u ∧
      (∀ x ∈ help, x.helper = true ∧ x.lane ∈ lanesOf p.helping ∧ x.refused = none) ∧
      (∃ clock, s.now < clock ∧ (clock, .variableReturnLanding p.core p.slot s.fresh) ∈ u.agenda) := by
  subst haddr
  have hx : exec (.lds t a kind k) s = Machine.execLds t a kind k s := rfl
  rw [hx, Machine.execLds, hr.issue]
  dsimp only
  rw [hb]
  dsimp only
  rw [htrap]
  simp only [Bool.and_eq_true, beq_iff_eq, decide_eq_true_eq]
  rw [if_neg]
  · refine ⟨_, _, rfl, .ite _ (.later ..) (.at ..), fun x hx => ?_, ?_⟩
    · obtain ⟨l, hl, rfl⟩ := List.mem_map.mp hx
      split <;> exact ⟨rfl, hl, rfl⟩
    · split
      · exact ⟨s.now + 1 + Config.latency (s.fresh + 1), by omega, by simp [State.addPend]⟩
      · exact ⟨s.now + 6, by omega, by simp [State.addPend]⟩
  · simpa [lanesOf_eq_nil] using Party.executing_eq_zero.not.mp he

/-! ### STS -/

/-- A read after several writes: the last one at its key. -/
theorem Sp.get_setAll {w : Nat} (m ws : List (Nat × BitVec w)) (k : Nat) :
    Sp.get (Sp.setAll m ws) k = (((ws.filter fun x => x.1 == k).getLast?).map (·.2)).getD (Sp.get m k) := by
  induction ws generalizing m with
  | nil => rfl
  | cons x ws ih =>
    rw [Sp.setAll, List.foldl_cons, ← Sp.setAll, ih, Sp.get_set]
    by_cases hx : x.1 = k
    · cases h : (ws.filter fun x => x.1 == k).getLast? <;> simp [hx, h, List.getLast?_cons]
    · simp [hx, Ne.symm hx]

theorem lastByte_some (m : Cells) (ws : List (Nat × Byte)) (k : Nat) : lastByte ws k (some (Sp.get m k)) = some (Sp.get (Sp.setAll m ws) k) := by
  rw [Sp.get_setAll, lastByte_eq]
  cases ((ws.filter fun w => w.1 == k).getLast?).map (·.2) <;> rfl

/-- A block with some bytes written into a scratch part. -/
def Block.storeAll (b : Block) (part : Nat) (ws : List (Nat × Byte)) : Block :=
  if part = 0 then { b with scr := Sp.setAll b.scr ws } else { b with scrB := Sp.setAll b.scrB ws }

/-- Single bytes written into the scratch part of a core, one after the other. -/
theorem Block.putScratch_foldl {core : Nat} (ws : List (Nat × Byte)) (b : Block) {part : Nat} (h : b.partOf core = part) :
    ws.foldl (fun b w => b.putScratch (b.partOf core) w.1 [w.2]) b = b.storeAll part ws := by
  induction ws generalizing b with
  | nil => unfold Block.storeAll; split <;> rfl
  | cons w ws ih =>
    rw [List.foldl_cons, h, ih _ (by unfold Block.putScratch; split <;> exact h)]
    unfold Block.storeAll Block.putScratch
    split <;> rfl

theorem Block.storeAll_rest (b : Block) (part : Nat) (ws : List (Nat × Byte)) :
    b.storeAll part ws = { b with scr := (b.storeAll part ws).scr, scrB := (b.storeAll part ws).scrB } := by
  unfold Block.storeAll
  split <;> rfl

/-- Outside the gate area a byte of the part is the last one stored, and every byte of the other part stays (R187). -/
theorem Block.scratchByte_storeAll {b : Block} {part : Nat} {ws : List (Nat × Byte)} (hp : part < 2) (hws : ∀ w ∈ ws, 16 * b.ngates ≤ w.1)
    {k : Nat} (hk : k < 2) (off : Nat) : some ((b.storeAll part ws).scratchByte k off) =
      if k = part then lastByte ws off (some (b.scratchByte k off)) else some (b.scratchByte k off) := by
  have hgate : off < 16 * b.ngates → ∀ old, lastByte ws off old = old := by
    intro hoff old
    have hnone : ws.filter (fun w => w.1 == off) = [] :=
      List.filter_eq_nil_iff.mpr fun w hw he => by have := hws w hw; have := beq_iff_eq.mp he; omega
    rw [lastByte, hnone]
    rfl
  have hp' : part = 0 ∨ part = 1 := by omega
  have hk' : k = 0 ∨ k = 1 := by omega
  rcases hp' with rfl | rfl <;> rcases hk' with rfl | rfl
  · by_cases hoff : off < 16 * b.ngates
    · simp [Block.scratchByte, Block.storeAll, hoff, hgate hoff, Block.gateByte, Block.gate]
    · simp [Block.scratchByte, Block.storeAll, hoff, lastByte_some]
  · rfl
  · rfl
  · simp [Block.scratchByte, Block.storeAll, lastByte_some]

theorem find?_replaceFirst_of_not {α : Type} {q r : α → Bool} {f : α → α} (h : ∀ x, q x = true → r x = false ∧ r (f x) = false) (l : List α) :
    (replaceFirst q f l).find? r = l.find? r := by
  induction l with
  | nil => rfl
  | cons x l ih =>
    simp only [replaceFirst]
    cases hq : q x
    · simp [ih, List.find?_cons]
    · simp [(h x hq).1, (h x hq).2]

/-- A change of a block leaves the others. -/
theorem State.blockAt_modBlock_ne {key key' : Nat} {f : Block → Block} (hf : ∀ b, (f b).key = b.key) (h : key ≠ key') :
    (s.modBlock key' f).blockAt key = s.blockAt key := by
  refine find?_replaceFirst_of_not (fun b hb => ?_) s.blocks
  have hb : b.key = key' := by simpa using hb
  simp [hf, hb, h.symm]

theorem firstTrap_eq_none {l : List (Option (Nat × Nat))} : firstTrap l = none ↔ ∀ x ∈ l, x = none := by simp [firstTrap]

theorem laneAddr_lt (s : State) (p : Party) (r : Reg) (size off lane : Nat) : laneAddr s p r 1 size off lane < 2 ^ 32 :=
  Nat.mod_lt _ (by decide)

/-- Where scratch is not closed to a store's lanes, no byte of it goes to the gate area (R186). -/
theorem storeBytes_above {t : Reg} {kind : BitVec 3} {addr : Nat → Nat} {lo : Nat} (h : ∀ l ∈ lanesOf p.writing, lo ≤ addr l ∧ addr l < 2 ^ 32)
    {w : Nat × Byte} (hw : w ∈ storeBytes s p t kind addr) : lo ≤ w.1 := by
  obtain ⟨l, hl, hw⟩ := List.mem_flatMap.mp hw
  obtain ⟨x, hx, rfl⟩ := List.mem_map.mp hw
  have hlt := List.snd_lt_of_mem_zipIdx hx
  have hsize : kindSize kind ≤ 16 := by
    unfold kindSize
    split <;> decide
  simp only [toBytes, List.length_map, List.length_range] at hlt
  have := h l hl
  dsimp only
  rw [Nat.mod_eq_of_lt (by omega)]
  omega

/-- STS that traps on nothing writes its bytes into its block (R187). -/
theorem Runs.execSts {t a : Reg} {kind : BitVec 3} {k : BitVec 8} {b : Block} {addr : Nat → Nat} (hr : Runs s p (.sts t a kind k))
    (hb : s.blockOf p = some b) (haddr : addr = fun l => laneAddr s p a 1 (kindSize kind) (k.toNat * kindSize kind) l)
    (htrap : firstTrap [misaligned (kindSize kind) 0 ((lanesOf p.writing).map fun l => (l, addr l)),
      scrTrap b (kindSize kind) true ((lanesOf p.writing).map fun l => (l, addr l))] = none) (hread : readHeld s p = false) :
    exec (.sts t a kind k) s = .next ((s.modBlock b.key fun b =>
      (storeBytes s p t kind addr).foldl (fun b w => b.putScratch (b.partOf p.core) w.1 [w.2]) b).withGangOf p (p.moved s)) := by
  subst haddr
  refine (hr.issue _).trans ?_
  dsimp only
  rw [hb]
  dsimp only
  rw [htrap]
  dsimp only [State.writer]
  rw [hread, if_neg (by decide)]
  exact congrArg Host.Outcome.next (State.advance_only ((State.gangAt_of_cores (State.modBlock_cores ..) ..).trans hr.gang))

theorem scratchAccesses : Claim.ScratchAccesses := by
  unfold Claim.ScratchAccesses
  refine ⟨fun s p t a kind k b addr hr hb haddr htrap he => ?_, fun s p t a kind k b addr ws hr hb haddr hws htrap hread => ?_⟩
  · obtain ⟨u, help, hx, hu, hh, clock, hlt, hmem⟩ := hr.execLds hb haddr htrap he
    obtain ⟨hgang, hagenda⟩ := hu.advance_addPend hr.gang
    exact ⟨_, _, _, help, hx, hgang, rfl, rfl, hh, clock, hlt, hagenda ▸ hmem⟩
  · subst hws
    have hx := hr.execSts hb haddr htrap hread
    have habove : ∀ w ∈ storeBytes s p t kind addr, 16 * b.ngates ≤ w.1 := fun w => storeBytes_above fun l hl => by
      subst haddr
      refine ⟨?_, laneAddr_lt ..⟩
      have hclosed := (firstTrap_eq_none.mp htrap) _ (List.mem_cons_of_mem _ List.mem_cons_self)
      simp only [scrTrap, Option.map_eq_none_iff, List.find?_eq_none, List.mem_map] at hclosed
      have hl := hclosed _ ⟨l, hl, rfl⟩
      simp only [Bool.true_and, Bool.or_eq_true, decide_eq_true_eq, not_or, Nat.not_lt] at hl
      exact hl.2
    have hkey := State.blockAt_key hb
    have hb' : s.blockAt b.key = some b := hkey ▸ hb
    have hpart : b.partOf p.core < 2 := by
      unfold Block.partOf
      split <;> omega
    refine ⟨_, b.storeAll (b.partOf p.core) (storeBytes s p t kind addr), hx, ?_, ?_, b.storeAll_rest _ _, fun key hk => ?_,
      fun part hp off => Block.scratchByte_storeAll hpart habove hp off⟩
    · rw [State.withGangOf_rest, State.withGangOf_rest s, State.withGangOf_cores (State.modBlock_cores ..)]
      rfl
    · rw [State.blockAt_of_blocks (State.withGangOf_blocks ..), State.blockAt_modBlock (fun b => ?_), hb', Option.map_some,
        Block.putScratch_foldl _ _ rfl]
      rw [Block.putScratch_foldl _ _ rfl, Block.storeAll_rest]
    · rw [State.blockAt_of_blocks (State.withGangOf_blocks ..), State.blockAt_modBlock_ne (fun b => ?_) hk]
      rw [Block.putScratch_foldl _ _ rfl, Block.storeAll_rest]

/-- Settles O28: the own view by the bytes of the appended entries (newByte_byLine), scratch by the bytes of its part (Block.scratchByte_storeAll). -/
theorem storesEnterTheirMemory : Obligations.StoresEnterTheirMemory := ⟨storeEntersTheOwnView, scratchAccesses⟩

end Sys2Proof.Machine
end

section
/-! SUPPORT. LDW, STW and the arrival of a window access (R160, R161, R188, R189, R332). -/

namespace Sys2Proof.Machine
open Sys2Proof

variable {s t : State} {p : Party} {core : Nat}

/-! ### Issue -/

/-- Window accesses of a core have been sent: they stand in its list and their arrivals are to come, and nothing else of the core has changed. -/
structure WindowsSent (s t : State) (core : Nat) (ws : List WinAcc) : Prop where
  here : t.coreAt core = { s.coreAt core with wins := (s.coreAt core).wins ++ ws }
  now : t.now = s.now
  kept : ∀ x ∈ s.agenda, x ∈ t.agenda
  arrive : ∀ w ∈ ws, ∃ clock, s.now < clock ∧ (clock, .windowAccessArrival core w.id) ∈ t.agenda

theorem WindowsSent.refl (s : State) (core : Nat) : WindowsSent s s core [] := ⟨by simp, rfl, fun _ h => h, nofun⟩

theorem WindowsSent.trans {u : State} {ws vs : List WinAcc} (h : WindowsSent s t core ws) (h' : WindowsSent t u core vs) :
    WindowsSent s u core (ws ++ vs) where
  here := by rw [h'.here, h.here]; simp
  now := h'.now.trans h.now
  kept x hx := h'.kept x (h.kept x hx)
  arrive w hw := by
    rcases List.mem_append.mp hw with hw | hw
    · obtain ⟨clock, hlt, hmem⟩ := h.arrive w hw
      exact ⟨clock, hlt, h'.kept _ hmem⟩
    · obtain ⟨clock, hlt, hmem⟩ := h'.arrive w hw
      exact ⟨clock, h.now ▸ hlt, hmem⟩

/-- An access leaves its core at an open latency, a write where no release of the gang is incomplete (R319). -/
theorem WindowsSent.one {e : Instr} (w : WinAcc) (he : e = .windowAccessArrival p.core w.id)
    (hrels : w.write.isSome = true → (s.coreAt p.core).relsOf p.slot p.g.blk = []) :
    WindowsSent s (let t := (s.modCore p.core fun c => { c with wins := c.wins ++ [w] }).bump
      if w.write.isSome then t.afterReleases p e else t.later e) p.core [w] := by
  have hlater : ∀ u : State, u = (s.modCore p.core fun c => { c with wins := c.wins ++ [w] }).bump → WindowsSent s (u.later e) p.core [w] := by
    rintro u rfl
    refine ⟨by simp, rfl, fun x hx => by simp [hx], fun x hx => ?_⟩
    obtain rfl := List.mem_singleton.mp hx
    subst he
    exact ⟨s.now + 1 + Config.latency (s.fresh + 1), by omega, by simp⟩
  dsimp only
  split
  · next hw =>
    have : ((s.modCore p.core fun c => { c with wins := c.wins ++ [w] }).bump).afterReleases p e =
        ((s.modCore p.core fun c => { c with wins := c.wins ++ [w] }).bump).later e := by
      rw [State.afterReleases, show ((s.modCore p.core fun c => { c with wins := c.wins ++ [w] }).bump.coreAt p.core).relsOf p.slot p.g.blk = [] by
        simpa [Core.relsOf] using hrels hw]
      subst he
      rfl
    exact this ▸ hlater _ rfl
  · exact hlater _ rfl

theorem State.sendWindows_sent (s : State) (p : Party) (size pend : Nat) (as : List (Nat × Nat × Option (List Byte)))
    (hrels : (∃ a ∈ as, a.2.2.isSome = true) → (s.coreAt p.core).relsOf p.slot p.g.blk = []) :
    ∃ ws, WindowsSent s (s.sendWindows p size pend as) p.core ws ∧
      ws.map (fun w => (w.lane, w.addr, w.size, w.write, w.pend)) = as.map fun a => (a.1, a.2.1, size, a.2.2, pend) := by
  unfold State.sendWindows
  extract_lets c
  clear_value c
  induction as generalizing s with
  | nil => exact ⟨[], .refl s p.core, rfl⟩
  | cons a as ih =>
    have h1 := WindowsSent.one (s := s) (p := p) ⟨s.fresh, p.slot, p.g.blk, p.g.super, c.function == 0, c.domain, a.2.1, size, a.2.2, pend, a.1⟩ rfl
      fun hw => hrels ⟨a, List.mem_cons_self, hw⟩
    obtain ⟨ws, h2, hws⟩ := ih _ fun ⟨b, hb, hw⟩ => by
      rw [h1.here]
      exact hrels ⟨b, List.mem_cons_of_mem _ hb, hw⟩
    exact ⟨_, h1.trans h2, by simp [hws]⟩

/-- The end of an instruction changes of its core only the gang. -/
theorem State.coreAt_advance {g : Gang} (ht : t.gangAt p.core p.slot = some g) (hq : g.quads = p.g.quads) :
    (t.advance p).gangAt p.core p.slot = some (g.moved p.lead t.now p.inRep) ∧ (t.advance p).agenda = t.agenda ∧
    (t.advance p).coreAt p.core = { t.coreAt p.core with gangs := Kv.put (t.coreAt p.core).gangs p.slot (g.moved p.lead t.now p.inRep) } := by
  rw [State.advance_eq (s := t) ht hq rfl, State.modGang_eq _ ht]
  exact ⟨by simp [State.gangAt, Core.gangAt], rfl, State.coreAt_modCore_self ..⟩

theorem State.gangAt_of_core {c : Core} {k : Nat} (h : t.coreAt k = c) (slot : Nat) : t.gangAt k slot = c.gangAt slot := by rw [State.gangAt, h]

theorem State.coreAt_addPend (hg : s.gangAt p.core p.slot = some p.g) (regs : List Nat) (body : PendBody) :
    (s.addPend p regs body).coreAt p.core = { s.coreAt p.core with gangs := Kv.put (s.coreAt p.core).gangs p.slot (s.pended p p.g regs body) } := by
  rw [State.addPend_party hg, State.coreAt_bump, State.withGangOf, State.modGang_eq _ hg, State.coreAt_modCore_self]
  rfl

theorem Runs.execLdw {t a : Reg} {kind : BitVec 3} {k : BitVec 8} {addr : Nat → Nat} (hr : Runs s p (.ldw t a kind k))
    (haddr : addr = fun l => laneAddr s p a 2 (kindSize kind) (k.toNat * kindSize kind) l)
    (htrap : windowTrap s p false (kindSize kind) ((lanesOf p.writing).map fun l => (l, addr l)) = none) (hh : p.helping = 0)
    (hw : p.writing ≠ 0) :
    exec (.ldw t a kind k) s = .next (((s.addPend p (resultCodes t (kindRegs kind)) (.window kind t
      ((lanesOf p.writing).map fun l => ⟨l, addr l, false, none, none⟩))).sendWindows p (kindSize kind) s.fresh
        ((lanesOf p.writing).map fun l => (l, addr l, none))).advance p) := by
  subst haddr
  have hx : exec (.ldw t a kind k) s = Machine.execLdw t a kind k s := rfl
  have hne : lanesOf p.writing ≠ [] := lanesOf_eq_nil.not.mpr hw
  have hnil : lanesOf p.helping = [] := lanesOf_eq_nil.mpr hh
  rw [hx, Machine.execLdw, hr.issue]
  dsimp only
  rw [htrap]
  dsimp only
  have hasked : ((lanesOf p.writing).map fun l => (⟨l, laneAddr s p a 2 (kindSize kind) (k.toNat * kindSize kind) l, false, none, none⟩ : LoadLane)).filter
      (fun l => !l.done) = (lanesOf p.writing).map fun l => ⟨l, laneAddr s p a 2 (kindSize kind) (k.toNat * kindSize kind) l, false, none, none⟩ := by
    simp [LoadLane.done]
  simp only [hnil, List.map_nil, List.append_nil, hasked, List.isEmpty_map, List.isEmpty_eq_false_iff.mpr hne, Bool.false_eq_true, if_false,
    List.map_map, Function.comp_def]

theorem Runs.execStw {t a : Reg} {kind : BitVec 3} {k : BitVec 8} {addr : Nat → Nat} (hr : Runs s p (.stw t a kind k))
    (haddr : addr = fun l => laneAddr s p a 2 (kindSize kind) (k.toNat * kindSize kind) l)
    (htrap : windowTrap s p true (kindSize kind) ((lanesOf p.writing).map fun l => (l, addr l)) = none) (hread : readHeld s p = false) :
    exec (.stw t a kind k) s = .next ((s.sendWindows p (kindSize kind) 0
      ((lanesOf p.writing).map fun l => (l, addr l, some (toBytes (kindSize kind) (s.regValue p t (kindRegs kind) l))))).advance p) := by
  subst haddr
  refine (hr.issue _).trans ?_
  dsimp only
  rw [htrap]
  dsimp only [State.writer]
  rw [hread, if_neg (by decide)]

/-! ### What a window read returns -/

/-- Nothing that a window reads differs: nothing of the state but the agenda and the window accesses under way. -/
structure SameMap (s t : State) : Prop where
  cores : ∀ k, t.coreAt k = { s.coreAt k with wins := (t.coreAt k).wins }
  rest : t = { s with cores := t.cores, agenda := t.agenda }

theorem SameMap.coreAt (h : SameMap s t) : ∃ W : Nat → List WinAcc, ∀ k, t.coreAt k = { s.coreAt k with wins := W k } :=
  ⟨fun k => (t.coreAt k).wins, h.cores⟩

theorem SameMap.gangAt (h : SameMap s t) (k slot : Nat) : t.gangAt k slot = s.gangAt k slot := by
  rw [State.gangAt, h.cores]
  rfl

theorem SameMap.blockAt (h : SameMap s t) (key : Nat) : t.blockAt key = s.blockAt key := by
  rw [h.rest]
  rfl

theorem SameMap.blocksOn (h : SameMap s t) (k : Nat) : t.blocksOn k = s.blocksOn k := by
  rw [h.rest]
  rfl

theorem SameMap.bayPins (h : SameMap s t) (k : Nat) : t.bayPins k = s.bayPins k := by
  obtain ⟨W, hW⟩ := h.coreAt
  have hlive : t.livePins k = s.livePins k := by
    unfold State.livePins
    rw [hW]
    refine List.filter_congr fun r _ => ?_
    unfold State.pinLive
    simp only [h.gangAt, hW]
    rw [h.rest]
  simp only [State.bayPins, hlive]

theorem SameMap.mxstat (h : SameMap s t) (k slot : Nat) : mxstat t k slot = Machine.mxstat s k slot := by
  obtain ⟨W, hW⟩ := h.coreAt
  unfold Machine.mxstat
  simp only [h.gangAt, hW]

theorem SameMap.stateValue (h : SameMap s t) (p : Party) (k : Nat) : stateValue t p k = Machine.stateValue s p k := by
  obtain ⟨W, hW⟩ := h.coreAt
  have hboard : ∀ d, t.boardAt d = s.boardAt d := fun d => by rw [h.rest]; rfl
  have hnow : t.now = s.now := by rw [h.rest]
  unfold Machine.stateValue
  simp only [h.blocksOn, hboard, hnow, h.mxstat, h.blockAt, h.bayPins, hW, Core.cpq, Core.standsStill, Core.mxdone]

theorem SameMap.winWord (h : SameMap s t) (n va : Nat) : t.winWord n va = s.winWord n va := by
  obtain ⟨W, hW⟩ := h.coreAt
  have hpondGang : ∀ k off, t.pondGang k off = s.pondGang k off := fun k off => by simp only [State.pondGang, hW]
  have hpondBlock : ∀ k off, t.pondBlock k off = s.pondBlock k off := fun k off => by simp only [State.pondBlock, h.blocksOn]
  have hblock : ∀ k slot, t.winBlock k slot = s.winBlock k slot := fun k slot => by rw [h.rest]; rfl
  have hscalar : ∀ k slot g n, t.scalar k slot g n = s.scalar k slot g n := fun k slot g n => by rw [h.rest]; rfl
  have hgang : ∀ k slot g off, t.winGang k slot g off = s.winGang k slot g off := fun k slot g off => by simp only [State.winGang, hscalar]
  have hparty : ∀ k slot, t.winParty k slot = s.winParty k slot := fun k slot => by simp only [State.winParty, h.gangAt]
  unfold State.winWord
  simp only [hW, hpondGang, hpondBlock, hblock, hgang, hparty, h.gangAt, h.stateValue, Core.ringWord]

/-! ### At the target -/

/-- A field that a change of a core keeps is as it was in every core. -/
theorem State.field_modCore {α : Type} (g : Core → α) (k : Nat) {f : Core → Core} (hf : ∀ c, g (f c) = g c) (j : Nat) :
    g ((s.modCore k f).coreAt j) = g (s.coreAt j) := by
  by_cases h : j = k
  · rw [h, State.coreAt_modCore_self, hf]
  · rw [State.coreAt_modCore_ne _ _ h]

theorem State.winOpen_congr (h : ∀ k, (t.coreAt k).domain = (s.coreAt k).domain) (phys : Bool) (domain va : Nat) :
    t.winOpen phys domain va = s.winOpen phys domain va := by
  simp only [State.winOpen, h]

theorem SameMap.winOpen (h : SameMap s t) (phys : Bool) (domain va : Nat) : t.winOpen phys domain va = s.winOpen phys domain va :=
  State.winOpen_congr (fun k => by rw [h.cores]) phys domain va

theorem SameMap.windowTaken (s : State) (core : Nat) (f : List WinAcc → List WinAcc) :
    SameMap s (s.modCore core fun c => { c with wins := f c.wins }) := by
  refine ⟨fun k => ?_, rfl⟩
  by_cases h : k = core
  · rw [h, State.coreAt_modCore_self]
  · rw [State.coreAt_modCore_ne _ _ h]

/-- A read that marks its gang's error puts that on the agenda. -/
theorem SameMap.windowBad (h : SameMap s t) (c : Prop) [Decidable c] (core slot blk va size : Nat) :
    SameMap s (if c then t.windowBad core slot blk va size else t) := by
  have hat : ∀ clock e, SameMap s (t.at clock e) := fun clock e => ⟨h.cores, by rw [h.rest]; rfl⟩
  unfold State.windowBad State.consumeError
  dsimp only
  split
  · split
    · split
      · exact hat _ _
      · exact h
    · exact h
  · exact h

theorem SameMap.winRead (h : SameMap s t) (w : WinAcc) : (t.winRead w.phys w.domain w.addr w.size).1 = windowBytes s w := by
  have hf : t.fresh = s.fresh := by rw [h.rest]
  unfold State.winRead windowBytes
  rw [h.winOpen, hf]
  split
  · simp only [h.winWord]
  · rfl

theorem State.winRead_cores (s : State) (phys : Bool) (domain va size : Nat) : (s.winRead phys domain va size).2.cores = s.cores := by
  unfold State.winRead
  split <;> rfl

theorem State.pendAt_eq {slot id : Nat} {g : Gang} {d : Pend} (hg : s.gangAt core slot = some g) (hd : g.pend.find? (·.id == id) = some d) :
    s.pendAt core slot id = some d := by rw [State.pendAt, hg, Option.bind_some, hd]

/-- An operation whose lanes have changed. -/
theorem State.pendAt_modLanes {slot id : Nat} {d : Pend} (h : s.pendAt core slot id = some d) (f : LoadLane → LoadLane) :
    (s.modLanes core slot id f).pendAt core slot id = some { d with body := d.body.withLanes (d.body.lanes.map f) } := by
  obtain ⟨g, hg, hd⟩ := Option.bind_eq_some_iff.mp h
  have hp : (s.modPend core slot id fun d => { d with body := d.body.withLanes (d.body.lanes.map f) }).pendAt core slot id =
      some { d with body := d.body.withLanes (d.body.lanes.map f) } := by
    refine State.pendAt_eq ((State.gangAt_modGang_self ..).trans (by rw [hg]; rfl)) ?_
    exact (find?_replaceFirst (q := fun x : Pend => x.id == id) (f := fun d => { d with body := d.body.withLanes (d.body.lanes.map f) })
      (fun _ => rfl) g.pend).trans (by rw [hd]; rfl)
  unfold State.modLanes
  dsimp only
  rw [hp]
  dsimp only
  split
  · exact hp
  · exact hp

/-- A read that is first in its core's list, and that its target does not hold, takes its bytes. -/
theorem exec_windowRead {w : WinAcc} {rest : List WinAcc} (hw : (s.coreAt core).wins = w :: rest)
    (hheld : s.winHeld w.addr w.size w.write.isSome = false) (hwrite : w.write = none) :
    ∃ t, SameMap s t ∧ exec (.windowAccessArrival core w.id) s = .next
      (State.modLanes (t.winRead w.phys w.domain w.addr w.size).2 core w.slot w.pend fun l => if l.lane = w.lane then { l with got := some (windowBytes s w) } else l) := by
  have hx : exec (.windowAccessArrival core w.id) s = execWindowAccessArrival core w.id s := rfl
  obtain ⟨u, hu⟩ : ∃ u, u = s.modCore core fun c => { c with wins := c.wins.filter (·.id != w.id) } := ⟨_, rfl⟩
  have hmap : SameMap s u := hu ▸ SameMap.windowTaken s core fun l => l.filter (·.id != w.id)
  have hbad := hmap.windowBad (u.winOpen w.phys w.domain w.addr = true) core w.slot w.blk w.addr w.size
  refine ⟨_, hbad, ?_⟩
  rw [← hbad.winRead w, hx, execWindowAccessArrival]
  simp only [hw, List.find?_cons, List.takeWhile_cons, beq_self_eq_true, bne_self_eq_false, Bool.false_eq_true, if_false, List.any_nil, hheld]
  rw [hwrite, ← hu]

/-- A write that is first in its core's list, and that its target does not hold, is made there. -/
theorem exec_windowWrite {w : WinAcc} {rest : List WinAcc} {bs : List Byte} (hw : (s.coreAt core).wins = w :: rest)
    (hheld : s.winHeld w.addr w.size w.write.isSome = false) (hwrite : w.write = some bs) :
    ∃ u : State, exec (.windowAccessArrival core w.id) s = .next ((u.winWrite w.phys w.domain w.addr bs).wake core) ∧
      (u.coreAt core).wins = (s.coreAt core).wins.filter (·.id != w.id) ∧ (∀ k, (u.coreAt k).domain = (s.coreAt k).domain) ∧
      ∀ k, (u.coreAt k).acc = (s.coreAt k).acc := by
  have hx : exec (.windowAccessArrival core w.id) s = execWindowAccessArrival core w.id s := rfl
  refine ⟨(s.modCore core fun c => { c with wins := c.wins.filter (·.id != w.id) }).modCore core fun c =>
    { c with rels := c.rels.map fun r => { r with wins := r.wins.filter (· != w.id) } }, ?_, ?_, fun k => ?_, fun k => ?_⟩
  · rw [hx, execWindowAccessArrival]
    simp only [hw, List.find?_cons, List.takeWhile_cons, beq_self_eq_true, bne_self_eq_false, Bool.false_eq_true, if_false, List.any_nil, hheld]
    rw [hwrite]
  · rw [State.coreAt_modCore_self, State.coreAt_modCore_self]
  · exact (State.field_modCore (·.domain) core (fun _ => by rfl) k).trans (State.field_modCore (·.domain) core (fun _ => by rfl) k)
  · exact (State.field_modCore (·.acc) core (fun _ => by rfl) k).trans (State.field_modCore (·.acc) core (fun _ => by rfl) k)

theorem word_ofBytes_toBytes (v : Word) : word (ofBytes (toBytes 4 v.toNat)) = v := by
  refine BitVec.eq_of_toNat_eq ?_
  have := v.isLt
  simp only [toBytes, List.range_succ, List.range_zero, List.nil_append, List.cons_append, List.map_cons, List.map_nil, ofBytes, word,
    BitVec.toNat_ofNat, Nat.shiftRight_eq_div_pow]
  omega

theorem wordsOf_toBytes (v : Word) : wordsOf (toBytes 4 v.toNat) = [v] := by
  have hl : (toBytes 4 v.toNat).length = 4 := by simp [toBytes]
  have ht : (toBytes 4 v.toNat).take 4 = toBytes 4 v.toNat := List.take_of_length_le (by omega)
  simp [wordsOf, hl, ht, word_ofBytes_toBytes]

/-- A word written to the accumulators of a core (R158, R232). -/
theorem State.winPut_acc {va : Nat} (hk : winKind va = 3) (v : Word) :
    s.winPut va none [v] = s.modCore (winCore va) fun c => { c with acc := Sp.set c.acc (winOff va / 4) v } := by
  rw [State.winPut]
  simp only [hk]
  rw [State.winPut]

/-- A write of a word of the accumulators: nothing else of a core changes, and nothing where the target answers none of it (R332). -/
theorem State.winWrite_acc {va : Nat} (hk : winKind va = 3) (v : Word) (phys : Bool) (domain : Nat) :
    (∀ k, ((s.winWrite phys domain va (toBytes 4 v.toNat)).coreAt k).wins = (s.coreAt k).wins) ∧
    (s.winOpen phys domain va = true → Sp.get ((s.winWrite phys domain va (toBytes 4 v.toNat)).coreAt (winCore va)).acc (winOff va / 4) = v) ∧
    (s.winOpen phys domain va = false → ((s.winWrite phys domain va (toBytes 4 v.toNat)).coreAt (winCore va)).acc = (s.coreAt (winCore va)).acc) := by
  unfold State.winWrite
  rw [wordsOf_toBytes, State.winPut_acc hk]
  split
  · next ho => exact ⟨fun k => State.field_modCore (·.wins) _ (fun _ => by rfl) k, fun _ => by simp, fun hc => by simp [ho] at hc⟩
  · next ho => exact ⟨fun _ => rfl, fun h => absurd h ho, fun _ => rfl⟩

/-- Settles O29: the accesses as they are sent (State.sendWindows_sent), and their arrival by what a window reads or writes (SameMap.winWord,
State.winPut_acc). -/
theorem windowAccesses : Obligations.WindowAccesses := by
  unfold Obligations.WindowAccesses
  refine ⟨fun s p t a kind k addr haddr => ⟨fun hr htrap hh hw => ?_, fun hr htrap hread hrels => ?_⟩,
    fun s core w rest hw hheld => ⟨fun g d kind t lanes hwrite hg hd hbody => ?_, fun v hwrite hkind => ?_⟩⟩
  · have hx := hr.execLdw haddr htrap hh hw
    obtain ⟨ws, h, hws⟩ := State.sendWindows_sent (s.addPend p (resultCodes t (kindRegs kind)) (.window kind t
      ((lanesOf p.writing).map fun l => ⟨l, addr l, false, none, none⟩))) p (kindSize kind) s.fresh
        ((lanesOf p.writing).map fun l => (l, addr l, none)) (by simp)
    have hcore := h.here
    rw [State.coreAt_addPend hr.gang] at hcore
    have hgang := (State.gangAt_of_core hcore ..).trans (Kv.get?_put_self ..)
    obtain ⟨hg, hagenda, hc⟩ := State.coreAt_advance hgang rfl
    have hnow : (s.addPend p (resultCodes t (kindRegs kind)) (.window kind t ((lanesOf p.writing).map fun l => ⟨l, addr l, false, none, none⟩))).now =
      s.now := by simp [State.addPend]
    have hmoved : ∀ body, (s.pended p p.g (resultCodes t (kindRegs kind)) body).moved p.lead s.now p.inRep =
      s.pended p (p.moved s) (resultCodes t (kindRegs kind)) body := fun _ => Gang.moved_pend ..
    rw [h.now, hnow, hmoved] at hg hc
    refine ⟨_, _, ws, hx, hg, rfl, by rw [hc, hcore]; simp, by rw [hws, List.map_map]; rfl, fun w hw => ?_⟩
    obtain ⟨clock, hlt, hmem⟩ := h.arrive w hw
    exact ⟨clock, hnow ▸ hlt, hagenda ▸ hmem⟩
  · have hx := hr.execStw haddr htrap hread
    obtain ⟨ws, h, hws⟩ := State.sendWindows_sent s p (kindSize kind) 0
      ((lanesOf p.writing).map fun l => (l, addr l, some (toBytes (kindSize kind) (s.regValue p t (kindRegs kind) l)))) fun _ => hrels
    have hgang := (State.gangAt_of_core h.here ..).trans hr.gang
    obtain ⟨hg, hagenda, hc⟩ := State.coreAt_advance hgang rfl
    rw [h.now] at hg hc
    refine ⟨_, ws, hx, hg, by rw [hc, h.here]; rfl, ?_, fun w hw => ?_⟩
    · simpa [Function.comp_def] using congrArg (List.map fun x => (x.1, x.2.1, x.2.2.1, x.2.2.2.1)) hws
    · obtain ⟨clock, hlt, hmem⟩ := h.arrive w hw
      exact ⟨clock, hlt, hagenda ▸ hmem⟩
  · obtain ⟨u, hu, hx⟩ := exec_windowRead hw hheld hwrite
    refine ⟨_, _, hx, State.pendAt_modLanes (d := d) (State.pendAt_eq (g := g) ?_ hd) _, by rw [hbody]; rfl⟩
    rw [State.gangAt_of_cores (State.winRead_cores ..), hu.gangAt, hg]
  · obtain ⟨u, hx, hwins, hdomain, hacc⟩ := exec_windowWrite hw hheld hwrite
    obtain ⟨hkept, hwritten, hclosed⟩ := State.winWrite_acc (s := u) hkind v w.phys w.domain
    rw [State.winOpen_congr hdomain] at hwritten hclosed
    refine ⟨_, hx, ?_⟩
    simp only [State.coreAt_of_cores (State.wake_onlyAgenda _ core).cores]
    refine ⟨fun x hx => ?_, hwritten, fun ho => (hclosed ho).trans (hacc _)⟩
    rw [hkept, hwins] at hx
    simpa using (List.mem_filter.mp hx).2

end Sys2Proof.Machine
end

section
/-! SUPPORT. Seals, publication and drains of the leat (R165, R168, R255 to R257, R267). -/

namespace Sys2Proof.Machine
open Sys2Proof

variable {s t : State} {core : Nat}

theorem foldl_keeps {α β : Type} (F : State → β) {f : State → α → State} (hf : ∀ s x, F (f s x) = F s) (l : List α) (s : State) :
    F (l.foldl f s) = F s := by
  induction l generalizing s with
  | nil => rfl
  | cons x l ih => exact (ih _).trans (hf s x)

/-! ### Publication -/

/-- What the cursor limit of a core may change stands in that core (R461). -/
theorem State.cursorLimit_ne (s : State) {k j : Nat} (source : Nat) (h : j ≠ k) : (s.cursorLimit k source).coreAt j = s.coreAt j := by
  unfold State.cursorLimit State.cursorJump
  dsimp only
  split
  · exact State.coreAt_modCore_ne _ _ h
  · rfl

theorem State.cursorLimit_now (s : State) (k source : Nat) : (s.cursorLimit k source).now = s.now := by
  unfold State.cursorLimit
  dsimp only
  split <;> rfl

theorem State.publish_of_none (h : newestMark (s.coreAt core).leat none = none) : s.publish core = s := by
  rw [State.publish]
  dsimp only
  rw [h]

/-- A publication changes of its core the tail, its clock and what its releases know of it, and the tail becomes the newest mark where that is
newer (R256). -/
theorem State.publish_core (s : State) (core : Nat) : ∃ tail clock rels,
    (s.publish core).coreAt core = { s.coreAt core with pubTail := tail, pubClock := clock, rels := rels } ∧
    ∀ m, newestMark (s.coreAt core).leat none = some m → tail = if seqLe m (s.coreAt core).pubTail then (s.coreAt core).pubTail else m := by
  unfold State.publish
  extract_lets c
  split
  · next hn => exact ⟨_, _, _, rfl, fun m hm => nomatch hn.symm.trans hm⟩
  · next m hm =>
    split
    · next hle =>
      refine ⟨c.pubTail, c.pubClock, c.rels, rfl, fun m' hm' => ?_⟩
      cases hm.symm.trans hm'
      exact (if_pos hle).symm
    · next hle =>
      refine ⟨m, s.now, exists_and_right.mpr ⟨?core, fun m' hm' => ?tail⟩⟩
      case tail =>
        cases hm.symm.trans hm'
        exact (if_neg hle).symm
      apply Exists.intro
      rw [State.coreAt_at, foldl_keeps (·.coreAt core) fun u k => ?limit, foldl_keeps (·.coreAt core) fun u r => ?release, State.coreAt_at,
        State.coreAt_modCore_self]
      case limit =>
        split
        · rfl
        · next hk => exact State.cursorLimit_ne _ _ (Ne.symm hk)
      case release => rfl

theorem State.publish_now (s : State) (core : Nat) : (s.publish core).now = s.now := by
  unfold State.publish
  dsimp only
  split
  · rfl
  · split
    · rfl
    · rw [State.at_now, foldl_keeps (·.now) fun u k => ?limit, foldl_keeps (·.now) fun u r => by rfl]
      · rfl
      case limit =>
        split
        · rfl
        · exact State.cursorLimit_now ..

/-! ### Seals and tails -/

theorem State.foldl_modCore_cores {α : Type} (k : α → Nat) (f : α → Core → Core) (l : List α) (s : State) :
    l.foldl (fun s x => s.modCore (k x) (f x)) s = { s with cores := (l.foldl (fun s x => s.modCore (k x) (f x)) s).cores } := by
  induction l generalizing s with
  | nil => rfl
  | cons x l ih => exact ih _

/-- A change of some consecutive cores. -/
theorem State.coreAt_modCores (s : State) (lo n : Nat) (f : Core → Core) (x : Nat) :
    ((List.range n).foldl (fun s k => s.modCore (lo + k) f) s).coreAt x = if lo ≤ x ∧ x < lo + n then f (s.coreAt x) else s.coreAt x := by
  induction n with
  | zero => rw [if_neg (by omega)]; rfl
  | succ n ih =>
    rw [List.range_succ, List.foldl_append, List.foldl_cons, List.foldl_nil]
    by_cases hx : x = lo + n
    · rw [hx, State.coreAt_modCore_self, ← hx, ih, if_neg (by omega), if_pos (by omega)]
    · rw [State.coreAt_modCore_ne _ _ hx, ih]
      split
      · rw [if_pos (by omega)]
      · rw [if_neg (by omega)]

theorem entriesSealAndTailsPublish : Claim.EntriesSealAndTailsPublish := by
  unfold Claim.EntriesSealAndTailsPublish
  have hx : ∀ s core q, exec (.leatEntrySeal core q) s = execLeatEntrySeal core q s := fun _ _ _ => rfl
  refine ⟨fun s core q hq => by rw [hx, execLeatEntrySeal, hq], fun s core e c hc he => ?_, fun s core tail => ?_⟩
  · subst hc
    refine ⟨fun hs => ?_, fun hs hlt => ?_, fun hs hle => ?_⟩
    · simp only [hx, execLeatEntrySeal, he, hs, if_true]
    · simp only [hx, execLeatEntrySeal, he, hs, hlt, if_true, Bool.false_eq_true, if_false]
    · simp only [hx, execLeatEntrySeal, he, hs, Nat.not_lt.mpr hle, Bool.false_eq_true, if_false]
      refine ⟨_, _, rfl, rfl, ?_⟩
      obtain ⟨u, hu⟩ : ∃ u, u = s.modCore core fun c => { c with leat := replaceFirst (·.seq == e.seq) (fun x => { x with sealed := true }) c.leat } := ⟨_, rfl⟩
      have hcore : u.coreAt core = { s.coreAt core with leat := replaceFirst (·.seq == e.seq) (fun x => { x with sealed := true }) (s.coreAt core).leat } := by
        rw [hu, State.coreAt_modCore_self]
      obtain ⟨tail, clock, rels, hp, htail⟩ := u.publish_core core
      simp only [State.drain, State.coreAt_at, ← hu]
      rw [hp, hcore]
      rw [hcore] at htail
      refine ⟨rfl, fun hn => ?_, htail⟩
      have hself := State.publish_of_none (s := u) (core := core) (by rwa [hcore])
      rw [hself, hcore] at hp
      exact (congrArg Core.pubTail hp).symm
  · refine ⟨_, rfl, fun k hk x hx => ?_, ?_⟩
    · rw [State.coreAt_modCores, if_pos (by unfold clusterOf; omega)]
    · exact State.foldl_modCore_cores (fun k => clusterOf core * 16 + k) (fun _ c => { c with tailSeen := Sp.set c.tailSeen core tail }) _ s

/-! ### Drains -/

/-- An entry that a scan has picked is marked sent and queues at the port. -/
def State.sendEntry (s : State) (core : Nat) (e : LeatEntry) : State :=
  (s.modCore core fun c => { c with leat := replaceFirst (·.seq == e.seq) (fun x => { x with sent := true }) c.leat }).toPort
    core e.granules (if e.relm.isSome then .leatDrainAck core e.seq s.now else .sliceEntryApply core e.seq)

theorem State.sendEntry_core (s : State) (core : Nat) (e : LeatEntry) :
    (s.sendEntry core e).coreAt core = { s.coreAt core with
      leat := replaceFirst (·.seq == e.seq) (fun x => { x with sent := true }) (s.coreAt core).leat
      port := { (s.coreAt core).port with queue := (s.coreAt core).port.queue ++
        [(e.granules, if e.relm.isSome then .leatDrainAck core e.seq s.now else .sliceEntryApply core e.seq)] } } := by
  rw [State.sendEntry, State.coreAt_of_cores (State.toPort_cores ..), State.coreAt_modCore_self, State.coreAt_modCore_self]

theorem exec_leatDrainStart (s : State) (core : Nat) : exec (.leatDrainStart core) s = .next
    ((drainScan ((s.publish core).coreAt core) s.now ((s.publish core).coreAt core).leat [] true).foldl (·.sendEntry core) (s.publish core)) := by
  rw [← s.publish_now core]
  rfl

theorem map_seq_replaceFirst (q : Word) (l : List LeatEntry) :
    (replaceFirst (·.seq == q) (fun x => { x with sent := true }) l).map (·.seq) = l.map (·.seq) := by
  induction l with
  | nil => rfl
  | cons e l ih =>
    rw [replaceFirst]
    split
    · rfl
    · rw [List.map_cons, ih, List.map_cons]

theorem newestMark_unsealed {e : LeatEntry} (h : e.sealed = false) (l : List LeatEntry) (m : Option Word) : newestMark (e :: l) m = m := by
  simp [newestMark, h]

/-- Behind an entry that is not sealed nothing leaves (R255). -/
theorem drainScan_unsealed {e : LeatEntry} (h : e.sealed = false) (hq : e.relm.isSome = true ∨ (e.sent = false ∧ e.parked = none)) (c : Core) (now : Nat)
    (l : List LeatEntry) : drainScan c now (e :: l) [] true = [] := by
  rw [drainScan]
  obtain hm | ⟨hs, hp⟩ := hq
  · simp [hm, h]
  · simp [hs, hp, h]

/-- The scan of a ring whose only entry is due, sealed and told takes it. -/
theorem drainScan_due {e : LeatEntry} {c : Core} {now : Nat} (hm : e.relm = none) (hs : e.sent = false) (hp : e.parked = none) (hl : e.sealed = true)
    (hd : e.urged = true ∨ e.sealAt + 1024 ≤ now) (hr : c.rels = []) (ht : seqLe e.seq c.pubTail = true ∨ c.pubClock + 8 ≤ now) (hf : c.filter = []) :
    drainScan c now [e] [] true = [e] := by
  have hdue : (e.urged || decide (e.sealAt + 1024 ≤ now)) = true := by simpa using hd
  have htold : (seqLe e.seq c.pubTail || decide (c.pubClock + 8 ≤ now)) = true := by simpa using ht
  rw [drainScan]
  simp only [hm, hs, hp, hl, hr, hf, hdue, htold]
  rfl

/-- The scan of a ring takes a sealed release mark that is first. -/
theorem drainScan_mark {e : LeatEntry} (hm : e.relm.isSome = true) (hs : e.sent = false) (hl : e.sealed = true) (c : Core) (now : Nat) (l : List LeatEntry) :
    drainScan c now (e :: l) [] true = [e] := by
  simp [drainScan, hm, hs, hl]

theorem State.publish_leat (s : State) (core : Nat) : ((s.publish core).coreAt core).leat = (s.coreAt core).leat := by
  obtain ⟨tail, clock, rels, h, -⟩ := s.publish_core core
  rw [h]

theorem State.publish_port (s : State) (core : Nat) : ((s.publish core).coreAt core).port = (s.coreAt core).port := by
  obtain ⟨tail, clock, rels, h, -⟩ := s.publish_core core
  rw [h]

/-- The only entry of a ring, a release mark, leaves it as it passes the port (R165). -/
theorem State.markLeaves_core {e : LeatEntry} (hl : (s.coreAt core).leat = [e]) (hm : e.relm.isSome = true) (stamp : Nat) :
    (s.markLeaves core (.leatDrainAck core e.seq stamp)).coreAt core = { s.coreAt core with leat := [] } := by
  rw [State.markLeaves, hl, if_pos (by simp [hm]), State.drain, State.coreAt_at, State.coreAt_modCore_self, hl]
  simp

theorem departAll_mark {e : LeatEntry} {cost stamp : Nat} (hl : (s.coreAt core).leat = [e]) (hm : e.relm.isSome = true)
    (hq : (s.coreAt core).port.queue = [(cost, .leatDrainAck core e.seq stamp)]) (hlv : cost ≤ (s.coreAt core).port.level) :
    (departAll 1 s core).coreAt core = { s.coreAt core with
      leat := [], port := { (s.coreAt core).port with level := (s.coreAt core).port.level - cost, queue := [] } } := by
  obtain ⟨u, hu⟩ : ∃ u, u = s.modCore core fun c =>
    { c with port := { c.port with level := (s.coreAt core).port.level - cost, queue := [] } } := ⟨_, rfl⟩
  have hact : ∀ f, (u.active f).coreAt core = u.coreAt core := fun f => by
    unfold State.active
    split <;> rfl
  have hcore := (congrArg (·.coreAt core) hu).trans (State.coreAt_modCore_self ..)
  dsimp only at hcore
  have hd : departAll 1 s core = ((u.active (u.coreAt core).function).markLeaves core (.leatDrainAck core e.seq stamp)).later
      (.leatDrainAck core e.seq stamp) := by
    rw [departAll, hq]
    dsimp only
    rw [if_pos hlv, ← hu]
    rfl
  rw [hd, State.coreAt_later, State.markLeaves_core (by rw [hact, hcore, hl]) hm, hact, hcore]

theorem drainsLeaveInOrder : Claim.DrainsLeaveInOrder := by
  unfold Claim.DrainsLeaveInOrder
  refine ⟨fun s core => ?_, fun s core e c hc hl hm hs hp hsealed hd hr ht hf => ?_, fun s core e rest c hc hl hsealed hq => ?_,
    fun s core e scope c hc hl hm hsealed hs => ?_, fun s core cost stamp e c hc hl hm hq hlv => ?_⟩
  · refine ⟨_, exec_leatDrainStart s core, ?_⟩
    rw [foldl_keeps (fun u => (u.coreAt core).leat.map (·.seq)) fun u e => ?_, State.publish_leat]
    rw [State.sendEntry_core]
    exact map_seq_replaceFirst ..
  · have hself : s.publish core = s := State.publish_of_none (by rw [← hc, hl, newestMark, hsealed, hm]; rfl)
    have hx := exec_leatDrainStart s core
    rw [hself, ← hc, hl, drainScan_due hm hs hp hsealed hd hr ht hf] at hx
    refine ⟨_, hx, ?_, ?_⟩ <;> rw [List.foldl_cons, List.foldl_nil, State.sendEntry_core, ← hc]
    · simp [hl, replaceFirst]
    · simp [hm]
  · have hself : s.publish core = s := State.publish_of_none (by rw [← hc, hl, newestMark_unsealed hsealed])
    rw [exec_leatDrainStart, hself, ← hc, hl, drainScan_unsealed hsealed hq]
    rfl
  · have hx := exec_leatDrainStart s core
    have hm' : e.relm.isSome = true := by rw [hm]; rfl
    rw [State.publish_leat, ← hc, hl, drainScan_mark hm' hs hsealed] at hx
    refine ⟨_, hx, ?_, ?_⟩ <;> rw [List.foldl_cons, List.foldl_nil, State.sendEntry_core]
    · simp [State.publish_leat, ← hc, hl, replaceFirst]
    · simp [State.publish_port, State.publish_now, ← hc, hm']
  · subst hc
    have hx : exec (.portRequestDepart core) s = execPortRequestDepart core s := rfl
    have hd := departAll_mark hl hm hq hlv
    rw [execPortRequestDepart, hq, List.length_singleton] at hx
    simp only [hd, List.isEmpty_nil, if_true] at hx
    exact ⟨_, hx, by rw [hd], by rw [hd], by rw [hd]⟩

end Sys2Proof.Machine
end

section
/-! SUPPORT. Acknowledgement, compaction and the cursors of the leat (R165, R167, R169, R258, R288, R461). -/

namespace Sys2Proof.Machine
open Sys2Proof

variable {s t : State} {core : Nat}

/-! ### The leat's own events complete -/

theorem leatEventsComplete (s : State) (core source stamp : Nat) (q r tail : Word) :
    ∀ i ∈ [Instr.leatEntrySeal core q, .tailBroadcastArrival core tail, .leatDrainStart core, .leatDrainAck core q stamp, .leatCompaction core q r,
      .replayCursorLimit core source], ∃ T : State, exec i s = .next T := by
  simp only [List.forall_mem_cons]
  refine ⟨?sealing, ⟨_, rfl⟩, ⟨_, rfl⟩, ?ack, ?compaction, ⟨_, rfl⟩, nofun⟩
  case sealing =>
    change ∃ T, execLeatEntrySeal core q s = .next T
    unfold execLeatEntrySeal
    split
    · exact ⟨_, rfl⟩
    · split
      · exact ⟨_, rfl⟩
      · split <;> exact ⟨_, rfl⟩
  case ack =>
    change ∃ T, execLeatDrainAck core q stamp s = .next T
    unfold execLeatDrainAck
    split <;> exact ⟨_, rfl⟩
  case compaction =>
    change ∃ T, execLeatCompaction core q r s = .next T
    unfold execLeatCompaction
    dsimp only
    split
    · split <;> exact ⟨_, rfl⟩
    · exact ⟨_, rfl⟩

/-! ### An entry leaves -/

theorem Core.noteGone_entries {c : Core} {k now : Nat} {e : LeatEntry} {stamp : Nat} {acked clean : Bool} {r : Release}
    (hr : r ∈ (c.noteGone k now core e stamp acked clean).rels) : (core, e.seq) ∉ r.entries := by
  obtain ⟨q, -, rfl⟩ := List.mem_map.mp hr
  dsimp only
  split
  · simp
  · next hq => simpa using hq

theorem Core.noteGone_trail (c : Core) (k now : Nat) (e : LeatEntry) (stamp : Nat) (acked clean : Bool) :
    (c.noteGone k now core e stamp acked clean).trail = c.trail := rfl

theorem Core.noteGone_unpassed {c : Core} {now stamp : Nat} {e : LeatEntry} {clean : Bool} (h : now < stamp) :
    ⟨core, e, stamp⟩ ∈ (c.noteGone core now core e stamp true clean).unpassed := by
  simp [Core.noteGone, h]

/-- Through a change of every listed core that may depend on its number. -/
theorem State.coreAt_mapCores_of_listed {c : Core} (h : Kv.get? s.cores core = some c) (f : Nat × Core → Core) :
    ({ s with cores := s.cores.map fun x => (x.1, f x) } : State).coreAt core = f (core, c) := by
  have hget : ∀ m : List (Nat × Core), Kv.get? m core = some c → Kv.get? (m.map fun x => (x.1, f x)) core = some (f (core, c)) := by
    intro m
    induction m with
    | nil => nofun
    | cons e m ih =>
      obtain ⟨a, d⟩ := e
      simp only [List.map_cons, Kv.get?]
      split
      · next ha =>
        intro hd
        cases hd
        rw [ha]
      · exact ih
  rw [State.coreAt, hget _ h]
  rfl

/-- The core of an entry that leaves. -/
theorem State.entryGone_core {e : LeatEntry} {q : Word} (he : (s.coreAt core).leat.find? (·.seq == q) = some e) (stamp : Nat) :
    ∃ (c : Core) (clean : Bool), c.leat = (s.coreAt core).leat ∧ c.trail = (s.coreAt core).trail ∧ (s.entryGone core q stamp true).coreAt core =
      ({ (if e.relm.isNone then c.trailTakes e.line q else c) with leat := c.leat.filter (·.seq != q) } : Core).noteGone core s.now core e stamp true clean := by
  refine ⟨(s.requestGone core (.leat q) e.line).coreAt core, Exists.intro ?_
    ⟨State.field_modCore Core.leat core (fun _ => by rfl) core, State.field_modCore Core.trail core (fun _ => by rfl) core, ?_⟩⟩
  rotate_left
  · rw [State.entryGone, he]
    dsimp only
    rw [State.coreAt_of_cores (OnlyAgenda.foldl (fun s k => s.wake_onlyAgenda k) _ _).cores,
      State.coreAt_mapCores_of_listed (Kv.get?_put_self ..) (fun k => k.2.noteGone k.1 _ core e stamp true _)]
    rfl

theorem Core.trailTakes_getLast? (c : Core) (line : Nat) (q : Word) : (c.trailTakes line q).trail.getLast? = some (line, q) := by
  rw [Core.trailTakes, List.getLast?_drop, if_neg (by simp)]
  simp

theorem entryLeaves (s : State) (stamp : Nat) {e : LeatEntry} (he : (s.coreAt core).leat.find? (·.seq == e.seq) = some e) :
    ∃ T : State, exec (.leatDrainAck core e.seq stamp) s = .next T ∧ (T.coreAt core).leat = (s.coreAt core).leat.filter (·.seq != e.seq) ∧
      (e.relm = none → (T.coreAt core).trail.getLast? = some (e.line, e.seq)) ∧ (e.relm ≠ none → (T.coreAt core).trail = (s.coreAt core).trail) ∧
      (∀ r ∈ (T.coreAt core).rels, (core, e.seq) ∉ r.entries) ∧ (s.now < stamp → ⟨core, e, stamp⟩ ∈ (T.coreAt core).unpassed) := by
  have hx : exec (.leatDrainAck core e.seq stamp) s = execLeatDrainAck core e.seq stamp s := rfl
  have hany : (s.coreAt core).leat.any (·.seq == e.seq) = true := List.any_eq_true.mpr ⟨e, List.mem_of_find?_eq_some he, by simp⟩
  rw [execLeatDrainAck, if_pos hany] at hx
  obtain ⟨c, clean, hleat, htrail, hcore⟩ := State.entryGone_core he stamp
  rw [← hleat, ← htrail]
  refine ⟨_, hx, ?_⟩
  rw [hcore]
  refine ⟨rfl, fun hm => ?_, fun hm => ?_, fun r hr => Core.noteGone_entries hr, fun hlt => Core.noteGone_unpassed hlt⟩
  · rw [Core.noteGone_trail, if_pos (by rw [hm]; rfl)]
    dsimp only
    exact c.trailTakes_getLast? e.line e.seq
  · rw [if_neg (by simpa using hm)]
    rfl

/-! ### Compaction -/

theorem find?_orderedInsert_key (k : Nat) (x : Nat × Byte) (l : List (Nat × Byte)) :
    (l.orderedInsert (fun x y => x.1 ≤ y.1) x).find? (·.1 == k) = (x :: l).find? (·.1 == k) := by
  induction l with
  | nil => rfl
  | cons y l ih =>
    rw [List.orderedInsert_cons]
    split
    · rfl
    · next h =>
      simp only [List.find?_cons, ih]
      by_cases hx : x.1 = k
      · have hy : (y.1 == k) = false := beq_false_of_ne (by omega)
        rw [hy]
      · rw [beq_false_of_ne hx]

/-- The sort by offset does not change which pair of an offset is first. -/
theorem find?_insertionSort_key (k : Nat) (l : List (Nat × Byte)) :
    (l.insertionSort fun x y => x.1 ≤ y.1).find? (·.1 == k) = l.find? (·.1 == k) := by
  induction l with
  | nil => rfl
  | cons x l ih => rw [List.insertionSort_cons, find?_orderedInsert_key, List.find?_cons, List.find?_cons, ih]

/-- Bytes laid over others. -/
theorem find?_overlay (a b : List (Nat × Byte)) (k : Nat) :
    ((a.filter fun x => !b.any (·.1 == x.1)) ++ b).find? (·.1 == k) = (b.find? (·.1 == k)).or (a.find? (·.1 == k)) := by
  rw [List.find?_append, List.find?_filter]
  cases hb : b.find? (·.1 == k) with
  | none =>
    rw [Option.or_none, Option.none_or]
    congr 1
    funext x
    by_cases hx : x.1 = k
    · have hn : b.any (·.1 == x.1) = false := by simpa [hx] using hb
      rw [hn, Bool.not_false, beq_eq_decide]
      simp
    · simp [hx]
  | some y =>
    have hy := List.mem_of_find?_eq_some hb
    have hyk := List.find?_some hb
    rw [List.find?_eq_none.mpr, Option.none_or, Option.some_or]
    rintro x - hx
    simp only [decide_eq_true_eq, Bool.not_eq_true', List.any_eq_false, beq_iff_eq] at hx hyk
    exact hx.1 y hy (by rw [hyk, hx.2])

/-- The older of two entries that are compacted, with the newer bytes on top (R169). -/
def LeatEntry.compacted (a b : LeatEntry) : LeatEntry :=
  { a with bytes := ((a.bytes.filter fun x => !b.bytes.any (·.1 == x.1)) ++ b.bytes).insertionSort (fun x y => x.1 ≤ y.1)
           sealAt := b.sealAt, atom := a.atom || b.atom, urged := a.urged || b.urged }

/-- In the own view the compacted entry stands for both (R167). -/
theorem Core.leatByte_compacted {c d : Core} {a b e : LeatEntry} (hc : c.leat = [a, b]) (hd : d.leat = [e]) (ha : a.relm = none) (hb : b.relm = none)
    (hl : a.line = b.line) (hem : e.relm = none) (hel : e.line = a.line) (heb : e.bytes = (a.compacted b).bytes) (va : Nat) :
    d.leatByte va = c.leatByte va := by
  unfold Core.leatByte
  rw [hc, hd]
  by_cases hva : b.line = lineOf va
  · have hf : (e.bytes.find? (·.1 == va % 128)) = (b.bytes.find? (·.1 == va % 128)).or (a.bytes.find? (·.1 == va % 128)) := by
      rw [heb, LeatEntry.compacted, find?_insertionSort_key, find?_overlay]
    simp only [List.filter_cons, List.filter_nil, ha, hb, hem, hel, hl, hva, Option.isNone_none, beq_self_eq_true, Bool.and_self, if_true]
    rw [List.reverse_singleton, show [a, b].reverse = [b] ++ [a] from rfl, List.findSome?_append, List.findSome?_singleton, List.findSome?_singleton,
      List.findSome?_singleton, hf, Option.map_or]
  · simp [hva, hel, hl]

theorem Core.inPlaceOf_rels (c : Core) {a b : Word} (hab : a ≠ b) :
    (∀ r ∈ (c.inPlaceOf core b a).rels, (core, b) ∉ r.entries) ∧
    ∀ r ∈ c.rels, (core, b) ∈ r.entries → ∃ q ∈ (c.inPlaceOf core b a).rels, q.id = r.id ∧ (core, a) ∈ q.entries := by
  constructor
  · intro r hr
    obtain ⟨q, -, rfl⟩ := List.mem_map.mp hr
    simp only [List.mem_dedup, List.mem_map, not_exists, not_and]
    intro x _ hx
    split at hx
    · exact hab (congrArg Prod.snd hx)
    · next hne => exact hne hx
  · intro r hr hb
    refine ⟨_, List.mem_map.mpr ⟨r, hr, rfl⟩, rfl, ?_⟩
    exact List.mem_dedup.mpr (List.mem_map.mpr ⟨_, hb, if_pos rfl⟩)

/-- The only two entries of a ring, when the pair is eligible (R169). -/
theorem exec_leatCompaction {a b : LeatEntry} (hl : (s.coreAt core).leat = [a, b]) (hseq : b.seq = a.seq + 1) (hline : a.line = b.line)
    (ha : a.relm = none) (hb : b.relm = none) (hslot : a.slot = b.slot) (hblk : a.blk = b.blk) (hepoch : a.epoch = b.epoch)
    (has : a.sealed = false) (hbs : b.sealed = false) (hld : s.loadBetween core a.line a.seq b.seq = false) :
    ∃ (T : State) (c : Core), exec (.leatCompaction core a.seq b.seq) s = .next T ∧ T.coreAt core = c.inPlaceOf core b.seq a.seq ∧
      c.rels = (s.coreAt core).rels ∧ c.leat = [a.compacted b] := by
  have hne : a.seq ≠ b.seq := by
    rw [hseq]
    bv_omega
  have hx : exec (.leatCompaction core a.seq b.seq) s = execLeatCompaction core a.seq b.seq s := rfl
  have hin : seqIn a.seq b.seq (a.seq + 64) = true := by
    simp only [seqIn, hseq, Bool.and_eq_true, decide_eq_true_eq]
    bv_omega
  have hself : seqIn a.seq a.seq b.seq = false := by simp [seqIn]
  have hfa : [a, b].find? (·.seq == a.seq) = some a := by simp
  have hfb : [a, b].find? (·.seq == b.seq) = some b := by simp [hne]
  have hbetween : ([a, b].filter fun e => seqIn a.seq e.seq b.seq && e.seq != b.seq) = [] := by simp [hself]
  unfold execLeatCompaction at hx
  rw [hl] at hx
  dsimp only at hx
  rw [hfa, hfb] at hx
  dsimp only at hx
  rw [hbetween, if_pos (by rw [hin]; simp [hline.symm, ha, hb, hslot, hblk, hepoch, has, hbs, hld])] at hx
  refine ⟨_, Exists.intro ?_ ⟨hx, ?_, ?_, ?_⟩⟩
  rotate_left
  · rw [State.coreAt_mapCores_of_listed (Kv.get?_put_self ..) (fun k => k.2.inPlaceOf core b.seq a.seq)]
  · rfl
  · simp [LeatEntry.compacted, layEntries]

theorem entriesLeaveAndCompact : Claim.EntriesLeaveAndCompact := by
  unfold Claim.EntriesLeaveAndCompact
  refine ⟨leatEventsComplete, fun s core stamp q r hq => ⟨?ack, ?older, ?newer⟩, fun s core stamp e c hc he => hc ▸ entryLeaves s stamp (hc ▸ he),
    fun s core a b c hc hl hseq hline ha hb hslot hblk hepoch has hbs hld => ?_, fun s core source c t hc ht => ?_⟩
  case ack =>
    change execLeatDrainAck core q stamp s = .next s
    rw [execLeatDrainAck, if_neg]
    simpa using hq
  case older =>
    change execLeatCompaction core q r s = .next s
    rw [execLeatCompaction, hq]
  case newer =>
    change execLeatCompaction core r q s = .next s
    rw [execLeatCompaction, hq]
    cases (s.coreAt core).leat.find? (·.seq == r) <;> rfl
  · subst hc
    obtain ⟨T, d, hx, hT, hrels, hleat⟩ := exec_leatCompaction hl hseq hline ha hb hslot hblk hepoch has hbs hld
    have hne : a.seq ≠ b.seq := by
      rw [hseq]
      bv_omega
    obtain ⟨hgone, hkept⟩ := d.inPlaceOf_rels (core := core) hne
    have hTl : (T.coreAt core).leat = [a.compacted b] := (congrArg Core.leat hT).trans hleat
    refine ⟨T, a.compacted b, hx, hTl, rfl, rfl, rfl, rfl, fun va => ?_, by rw [hT]; exact hgone, by rw [hT, ← hrels]; exact hkept⟩
    exact Core.leatByte_compacted hl hTl ha hb hline ha rfl rfl va
  · subst hc ht
    have hx : exec (.replayCursorLimit core source) s = .next (s.cursorLimit core source) := rfl
    refine ⟨fun hlt => ?_, fun hle => ?_⟩ <;> rw [hx, State.cursorLimit]
    · exact congrArg _ (if_neg (by omega))
    · exact congrArg _ (if_pos hle)

/-- Settles O38: the seals and publications, the drains and what leaves the ring, each by the equations of its event; a publication keeps the ring and
the port, and the sort of the compacted bytes keeps which byte of an offset comes first. -/
theorem theLeatDrainsInOrder : Obligations.TheLeatDrainsInOrder :=
  ⟨entriesSealAndTailsPublish, drainsLeaveInOrder, entriesLeaveAndCompact⟩

end Sys2Proof.Machine
end

section
/-! SUPPORT. Second-level lines and first-level copies: what a line's return, revocation and departure change, and what they leave alone
(R154, R276, R282, R285, R286, R292, R381). -/

namespace Sys2Proof.Machine
open Sys2Proof

variable {s t u : State} {die line d l : Nat}

/-! ### A line in its slice -/

theorem State.lineIn_of_slices (h : t.slices = s.slices) (d l : Nat) : t.lineIn d l = s.lineIn d l := by
  simp [State.lineIn, State.sliceAt, h]

theorem sliceNum_lt (line : Nat) : sliceNum line < 4096 :=
  Nat.xor_lt_two_pow (n := 12) (Nat.mod_lt _ (by decide)) (Nat.mod_lt _ (by decide))

theorem sliceKey_ne (h : d ≠ die) : sliceKey d l ≠ sliceKey die line := by
  have hl := sliceNum_lt l
  have hline := sliceNum_lt line
  unfold sliceKey
  omega

theorem State.sliceAt_modSlice_self (s : State) (die line : Nat) (f : Slice → Slice) :
    (s.modSlice die line f).sliceAt (sliceKey die line) = f (s.sliceAt (sliceKey die line)) := by
  simp [State.sliceAt, State.modSlice]

theorem State.sliceAt_modSlice_ne {k : Nat} (h : k ≠ sliceKey die line) (f : Slice → Slice) : (s.modSlice die line f).sliceAt k = s.sliceAt k := by
  simp [State.sliceAt, State.modSlice, Kv.get?_put_ne _ _ h]

theorem State.lineIn_modSlice_other (h : d ≠ die) (f : Slice → Slice) : (s.modSlice die line f).lineIn d l = s.lineIn d l := by
  rw [State.lineIn, State.sliceAt_modSlice_ne (sliceKey_ne h), State.lineIn]

theorem State.lineIn_modLine_self {f : L2Line → L2Line} (hf : ∀ x, (f x).line = x.line) :
    (s.modLine die line f).lineIn die line = (s.lineIn die line).map f := by
  rw [State.lineIn, State.modLine, State.sliceAt_modSlice_self]
  exact find?_replaceFirst (q := fun x : L2Line => x.line == line) (fun x => by rw [hf]) _

theorem State.lineIn_modLine_ne {f : L2Line → L2Line} (hf : ∀ x, (f x).line = x.line) (h : ¬(d = die ∧ l = line)) :
    (s.modLine die line f).lineIn d l = s.lineIn d l := by
  by_cases hd : d = die
  · subst hd
    have hl : l ≠ line := fun e => h ⟨rfl, e⟩
    by_cases hk : sliceKey d l = sliceKey d line
    · rw [State.lineIn, State.modLine, hk, State.sliceAt_modSlice_self, State.lineIn, hk]
      refine find?_replaceFirst_of_not (fun x hx => ?_) _
      have hx : x.line = line := by simpa using hx
      simp [hf, hx, Ne.symm hl]
    · rw [State.lineIn, State.modLine, State.sliceAt_modSlice_ne hk, State.lineIn]
  · exact State.lineIn_modSlice_other hd _

theorem State.isSome_modLine {f : L2Line → L2Line} (hf : ∀ x, (f x).line = x.line) (d l : Nat) :
    ((s.modLine die line f).lineIn d l).isSome = (s.lineIn d l).isSome := by
  by_cases h : d = die ∧ l = line
  · obtain ⟨rfl, rfl⟩ := h
    rw [State.lineIn_modLine_self hf, Option.isSome_map]
  · rw [State.lineIn_modLine_ne hf h]

/-! ### What the caches' own work leaves alone -/

/-- A state without what the caches' own work changes. -/
def State.offCaches (s : State) : State :=
  { s with slices := [], cores := [], agenda := [], fresh := 0, dram := [], hostMem := [], memCache := [] }

/-- A core without its copies, atomics and engine works. -/
def Core.offCaches (c : Core) : Core := { c with l1 := [], atoms := [], works := [] }

/-- Lines and copies have changed, but no copy is new. -/
structure OnCaches (s t : State) : Prop where
  rest : t.offCaches = s.offCaches
  cores : ∀ k, (t.coreAt k).offCaches = (s.coreAt k).offCaches
  copies : ∀ k, ∀ x ∈ (t.coreAt k).l1, x ∈ (s.coreAt k).l1

theorem OnCaches.trans (h : OnCaches s t) (h' : OnCaches t u) : OnCaches s u :=
  ⟨h'.rest.trans h.rest, fun k => (h'.cores k).trans (h.cores k), fun k x hx => h.copies k x (h'.copies k x hx)⟩

theorem OnCaches.modLine (s : State) (die line : Nat) (f : L2Line → L2Line) : OnCaches s (s.modLine die line f) :=
  ⟨rfl, fun _ => rfl, fun _ _ h => h⟩

theorem OnCaches.pages (h : OnCaches s t) : t.pages = s.pages := show t.offCaches.pages = s.offCaches.pages from congrArg _ h.rest
theorem OnCaches.pr (h : OnCaches s t) : t.pr = s.pr := show t.offCaches.pr = s.offCaches.pr from congrArg _ h.rest
theorem OnCaches.graticule (h : OnCaches s t) : t.graticule = s.graticule := show t.offCaches.graticule = s.offCaches.graticule from congrArg _ h.rest
theorem OnCaches.now (h : OnCaches s t) : t.now = s.now := show t.offCaches.now = s.offCaches.now from congrArg _ h.rest
theorem OnCaches.leat (h : OnCaches s t) (k : Nat) : (t.coreAt k).leat = (s.coreAt k).leat :=
  show (t.coreAt k).offCaches.leat = (s.coreAt k).offCaches.leat from congrArg _ (h.cores k)

/-- A line of a die may have left, and copies with it: no line is new, the other lines stay, and those that no core owns stay as they are. -/
structure Evicted (die line : Nat) (s t : State) : Prop extends OnCaches s t where
  gone : s.lineIn die line = none → t.lineIn die line = none
  kept : ∀ d l, ¬(d = die ∧ l = line) → (t.lineIn d l).isSome = (s.lineIn d l).isSome
  free : ∀ d l x, ¬(d = die ∧ l = line) → s.lineIn d l = some x → x.coreOwner = none → t.lineIn d l = some x

theorem Evicted.refl (die line : Nat) (s : State) : Evicted die line s s :=
  ⟨⟨rfl, fun _ => rfl, fun _ _ h => h⟩, id, fun _ _ _ => rfl, fun _ _ _ _ h _ => h⟩

theorem Evicted.trans (h : Evicted die line s t) (h' : Evicted die line t u) : Evicted die line s u where
  toOnCaches := h.toOnCaches.trans h'.toOnCaches
  gone hn := h'.gone (h.gone hn)
  kept d l hne := (h'.kept d l hne).trans (h.kept d l hne)
  free d l x hne hx ho := h'.free d l x hne (h.free d l x hne hx ho) ho

theorem Evicted.foldl {α : Type} {f : State → α → State} (hf : ∀ s x, Evicted die line s (f s x)) (as : List α) (s : State) :
    Evicted die line s (as.foldl f s) := by
  induction as generalizing s with
  | nil => exact .refl ..
  | cons x as ih => exact (hf s x).trans (ih _)

theorem Evicted.gone_any (h : Evicted die line s t) (hn : s.lineIn d l = none) : t.lineIn d l = none := by
  by_cases hne : d = die ∧ l = line
  · obtain ⟨rfl, rfl⟩ := hne
    exact h.gone hn
  · have hk := h.kept d l hne
    rw [hn] at hk
    simpa using hk

/-- Where the slices are as they were. -/
theorem Evicted.of_slices (hl : t.slices = s.slices) (hr : t.offCaches = s.offCaches) (hc : ∀ k, (t.coreAt k).offCaches = (s.coreAt k).offCaches)
    (h1 : ∀ k, ∀ x ∈ (t.coreAt k).l1, x ∈ (s.coreAt k).l1) : Evicted die line s t where
  rest := hr
  cores := hc
  copies := h1
  gone hn := (State.lineIn_of_slices hl ..).trans hn
  kept d l _ := congrArg Option.isSome (State.lineIn_of_slices hl d l)
  free d l _ _ hx _ := (State.lineIn_of_slices hl d l).trans hx

theorem Evicted.of_cores (hl : t.slices = s.slices) (hr : t.offCaches = s.offCaches) (hc : t.cores = s.cores) : Evicted die line s t :=
  .of_slices hl hr (fun k => by rw [State.coreAt_of_cores hc]) fun k x hx => by rwa [State.coreAt_of_cores hc] at hx

theorem Evicted.modCore {f : Core → Core} (k : Nat) (hf : ∀ c, (f c).offCaches = c.offCaches) (h1 : ∀ c, ∀ x ∈ (f c).l1, x ∈ c.l1) :
    Evicted die line s (s.modCore k f) :=
  .of_slices rfl rfl (State.field_modCore Core.offCaches k hf) fun j x hx => by
    by_cases hj : j = k
    · subst hj
      rw [State.coreAt_modCore_self] at hx
      exact h1 _ x hx
    · rwa [State.coreAt_modCore_ne _ _ hj] at hx

theorem Evicted.dropL1 (k line' : Nat) : Evicted die line s (s.modCore k fun c => { c with l1 := c.l1.filter (·.line != line') }) :=
  .modCore k (fun _ => by rfl) fun _ _ hx => List.mem_of_mem_filter hx

theorem Evicted.at (h : Evicted die line s t) (c : Nat) (e : Instr) : Evicted die line s (t.at c e) := h.trans (.of_cores rfl rfl rfl)

/-- A change of a line that some core owns. -/
theorem Evicted.modLine_owned {f : L2Line → L2Line} {d l : Nat} (hf : ∀ x, (f x).line = x.line)
    (ho : ∀ x, s.lineIn d l = some x → x.coreOwner ≠ none) : Evicted die line s (s.modLine d l f) where
  rest := rfl
  cores _ := rfl
  copies _ _ h := h
  gone hn := by simpa [hn] using State.isSome_modLine (s := s) (die := d) (line := l) hf die line
  kept d' l' _ := State.isSome_modLine hf d' l'
  free d' l' x _ hx hn := by
    by_cases h : d' = d ∧ l' = l
    · obtain ⟨rfl, rfl⟩ := h
      exact absurd hn (ho x hx)
    · rwa [State.lineIn_modLine_ne hf h]

/-- A change of the line that is spoken of. -/
theorem Evicted.modLine_self {f : L2Line → L2Line} (hf : ∀ x, (f x).line = x.line) : Evicted die line s (s.modLine die line f) where
  rest := rfl
  cores _ := rfl
  copies _ _ h := h
  gone hn := by rw [State.lineIn_modLine_self hf, hn, Option.map_none]
  kept d l _ := State.isSome_modLine hf d l
  free d l x hne hx _ := (State.lineIn_modLine_ne hf hne).trans hx

/-! ### A line that its core returns, and copies that go -/

theorem State.recallOwner_evicted (s : State) (die line d l : Nat) : Evicted die line s (s.recallOwner d l) := by
  unfold State.recallOwner
  split
  · exact .refl ..
  · next k hk =>
    have ho : ∀ x, s.lineIn d l = some x → x.coreOwner ≠ none := fun x hx hn => by simp [hx, hn] at hk
    refine Evicted.trans ?_ (Evicted.dropL1 k l)
    split
    · exact .modLine_owned (fun _ => rfl) ho
    · exact .modLine_owned (fun _ => rfl) ho

theorem State.dropCopy_evicted (s : State) (die line core l : Nat) : Evicted die line s (s.dropCopy core l) := by
  unfold State.dropCopy
  refine Evicted.trans ?_ (Evicted.dropL1 core l)
  split
  · exact s.recallOwner_evicted ..
  · exact .refl ..

theorem State.dropCopies_evicted (s : State) (die line : Nat) (cores : List Nat) (l : Nat) : Evicted die line s (s.dropCopies cores l) :=
  .foldl (fun s k => s.dropCopy_evicted die line k l) cores s

theorem State.acked_evicted (s : State) (die line : Nat) (w : SliceWait) : Evicted die line s (s.acked w) := by
  unfold State.acked
  split
  · exact .of_cores rfl rfl rfl
  · exact (Evicted.modCore _ (fun _ => by rfl) fun _ _ hx => by exact hx).at _ _
  · split
    · exact .refl ..
    · exact (Evicted.modCore _ (fun _ => by rfl) fun _ _ hx => by exact hx).at _ _
  · exact .refl ..

theorem State.revokeLine_evicted (s : State) (die line : Nat) : Evicted die line s (s.revokeLine die line) := by
  unfold State.revokeLine
  split
  · exact .refl ..
  · refine Evicted.trans (Evicted.trans ?_ (Evicted.modLine_self fun _ => by rfl)) (.foldl (fun s w => s.acked_evicted die line w) _ _)
    split
    · exact s.dropCopies_evicted ..
    · exact .refl ..

theorem State.recallOwner_free {x : L2Line} (hx : s.lineIn die line = some x) (ho : x.coreOwner = none) : s.recallOwner die line = s := by
  simp [State.recallOwner, hx, ho]

/-- A core whose copy goes has none. -/
theorem State.dropCopy_l1 (s : State) (core line : Nat) : ∀ x ∈ ((s.dropCopy core line).coreAt core).l1, x.line ≠ line := by
  intro x hx
  rw [State.dropCopy, State.coreAt_modCore_self] at hx
  simpa using (List.mem_filter.mp hx).2

theorem State.dropCopies_l1 (s : State) {cores : List Nat} (line : Nat) {k : Nat} (hk : k ∈ cores) :
    ∀ x ∈ ((s.dropCopies cores line).coreAt k).l1, x.line ≠ line := by
  induction cores generalizing s with
  | nil => nomatch hk
  | cons j cores ih =>
    obtain rfl | hk := List.mem_cons.mp hk
    · exact fun x hx => s.dropCopy_l1 k line x ((State.dropCopies_evicted _ 0 0 cores line).copies k x hx)
    · exact ih _ hk

/-! ### Bytes at the home and the memory-side cache -/

/-- The memories of a state, and the memory-side caches' records. -/
def State.mems (s : State) : Cells × Cells × List MemLine := (s.dram, s.hostMem, s.memCache)

theorem State.modCore_mems (k : Nat) (f : Core → Core) : (s.modCore k f).mems = s.mems := rfl

theorem State.recallOwner_mems (die line : Nat) : (s.recallOwner die line).mems = s.mems := by
  unfold State.recallOwner
  split
  · rfl
  · rw [State.modCore_mems]
    split <;> rfl

theorem State.dropCopy_mems (core line : Nat) : (s.dropCopy core line).mems = s.mems := by
  unfold State.dropCopy
  rw [State.modCore_mems]
  split
  · exact State.recallOwner_mems ..
  · rfl

theorem State.dropCopies_mems (cores : List Nat) (line : Nat) : (s.dropCopies cores line).mems = s.mems :=
  foldl_keeps State.mems (fun _ _ => State.dropCopy_mems ..) cores s

theorem State.acked_mems (w : SliceWait) : (s.acked w).mems = s.mems := by
  unfold State.acked
  split
  · rfl
  · rfl
  · split <;> rfl
  · rfl

theorem State.revokeLine_mems (die line : Nat) : (s.revokeLine die line).mems = s.mems := by
  unfold State.revokeLine
  split
  · rfl
  · rw [foldl_keeps State.mems fun _ _ => State.acked_mems _]
    split
    · exact State.dropCopies_mems ..
    · rfl

theorem State.setHomeByte_evicted (s : State) (die line va : Nat) (b : Byte) : Evicted die line s (s.setHomeByte va b) := by
  unfold State.setHomeByte
  split
  · exact .refl ..
  · dsimp only
    split
    · exact .of_cores rfl rfl rfl
    · exact .of_cores rfl rfl rfl

theorem State.setHomeBytes_evicted (s : State) (die line va : Nat) (bs : List Byte) : Evicted die line s (s.setHomeBytes va bs) := by
  unfold State.setHomeBytes
  refine Evicted.foldl (fun s p => ?_) _ s
  exact s.setHomeByte_evicted ..

/-- What a write at the home reads and changes. -/
def State.homes (s : State) : List Page × Cells × Cells := (s.pages, s.dram, s.hostMem)

theorem State.setHomeByte_homes (h : t.homes = s.homes) (va : Nat) (b : Byte) : (t.setHomeByte va b).homes = (s.setHomeByte va b).homes := by
  obtain ⟨hp, hm⟩ := Prod.mk.inj h
  obtain ⟨hd, hh⟩ := Prod.mk.inj hm
  unfold State.setHomeByte State.pageOf
  rw [hp]
  split
  · exact h
  · dsimp only
    split <;> simp only [State.homes, hd, hh]

/-- Bytes written at their home, where the pages and the memories are the same. -/
theorem State.setHomeBytes_homes (h : t.homes = s.homes) (va : Nat) (bs : List Byte) : (t.setHomeBytes va bs).homes = (s.setHomeBytes va bs).homes := by
  unfold State.setHomeBytes
  generalize bs.zipIdx = l
  induction l generalizing s t with
  | nil => exact h
  | cons p l ih => exact ih (State.setHomeByte_homes h _ _)

theorem State.setHomeBytes_memCache (va : Nat) (bs : List Byte) : (s.setHomeBytes va bs).memCache = s.memCache := by
  refine foldl_keeps State.memCache (fun s p => ?_) _ s
  unfold State.setHomeByte
  split
  · rfl
  · dsimp only
    split <;> rfl

theorem getLsbD_clear (m : BitVec 2) (die : Nat) : (m &&& ~~~(1#2 <<< die)).getLsbD die = false := by
  by_cases h : die < 2
  · simp [h]
  · exact BitVec.getLsbD_of_ge _ _ (by omega)

theorem State.memDrop_clears (s : State) (die line : Nat) : ∀ m ∈ (s.memDrop die line).memCache, m.line = line → m.dies.getLsbD die = false := by
  intro m hm hl
  obtain ⟨m', -, rfl⟩ := List.mem_map.mp hm
  by_cases h : m'.line = line
  · rw [if_pos h]
    exact getLsbD_clear ..
  · rw [if_neg h] at hl
    exact absurd hl h

/-! ### A line that leaves its slice -/

/-- A line taken out of its slice. -/
def State.takeOut (s : State) (die line : Nat) (x : L2Line) : State :=
  s.modSlice die line fun sl => { (sl.keepHorizon x) with lines := sl.lines.filter (·.line != line) }

theorem State.lineIn_takeOut_self (s : State) (die line : Nat) (x : L2Line) : (s.takeOut die line x).lineIn die line = none := by
  rw [State.lineIn, State.takeOut, State.sliceAt_modSlice_self]
  simp

theorem State.lineIn_takeOut_ne (x : L2Line) (h : ¬(d = die ∧ l = line)) : (s.takeOut die line x).lineIn d l = s.lineIn d l := by
  by_cases hk : sliceKey d l = sliceKey die line
  · have hl : l ≠ line := by
      rintro rfl
      exact h ⟨by_contra fun hd => sliceKey_ne hd hk, rfl⟩
    rw [State.lineIn, State.takeOut, hk, State.sliceAt_modSlice_self, State.lineIn, hk, List.find?_filter]
    congr 1
    funext y
    by_cases hy : y.line = l
    · simp [hy, hl]
    · simp [hy]
  · rw [State.lineIn, State.takeOut, State.sliceAt_modSlice_ne hk, State.lineIn]

theorem State.takeOut_evicted (s : State) (die line : Nat) (x : L2Line) : Evicted die line s (s.takeOut die line x) where
  rest := rfl
  cores _ := rfl
  copies _ _ h := h
  gone _ := s.lineIn_takeOut_self ..
  kept _ _ h := congrArg Option.isSome (State.lineIn_takeOut_ne x h)
  free _ _ _ h hx _ := (State.lineIn_takeOut_ne x h).trans hx

/-- The dirty bytes of a line go home. -/
def State.writeBack (s : State) (line : Nat) (x : L2Line) : State :=
  if x.dirty then s.setHomeBytes (line * 128) (lineBytes x.data 0 128) else s

theorem State.writeBack_evicted (s : State) (die line : Nat) (x : L2Line) : Evicted die line s (s.writeBack line x) := by
  unfold State.writeBack
  split
  · exact s.setHomeBytes_evicted ..
  · exact .refl ..

theorem State.writeBack_homes (h : t.homes = s.homes) (line : Nat) (x : L2Line) : (t.writeBack line x).homes = (s.writeBack line x).homes := by
  unfold State.writeBack
  split
  · exact State.setHomeBytes_homes h ..
  · exact h

theorem State.writeBack_memCache (s : State) (line : Nat) (x : L2Line) : (s.writeBack line x).memCache = s.memCache := by
  unfold State.writeBack
  split
  · exact State.setHomeBytes_memCache ..
  · rfl

theorem State.evictLine_of_none (h : ((s.recallOwner die line).revokeLine die line).lineIn die line = none) :
    s.evictLine die line = (s.recallOwner die line).revokeLine die line := by
  unfold State.evictLine
  dsimp only
  rw [h]

theorem State.evictLine_of_some {x : L2Line} (h : ((s.recallOwner die line).revokeLine die line).lineIn die line = some x) :
    s.evictLine die line = ((((s.recallOwner die line).revokeLine die line).writeBack line x).memDrop die line).takeOut die line x := by
  unfold State.evictLine
  dsimp only
  rw [h]
  rfl

theorem State.recallRevoke_evicted (s : State) (die line : Nat) : Evicted die line s ((s.recallOwner die line).revokeLine die line) :=
  (s.recallOwner_evicted ..).trans (State.revokeLine_evicted ..)

theorem State.memDrop_evicted (s : State) (die line d l : Nat) : Evicted d l s (s.memDrop die line) := .of_cores rfl rfl rfl

theorem State.evictLine_evicted (s : State) (die line : Nat) : Evicted die line s (s.evictLine die line) := by
  have h := s.recallRevoke_evicted die line
  cases hx : ((s.recallOwner die line).revokeLine die line).lineIn die line with
  | none => rwa [State.evictLine_of_none hx]
  | some x =>
    rw [State.evictLine_of_some hx]
    exact ((h.trans (State.writeBack_evicted ..)).trans (State.memDrop_evicted ..)).trans (State.takeOut_evicted ..)

/-- A line that has left its slice is not there (R285). -/
theorem State.lineIn_evictLine (s : State) (die line : Nat) : (s.evictLine die line).lineIn die line = none := by
  cases hx : ((s.recallOwner die line).revokeLine die line).lineIn die line with
  | none => rwa [State.evictLine_of_none hx]
  | some x =>
    rw [State.evictLine_of_some hx]
    exact State.lineIn_takeOut_self ..

/-- A line of the memory-side cache other than one that leaves a slice stays with its record. -/
theorem State.evictLine_memCache {m : MemLine} (hm : m ∈ s.memCache) (h : m.line ≠ line) : m ∈ (s.evictLine die line).memCache := by
  have hr : ((s.recallOwner die line).revokeLine die line).memCache = s.memCache :=
    congrArg (·.2.2) ((State.revokeLine_mems ..).trans (State.recallOwner_mems ..))
  cases hx : ((s.recallOwner die line).revokeLine die line).lineIn die line with
  | none => rwa [State.evictLine_of_none hx, hr]
  | some x =>
    rw [State.evictLine_of_some hx]
    refine List.mem_map.mpr ⟨m, ?_, if_neg h⟩
    rwa [State.writeBack_memCache, hr]

/-- The line as its revocation leaves it. -/
theorem State.lineIn_revokeLine {x : L2Line} (hx : s.lineIn die line = some x) (ho : x.coreOwner = none) :
    (s.revokeLine die line).lineIn die line = some { x with sharers := [], waits := [] } := by
  have hf : ∀ (cores : List Nat), (s.dropCopies cores line).lineIn die line = some x := fun cores =>
    (s.dropCopies_evicted (die + 1) line cores line).free die line x (by simp) hx ho
  have hslices : ∀ (ws : List SliceWait) (t : State), (ws.foldl (fun s w => s.acked w) t).slices = t.slices :=
    foldl_keeps State.slices fun t w => by
      unfold State.acked
      split
      · rfl
      · rfl
      · split <;> rfl
      · rfl
  unfold State.revokeLine
  rw [hx]
  dsimp only
  rw [State.lineIn_of_slices (hslices ..), State.lineIn_modLine_self fun _ => by rfl]
  split
  · rw [hf, Option.map_some]
  · rw [hx, Option.map_some]

end Sys2Proof.Machine
end

section
/-! SUPPORT. Lines that leave a slice, change their owner or lose their copies (R154, R282, R283, R285, R286, R292, R381). -/

namespace Sys2Proof.Machine
open Sys2Proof

variable {s t : State} {die line core : Nat}

/-! ### Departures -/

theorem State.revokeLine_homes (s : State) (die line : Nat) : (s.revokeLine die line).homes = s.homes := by
  have hm : (s.revokeLine die line).mems = s.mems := State.revokeLine_mems ..
  unfold State.homes
  rw [(s.revokeLine_evicted die line).pages, show (s.revokeLine die line).dram = s.dram from congrArg (·.1) hm,
    show (s.revokeLine die line).hostMem = s.hostMem from congrArg (·.2.1) hm]

/-- A line that no core owns, as it leaves its slice. -/
theorem State.evictLine_unowned {x : L2Line} (hx : s.lineIn die line = some x) (ho : x.coreOwner = none) :
    s.evictLine die line =
      (((s.revokeLine die line).writeBack line { x with sharers := [], waits := [] }).memDrop die line).takeOut die line
        { x with sharers := [], waits := [] } := by
  have hr : s.recallOwner die line = s := State.recallOwner_free hx ho
  rw [State.evictLine_of_some (by rw [hr]; exact State.lineIn_revokeLine hx ho), hr]

/-- No sharer keeps a copy of a line that is revoked (R282). -/
theorem State.revokeLine_l1 {x : L2Line} (hx : s.lineIn die line = some x) (ht : x.treat = 0) {k : Nat} (hk : k ∈ x.sharers) :
    ∀ l ∈ ((s.revokeLine die line).coreAt k).l1, l.line ≠ line := by
  intro l hl
  refine s.dropCopies_l1 line (List.mem_append_left (x.waits.flatMap (·.acks)) hk) l ?_
  unfold State.revokeLine at hl
  rw [hx] at hl
  dsimp only at hl
  rw [if_pos ht] at hl
  have hback := (Evicted.foldl (fun s w => s.acked_evicted die line w) _ _).copies k l hl
  exact hback

theorem lineLeaves {x : L2Line} (hx : s.lineIn die line = some x) (ho : x.coreOwner = none) :
    ∃ (T X : State), exec (.dirtyWriteback die line) s = .next T ∧ T.lineIn die line = none ∧
      X = (if x.dirty then s.setHomeBytes (line * 128) (lineBytes x.data 0 128) else s) ∧ T.dram = X.dram ∧ T.hostMem = X.hostMem ∧
      (x.treat = 0 → ∀ k ∈ x.sharers, ∀ l ∈ (T.coreAt k).l1, l.line ≠ line) ∧
      ∀ m ∈ T.memCache, m.line = line → m.dies.getLsbD die = false := by
  have hev := State.evictLine_unowned hx ho
  have hh : (s.evictLine die line).homes = (s.writeBack line x).homes := by
    rw [hev]
    exact State.writeBack_homes (State.revokeLine_homes ..) ..
  refine ⟨s.evictLine die line, s.writeBack line x, rfl, s.lineIn_evictLine .., rfl, congrArg (·.2.1) hh, congrArg (·.2.2) hh, fun ht k hk l hl => ?_, ?_⟩
  · refine State.revokeLine_l1 hx ht hk l ?_
    rw [hev] at hl
    exact (State.writeBack_evicted _ die line _).copies k l hl
  · rw [hev]
    exact State.memDrop_clears _ die line

/-- A die's slice drops a line of the memory-side cache, if the line's record names the die. -/
def State.leaveDie (s : State) (m : MemLine) (die : Nat) : State := if m.dies.getLsbD die then s.evictLine die m.line else s

theorem State.leaveDie_evicted (s : State) (m : MemLine) (die : Nat) : Evicted die m.line s (s.leaveDie m die) := by
  unfold State.leaveDie
  split
  · exact s.evictLine_evicted ..
  · exact .refl ..

theorem State.lineIn_leaveDie {m : MemLine} (h : m.dies.getLsbD die = true) : (s.leaveDie m die).lineIn die m.line = none := by
  rw [State.leaveDie, if_pos h, State.lineIn_evictLine]

theorem State.memLeave_eq (s : State) (m : MemLine) : s.memLeave m =
    { (s.leaveDie m 0).leaveDie m 1 with memCache := ((s.leaveDie m 0).leaveDie m 1).memCache.filter (·.line != m.line) } := rfl

/-- A line leaves the memory-side cache with the slices that its record names (R381). -/
theorem memLeave_spec (s : State) (m : MemLine) : (∀ x ∈ (s.memLeave m).memCache, x.line ≠ m.line) ∧
    ∀ die, m.dies.getLsbD die = true → (s.memLeave m).lineIn die m.line = none := by
  constructor
  · intro x hx
    simpa using (List.mem_filter.mp hx).2
  · intro die hd
    have hlt : die < 2 := by
      by_contra h
      rw [BitVec.getLsbD_of_ge _ _ (by omega)] at hd
      cases hd
    have hl := State.lineIn_of_slices (congrArg State.slices (s.memLeave_eq m)) die m.line
    refine hl.trans ?_
    obtain rfl | rfl : die = 0 ∨ die = 1 := by omega
    · exact (State.leaveDie_evicted ..).gone_any (State.lineIn_leaveDie hd)
    · exact State.lineIn_leaveDie hd

/-! ### Ownership -/

theorem not_other_die (die line : Nat) : ¬(die = 1 - die ∧ line = line) := by omega

/-- A line that its die owns already. -/
theorem State.takeOwnership_owned (h : (s.lineIn die line).elim false (·.owned) = true) : s.takeOwnership die line = s := by
  rw [State.takeOwnership, if_pos h]

/-- The home's bytes come into a line that the other die has owned. -/
def State.takeNewer (s : State) (newer : Bool) (die line : Nat) : State :=
  if newer then s.modLine die line fun x => { x with data := s.homeLine line } else s

theorem State.takeOwnership_eq (h : ¬(s.lineIn die line).elim false (·.owned) = true) : ∃ hz, s.takeOwnership die line =
    ((s.evictLine (1 - die) line).takeNewer ((s.lineIn (1 - die) line).elim false (·.owned)) die line).modLine die line fun x =>
      { x with owned := true, hz := if x.treat = 1 then Nat.max x.hz hz else x.hz } := by
  apply Exists.intro
  rw [State.takeOwnership, if_neg h]
  rfl

theorem State.takeNewer_onCaches (s : State) (newer : Bool) (die line : Nat) : OnCaches s (s.takeNewer newer die line) := by
  unfold State.takeNewer
  split
  · exact .modLine ..
  · exact (Evicted.refl die line s).toOnCaches

theorem State.takeOwnership_onCaches (s : State) (die line : Nat) : OnCaches s (s.takeOwnership die line) := by
  by_cases h : (s.lineIn die line).elim false (·.owned) = true
  · rw [State.takeOwnership_owned h]
    exact (Evicted.refl die line s).toOnCaches
  · obtain ⟨hz, ht⟩ := State.takeOwnership_eq h
    rw [ht]
    exact ((s.evictLine_evicted (1 - die) line).toOnCaches.trans (State.takeNewer_onCaches ..)).trans (.modLine ..)

/-- The line of a die as it takes it: the bytes are the home's where the other die had owned it. -/
theorem State.lineIn_takeNewer {x : L2Line} (hx : s.lineIn die line = some x) (newer : Bool) :
    ∃ data, (newer = false → data = x.data) ∧ (s.takeNewer newer die line).lineIn die line = some { x with data := data } := by
  cases newer with
  | false => exact ⟨x.data, fun _ => rfl, hx⟩
  | true =>
    refine ⟨s.homeLine line, nofun, ?_⟩
    rw [State.takeNewer, if_pos rfl, State.lineIn_modLine_self fun _ => by rfl, hx, Option.map_some]

theorem State.lineIn_takeNewer_other (s : State) (newer : Bool) (die line : Nat) :
    (s.takeNewer newer die line).lineIn (1 - die) line = s.lineIn (1 - die) line := by
  unfold State.takeNewer
  split
  · exact State.lineIn_modSlice_other (by omega) _
  · rfl

/-- A die that takes a line owns it, and the other die does not hold it (R286). -/
theorem State.lineIn_takeOwnership {x x' : L2Line} (hx : s.lineIn die line = some x) (hn : x.owned = false)
    (hx' : (s.evictLine (1 - die) line).lineIn die line = some x') : ∃ data hz,
    ((∀ z, s.lineIn (1 - die) line = some z → z.owned = false) → data = x'.data) ∧
    (s.takeOwnership die line).lineIn die line = some { x' with data := data, owned := true, hz := hz } ∧
    (s.takeOwnership die line).lineIn (1 - die) line = none := by
  obtain ⟨hz, ht⟩ := State.takeOwnership_eq (s := s) (die := die) (line := line) (by simp [hx, hn])
  obtain ⟨data, hdata, hnew⟩ := State.lineIn_takeNewer hx' ((s.lineIn (1 - die) line).elim false (·.owned))
  refine ⟨data, if x'.treat = 1 then Nat.max x'.hz hz else x'.hz, fun hz => hdata ?_, ?_, ?_⟩
  · cases hz' : s.lineIn (1 - die) line with
    | none => rfl
    | some z => exact hz z hz'
  · rw [ht, State.lineIn_modLine_self fun _ => by rfl, hnew, Option.map_some]
  · rw [ht, State.modLine, State.lineIn_modSlice_other (by omega), State.lineIn_takeNewer_other, State.lineIn_evictLine]

theorem ownershipTaken {x : L2Line} (hx : s.lineIn die line = some x) (hn : x.owned = false) :
    ∃ (T : State) (y : L2Line), exec (.ownershipRequest die line) s = .next T ∧ T.lineIn die line = some y ∧ y.owned = true ∧
      T.lineIn (1 - die) line = none := by
  have hkept := (s.evictLine_evicted (1 - die) line).kept die line (not_other_die die line)
  rw [hx, Option.isSome_some] at hkept
  obtain ⟨x', hx'⟩ := Option.isSome_iff_exists.mp hkept
  obtain ⟨data, hz, -, hy, hother⟩ := State.lineIn_takeOwnership hx hn hx'
  exact ⟨s.takeOwnership die line, _, rfl, hy, rfl, hother⟩

/-! ### Recalls and acknowledgements -/

/-- A line that core k has returned, with the bytes of its copy. -/
def L2Line.returned (x : L2Line) (copy : Option L1Line) : L2Line :=
  match copy with
  | some l => { x with data := l.raw, dirty := true, coreOwner := none }
  | none => { x with coreOwner := none }

theorem L2Line.returned_eq (x : L2Line) (copy : Option L1Line) : ∃ data dirty, x.returned copy = { x with data := data, dirty := dirty, coreOwner := none } := by
  cases copy <;> exact ⟨_, _, rfl⟩

theorem State.recallOwner_owned {x : L2Line} {k : Nat} (hx : s.lineIn die line = some x) (ho : x.coreOwner = some k) : s.recallOwner die line =
    (s.modLine die line fun x => x.returned ((s.coreAt k).l1.find? (·.line == line))).modCore k fun c => { c with l1 := c.l1.filter (·.line != line) } := by
  unfold State.recallOwner
  rw [hx, Option.bind_some, ho]
  dsimp only
  cases (s.coreAt k).l1.find? (·.line == line) <;> rfl

theorem State.lineIn_recallOwner {x : L2Line} {k : Nat} (hx : s.lineIn die line = some x) (ho : x.coreOwner = some k) :
    (s.recallOwner die line).lineIn die line = some (x.returned ((s.coreAt k).l1.find? (·.line == line))) := by
  rw [State.recallOwner_owned hx ho]
  refine (State.lineIn_modLine_self fun y => ?_).trans (by rw [hx, Option.map_some])
  obtain ⟨data, dirty, hy⟩ := y.returned_eq ((s.coreAt k).l1.find? (·.line == line))
  rw [hy]

theorem State.lineIn_recallOwner_ne (s : State) {die line d l : Nat} (h : ¬(d = die ∧ l = line)) :
    (s.recallOwner die line).lineIn d l = s.lineIn d l := by
  cases ho : (s.lineIn die line).bind (·.coreOwner) with
  | none => rw [State.recallOwner, ho]
  | some k =>
    obtain ⟨x, hx, hk⟩ := Option.bind_eq_some_iff.mp ho
    rw [State.recallOwner_owned hx hk]
    refine State.lineIn_modLine_ne (fun y => ?_) h
    obtain ⟨data, dirty, hy⟩ := y.returned_eq ((s.coreAt k).l1.find? (·.line == line))
    rw [hy]

/-- An owning core returns its line (R292). -/
theorem lineRecalled {x : L2Line} {k : Nat} (hx : s.lineIn die line = some x) (ho : x.coreOwner = some k) :
    ∃ (T : State) (y : L2Line), exec (.lineOwnershipRecall die line) s = .next T ∧ T.lineIn die line = some y ∧ y.coreOwner = none ∧
      (∀ l ∈ (T.coreAt k).l1, l.line ≠ line) ∧ (∀ l, (s.coreAt k).l1.find? (·.line == line) = some l → y.data = l.raw ∧ y.dirty = true) := by
  refine ⟨s.recallOwner die line, _, rfl, State.lineIn_recallOwner hx ho, ?_, fun l hl => ?_, fun l hl => ?_⟩
  · obtain ⟨data, dirty, hy⟩ := x.returned_eq ((s.coreAt k).l1.find? (·.line == line))
    rw [hy]
  · rw [State.recallOwner_owned hx ho, State.coreAt_modCore_self] at hl
    simpa using (List.mem_filter.mp hl).2
  · rw [hl]
    exact ⟨rfl, rfl⟩

/-- A copy that goes leaves the line in its slice, where its owner may have returned it. -/
theorem State.lineIn_dropCopy {x : L2Line} (hx : s.lineIn die line = some x) (core : Nat) :
    ∃ data dirty owner, (s.dropCopy core line).lineIn die line = some { x with data := data, dirty := dirty, coreOwner := owner } := by
  unfold State.dropCopy
  split
  · next h =>
    by_cases hd : die = dieOf core
    · subst hd
      have ho : x.coreOwner = some core := by simpa [hx] using h
      obtain ⟨data, dirty, hy⟩ := x.returned_eq ((s.coreAt core).l1.find? (·.line == line))
      refine ⟨data, dirty, none, ?_⟩
      rw [← hy]
      exact State.lineIn_recallOwner hx ho
    · refine ⟨x.data, x.dirty, x.coreOwner, ?_⟩
      exact (s.lineIn_recallOwner_ne fun h => hd h.1).trans hx
  · exact ⟨x.data, x.dirty, x.coreOwner, hx⟩

theorem lastAck {x : L2Line} {w : SliceWait} {q : Word} (hx : s.lineIn die line = some x) (hw : x.waits = [w]) (hq : w.what = .leat q)
    (ha : w.acks = [core]) : ∃ (T : State) (y : L2Line), exec (.invalidationAck die line core) s = .next T ∧ T.lineIn die line = some y ∧ y.waits = [] ∧
      (∀ l ∈ (T.coreAt core).l1, l.line ≠ line) ∧ ∃ clock, s.now < clock ∧ (clock, .leatDrainAck w.core q s.now) ∈ T.agenda := by
  obtain ⟨data, dirty, owner, hy⟩ := State.lineIn_dropCopy hx core
  have hnow : (s.dropCopy core line).now = s.now := (s.dropCopy_evicted die line core line).now
  have hexec : exec (.invalidationAck die line core) s =
      .next (((s.dropCopy core line).modLine die line fun y => { y with waits := [] }).later (.leatDrainAck w.core q s.now)) := by
    change execInvalidationAck die line core s = _
    unfold execInvalidationAck
    dsimp only
    rw [hy]
    simp only [hw, ha, List.map_cons, List.map_nil, List.filter_cons, List.filter_nil, bne_self_eq_false, List.isEmpty_nil, Bool.not_true,
      Bool.false_eq_true, if_false, if_true, List.foldl_cons, List.foldl_nil, State.acked, hq, ← hnow]
    rfl
  refine ⟨_, { x with data := data, dirty := dirty, coreOwner := owner, waits := [] }, hexec, ?_, rfl, s.dropCopy_l1 core line, _, ?_, List.mem_append_right _ (List.mem_singleton_self _)⟩
  · refine (State.lineIn_modLine_self fun _ => by rfl).trans ?_
    rw [hy, Option.map_some]
  · change s.now < (s.dropCopy core line).now + 1 + _
    omega


end Sys2Proof.Machine
end

section
/-! SUPPORT. Fills at the slices: the requests there, the memory-side cache's record, and the loads that a line serves (R259, R276, R281,
R284, R381). -/

namespace Sys2Proof.Machine
open Sys2Proof

variable {s t u : State} {die line core : Nat}

/-! ### What changes gangs alone -/

/-- A state without its gangs and agenda. -/
def State.offGangs (s : State) : State := { s with cores := [], agenda := [] }

def Core.offGangs (c : Core) : Core := { c with gangs := [] }

/-- Only gangs and the agenda have changed. -/
structure GangsOnly (s t : State) : Prop where
  rest : t.offGangs = s.offGangs
  cores : ∀ k, (t.coreAt k).offGangs = (s.coreAt k).offGangs

theorem GangsOnly.refl (s : State) : GangsOnly s s := ⟨rfl, fun _ => rfl⟩

theorem GangsOnly.trans (h : GangsOnly s t) (h' : GangsOnly t u) : GangsOnly s u := ⟨h'.rest.trans h.rest, fun k => (h'.cores k).trans (h.cores k)⟩

theorem GangsOnly.at (h : GangsOnly s t) (c : Nat) (e : Instr) : GangsOnly s (t.at c e) := ⟨h.rest, h.cores⟩

theorem GangsOnly.foldl {α : Type} {f : State → α → State} (hf : ∀ s x, GangsOnly s (f s x)) (as : List α) (s : State) :
    GangsOnly s (as.foldl f s) := by
  induction as generalizing s with
  | nil => exact .refl s
  | cons x as ih => exact (hf s x).trans (ih _)

theorem GangsOnly.modGang (s : State) (k slot : Nat) (f : Gang → Gang) : GangsOnly s (s.modGang k slot f) := by
  unfold State.modGang
  split
  · exact .refl s
  · exact ⟨rfl, State.field_modCore Core.offGangs k fun _ => by rfl⟩

theorem GangsOnly.slices (h : GangsOnly s t) : t.slices = s.slices := show t.offGangs.slices = s.offGangs.slices from congrArg _ h.rest
theorem GangsOnly.memCache (h : GangsOnly s t) : t.memCache = s.memCache := show t.offGangs.memCache = s.offGangs.memCache from congrArg _ h.rest
theorem GangsOnly.now (h : GangsOnly s t) : t.now = s.now := show t.offGangs.now = s.offGangs.now from congrArg _ h.rest
theorem GangsOnly.pages (h : GangsOnly s t) : t.pages = s.pages := show t.offGangs.pages = s.offGangs.pages from congrArg _ h.rest
theorem GangsOnly.pr (h : GangsOnly s t) : t.pr = s.pr := show t.offGangs.pr = s.offGangs.pr from congrArg _ h.rest
theorem GangsOnly.graticule (h : GangsOnly s t) : t.graticule = s.graticule := show t.offGangs.graticule = s.offGangs.graticule from congrArg _ h.rest
theorem GangsOnly.dram (h : GangsOnly s t) : t.dram = s.dram := show t.offGangs.dram = s.offGangs.dram from congrArg _ h.rest
theorem GangsOnly.hostMem (h : GangsOnly s t) : t.hostMem = s.hostMem := show t.offGangs.hostMem = s.offGangs.hostMem from congrArg _ h.rest
theorem GangsOnly.leat (h : GangsOnly s t) (k : Nat) : (t.coreAt k).leat = (s.coreAt k).leat :=
  show (t.coreAt k).offGangs.leat = (s.coreAt k).offGangs.leat from congrArg _ (h.cores k)

theorem State.modLanes_gangsOnly (s : State) (core slot id : Nat) (f : LoadLane → LoadLane) : GangsOnly s (s.modLanes core slot id f) := by
  unfold State.modLanes
  dsimp only
  split
  · split
    · exact (GangsOnly.modGang ..).at _ _
    · exact .modGang ..
  · exact .modGang ..

theorem State.giveLine_gangsOnly (s : State) (core die line : Nat) (p : Word → Bool) : GangsOnly s (s.giveLine core die line p) := by
  unfold State.giveLine
  refine .foldl (fun s g => .foldl (fun s d => ?_) _ s) _ s
  split
  · split
    · exact s.modLanes_gangsOnly ..
    · exact .refl s
  · exact .refl s

theorem State.counterChanged_gangsOnly (s : State) (line : Nat) : GangsOnly s (s.counterChanged line) := by
  unfold State.counterChanged
  refine .foldl (fun s c => .foldl (fun s g => ?_) _ s) _ s
  dsimp only
  split
  · exact .refl s
  · exact (GangsOnly.modGang ..).trans (.foldl (fun s k => (GangsOnly.refl s).at _ _) _ _)

/-! ### Requests at a slice with none before them -/

theorem State.arrives_first (h : s.sliceReqs = []) (core : Nat) (what : Parked) (line : Nat) :
    s.arrives core what line = { s with sliceReqs := [⟨core, what, line, s.classFor core what line, .arrived⟩] } := by
  simp [State.arrives, State.reqAt, h]

theorem State.behind_of_none (h : s.sliceReqs = []) (core : Nat) (what : Parked) (key line : Nat) : s.behind core what key line = false := by
  simp [State.behind, h]

theorem State.behind_first (h : s.sliceReqs = []) (core : Nat) (what : Parked) (key line : Nat) :
    (s.arrives core what key).behind core what key line = false := by
  rw [State.arrives_first h]
  simp [State.behind, SliceReq.is]

/-- A request whose address this package homes goes to its home. -/
theorem State.sendHome_here {r : HomeReq} (hr : (s.coreAt core).rerouted = []) (h : s.homedHere r.va = true) (what : Parked) :
    s.sendHome core what r = s.later (.homeRequest r) := by
  have hd : s.deviceOf r.va = some s.pr.devnum.toNat := by simpa [State.homedHere] using h
  unfold State.sendHome
  dsimp only
  rw [hr, hd]
  dsimp only
  rw [if_pos rfl]
  simp

theorem State.arrives_eq (s : State) (core : Nat) (what : Parked) (line : Nat) : ∃ q, s.arrives core what line = { s with sliceReqs := q } := by
  unfold State.arrives
  split
  · split <;> exact ⟨_, rfl⟩
  · exact ⟨_, rfl⟩

theorem State.arrives_lineIn (s : State) (core : Nat) (what : Parked) (line d l : Nat) : (s.arrives core what line).lineIn d l = s.lineIn d l := by
  obtain ⟨q, hq⟩ := s.arrives_eq core what line
  rw [hq]
  rfl

/-- A miss at the slice (R276). -/
theorem exec_sliceFill_miss {slot pend : Nat}
    (hb : (s.arrives core (.pend slot pend) line).behind core (.pend slot pend) line line = false)
    (hl : (s.arrives core (.pend slot pend) line).lineIn (dieOf core) line = none) :
    exec (.sliceFill core slot pend line false) s =
      .next (((s.arrives core (.pend slot pend) line).fetchBegins core (.pend slot pend) line).askHome core slot pend 0 (line * 128)) := by
  change execSliceFill core slot pend line false s = _
  unfold execSliceFill
  simp only [Bool.false_eq_true, if_false, hb, hl, Option.isSome_none, Bool.false_and, Bool.not_false, Bool.and_self, if_true]

theorem missAsksHome {slot pend : Nat} (hq : s.sliceReqs = []) (hr : (s.coreAt core).rerouted = []) (hl : s.lineIn (dieOf core) line = none)
    (hh : s.homedHere (line * 128) = true) :
    ∃ T : State, exec (.sliceFill core slot pend line false) s = .next T ∧ T = { s with agenda := T.agenda, fresh := T.fresh, sliceReqs := T.sliceReqs } ∧
      ∃ clock, s.now < clock ∧ (clock, .homeRequest ⟨0, line * 128, false, false, .core core (.pend slot pend), [], 0⟩) ∈ T.agenda := by
  obtain ⟨u, hu⟩ : ∃ u, u = (s.arrives core (.pend slot pend) line).fetchBegins core (.pend slot pend) line := ⟨_, rfl⟩
  obtain ⟨q, hq'⟩ : ∃ q, u = { s with sliceReqs := q } := ⟨_, by rw [hu, State.arrives_first hq]; rfl⟩
  have hsend := State.sendHome_here (s := u) (core := core) (r := readReq core slot pend 0 (line * 128)) (by rw [hq']; exact hr) (by rw [hq']; exact hh)
    (.pend slot pend)
  have hexec : exec (.sliceFill core slot pend line false) s = .next (u.later (.homeRequest (readReq core slot pend 0 (line * 128)))) := by
    rw [exec_sliceFill_miss (State.behind_first hq ..) ((State.arrives_lineIn ..).trans hl), ← hu, State.askHome, hsend]
  refine ⟨_, hexec, ?_, _, ?_, List.mem_append_right _ (List.mem_singleton_self _)⟩
  · rw [hq']
    rfl
  · rw [hq']
    change s.now < s.now + 1 + _
    omega

/-! ### A hit of a tracked line -/

/-- A state without the slices, the requests there and what a core keeps of them. -/
def State.offServe (s : State) : State := { s with slices := [], cores := [], sliceReqs := [] }

def Core.offServe (c : Core) : Core := { c with l1 := [], counted := [] }

/-- Only slices, the requests there, copies and what has been counted have changed. -/
structure Served (s t : State) : Prop where
  rest : t.offServe = s.offServe
  cores : ∀ k, (t.coreAt k).offServe = (s.coreAt k).offServe

theorem Served.refl (s : State) : Served s s := ⟨rfl, fun _ => rfl⟩

theorem Served.trans (h : Served s t) (h' : Served t u) : Served s u := ⟨h'.rest.trans h.rest, fun k => (h'.cores k).trans (h.cores k)⟩

theorem Served.modCore (s : State) (k : Nat) {f : Core → Core} (hf : ∀ c, (f c).offServe = c.offServe) : Served s (s.modCore k f) :=
  ⟨rfl, State.field_modCore Core.offServe k hf⟩

theorem Served.modSlice (s : State) (die line : Nat) (f : Slice → Slice) : Served s (s.modSlice die line f) := ⟨rfl, fun _ => rfl⟩

theorem Served.modLine (s : State) (die line : Nat) (f : L2Line → L2Line) : Served s (s.modLine die line f) := ⟨rfl, fun _ => rfl⟩

theorem Served.graticule (h : Served s t) : t.graticule = s.graticule := show t.offServe.graticule = s.offServe.graticule from congrArg _ h.rest
theorem Served.pr (h : Served s t) : t.pr = s.pr := show t.offServe.pr = s.offServe.pr from congrArg _ h.rest
theorem Served.leat (h : Served s t) (k : Nat) : (t.coreAt k).leat = (s.coreAt k).leat :=
  show (t.coreAt k).offServe.leat = (s.coreAt k).offServe.leat from congrArg _ (h.cores k)
theorem Served.filter (h : Served s t) (k : Nat) : (t.coreAt k).filter = (s.coreAt k).filter :=
  show (t.coreAt k).offServe.filter = (s.coreAt k).offServe.filter from congrArg _ (h.cores k)
theorem Served.gangs (h : Served s t) (k : Nat) : (t.coreAt k).gangs = (s.coreAt k).gangs :=
  show (t.coreAt k).offServe.gangs = (s.coreAt k).offServe.gangs from congrArg _ (h.cores k)
theorem Served.atoms (h : Served s t) (k : Nat) : (t.coreAt k).atoms = (s.coreAt k).atoms :=
  show (t.coreAt k).offServe.atoms = (s.coreAt k).offServe.atoms from congrArg _ (h.cores k)

theorem State.homedHere_congr (hg : t.graticule = s.graticule) (hp : t.pr = s.pr) (va : Nat) : t.homedHere va = s.homedHere va := by
  simp [State.homedHere, State.deviceOf, hg, hp]

theorem Served.homedHere (h : Served s t) (va : Nat) : t.homedHere va = s.homedHere va := State.homedHere_congr h.graticule h.pr va

theorem State.arrives_served (s : State) (core : Nat) (what : Parked) (line : Nat) : Served s (s.arrives core what line) := by
  obtain ⟨q, hq⟩ := s.arrives_eq core what line
  rw [hq]
  exact ⟨rfl, fun _ => rfl⟩

theorem State.countHit_served (s : State) (cls die line : Nat) : Served s (s.countHit cls die line) := ⟨rfl, fun _ => rfl⟩

theorem State.countOnce_served (s : State) (core : Nat) (what : Parked) (key line : Nat) : Served s (s.countOnce core what key line) := by
  unfold State.countOnce
  split
  · exact .refl s
  · exact (s.countHit_served ..).trans (.modCore _ core fun _ => by rfl)

theorem State.requestGone_served (s : State) (core : Nat) (what : Parked) (line : Nat) : Served s (s.requestGone core what line) :=
  ⟨rfl, State.field_modCore Core.offServe core fun _ => by rfl⟩

theorem State.requestGone_l1 (s : State) (core : Nat) (what : Parked) (line : Nat) :
    ((s.requestGone core what line).coreAt core).l1 = (s.coreAt core).l1 := State.field_modCore Core.l1 core (fun _ => by rfl) core

/-- A lookup changes of a line when it was used. -/
theorem State.lineIn_countHit {x : L2Line} (cls : Nat) (hx : s.lineIn die line = some x) :
    ∃ used, (s.countHit cls die line).lineIn die line = some { x with used := used } := by
  refine ⟨(s.sliceAt (sliceKey die line)).uses, ?_⟩
  rw [State.lineIn, State.countHit, State.sliceAt_modSlice_self]
  exact (find?_replaceFirst (q := fun y : L2Line => y.line == line)
    (f := fun y => { y with used := (s.sliceAt (sliceKey die line)).uses }) (fun _ => rfl) _).trans (congrArg (Option.map _) hx)

theorem State.lineIn_countOnce {x : L2Line} (what : Parked) (key : Nat) (hx : s.lineIn (dieOf core) line = some x) :
    ∃ used, (s.countOnce core what key line).lineIn (dieOf core) line = some { x with used := used } := by
  unfold State.countOnce
  split
  · exact ⟨x.used, hx⟩
  · exact State.lineIn_countHit _ hx

theorem State.lineIn_countHit_other (s : State) (cls : Nat) {d : Nat} (line l : Nat) (h : d ≠ die) :
    (s.countHit cls die line).lineIn d l = s.lineIn d l := State.lineIn_modSlice_other h _

theorem State.lineIn_countOnce_other (s : State) {core die : Nat} (what : Parked) (key line l : Nat) (h : die ≠ dieOf core) :
    (s.countOnce core what key line).lineIn die l = s.lineIn die l := by
  unfold State.countOnce
  split
  · rfl
  · exact State.lineIn_countHit_other _ _ _ _ h

theorem State.useTicket_here (h : s.homedHere (line * 128) = true) : s.useTicket (line * 128) = s := by
  rw [State.useTicket, if_pos h]

/-- What a core that has no entries and no filter receives of a line. -/
theorem State.lineBase_plain {x : L2Line} (hx : s.lineIn die line = some x) (hf : (s.coreAt core).filter = []) :
    s.lineBase core die line = x.data := by
  rw [State.lineBase, hx, State.filterBytes, hf]
  rfl

theorem State.lineFor_plain {x : L2Line} (hx : s.lineIn die line = some x) (hf : (s.coreAt core).filter = []) (hl : (s.coreAt core).leat = []) :
    s.lineFor core die line = x.data := by
  rw [State.lineFor, State.lineBase_plain hx hf, Core.ownBytes, hl]
  rfl

/-- The line of a core that becomes a sharer. -/
def L2Line.shared (x : L2Line) (core : Nat) : L2Line := { x with sharers := core :: x.sharers.filter (· != core) }

/-- A tracked line is served: the core shares it and has a copy (R281). -/
theorem State.serveLine_tracked {x : L2Line} (hx : s.lineIn die line = some x) (ht : x.treat = 0) (ho : x.coreOwner = none)
    (hh : s.homedHere (line * 128) = true) (hf : (s.coreAt core).filter = []) (hl : (s.coreAt core).leat = []) (cls : Nat) :
    ∃ stop, s.serveLine core die line cls = (s.modLine die line (·.shared core)).modCore core fun c =>
      { c with l1 := c.l1.filter (·.line != line) ++ [⟨line, x.data, 0, stop, false, []⟩] } := by
  refine ⟨s.now + (s.classes.getD cls {}).lease, ?_⟩
  have hy : (s.modLine die line (·.shared core)).lineIn die line = some (x.shared core) := by
    rw [State.lineIn_modLine_self fun _ => by rfl, hx, Option.map_some]
  have hfor : (s.modLine die line (·.shared core)).lineFor core die line = x.data :=
    (State.lineFor_plain hy hf hl).trans rfl
  unfold State.serveLine
  rw [State.recallOwner_free hx ho]
  dsimp only
  rw [hx]
  dsimp only
  rw [hh, ht, Bool.or_true, if_neg (by simp)]
  simp only [if_true]
  change (s.modLine die line (·.shared core)).modCore core (fun c => { c with l1 := c.l1.filter (·.line != line) ++
    [⟨line, (s.modLine die line (·.shared core)).lineFor core die line, 0, _, false, []⟩] }) = _
  rw [hfor]

/-- A hit at the slice (R276, R281). -/
theorem exec_sliceFill_hit {slot pend : Nat} {T : State}
    (hb : (s.arrives core (.pend slot pend) line).behind core (.pend slot pend) line line = false)
    (hl : ((s.arrives core (.pend slot pend) line).lineIn (dieOf core) line).isSome = true)
    (hh : (s.arrives core (.pend slot pend) line).homedHere (line * 128) = true) (hslot : slot ≠ prefetchSlot)
    (hT : T = (State.serveLine (((s.arrives core (.pend slot pend) line).countOnce core (.pend slot pend) line line).useTicket (line * 128)) core (dieOf core) line
      ((s.arrives core (.pend slot pend) line).classFor core (.pend slot pend) line)).requestGone core (.pend slot pend) line)
    (hat : T.atomAt core pend = none) :
    exec (.sliceFill core slot pend line false) s = .next (T.giveLine core (dieOf core) line fun _ => true) := by
  change execSliceFill core slot pend line false s = _
  unfold execSliceFill
  simp only [Bool.false_eq_true, if_false, hb, hl, hh, Bool.true_or, Bool.and_self, Bool.not_true, Bool.false_and, Bool.not_false, if_true, ← hT, hslot, hat]

/-- A waiting load of one lane takes the line's bytes (R183). -/
theorem State.giveLine_load {slot : Nat} {g : Gang} {d : Pend} {kind : BitVec 3} {r : Reg} {seq : Word} {l : LoadLane} {x : L2Line}
    (hx : s.lineIn die line = some x) (hf : (s.coreAt core).filter = []) (hl : (s.coreAt core).leat = []) (hg : (s.coreAt core).gangs = [(slot, g)])
    (hp : g.pend = [d]) (hd : d.body = .load kind r seq [l]) (hgot : l.got = none) (href : l.refused = none) (hline : lineOf l.addr = line) :
    (s.giveLine core die line fun _ => true).pendAt core slot d.id =
      some { d with body := .load kind r seq [{ l with got := some ((List.range (kindSize kind)).map fun k => Sp.get x.data (l.addr % 128 + k)) }] } := by
  have hdone : l.done = false := by simp [LoadLane.done, hgot, href]
  have hpend : s.pendAt core slot d.id = some d := by
    refine State.pendAt_eq (g := g) ?_ ?_
    · simp [State.gangAt, Core.gangAt, hg, Kv.get?]
    · simp [hp]
  have hgive : s.giveLine core die line (fun _ => true) = s.modLanes core slot d.id fun l =>
      if !l.done && lineOf l.addr == line then { l with got := some (lineBytes x.data (l.addr % 128) (kindSize kind)) } else l := by
    unfold State.giveLine
    dsimp only
    rw [hg, hl, State.lineBase_plain hx hf]
    simp only [List.foldl_cons, List.foldl_nil, hp, hd, List.any_cons, List.any_nil, hdone, hline, Bool.not_false, beq_self_eq_true, Bool.and_self,
      Bool.or_false, if_true]
    rfl
  rw [hgive, State.pendAt_modLanes hpend, hd]
  simp [PendBody.withLanes, PendBody.lanes, hdone, hline, lineBytes]

theorem hitServesLoad {slot : Nat} {x : L2Line} {g : Gang} {d : Pend} {kind : BitVec 3} {r : Reg} {seq : Word} {l : LoadLane}
    (hq : s.sliceReqs = []) (hh : s.homedHere (line * 128) = true) (hx : s.lineIn (dieOf core) line = some x) (ht : x.treat = 0) (ho : x.coreOwner = none)
    (hl : (s.coreAt core).leat = []) (hf : (s.coreAt core).filter = []) (hat : s.atomAt core d.id = none) (hslot : slot ≠ prefetchSlot)
    (hg : (s.coreAt core).gangs = [(slot, g)]) (hp : g.pend = [d]) (hd : d.body = .load kind r seq [l]) (hgot : l.got = none) (href : l.refused = none)
    (hline : lineOf l.addr = line) :
    ∃ (T : State) (y : L2Line), exec (.sliceFill core slot d.id line false) s = .next T ∧ T.lineIn (dieOf core) line = some y ∧
      y = { x with sharers := y.sharers, used := y.used } ∧ core ∈ y.sharers ∧
      (∃ copy ∈ (T.coreAt core).l1, copy.line = line ∧ copy.treat = 0 ∧ copy.owned = false ∧ copy.data = x.data) ∧
      T.pendAt core slot d.id = some { d with
        body := .load kind r seq [{ l with got := some ((List.range (kindSize kind)).map fun k => Sp.get x.data (l.addr % 128 + k)) }] } := by
  obtain ⟨u, hu⟩ : ∃ u, u = s.arrives core (.pend slot d.id) line := ⟨_, rfl⟩
  have hsu : Served s u := hu ▸ s.arrives_served ..
  have hxu : u.lineIn (dieOf core) line = some x := by rw [hu, State.arrives_lineIn, hx]
  obtain ⟨used, hxc⟩ := State.lineIn_countOnce (.pend slot d.id) line hxu
  obtain ⟨c, hc⟩ : ∃ c, c = u.countOnce core (.pend slot d.id) line line := ⟨_, rfl⟩
  rw [← hc] at hxc
  have hsc : Served s c := hsu.trans (hc ▸ u.countOnce_served ..)
  have hhc : c.homedHere (line * 128) = true := by rw [hsc.homedHere, hh]
  obtain ⟨stop, hserve⟩ := State.serveLine_tracked hxc ht ho hhc ((hsc.filter core).trans hf) ((hsc.leat core).trans hl)
    (u.classFor core (.pend slot d.id) line)
  obtain ⟨T, hT⟩ : ∃ T, T = (c.serveLine core (dieOf core) line (u.classFor core (.pend slot d.id) line)).requestGone core (.pend slot d.id) line := ⟨_, rfl⟩
  have hsT : Served s T := by
    rw [hT, hserve]
    refine (hsc.trans ?_).trans (State.requestGone_served ..)
    exact Served.trans (Served.modLine ..) (Served.modCore _ core fun c => by rfl)
  have hyT : T.lineIn (dieOf core) line = some ({ x with used := used }.shared core) := by
    rw [hT, hserve]
    refine (State.lineIn_modLine_self fun _ => by rfl).trans ?_
    rw [hxc, Option.map_some]
  have hl1 : (T.coreAt core).l1 = (c.coreAt core).l1.filter (·.line != line) ++ [⟨line, x.data, 0, stop, false, []⟩] := by
    rw [hT, State.requestGone_l1, hserve, State.coreAt_modCore_self]
    rfl
  have hexec := exec_sliceFill_hit (s := s) (core := core) (line := line) (slot := slot) (pend := d.id) (T := T) (State.behind_first hq ..)
    (by rw [← hu, hxu]; rfl) (by rw [← hu, hsu.homedHere, hh]) hslot (by rw [← hu, ← hc, State.useTicket_here hhc, hT])
    (by rw [State.atomAt, hsT.atoms]; exact hat)
  have hgive := T.giveLine_gangsOnly core (dieOf core) line fun _ => true
  refine ⟨_, { x with used := used }.shared core, hexec, ?_, rfl, List.mem_cons_self, ⟨⟨line, x.data, 0, stop, false, []⟩, ?_, rfl, rfl, rfl, rfl⟩, ?_⟩
  · rw [State.lineIn_of_slices hgive.slices, hyT]
  · have hkeep : ((T.giveLine core (dieOf core) line fun _ => true).coreAt core).l1 = (T.coreAt core).l1 :=
      show ((T.giveLine core (dieOf core) line fun _ => true).coreAt core).offGangs.l1 = (T.coreAt core).offGangs.l1 from congrArg _ (hgive.cores core)
    rw [hkeep, hl1]
    exact List.mem_append_right _ (List.mem_singleton_self _)
  · exact State.giveLine_load (x := { x with used := used }.shared core) hyT ((hsT.filter core).trans hf) ((hsT.leat core).trans hl) ((hsT.gangs core).trans hg) hp hd hgot href hline

end Sys2Proof.Machine
end

section
/-! SUPPORT. A line that comes from its home into a slice, and the memory-side cache's record of it (R276, R381). -/

namespace Sys2Proof.Machine
open Sys2Proof

variable {s t : State} {die line core : Nat}

theorem State.pageOf_congr (h : t.pages = s.pages) (va : Nat) : t.pageOf va = s.pageOf va := by simp [State.pageOf, h]

theorem OnCaches.homedHere (h : OnCaches s t) (va : Nat) : t.homedHere va = s.homedHere va := State.homedHere_congr h.graticule h.pr va

theorem OnCaches.pageOf (h : OnCaches s t) (va : Nat) : t.pageOf va = s.pageOf va := State.pageOf_congr h.pages va

/-! ### The other die's copy -/

theorem State.shareOther_evicted (s : State) (die line : Nat) : Evicted (1 - die) line s (s.shareOther die line) := by
  have hr := s.recallOwner_evicted (1 - die) line (1 - die) line
  unfold State.shareOther
  dsimp only
  split
  · exact .refl ..
  · split
    · exact .refl ..
    · split
      · exact (hr.trans (State.setHomeBytes_evicted ..)).trans (.modLine_self fun _ => by rfl)
      · exact hr

/-! ### The memory-side cache -/

/-- The record of a line names a die. -/
def State.recordDie (s : State) (die line : Nat) : State :=
  { s with memCache := s.memCache.map fun m => if m.line = line then { m with dies := m.dies ||| (1#2 <<< die) } else m }

theorem getLsbD_set (m : BitVec 2) (h : die < 2) : (m ||| (1#2 <<< die)).getLsbD die = true := by simp [h]

theorem State.recordDie_names (hd : die < 2) (h : ∃ m ∈ s.memCache, m.line = line) :
    ∃ m ∈ (s.recordDie die line).memCache, m.line = line ∧ m.dies.getLsbD die = true := by
  obtain ⟨m, hm, hl⟩ := h
  refine ⟨{ m with dies := m.dies ||| (1#2 <<< die) }, List.mem_map.mpr ⟨m, hm, if_pos hl⟩, hl, getLsbD_set _ hd⟩

theorem State.memLeave_gone {d l : Nat} (h : s.lineIn d l = none) (m : MemLine) : (s.memLeave m).lineIn d l = none :=
  (State.lineIn_of_slices (congrArg State.slices (s.memLeave_eq m)) d l).trans
    ((State.leaveDie_evicted ..).gone_any ((State.leaveDie_evicted ..).gone_any h))

/-- Room in a full set of the memory-side cache. -/
def State.memRoom (s : State) (set : List MemLine) : State :=
  if set.length < 16 then s
  else match set[Config.memSideVictim s.fresh % 16]? with
    | some m => (s.memLeave m).bump
    | none => s

theorem State.memRoom_gone {d l : Nat} (h : s.lineIn d l = none) (set : List MemLine) : (s.memRoom set).lineIn d l = none := by
  unfold State.memRoom
  split
  · exact h
  · split
    · exact State.memLeave_gone h _
    · exact h

theorem State.memHold_cases {p : Page} (hh : s.homedHere (line * 128) = true) (hp : s.pageOf (line * 128) = some p) (die : Nat) :
    ((∃ m ∈ s.memCache, m.line = line) ∧ s.memHold die line = s.recordDie die line) ∨
    ∃ set stack tag, s.memHold die line =
      ({ s.memRoom set with memCache := (s.memRoom set).memCache ++ [⟨stack, line, tag, 0⟩] } : State).recordDie die line := by
  unfold State.memHold
  rw [hh, hp]
  dsimp only
  rw [if_neg (by decide)]
  split
  · next h =>
    obtain ⟨m, hm, hl⟩ := List.any_eq_true.mp h
    exact .inl ⟨⟨m, hm, by simpa using hl⟩, rfl⟩
  · exact .inr ⟨_, _, _, rfl⟩

/-- A line that a die takes is in the memory-side cache, with the die in its record; no slice has a line that it did not have (R381). -/
theorem State.memHold_spec {p : Page} (hh : s.homedHere (line * 128) = true) (hp : s.pageOf (line * 128) = some p) (hd : die < 2) :
    (∃ m ∈ (s.memHold die line).memCache, m.line = line ∧ m.dies.getLsbD die = true) ∧
    ∀ d l, s.lineIn d l = none → (s.memHold die line).lineIn d l = none := by
  obtain ⟨hm, he⟩ | ⟨set, stack, tag, he⟩ := State.memHold_cases hh hp die <;> rw [he]
  · exact ⟨State.recordDie_names hd hm, fun d l h => h⟩
  · refine ⟨State.recordDie_names hd ⟨_, List.mem_append_right _ (List.mem_singleton_self _), rfl⟩, fun d l h => ?_⟩
    exact State.memRoom_gone h set

/-! ### The fill -/

theorem foldl_pick_mem {α : Type} {f : Option α → α → Option α} (hf : ∀ m x, f m x = some x ∨ f m x = m) (l : List α) (m : Option α) {y : α}
    (h : l.foldl f m = some y) : y ∈ l ∨ m = some y := by
  induction l generalizing m with
  | nil => exact .inr h
  | cons x l ih =>
    obtain hy | hy := ih _ h
    · exact .inl (List.mem_cons_of_mem _ hy)
    · obtain hx | hm := hf m x
      · rw [hx] at hy
        cases hy
        exact .inl List.mem_cons_self
      · exact .inr (hm ▸ hy)

/-- The line that leaves for a fill is one of the slice. -/
theorem pickWay_mem {sl : Slice} {set : Nat} {mask : BitVec 16} {v : Nat} (h : (pickWay sl set mask).2 = some v) : ∃ x ∈ sl.lines, x.line = v := by
  unfold pickWay at h
  dsimp only at h
  split at h
  · cases h
  · split at h
    · next x hx =>
      cases h
      refine ⟨x, ?_, rfl⟩
      refine (foldl_pick_mem (fun m l => ?_) _ _ hx).elim (fun hm => List.mem_of_mem_filter (List.mem_of_mem_filter hm)) nofun
      split
      · exact .inl rfl
      · split
        · exact .inl rfl
        · exact .inr rfl
    · cases h

theorem State.not_mem_of_lineIn {x : L2Line} (h : s.lineIn die line = none) (hx : x ∈ (s.sliceAt (sliceKey die line)).lines) : x.line ≠ line := by
  have := List.find?_eq_none.mp h x hx
  simpa using this

/-- The record of a line that is filled into a slice names the die. -/
theorem State.fillLine_records {p : Page} (hl : s.lineIn die line = none) (hh : s.homedHere (line * 128) = true) (hp : s.pageOf (line * 128) = some p)
    (hd : die < 2) (cls : Nat) (mask : BitVec 16) : ∃ m ∈ (s.fillLine cls mask die line).memCache, m.line = line ∧ m.dies.getLsbD die = true := by
  have hshare := s.shareOther_evicted die line
  obtain ⟨⟨m, hm, hline, hbit⟩, hgone⟩ := State.memHold_spec (s := s.shareOther die line) (line := line) ((hshare.homedHere _).trans hh)
    ((hshare.pageOf _).trans hp) hd
  have hnone := hgone die line (hshare.gone_any hl)
  refine ⟨m, ?_, hline, hbit⟩
  change m ∈ State.memCache (match (pickWay (((s.shareOther die line).memHold die line).sliceAt (sliceKey die line)) (setNum line) mask).2 with
    | some v => ((s.shareOther die line).memHold die line).evictLine die v
    | none => (s.shareOther die line).memHold die line)
  split
  · next v hv =>
    obtain ⟨x, hx, rfl⟩ := pickWay_mem hv
    exact State.evictLine_memCache hm fun h => State.not_mem_of_lineIn hnone hx (h ▸ hline)
  · exact hm

theorem State.serveLine_memCache (s : State) (core die line cls : Nat) : (s.serveLine core die line cls).memCache = s.memCache := by
  have hr : (s.recallOwner die line).memCache = s.memCache := congrArg (·.2.2) (State.recallOwner_mems (s := s) die line)
  unfold State.serveLine
  dsimp only
  split
  · exact hr
  · split
    · exact hr
    · exact hr

/-- A line that the home has returned is allocated, and what else happens leaves the memory-side cache alone. -/
theorem exec_sliceFill_granted {slot pend : Nat} (hb : s.behind core (.pend slot pend) line line = false) (hl : s.lineIn (dieOf core) line = none)
    (hk : s.mayKeep (s.maskFor core (.pend slot pend) line) (line * 128) = true) :
    ∃ T : State, exec (.sliceFill core slot pend line true) s = .next T ∧
      T.memCache = (s.fillLine (s.classFor core (.pend slot pend) line) (s.maskFor core (.pend slot pend) line) (dieOf core) line).memCache := by
  change ∃ T : State, execSliceFill core slot pend line true s = .next T ∧ _
  unfold execSliceFill
  simp only [if_true, hb, Bool.false_eq_true, if_false, hl, Option.isSome_none, Bool.false_and, Bool.not_false, Bool.not_true, Bool.and_false, hk,
    Bool.and_self]
  obtain ⟨f, hf⟩ : ∃ f, f = s.fillLine (s.classFor core (.pend slot pend) line) (s.maskFor core (.pend slot pend) line) (dieOf core) line := ⟨_, rfl⟩
  rw [← hf]
  obtain ⟨u, hu⟩ : ∃ u, u = (f.serveLine core (dieOf core) line (s.classFor core (.pend slot pend) line)).requestGone core (.pend slot pend) line :=
    ⟨_, rfl⟩
  have hmem : u.memCache = f.memCache := hu ▸ f.serveLine_memCache core (dieOf core) line (s.classFor core (.pend slot pend) line)
  rw [← hu]
  split
  · exact ⟨_, rfl, hmem⟩
  · split
    · exact ⟨_, rfl, hmem⟩
    · exact ⟨_, rfl, (State.giveLine_gangsOnly ..).memCache.trans hmem⟩

theorem grantRecordsDie {slot pend : Nat} {pg : Page} (hcore : core < 512) (hq : s.sliceReqs = []) (hl : s.lineIn (dieOf core) line = none)
    (hk : s.mayKeep (s.maskFor core (.pend slot pend) line) (line * 128) = true) (hh : s.homedHere (line * 128) = true)
    (hp : s.pageOf (line * 128) = some pg) :
    ∃ T : State, exec (.sliceFill core slot pend line true) s = .next T ∧ ∃ m ∈ T.memCache, m.line = line ∧ m.dies.getLsbD (dieOf core) = true := by
  obtain ⟨T, hT, hm⟩ := exec_sliceFill_granted (State.behind_of_none hq ..) hl hk
  refine ⟨T, hT, ?_⟩
  rw [hm]
  exact State.fillLine_records hl hh hp (by unfold dieOf; omega) ..

theorem fillsServeLoads : Claim.FillsServeLoads :=
  ⟨fun _ _ _ _ _ hq hr hl hh => missAsksHome hq hr hl hh,
    fun _ _ _ _ _ _ _ _ _ _ _ hq hh hx ht ho hl hf hat hslot hg hp hd hgot href hline =>
      hitServesLoad hq hh hx ht ho hl hf hat hslot hg hp hd hgot href hline⟩

theorem linesLeaveTheCaches : Claim.LinesLeaveTheCaches := by
  refine ⟨fun s die line x hx ho => lineLeaves hx ho, fun s core slot pend line pg hc hq hl hk hh hp => grantRecordsDie hc hq hl hk hh hp, memLeave_spec,
    fun s die line h => ?_, fun s die line x hx hn => ownershipTaken hx hn, fun s die line k x hx ho => lineRecalled hx ho,
    fun s core line => ⟨_, rfl, s.dropCopy_l1 core line⟩, fun s core line => rfl, fun s die line core x w q hx hw hq ha => lastAck hx hw hq ha⟩
  refine congrArg _ (State.takeOwnership_owned ?_)
  cases hl : s.lineIn die line with
  | none => simp [hl] at h
  | some x => simpa [hl] using h

end Sys2Proof.Machine
end

section
/-! SUPPORT. Drained entries at the slice and at the home (R277, R282, R284 to R286, R375, R385). -/

namespace Sys2Proof.Machine
open Sys2Proof

variable {s t : State} {die line core : Nat} {e : LeatEntry}

/-! ### The entry at its slice -/

/-- An entry that is sent comes to its slice, with none of its leat before it there. -/
theorem exec_sliceEntryApply (hl : (s.coreAt core).leat = [e]) (hs : e.sent = true) (ha : e.applied = false) (hp : e.parked = none)
    (hq : s.sliceReqs = []) {u c : State} (hu : u = s.arrives core (.leat e.seq) e.line)
    (hc : c = if (u.lineIn (dieOf core) e.line).isSome then u.countOnce core (.leat e.seq) e.line e.line else u) :
    exec (.sliceEntryApply core e.seq) s =
      if (c.lineIn (dieOf core) e.line).isSome && (c.holdsWrite (e.line * 128) ||
          c.homeCheck 1 (e.line * 128) true (e.bytes.length == 128) none false == 0) then
        if (((c.markPage (e.line * 128) true).useTicket (e.line * 128)).pageOf (e.line * 128)).elim false (fun p => p.mov.isSome) then
          .next (((c.markPage (e.line * 128) true).useTicket (e.line * 128)).applyAtHome core e)
        else .next (((c.markPage (e.line * 128) true).useTicket (e.line * 128)).applyEntry core (dieOf core) e)
      else .next ((c.fetchBegins core (.leat e.seq) e.line).sendHome core (.leat e.seq) (entryReq core e)) := by
  have hb := State.behind_first hq core (.leat e.seq) e.line e.line
  change execSliceEntryApply core e.seq s = _
  unfold execSliceEntryApply
  rw [hl]
  dsimp only
  rw [List.find?_cons_of_pos (by simp)]
  dsimp only
  rw [if_neg (by simp [hs, ha, hp]), if_neg (by simp), if_neg (by simp [hb]), ← hu, ← hc]

theorem entryMisses (hl : (s.coreAt core).leat = [e]) (hs : e.sent = true) (ha : e.applied = false) (hp : e.parked = none)
    (hq : s.sliceReqs = []) (hr : (s.coreAt core).rerouted = []) (hn : s.lineIn (dieOf core) e.line = none) (hh : s.homedHere (e.line * 128) = true) :
    ∃ (T : State) (clock : Nat), exec (.sliceEntryApply core e.seq) s = .next T ∧ (T.coreAt core).leat = [e] ∧ s.now < clock ∧
      (clock, .homeRequest ⟨1, e.line * 128, true, e.bytes.length == 128, .core core (.leat e.seq), [], 0⟩) ∈ T.agenda := by
  obtain ⟨u, hu⟩ : ∃ u, u = s.arrives core (.leat e.seq) e.line := ⟨_, rfl⟩
  have hnu : u.lineIn (dieOf core) e.line = none := by rw [hu, State.arrives_lineIn, hn]
  have hexec := exec_sliceEntryApply hl hs ha hp hq hu rfl
  rw [hnu] at hexec
  simp only [Option.isSome_none, Bool.false_eq_true, if_false, hnu, Bool.false_and] at hexec
  obtain ⟨f, hf⟩ : ∃ f, f = u.fetchBegins core (.leat e.seq) e.line := ⟨_, rfl⟩
  obtain ⟨q, hfq⟩ : ∃ q, f = { s with sliceReqs := q } := ⟨_, by rw [hf, hu, State.arrives_first hq]; rfl⟩
  rw [← hf, State.sendHome_here (r := entryReq core e) (by rw [hfq]; exact hr) (by rw [hfq]; exact hh)] at hexec
  refine ⟨_, _, hexec, ?_, ?_, List.mem_append_right _ (List.mem_singleton_self _)⟩
  · rw [hfq]
    exact hl
  · rw [hfq]
    change s.now < s.now + 1 + _
    omega

/-! ### A write that a slice applies -/

theorem State.tellSharers_none {x : L2Line} (hx : s.lineIn die line = some x) (hs : ∀ k ∈ x.sharers, k = core) (hw : x.waits = []) (what : Parked) :
    s.tellSharers die line core what = (s, false) := by
  have hothers : x.sharers.filter (· != core) = [] := by simpa using hs
  unfold State.tellSharers
  rw [hx]
  dsimp only
  split
  · rfl
  · rw [hothers, hw]
    rfl

/-- A line that its die holds and no core owns, as the die has taken it: its bytes are the same where the other die does not own it (R286). -/
theorem State.takeOwnership_free {x : L2Line} (hx : s.lineIn die line = some x) (ho : x.coreOwner = none)
    (hown : x.owned = true → s.lineIn (1 - die) line = none) : ∃ data hz,
    ((∀ z, s.lineIn (1 - die) line = some z → z.owned = false) → data = x.data) ∧
    (s.takeOwnership die line).lineIn die line = some { x with data := data, owned := true, hz := hz } ∧
    (s.takeOwnership die line).lineIn (1 - die) line = none := by
  cases hn : x.owned with
  | true =>
    have hsame : s.takeOwnership die line = s := State.takeOwnership_owned (by simp [hx, hn])
    refine ⟨x.data, x.hz, fun _ => rfl, ?_, ?_⟩ <;> rw [hsame]
    · rw [hx, ← hn]
    · exact hown hn
  | false =>
    exact State.lineIn_takeOwnership hx hn ((s.evictLine_evicted (1 - die) line).free die line x (not_other_die die line) hx ho)

theorem State.setEntry_leat (h : (s.coreAt core).leat = [e]) (f : LeatEntry → LeatEntry) :
    ((s.setEntry core e.seq f).coreAt core).leat = [f e] := by
  rw [State.setEntry, State.coreAt_modCore_self, h]
  simp [replaceFirst]

/-- An entry that is applied to its line (R282, R284, R285). -/
theorem State.applyEntry_spec {x : L2Line} (hl : (s.coreAt core).leat = [e]) (hx : s.lineIn die e.line = some x) (ho : x.coreOwner = none)
    (hs : ∀ k ∈ x.sharers, k = core) (hw : x.waits = []) (hown : x.owned = true → s.lineIn (1 - die) e.line = none) :
    ∃ y, (s.applyEntry core die e).lineIn die e.line = some y ∧ y.owned = true ∧ y.dirty = true ∧ (s.applyEntry core die e).lineIn (1 - die) e.line = none ∧
      ((∀ z, s.lineIn (1 - die) e.line = some z → z.owned = false) → y.data = Sp.setAll x.data e.bytes) ∧
      ((s.applyEntry core die e).coreAt core).leat = [{ e with applied := true }] ∧
      ∃ clock stamp, s.now < clock ∧ (clock, .leatDrainAck core e.seq stamp) ∈ (s.applyEntry core die e).agenda := by
  obtain ⟨data, hz, hdata, hy, hother⟩ := State.takeOwnership_free hx ho hown
  have htake := s.takeOwnership_onCaches die e.line
  obtain ⟨g, hg⟩ : ∃ g, g = (s.takeOwnership die e.line).giveLine core die e.line fun q => seqLe q e.seq := ⟨_, rfl⟩
  have hgive : GangsOnly (s.takeOwnership die e.line) g := hg ▸ State.giveLine_gangsOnly ..
  obtain ⟨m, hm⟩ : ∃ m, m = g.modLine die e.line fun x => { x with data := Sp.setAll x.data e.bytes, dirty := true } := ⟨_, rfl⟩
  have hcount := m.counterChanged_gangsOnly e.line
  obtain ⟨f, hf⟩ : ∃ f, f = (m.counterChanged e.line).setEntry core e.seq fun x => { x with applied := true } := ⟨_, rfl⟩
  have hfslices : f.slices = m.slices := by rw [hf]; exact hcount.slices
  have hfy : f.lineIn die e.line = some { x with data := Sp.setAll data e.bytes, dirty := true, owned := true, hz := hz } := by
    rw [State.lineIn_of_slices hfslices, hm, State.lineIn_modLine_self fun _ => by rfl, State.lineIn_of_slices hgive.slices, hy, Option.map_some]
  have hfo : f.lineIn (1 - die) e.line = none := by
    rw [State.lineIn_of_slices hfslices, hm, State.modLine, State.lineIn_modSlice_other (by omega), State.lineIn_of_slices hgive.slices, hother]
  have hfl : (f.coreAt core).leat = [{ e with applied := true }] := by
    rw [hf]
    refine State.setEntry_leat ?_ _
    rw [hcount.leat, hm]
    exact (hgive.leat core).trans ((htake.leat core).trans hl)
  have hfn : f.now = s.now := by
    rw [hf, hm] at *
    exact hcount.now.trans (hgive.now.trans htake.now)
  have happly : s.applyEntry core die e = f.later (.leatDrainAck core e.seq ((f.lineIn die e.line).elim f.now (·.stamp f.now))) := by
    unfold State.applyEntry
    rw [State.recallOwner_free hx ho]
    dsimp only [State.patchLine]
    rw [← hg, ← hm, ← hf, State.tellSharers_none hfy hs hw]
    rfl
  rw [happly]
  refine ⟨_, hfy, rfl, rfl, hfo, fun hn => ?_, hfl, _, _, ?_, List.mem_append_right _ (List.mem_singleton_self _)⟩
  · rw [hdata hn]
  · rw [hfn]
    omega

/-- What a home answers does not depend on the slices and what stands there. -/
theorem Served.homeCheck (h : Served s t) (access va : Nat) (write wide : Bool) (remote : Option Nat) (host : Bool) :
    t.homeCheck access va write wide remote host = s.homeCheck access va write wide remote host :=
  show t.offServe.homeCheck access va write wide remote host = s.offServe.homeCheck access va write wide remote host by rw [h.rest]

theorem Served.pages (h : Served s t) : t.pages = s.pages := show t.offServe.pages = s.offServe.pages from congrArg _ h.rest
theorem Served.now (h : Served s t) : t.now = s.now := show t.offServe.now = s.offServe.now from congrArg _ h.rest

theorem State.homedHere_of_homeCheck {access va : Nat} {write wide : Bool} {remote : Option Nat} {host : Bool}
    (h : s.homeCheck access va write wide remote host = 0) : s.homedHere va = true := by
  by_contra hn
  rw [State.homeCheck, Bool.not_eq_true _ |>.mp hn] at h
  split at h <;> simp at h

/-- An accepted access does not move a page. -/
theorem State.pageOf_markPage (s : State) (va : Nat) (write : Bool) : ((s.markPage va write).pageOf va).elim false (fun p => p.mov.isSome) =
    (s.pageOf va).elim false fun p => p.mov.isSome := by
  have hf : (s.markPage va write).pageOf va = (s.pageOf va).map fun p =>
      { p with cHomes := p.cHomes ||| 1#64 <<< homeOf va, dHomes := if write then p.dHomes ||| 1#64 <<< homeOf va else p.dHomes } :=
    find?_replaceFirst (q := fun p : Page => p.has va) (fun _ => by rfl) s.pages
  rw [hf]
  cases s.pageOf va <;> rfl

theorem entryApplies {x : L2Line} (hl : (s.coreAt core).leat = [e]) (hs : e.sent = true) (ha : e.applied = false) (hp : e.parked = none)
    (hq : s.sliceReqs = []) (hx : s.lineIn (dieOf core) e.line = some x) (ho : x.coreOwner = none) (hsh : ∀ k ∈ x.sharers, k = core) (hw : x.waits = [])
    (hown : x.owned = true → s.lineIn (1 - dieOf core) e.line = none)
    (hok : s.homeCheck 1 (e.line * 128) true (e.bytes.length == 128) none false = 0)
    (hmov : (s.pageOf (e.line * 128)).elim false (fun pg => pg.mov.isSome) = false) :
    ∃ (T : State) (y : L2Line), exec (.sliceEntryApply core e.seq) s = .next T ∧ T.lineIn (dieOf core) e.line = some y ∧
      y.owned = true ∧ y.dirty = true ∧ T.lineIn (1 - dieOf core) e.line = none ∧
      ((∀ z, s.lineIn (1 - dieOf core) e.line = some z → z.owned = false) → y.data = Sp.setAll x.data e.bytes) ∧
      (T.coreAt core).leat = [{ e with applied := true }] ∧ ∃ clock stamp, s.now < clock ∧ (clock, .leatDrainAck core e.seq stamp) ∈ T.agenda := by
  obtain ⟨u, hu⟩ : ∃ u, u = s.arrives core (.leat e.seq) e.line := ⟨_, rfl⟩
  have hsu : Served s u := hu ▸ s.arrives_served ..
  have hxu : u.lineIn (dieOf core) e.line = some x := by rw [hu, State.arrives_lineIn, hx]
  obtain ⟨c, hc⟩ : ∃ c, c = u.countOnce core (.leat e.seq) e.line e.line := ⟨_, rfl⟩
  have hsc : Served s c := hsu.trans (hc ▸ u.countOnce_served ..)
  obtain ⟨used, hxc⟩ := State.lineIn_countOnce (.leat e.seq) e.line hxu
  rw [← hc] at hxc
  have hother : c.lineIn (1 - dieOf core) e.line = s.lineIn (1 - dieOf core) e.line := by
    rw [hc, u.lineIn_countOnce_other _ _ _ _ (by omega), hu, State.arrives_lineIn]
  have hokc := (hsc.homeCheck 1 (e.line * 128) true (e.bytes.length == 128) none false).trans hok
  have hexec := exec_sliceEntryApply hl hs ha hp hq hu (c := c) (by rw [hxu, hc]; rfl)
  have hhere : (c.markPage (e.line * 128) true).homedHere (e.line * 128) = true := (State.homedHere_of_homeCheck hokc :)
  have hcm : (c.lineIn (dieOf core) e.line).isSome = true := by rw [hxc]; rfl
  rw [if_pos (by rw [hcm, hokc]; simp), State.useTicket_here (s := c.markPage (e.line * 128) true) hhere,
    if_neg (by rw [State.pageOf_markPage, State.pageOf_congr hsc.pages, hmov]; decide)] at hexec
  obtain ⟨y, hy, hyo, hyd, hoth, hdata, hleat, clock, stamp, hclock, hack⟩ := State.applyEntry_spec (s := c.markPage (e.line * 128) true)
    (x := { x with used := used }) ((hsc.leat core).trans hl) hxc ho hsh hw fun h => hother.trans (hown h)
  exact ⟨_, y, hexec, hy, hyo, hyd, hoth, fun hn => hdata fun z hz => hn z (hother.symm.trans hz), hleat, clock, stamp, hsc.now ▸ hclock, hack⟩

/-! ### A write that the home applies -/

/-- What a write at the home reads of a state: pages, the graticule, the package's registers, the clock and the ring of the writer. -/
def State.homeView (s : State) (core : Nat) : List Page × List (Nat × Addr) × PkgRegs × Nat × List LeatEntry :=
  (s.pages, s.graticule, s.pr, s.now, (s.coreAt core).leat)

theorem OnCaches.homeView (h : OnCaches s t) (core : Nat) : t.homeView core = s.homeView core := by
  rw [State.homeView, h.pages, h.graticule, h.pr, h.now, h.leat, State.homeView]

theorem GangsOnly.homeView (h : GangsOnly s t) (core : Nat) : t.homeView core = s.homeView core := by
  rw [State.homeView, h.pages, h.graticule, h.pr, h.now, h.leat, State.homeView]

theorem State.flushLine_onCaches (s : State) (line : Nat) : OnCaches s (s.flushLine line) :=
  ((s.evictLine_evicted 0 line).toOnCaches.trans (State.evictLine_evicted _ 1 line).toOnCaches).trans (State.dropCopies_evicted _ 0 0 _ line).toOnCaches

theorem State.cleanLater_homeView (s : State) (d : CleanDue) (core : Nat) : (s.cleanLater d).homeView core = s.homeView core := by
  refine congrArg (fun l => (s.pages, s.graticule, s.pr, s.now, l)) ?_
  have hcore := congrArg Core.leat (State.coreAt_mapCores s (fun x => { x.2 with rels := x.2.rels.map fun r => if 4 ≤ r.scope.toNat ∧
    ((opId d.what).elim false r.works.contains) = true then { r with cleans := r.cleans ++ [(d.core, d.what)] } else r }) core rfl)
  exact hcore

theorem State.staleTickets_homeView (s : State) (va : Nat) (who : Option CleanDue) (core : Nat) :
    (s.staleTickets va who).homeView core = s.homeView core := by
  unfold State.staleTickets
  split
  · rfl
  · refine (foldl_keeps (·.homeView core) (fun _ _ => by rfl) _ _).trans ?_
    split
    · exact State.cleanLater_homeView ..
    · rfl

/-- A byte that this package homes, from the pages and the memories. -/
theorem State.homeByte_congr {va : Nat} (hh : s.homedHere va = true) (hg : t.graticule = s.graticule) (hp : t.pr = s.pr) (h : t.homes = s.homes) :
    t.homeByte va = s.homeByte va := by
  obtain ⟨hpages, hm⟩ := Prod.mk.inj h
  obtain ⟨hd, hhost⟩ := Prod.mk.inj hm
  rw [State.homeByte, State.homeByte, State.homedHere_congr hg hp, hh, State.pageOf_congr hpages, hd, hhost]
  rfl

theorem State.homeByte_mapped {va : Nat} {pg : Page} (hh : s.homedHere va = true) (hp : s.pageOf va = some pg) :
    s.homeByte va = if (pg.place va).1 then Sp.get s.hostMem (pg.place va).2 else Sp.get s.dram (pg.place va).2 := by
  rw [State.homeByte, hh, hp]
  rfl

theorem State.homeByte_setHomeByte {va : Nat} {pg : Page} (hh : s.homedHere va = true) (hp : s.pageOf va = some pg) (b : Byte) :
    (s.setHomeByte va b).homeByte va = b := by
  unfold State.setHomeByte
  rw [hp]
  dsimp only
  split
  · next hl =>
    refine (State.homeByte_mapped (s := { s with hostMem := Sp.set s.hostMem (pg.place va).2 b }) hh hp).trans ?_
    rw [if_pos hl, Sp.get_set_self]
  · next hl =>
    refine (State.homeByte_mapped (s := { s with dram := Sp.set s.dram (pg.place va).2 b }) hh hp).trans ?_
    rw [if_neg hl, Sp.get_set_self]

/-- An entry of one byte, as its home applies it (R277, R375). -/
theorem State.applyAtHome_spec {k : Nat} {b : Byte} {pg : Page} (hl : (s.coreAt core).leat = [e]) (hb : e.bytes = [(k, b)])
    (hh : s.homedHere (e.line * 128 + k) = true) (hp : s.pageOf (e.line * 128 + k) = some pg) :
    (s.applyAtHome core e).homeByte (e.line * 128 + k) = b ∧ ((s.applyAtHome core e).coreAt core).leat = [{ e with applied := true }] ∧
      ∃ clock, s.now < clock ∧ (clock, .leatDrainAck core e.seq s.now) ∈ (s.applyAtHome core e).agenda := by
  obtain ⟨u, hu⟩ : ∃ u, u = ((s.flushLine e.line).giveLine core (dieOf core) e.line fun q => seqLe q e.seq).staleTickets (e.line * 128)
    (some ⟨core, .leat e.seq, e.slot, e.blk, e.bytes.map (e.line * 128 + ·.1), true⟩) := ⟨_, rfl⟩
  have hview : u.homeView core = s.homeView core := by
    rw [hu, State.staleTickets_homeView, (State.giveLine_gangsOnly ..).homeView, (s.flushLine_onCaches e.line).homeView]
  obtain ⟨hpages, hgrat, hpr, hnow, hleat⟩ : u.pages = s.pages ∧ u.graticule = s.graticule ∧ u.pr = s.pr ∧ u.now = s.now ∧
      (u.coreAt core).leat = (s.coreAt core).leat := by simpa [State.homeView] using hview
  have hhu : u.homedHere (e.line * 128 + k) = true := (State.homedHere_congr hgrat hpr _).trans hh
  obtain ⟨w, hw⟩ : ∃ w, w = u.setHomeByte (e.line * 128 + k) b := ⟨_, rfl⟩
  have hbyte : w.homeByte (e.line * 128 + k) = b := hw ▸ State.homeByte_setHomeByte hhu ((State.pageOf_congr hpages _).trans hp) b
  have hset : OnCaches u w := hw ▸ (u.setHomeByte_evicted 0 0 _ b).toOnCaches
  have hcount := w.counterChanged_gangsOnly e.line
  have happly : s.applyAtHome core e =
      ((w.counterChanged e.line).setEntry core e.seq fun x => { x with applied := true }).later (.leatDrainAck core e.seq s.now) := by
    have hfold : ∀ v : State, e.bytes.foldl (fun s x => s.setHomeByte (e.line * 128 + x.1) x.2) v = v.setHomeByte (e.line * 128 + k) b := fun v => by
      rw [hb]
      rfl
    unfold State.applyAtHome
    dsimp only
    rw [← hu, hfold, ← hw, if_neg (by simp [hb]), hcount.now, hset.now, hnow]
  rw [happly]
  refine ⟨?_, State.setEntry_leat ?_ _, _, ?_, List.mem_append_right _ (List.mem_singleton_self _)⟩
  · refine (State.homeByte_congr (s := w) ((hset.homedHere _).trans hhu) ?_ ?_ ?_).trans hbyte
    · exact hcount.graticule
    · exact hcount.pr
    · exact congrArg₂ Prod.mk hcount.pages (congrArg₂ Prod.mk hcount.dram hcount.hostMem)
  · rw [hcount.leat, hset.leat, hleat, hl]
  · change s.now < (w.counterChanged e.line).now + 1 + _
    rw [hcount.now, hset.now, hnow]
    omega

/-- A line that no slice may hold (R277, R375). -/
theorem exec_sliceMissMerge_home (hl : (s.coreAt core).leat = [e]) (ha : e.applied = false) (hm : s.mayHold (e.line * 128) = false)
    (hh : s.homedHere (e.line * 128) = true) : exec (.sliceMissMerge core e.seq) s = .next (s.applyAtHome core e) := by
  have hw : s.mayWrite (e.line * 128) = false := by rw [State.mayWrite, if_pos hh, hm]
  change execSliceMissMerge core e.seq s = _
  unfold execSliceMissMerge
  rw [hl, List.find?_cons_of_pos (by simp)]
  dsimp only
  rw [if_neg (by simp [ha]), if_neg (by simp [State.mayTake, hw])]

theorem entriesApplyAtTheSlice : Claim.EntriesApplyAtTheSlice :=
  ⟨fun _ _ _ _ hl hs ha hp hq hx ho hsh hw hown hok hmov => entryApplies hl hs ha hp hq hx ho hsh hw hown hok hmov,
    fun _ _ _ hl hs ha hp hq hr hn hh => entryMisses hl hs ha hp hq hr hn hh,
    fun _ _ _ _ _ _ hl ha hb hm hh hhk hp => ⟨_, exec_sliceMissMerge_home hl ha hm hh, State.applyAtHome_spec hl hb hhk hp⟩⟩

/-- Settles O39: what the caches' own work leaves alone is one relation that every recall, revocation and departure satisfies; with it the fills, the
applied entries and the lines that leave are each followed through their event. -/
theorem slicesServeAndOrder : Obligations.SlicesServeAndOrder := ⟨fillsServeLoads, entriesApplyAtTheSlice, linesLeaveTheCaches⟩

end Sys2Proof.Machine
end

section
/-! SUPPORT. The end of a bulk record, and the port bucket (R206, R208, R267, R268). -/

namespace Sys2Proof.Machine
open Sys2Proof

variable {s t : State} {core : Nat} {r : BulkRec}

/-! ### Bytes on a gate -/

theorem State.countBytes_cores (s : State) (core blk gate n : Nat) : (s.countBytes core blk gate n).cores = s.cores := by
  unfold State.countBytes
  split <;> rfl

theorem State.countBytes_now (s : State) (core blk gate n : Nat) : (s.countBytes core blk gate n).now = s.now := by
  unfold State.countBytes
  split <;> rfl

/-- The bytes that an engine counts are on their way to their gate (R190, R206). -/
theorem State.countBytes_block {b : Block} {blk : Nat} (hb : s.blockAt blk = some b) (core gate n : Nat) :
    ∃ e : GateIn, (s.countBytes core blk gate n).blockAt blk = some { b with gateIn := b.gateIn ++ [e] } ∧ e.gate = gate ∧ e.chg = .land n := by
  refine ⟨⟨s.now + (if b.pair && core % 2 == 1 then 6 else 0), gate, core, 64, [], .land n⟩, ?_, rfl, rfl⟩
  obtain rfl := State.blockAt_key hb
  rw [State.countBytes, hb]
  dsimp only
  rw [State.sendGateAfter, State.blockAt_of_blocks (State.at_blocks ..), State.blockAt_modBlock fun _ => by rfl, hb]
  rfl

/-! ### The completion of a record -/

theorem BulkRec.owed_lt (r : BulkRec) : r.owed < 2 ^ 48 := Nat.mod_lt _ (by decide)

/-- The bytes that a record still owes its gate are counted as it ends, if it has one (R206). -/
def State.countRest (s : State) (core : Nat) (r : BulkRec) : State :=
  if r.gv && !r.badGate ((s.blockAt r.blk).elim 0 (·.ngates)) && decide ((r.owed + 2 ^ 48 - r.counted % 2 ^ 48) % 2 ^ 48 ≠ 0) then
    s.countBytes core r.blk r.gate ((r.owed + 2 ^ 48 - r.counted % 2 ^ 48) % 2 ^ 48)
  else s

/-- A core that has taken the status of a record and ended its work (R206, R208). -/
def Core.report (c : Core) (r : BulkRec) (status : Nat) : Core :=
  { c with rqerr := rqerrWith c.rqerr status r.ticket.toNat, works := c.works.filter (·.id != r.work) }

theorem State.countRest_cores (s : State) (core : Nat) (r : BulkRec) : (s.countRest core r).cores = s.cores := by
  unfold State.countRest
  split
  · exact State.countBytes_cores ..
  · rfl

theorem State.countRest_now (s : State) (core : Nat) (r : BulkRec) : (s.countRest core r).now = s.now := by
  unfold State.countRest
  split
  · exact State.countBytes_now ..
  · rfl

theorem State.countRest_block {b : Block} (hb : s.blockAt r.blk = some b) (hv : r.gv = true) (hg : r.gate < b.ngates) (hc : r.counted < r.owed) :
    ∃ e : GateIn, (s.countRest core r).blockAt r.blk = some { b with gateIn := b.gateIn ++ [e] } ∧ e.gate = r.gate ∧
      e.chg = .land (r.owed - r.counted) := by
  have hlt := r.owed_lt
  have hrest : (r.owed + 2 ^ 48 - r.counted % 2 ^ 48) % 2 ^ 48 = r.owed - r.counted := by omega
  unfold State.countRest
  rw [hrest, if_pos]
  · exact State.countBytes_block hb ..
  · simp only [hb, hv, BulkRec.badGate, Option.elim_some, Bool.true_and, Bool.and_eq_true, Bool.not_eq_true', decide_eq_false_iff_not,
      decide_eq_true_eq]
    omega

theorem exec_bulkRecordCompletion {status : Nat} (hr : (s.coreAt core).recs.find? (·.ticket.toNat == r.ticket.toNat) = some r)
    (hs : r.status = some status) :
    exec (.bulkRecordCompletion core r.ticket.toNat) s = .next (
      if r.cv then (((s.countRest core r).modCore core (·.report r status)).later (.recordCounterIncrement core r.ticket.toNat)).at s.now
        (.bulkRecordService core)
      else ((s.countRest core r).modCore core (·.report r status)).recordDone core r.ticket.toNat) := by
  change execBulkRecordCompletion core r.ticket.toNat s = _
  rw [← s.countRest_now core r]
  unfold execBulkRecordCompletion
  rw [hr]
  dsimp only
  rw [hs]
  dsimp only
  split <;> rfl

theorem State.recordDone_core (s : State) (core ticket : Nat) :
    (s.recordDone core ticket).coreAt core = { s.coreAt core with recs := (s.coreAt core).recs.filter (·.ticket.toNat != ticket) } := by
  unfold State.recordDone
  rw [State.coreAt_of_cores (State.wake_onlyAgenda ..).cores, State.coreAt_modCore_self]

theorem State.recordDone_blocks (s : State) (core ticket : Nat) : (s.recordDone core ticket).blocks = s.blocks :=
  (State.wake_onlyAgenda ..).blocks

/-- RQERR without an error takes a status and the low bits of its ticket (R208). -/
theorem rqerrWith_first {old ticket : Word} {status : Nat} (h0 : status ≠ 0) (h : status < 16) (hold : old.getLsbD 31 = false) :
    rqerrWith old status ticket.toNat = 0x8#4 ++ BitVec.ofNat 4 status ++ ticket.extractLsb' 0 24 := by
  rw [rqerrWith, if_neg h0, hold, if_neg Bool.false_ne_true]
  apply BitVec.eq_of_toNat_eq
  have hlow : ticket.toNat % 2 ^ 24 < 2 ^ 24 := Nat.mod_lt _ (by decide)
  have hmid : status % 2 ^ 4 < 2 ^ 4 := Nat.mod_lt _ (by decide)
  rw [BitVec.toNat_append, BitVec.toNat_append, BitVec.extractLsb'_toNat, BitVec.toNat_ofNat, BitVec.toNat_ofNat, Nat.shiftRight_zero,
    ← Nat.shiftLeft_add_eq_or_of_lt hmid, ← Nat.shiftLeft_add_eq_or_of_lt hlow, Nat.shiftLeft_eq, Nat.shiftLeft_eq, word, BitVec.toNat_ofNat]
  omega

theorem recordCompletes : Claim.RecordCompletes := by
  unfold Claim.RecordCompletes
  intro s core r status hr hs hlt
  have hx := exec_bulkRecordCompletion hr hs
  have hcore : ((s.countRest core r).modCore core (·.report r status)).coreAt core = (s.coreAt core).report r status := by
    rw [State.coreAt_modCore_self, State.coreAt_of_cores (State.countRest_cores ..)]
  obtain ⟨u, hu⟩ : ∃ u, u = (s.countRest core r).modCore core (·.report r status) := ⟨_, rfl⟩
  rw [← hu] at hx hcore
  have hblocks : u.blocks = (s.countRest core r).blocks := by rw [hu]; rfl
  have hnow : u.now = s.now := by rw [hu]; exact State.countRest_now ..
  have hreport : ∀ T : State, (T.coreAt core).rqerr = ((s.coreAt core).report r status).rqerr →
      (status = 0 → (T.coreAt core).rqerr = (s.coreAt core).rqerr) ∧
      (status ≠ 0 → (s.coreAt core).rqerr.getLsbD 31 = true → (T.coreAt core).rqerr = (s.coreAt core).rqerr ||| 0x40000000#32) ∧
      (status ≠ 0 → (s.coreAt core).rqerr.getLsbD 31 = false →
        (T.coreAt core).rqerr = 0x8#4 ++ BitVec.ofNat 4 status ++ r.ticket.extractLsb' 0 24) := by
    intro T hT
    rw [hT]
    refine ⟨fun h0 => if_pos h0, fun h0 h31 => ?_, fun h0 h31 => rqerrWith_first h0 hlt h31⟩
    exact (if_neg h0).trans (if_pos h31)
  have hgate : ∀ T : State, T.blocks = u.blocks → ∀ b, s.blockAt r.blk = some b → r.gv = true → r.gate < b.ngates → r.counted ≤ r.owed →
      r.counted < r.owed → ∃ (b' : Block) (e : GateIn), T.blockAt r.blk = some b' ∧ e ∈ b'.gateIn ∧ e.gate = r.gate ∧
        e.chg = .land (r.owed - r.counted) := by
    intro T hT b hb hv hg _ hc
    obtain ⟨e, hb', he⟩ := State.countRest_block (core := core) hb hv hg hc
    exact ⟨_, e, (State.blockAt_of_blocks (hT.trans hblocks) _).trans hb', by simp, he⟩
  cases hcv : r.cv with
  | true =>
    rw [hcv, if_pos rfl] at hx
    obtain ⟨h0, hmore, hfirst⟩ := hreport ((u.later (.recordCounterIncrement core r.ticket.toNat)).at s.now (.bulkRecordService core))
      (congrArg Core.rqerr hcore)
    exact ⟨_, _, hx, rfl, h0, hmore, hfirst, nofun, fun _ => ⟨show (u.coreAt core).recs = _ by rw [hcore]; rfl, u.now + 1 + Config.latency u.fresh, by omega, by simp⟩,
      hgate _ rfl⟩
  | false =>
    rw [hcv, if_neg Bool.false_ne_true] at hx
    have hdone := u.recordDone_core core r.ticket.toNat
    obtain ⟨h0, hmore, hfirst⟩ := hreport (u.recordDone core r.ticket.toNat) (by rw [hdone, hcore])
    refine ⟨_, _, hx, rfl, h0, hmore, hfirst, fun _ x hm he => ?_, nofun, hgate _ (State.recordDone_blocks ..)⟩
    rw [hdone] at hm
    simpa [he] using (List.mem_filter.mp hm).2

/-! ### Requests that leave a port -/

/-- Requests have left the port of a core from the front of its queue, and the agenda holds what it held. -/
structure Departed (s t : State) (core : Nat) : Prop where
  now : t.now = s.now
  kept : ∀ x ∈ s.agenda, x ∈ t.agenda
  port : (t.coreAt core).port = { (s.coreAt core).port with level := (t.coreAt core).port.level, queue := (t.coreAt core).port.queue }
  queue : (t.coreAt core).port.queue <:+ (s.coreAt core).port.queue
  level : (t.coreAt core).port.level ≤ (s.coreAt core).port.level

theorem Departed.refl (s : State) (core : Nat) : Departed s s core := ⟨rfl, fun _ h => h, rfl, List.suffix_refl _, Nat.le_refl _⟩

theorem Departed.trans {u : State} (h : Departed s t core) (h' : Departed t u core) : Departed s u core where
  now := h'.now.trans h.now
  kept x hx := h'.kept x (h.kept x hx)
  port := by rw [h'.port, h.port]
  queue := h'.queue.trans h.queue
  level := h'.level.trans h.level

theorem State.requestLeaves_keeps (s : State) (core : Nat) (e : Instr) :
    ((s.requestLeaves core e).cores, (s.requestLeaves core e).agenda, (s.requestLeaves core e).now) = (s.cores, s.agenda, s.now) := by
  unfold State.requestLeaves
  exact foldl_keeps (fun t : State => (t.cores, t.agenda, t.now)) (fun _ _ => by rfl) _ s

theorem State.active_keeps (s : State) (f : Nat) : ((s.active f).cores, (s.active f).agenda, (s.active f).now) = (s.cores, s.agenda, s.now) := by
  unfold State.active
  split <;> rfl

/-- A request that leaves with the port as it then is: it is at the slices, its release mark leaves the ring, and it arrives later (R165, R267, R275). -/
def State.departing (s : State) (core : Nat) (e : Instr) (q : Port) : State :=
  (((((s.modCore core fun c => { c with port := q }).active (s.coreAt core).function).requestLeaves core e).markLeaves core e).later e)

theorem State.departing_spec (s : State) (core : Nat) (e : Instr) (q : Port) :
    (s.departing core e q).now = s.now ∧ (∀ x ∈ s.agenda, x ∈ (s.departing core e q).agenda) ∧ ((s.departing core e q).coreAt core).port = q ∧
      ∃ clock, s.now < clock ∧ (clock, e) ∈ (s.departing core e q).agenda := by
  obtain ⟨u, hu⟩ : ∃ u, u = ((s.modCore core fun c => { c with port := q }).active (s.coreAt core).function).requestLeaves core e := ⟨_, rfl⟩
  have hun : u.now = s.now ∧ u.agenda = s.agenda ∧ (u.coreAt core).port = q := by
    have hkeeps := (State.requestLeaves_keeps _ core e).trans (State.active_keeps (s.modCore core fun c => { c with port := q }) (s.coreAt core).function)
    rw [← hu] at hkeeps
    obtain ⟨hcores, hrest⟩ := Prod.mk.inj hkeeps
    obtain ⟨hagenda, hnow⟩ := Prod.mk.inj hrest
    exact ⟨hnow, hagenda, by rw [State.coreAt_of_cores hcores, State.coreAt_modCore_self]⟩
  obtain ⟨hnow, hagenda, hport⟩ := hun
  have hm : (u.markLeaves core e).now = s.now ∧ (∀ x ∈ s.agenda, x ∈ (u.markLeaves core e).agenda) ∧ ((u.markLeaves core e).coreAt core).port = q := by
    unfold State.markLeaves
    split
    · split
      · refine ⟨hnow, fun x hx => ?_, ?_⟩
        · exact List.mem_append_left _ (by simpa [hagenda] using hx)
        · rw [State.drain, State.coreAt_at, State.coreAt_modCore_self]
          exact hport
      · exact ⟨hnow, fun x hx => by rwa [hagenda], hport⟩
    · exact ⟨hnow, fun x hx => by rwa [hagenda], hport⟩
  obtain ⟨hn, hk, hp⟩ := hm
  have hd : s.departing core e q = (u.markLeaves core e).later e := by rw [hu]; rfl
  rw [hd]
  exact ⟨hn, fun x hx => List.mem_append_left _ (hk x hx), hp, (u.markLeaves core e).now + 1 + Config.latency (u.markLeaves core e).fresh, by omega,
    by simp⟩

/-- A level that covers the request in front. -/
theorem departAll_covered {n cost : Nat} {e : Instr} {rest : List (Nat × Instr)} (hq : (s.coreAt core).port.queue = (cost, e) :: rest)
    (hc : cost ≤ (s.coreAt core).port.level) : departAll (n + 1) s core =
      departAll n (s.departing core e { (s.coreAt core).port with level := (s.coreAt core).port.level - cost, queue := rest }) core := by
  rw [departAll]
  dsimp only
  rw [hq]
  dsimp only
  rw [if_pos hc]
  have hf : ((s.modCore core fun c => { c with port := { c.port with level := (s.coreAt core).port.level - cost, queue := rest } }).coreAt core).function =
      (s.coreAt core).function := by rw [State.coreAt_modCore_self]
  rw [hf]
  rfl

/-- A level that does not cover it: nothing leaves. -/
theorem departAll_short {n cost : Nat} {e : Instr} {rest : List (Nat × Instr)} (hq : (s.coreAt core).port.queue = (cost, e) :: rest)
    (hc : (s.coreAt core).port.level < cost) : departAll n s core = s := by
  cases n with
  | zero => rfl
  | succ n =>
    rw [departAll]
    dsimp only
    rw [hq]
    exact if_neg (by omega)

theorem Departed.departing {cost : Nat} {e : Instr} {rest : List (Nat × Instr)} (hq : (s.coreAt core).port.queue = (cost, e) :: rest) :
    Departed s (s.departing core e { (s.coreAt core).port with level := (s.coreAt core).port.level - cost, queue := rest }) core := by
  obtain ⟨hnow, hkept, hport, -⟩ := s.departing_spec core e { (s.coreAt core).port with level := (s.coreAt core).port.level - cost, queue := rest }
  exact ⟨hnow, hkept, by rw [hport], by rw [hport, hq]; exact List.suffix_cons .., by rw [hport]; exact Nat.sub_le ..⟩

theorem departAll_departed (n : Nat) (s : State) (core : Nat) : Departed s (departAll n s core) core := by
  induction n generalizing s with
  | zero => exact .refl s core
  | succ n ih =>
    cases hq : (s.coreAt core).port.queue with
    | nil =>
      rw [departAll]
      dsimp only
      rw [hq]
      exact .refl s core
    | cons x rest =>
      obtain ⟨cost, e⟩ := x
      by_cases hc : cost ≤ (s.coreAt core).port.level
      · rw [departAll_covered hq hc]
        exact (Departed.departing hq).trans (ih _)
      · rw [departAll_short hq (by omega)]
        exact .refl s core

theorem portBucket : Claim.PortBucket := by
  unfold Claim.PortBucket
  refine ⟨fun s core => rfl, ?_⟩
  rintro s core cost e rest q rfl hq
  obtain ⟨u, hu⟩ : ∃ u, u = departAll (s.coreAt core).port.queue.length s core := ⟨_, rfl⟩
  have hx : exec (.portRequestDepart core) s = if (u.coreAt core).port.queue.isEmpty then .next u else
      .next ((u.modCore core fun c => { c with port := { c.port with wait := min (2 ^ 32 - 1) (c.port.wait + 1) } }).at (u.now + 1)
        (.portRequestDepart core)) := by
    rw [hu]
    rfl
  rw [hq, List.length_cons] at hu
  have hgone : Departed s u core := hu ▸ departAll_departed ..
  have hcovered : cost ≤ (s.coreAt core).port.level → (∃ clock, s.now < clock ∧ (clock, e) ∈ u.agenda) ∧ (u.coreAt core).port.queue <:+ rest ∧
      (u.coreAt core).port.level ≤ (s.coreAt core).port.level - cost ∧ (rest = [] → (u.coreAt core).port.queue = [] ∧
        (u.coreAt core).port.level = (s.coreAt core).port.level - cost) := by
    intro hc
    rw [departAll_covered hq hc] at hu
    obtain ⟨-, -, hport, clock, hlt, hmem⟩ := s.departing_spec core e
      { (s.coreAt core).port with level := (s.coreAt core).port.level - cost, queue := rest }
    have hd : Departed _ u core := hu ▸ departAll_departed ..
    have hqueue := hd.queue
    have hlevel := hd.level
    rw [hport] at hqueue hlevel
    refine ⟨⟨clock, hlt, hd.kept _ hmem⟩, hqueue, hlevel, ?_⟩
    rintro rfl
    rw [hu, List.length_nil, departAll, hport]
    exact ⟨rfl, rfl⟩
  cases he : (u.coreAt core).port.queue.isEmpty with
  | true =>
    rw [he, if_pos rfl] at hx
    have hempty : (u.coreAt core).port.queue = [] := List.isEmpty_iff.mp he
    refine ⟨u, _, hx, rfl, by rw [hgone.port], by rw [hgone.port], fun hc => ?_, fun hc hrest => ?_, fun hc => ?_⟩
    · obtain ⟨hagenda, hqueue, hlevel, -⟩ := hcovered hc
      exact ⟨hagenda, hqueue, hlevel⟩
    · obtain ⟨-, -, -, hlast⟩ := hcovered hc
      rw [hgone.port, (hlast hrest).1, (hlast hrest).2]
    · rw [departAll_short hq hc] at hu
      rw [hu, hq] at hempty
      cases hempty
  | false =>
    rw [he, if_neg Bool.false_ne_true] at hx
    have hport : ∀ (c : Nat) (a : Instr), (((u.modCore core fun c => { c with port := { c.port with wait := min (2 ^ 32 - 1) (c.port.wait + 1) } }).at c
        a).coreAt core).port = { (u.coreAt core).port with wait := min (2 ^ 32 - 1) ((u.coreAt core).port.wait + 1) } := fun c a => by
      rw [State.coreAt_at, State.coreAt_modCore_self]
    refine ⟨_, _, hx, hport .., by rw [hgone.port], by rw [hgone.port], fun hc => ?_, fun hc hrest => ?_, fun hc => ?_⟩
    · obtain ⟨⟨clock, hlt, hmem⟩, hqueue, hlevel, -⟩ := hcovered hc
      exact ⟨⟨clock, hlt, List.mem_append_left _ hmem⟩, hqueue, hlevel⟩
    · obtain ⟨-, -, -, hlast⟩ := hcovered hc
      rw [(hlast hrest).1] at he
      cases he
    · rw [departAll_short hq hc] at hu
      rw [hu]
      exact ⟨rfl, List.mem_append_right _ (List.mem_singleton_self _)⟩

end Sys2Proof.Machine
end

section
/-! SUPPORT. A device agent's write to memory rests on the lines of the two dies, the copies' bytes and the homes alone, and reaches the parties that
wait for a counter there (R206, R282, R285, R292, R327). -/

namespace Sys2Proof.Machine
open Sys2Proof

variable {s t u : State} {d l core k : Nat}

/-! ### What coherent memory rests on -/

/-- The pages and the memories of the homes, and what tells which addresses have one here. -/
def State.homeSide (s : State) : (List Page × Cells × Cells) × List (Nat × Addr) × PkgRegs × Nat := (s.homes, s.graticule, s.pr, s.fresh)

/-- The dies' slices hold the same lines, the cores the same copies, and the homes the same bytes. -/
structure Alike (s t : State) : Prop where
  lines : ∀ d < 2, ∀ l, t.lineIn d l = s.lineIn d l
  raws : ∀ k l, t.rawAt k l = s.rawAt k l
  side : t.homeSide = s.homeSide

theorem Alike.symm (h : Alike s t) : Alike t s := ⟨fun d hd l => (h.lines d hd l).symm, fun k l => (h.raws k l).symm, h.side.symm⟩

theorem Alike.trans (h : Alike s t) (h' : Alike t u) : Alike s u :=
  ⟨fun d hd l => (h'.lines d hd l).trans (h.lines d hd l), fun k l => (h'.raws k l).trans (h.raws k l), h'.side.trans h.side⟩

theorem State.rawAt_of_l1 (h : ∀ k, (t.coreAt k).l1 = (s.coreAt k).l1) (k l : Nat) : t.rawAt k l = s.rawAt k l := by
  rw [State.rawAt, h, State.rawAt]

theorem Alike.of_l1 (hs : t.slices = s.slices) (hc : ∀ k, (t.coreAt k).l1 = (s.coreAt k).l1) (h : t.homeSide = s.homeSide) : Alike s t :=
  ⟨fun d _ l => State.lineIn_of_slices hs d l, State.rawAt_of_l1 hc, h⟩

theorem Alike.of_modCore {f : Core → Core} (k : Nat) (hf : ∀ c, (f c).l1 = c.l1) : Alike s (s.modCore k f) :=
  .of_l1 rfl (State.field_modCore Core.l1 k hf) rfl

theorem Alike.at (h : Alike s t) (c : Nat) (e : Instr) : Alike s (t.at c e) := ⟨h.lines, h.raws, h.side⟩

theorem GangsOnly.alike (h : GangsOnly s t) : Alike s t where
  lines d _ l := State.lineIn_of_slices h.slices d l
  raws := State.rawAt_of_l1 fun k => show (t.coreAt k).offGangs.l1 = (s.coreAt k).offGangs.l1 by rw [h.cores]
  side := show t.offGangs.homeSide = s.offGangs.homeSide by rw [h.rest]

theorem Alike.modLine {f g : L2Line → L2Line} (h : Alike s t) (hf : ∀ x, (f x).line = x.line) (hfg : g = f) (d l : Nat) :
    Alike (s.modLine d l f) (t.modLine d l g) where
  lines d' hd' l' := by
    subst hfg
    by_cases he : d' = d ∧ l' = l
    · obtain ⟨rfl, rfl⟩ := he
      rw [State.lineIn_modLine_self hf, State.lineIn_modLine_self hf, h.lines d' hd']
    · rw [State.lineIn_modLine_ne hf he, State.lineIn_modLine_ne hf he, h.lines d' hd']
  raws := h.raws
  side := h.side

/-! ### Copies that go -/

theorem State.rawAt_dropL1 (s : State) (k l j m : Nat) :
    (s.modCore k fun c => { c with l1 := c.l1.filter (·.line != l) }).rawAt j m = if j = k ∧ m = l then none else s.rawAt j m := by
  by_cases hj : j = k
  · subst hj
    rw [State.rawAt, State.coreAt_modCore_self, List.find?_filter]
    by_cases hm : m = l
    · subst hm
      rw [if_pos ⟨rfl, rfl⟩, List.find?_eq_none.mpr (by simp), Option.map_none]
    · rw [if_neg (fun h => hm h.2), State.rawAt]
      congr 2
      funext x
      by_cases hx : x.line = m
      · simp [hx, hm]
      · simp [hx]
  · rw [State.rawAt, State.coreAt_modCore_ne _ _ hj, if_neg (fun h => hj h.1), State.rawAt]

/-- The line that comes back depends on the bytes of the copy alone. -/
theorem L2Line.returned_congr {o o' : Option L1Line} (h : o'.map (·.raw) = o.map (·.raw)) (x : L2Line) : x.returned o' = x.returned o := by
  cases o <;> cases o' <;> simp_all [L2Line.returned]

theorem L2Line.returned_line (x : L2Line) (o : Option L1Line) : (x.returned o).line = x.line := by cases o <;> rfl

/-- The line of a die as a recall leaves it. -/
def State.recalled (s : State) (x : L2Line) (l : Nat) : L2Line := x.coreOwner.elim x fun k => x.returned ((s.coreAt k).l1.find? (·.line == l))

theorem State.lineIn_recallOwner_eq (s : State) (d l d' l' : Nat) :
    (s.recallOwner d l).lineIn d' l' = if d' = d ∧ l' = l then (s.lineIn d l).map (s.recalled · l) else s.lineIn d' l' := by
  split
  · next h =>
    obtain ⟨rfl, rfl⟩ := h
    cases hx : s.lineIn d' l' with
    | none => rw [State.recallOwner, hx, Option.bind_none, Option.map_none, hx]
    | some x =>
      cases ho : x.coreOwner with
      | none => rw [State.recallOwner_free hx ho, hx, Option.map_some, State.recalled, ho, Option.elim_none]
      | some k => rw [State.lineIn_recallOwner hx ho, Option.map_some, State.recalled, ho, Option.elim_some]
  · next h => exact s.lineIn_recallOwner_ne h

theorem State.rawAt_recallOwner (s : State) (d l j m : Nat) :
    (s.recallOwner d l).rawAt j m = if (s.lineIn d l).bind (·.coreOwner) = some j ∧ m = l then none else s.rawAt j m := by
  cases ho : (s.lineIn d l).bind (·.coreOwner) with
  | none =>
    rw [State.recallOwner, ho, if_neg (by simp)]
  | some k =>
    obtain ⟨x, hx, hk⟩ := Option.bind_eq_some_iff.mp ho
    rw [State.recallOwner_owned hx hk, State.rawAt_dropL1]
    simp only [Option.some.injEq, eq_comm (a := j)]
    rfl

theorem State.recallOwner_homeSide (s : State) (d l : Nat) : (s.recallOwner d l).homeSide = s.homeSide := by
  unfold State.recallOwner
  split
  · rfl
  · dsimp only
    split <;> rfl

theorem Alike.recalled (h : Alike s t) (l : Nat) : (t.recalled · l) = (s.recalled · l) := by
  funext x
  unfold State.recalled
  cases x.coreOwner with
  | none => rfl
  | some k => exact L2Line.returned_congr (h.raws k l) x

theorem Alike.recallOwner (h : Alike s t) (hd : d < 2) (l : Nat) : Alike (s.recallOwner d l) (t.recallOwner d l) where
  lines d' hd' l' := by rw [State.lineIn_recallOwner_eq, State.lineIn_recallOwner_eq, h.recalled, h.lines d hd, h.lines d' hd']
  raws k m := by rw [State.rawAt_recallOwner, State.rawAt_recallOwner, h.lines d hd, h.raws]
  side := by rw [State.recallOwner_homeSide, State.recallOwner_homeSide, h.side]

theorem State.rawAt_dropCopy (s : State) (k l j m : Nat) : (s.dropCopy k l).rawAt j m = if j = k ∧ m = l then none else s.rawAt j m := by
  unfold State.dropCopy
  rw [State.rawAt_dropL1]
  split
  · rfl
  · next hne =>
    split
    · next ho =>
      rw [State.rawAt_recallOwner, if_neg]
      rintro ⟨hj, hm⟩
      obtain ⟨x, hx, hxj⟩ := Option.bind_eq_some_iff.mp hj
      rw [hx] at ho
      have hk : x.coreOwner = some k := by simpa using ho
      rw [hk] at hxj
      exact hne ⟨(Option.some.inj hxj).symm, hm⟩
    · rfl

theorem State.lineIn_dropCopy_eq (s : State) (k l d' l' : Nat) : (s.dropCopy k l).lineIn d' l' =
    if d' = dieOf k ∧ l' = l ∧ (s.lineIn (dieOf k) l).bind (·.coreOwner) = some k then (s.lineIn (dieOf k) l).map (s.recalled · l)
    else s.lineIn d' l' := by
  have hcond : ((s.lineIn (dieOf k) l).elim false fun x => x.coreOwner == some k) = true ↔ (s.lineIn (dieOf k) l).bind (·.coreOwner) = some k := by
    cases s.lineIn (dieOf k) l <;> simp
  unfold State.dropCopy
  by_cases ho : (s.lineIn (dieOf k) l).bind (·.coreOwner) = some k
  · rw [if_pos (hcond.mpr ho)]
    refine (State.lineIn_recallOwner_eq ..).trans ?_
    simp [ho]
  · rw [if_neg (hcond.not.mpr ho), if_neg fun h => ho h.2.2]
    rfl

theorem State.dropCopy_homeSide (s : State) (k l : Nat) : (s.dropCopy k l).homeSide = s.homeSide := by
  unfold State.dropCopy
  split
  · exact s.recallOwner_homeSide ..
  · rfl

theorem Alike.dropCopy (h : Alike s t) (k l : Nat) : Alike (s.dropCopy k l) (t.dropCopy k l) where
  lines d' hd' l' := by
    rw [State.lineIn_dropCopy_eq, State.lineIn_dropCopy_eq, h.recalled, h.lines d' hd']
    by_cases hk : d' = dieOf k
    · subst hk
      rw [h.lines _ hd']
    · rw [if_neg fun h => hk h.1, if_neg fun h => hk h.1]
  raws j m := by rw [State.rawAt_dropCopy, State.rawAt_dropCopy, h.raws]
  side := by rw [State.dropCopy_homeSide, State.dropCopy_homeSide, h.side]

theorem Alike.foldl {α : Type} {f : State → α → State} (hf : ∀ {s t}, Alike s t → ∀ x, Alike (f s x) (f t x)) (as : List α) (h : Alike s t) :
    Alike (as.foldl f s) (as.foldl f t) := by
  induction as generalizing s t with
  | nil => exact h
  | cons x as ih => exact ih (hf h x)

/-! ### A line that leaves -/

theorem State.acked_alike {w : SliceWait} (hw : ∀ q, w.what ≠ .leat q) : Alike s (s.acked w) := by
  have refl : Alike s s := ⟨fun _ _ _ => rfl, fun _ _ => rfl, rfl⟩
  unfold State.acked
  split
  · next q hq => exact absurd hq (hw q)
  · exact (Alike.of_modCore w.core fun _ => by rfl).at _ _
  · split
    · exact refl
    · exact (Alike.of_modCore w.core fun _ => by rfl).at _ _
  · exact refl

theorem Alike.acked (h : Alike s t) (w : SliceWait) : Alike (s.acked w) (t.acked w) := by
  by_cases hw : ∃ q, w.what = .leat q
  · obtain ⟨q, hq⟩ := hw
    have hack : ∀ v : State, v.acked w = v.later (.leatDrainAck w.core q v.now) := fun v => by rw [State.acked, hq]
    rw [hack, hack]
    exact ⟨h.lines, h.raws, congrArg (fun x => (x.1, x.2.1, x.2.2.1, x.2.2.2 + 1)) h.side⟩
  · have hw : ∀ q, w.what ≠ .leat q := fun q hq => hw ⟨q, hq⟩
    exact ((State.acked_alike hw).symm.trans h).trans (State.acked_alike hw)

theorem Alike.revokeLine (h : Alike s t) (hd : d < 2) (l : Nat) : Alike (s.revokeLine d l) (t.revokeLine d l) := by
  unfold State.revokeLine
  rw [h.lines d hd]
  split
  · exact h
  · refine .foldl (fun h => h.acked) _ (.modLine ?_ (fun _ => by rfl) rfl d l)
    split
    · exact .foldl (fun h k => h.dropCopy k l) _ h
    · exact h

/-- A write at the home changes the memories alone. -/
theorem State.setHomeBytes_eq (s : State) (va : Nat) (bs : List Byte) : ∃ m n, s.setHomeBytes va bs = { s with dram := m, hostMem := n } := by
  unfold State.setHomeBytes
  generalize bs.zipIdx = ps
  induction ps generalizing s with
  | nil => exact ⟨_, _, rfl⟩
  | cons p ps ih =>
    obtain ⟨m, n, hone⟩ : ∃ m n, s.setHomeByte (va + p.2) p.1 = { s with dram := m, hostMem := n } := by
      unfold State.setHomeByte
      split
      · exact ⟨_, _, rfl⟩
      · dsimp only
        split <;> exact ⟨_, _, rfl⟩
    obtain ⟨m', n', hrest⟩ := ih (s.setHomeByte (va + p.2) p.1)
    exact ⟨m', n', hrest.trans (by rw [hone])⟩

theorem Alike.homes (h : Alike s t) : t.homes = s.homes := congrArg (·.1) h.side

theorem Alike.setHomeBytes (h : Alike s t) (va : Nat) (bs : List Byte) : Alike (s.setHomeBytes va bs) (t.setHomeBytes va bs) := by
  have hhomes := State.setHomeBytes_homes h.homes va bs
  obtain ⟨m, n, hs⟩ := s.setHomeBytes_eq va bs
  obtain ⟨m', n', ht⟩ := t.setHomeBytes_eq va bs
  rw [hs, ht] at hhomes ⊢
  exact ⟨h.lines, h.raws, congrArg₂ Prod.mk hhomes (congrArg (·.2) h.side)⟩

theorem Alike.writeBack (h : Alike s t) (l : Nat) (x : L2Line) : Alike (s.writeBack l x) (t.writeBack l x) := by
  unfold State.writeBack
  split
  · exact h.setHomeBytes ..
  · exact h

theorem Alike.takeOut (h : Alike s t) (d l : Nat) (x : L2Line) : Alike (s.takeOut d l x) (t.takeOut d l x) where
  lines d' hd' l' := by
    by_cases he : d' = d ∧ l' = l
    · obtain ⟨rfl, rfl⟩ := he
      rw [State.lineIn_takeOut_self, State.lineIn_takeOut_self]
    · rw [State.lineIn_takeOut_ne x he, State.lineIn_takeOut_ne x he, h.lines d' hd']
  raws := h.raws
  side := h.side

theorem Alike.evictLine (h : Alike s t) (hd : d < 2) (l : Nat) : Alike (s.evictLine d l) (t.evictLine d l) := by
  have hr := (h.recallOwner hd l).revokeLine hd l
  cases hx : ((s.recallOwner d l).revokeLine d l).lineIn d l with
  | none => rwa [State.evictLine_of_none hx, State.evictLine_of_none ((hr.lines d hd l).trans hx)]
  | some x =>
    rw [State.evictLine_of_some hx, State.evictLine_of_some ((hr.lines d hd l).trans hx)]
    have hb := hr.writeBack l x
    exact Alike.takeOut (s := State.memDrop _ d l) (t := State.memDrop _ d l) ⟨hb.lines, hb.raws, hb.side⟩ d l x

/-- A line that neither slice holds: no copy of it stays in the cores, and all else stays. -/
theorem State.dropCopies_absent (h : ∀ d < 2, s.lineIn d l = none) (cores : List Nat) :
    (∀ d < 2, ∀ m, (s.dropCopies cores l).lineIn d m = s.lineIn d m) ∧
    (∀ j m, (s.dropCopies cores l).rawAt j m = if j ∈ cores ∧ m = l then none else s.rawAt j m) ∧ (s.dropCopies cores l).homeSide = s.homeSide := by
  induction cores generalizing s with
  | nil => exact ⟨fun _ _ _ => rfl, fun j m => by simp [State.dropCopies], rfl⟩
  | cons k cores ih =>
    have hone : ∀ d < 2, ∀ m, (s.dropCopy k l).lineIn d m = s.lineIn d m := fun d hd m => by
      rw [State.lineIn_dropCopy_eq, if_neg]
      rintro ⟨rfl, -, ho⟩
      rw [h _ hd] at ho
      cases ho
    obtain ⟨hlines, hraws, hside⟩ := ih (s := s.dropCopy k l) fun d hd => (hone d hd l).trans (h d hd)
    refine ⟨fun d hd m => (hlines d hd m).trans (hone d hd m), fun j m => (hraws j m).trans ?_, hside.trans (s.dropCopy_homeSide ..)⟩
    rw [State.rawAt_dropCopy]
    by_cases hm : m = l
    · by_cases hj : j = k
      · simp [hm, hj]
      · simp [hm, hj]
    · simp [hm]

/-- A core that is not listed holds no copy. -/
theorem State.rawAt_unlisted (h : k ∉ s.cores.map (·.1)) (l : Nat) : s.rawAt k l = none := by
  have hk : Kv.get? s.cores k = none := by
    by_contra hn
    obtain ⟨c, hc⟩ := Option.ne_none_iff_exists'.mp hn
    exact h (List.mem_map.mpr ⟨_, Kv.mem_of_get? hc, rfl⟩)
  rw [State.rawAt, State.coreAt, hk]
  rfl

theorem Alike.flushLine (h : Alike s t) (l : Nat) : Alike (s.flushLine l) (t.flushLine l) := by
  have hev := (h.evictLine (show 0 < 2 by decide) l).evictLine (show 1 < 2 by decide) l
  have hgone : ∀ v : State, ∀ d < 2, ((v.evictLine 0 l).evictLine 1 l).lineIn d l = none := fun v d hd => by
    obtain rfl | rfl : d = 0 ∨ d = 1 := by omega
    · exact (State.evictLine_evicted _ 1 l).gone_any (v.lineIn_evictLine 0 l)
    · exact State.lineIn_evictLine ..
  have hraw : ∀ v : State, ∀ j m, (v.flushLine l).rawAt j m = if m = l then none else ((v.evictLine 0 l).evictLine 1 l).rawAt j m := fun v j m => by
    obtain ⟨-, hraws, -⟩ := State.dropCopies_absent (hgone v) (((v.evictLine 0 l).evictLine 1 l).cores.map (·.1))
    refine (hraws j m).trans ?_
    by_cases hj : j ∈ ((v.evictLine 0 l).evictLine 1 l).cores.map (·.1)
    · simp only [hj, true_and]
    · simp only [hj, false_and, State.rawAt_unlisted hj, ite_self]
  obtain ⟨hls, -, hss⟩ := State.dropCopies_absent (hgone s) (((s.evictLine 0 l).evictLine 1 l).cores.map (·.1))
  obtain ⟨hlt, -, hst⟩ := State.dropCopies_absent (hgone t) (((t.evictLine 0 l).evictLine 1 l).cores.map (·.1))
  exact ⟨fun d hd m => (hlt d hd m).trans ((hev.lines d hd m).trans (hls d hd m).symm), fun j m => by rw [hraw, hraw, hev.raws],
    hst.trans (hev.side.trans hss.symm)⟩

/-! ### The coherent value and a write of it -/

/-- A byte of a line in a slice: of the owning core's copy, else of the line's data. -/
def State.held (s : State) (va : Nat) (x : L2Line) : Byte :=
  (x.coreOwner.bind fun k => s.rawAt k (lineOf va)).elim (Sp.get x.data (va % 128)) (Sp.get · (va % 128))

theorem State.globalByte_eq (s : State) (va : Nat) : s.globalByte va =
    ((s.lineIn 0 (lineOf va)).map (s.held va)).getD (((s.lineIn 1 (lineOf va)).map (s.held va)).getD (s.homeByte va)) := by
  unfold State.globalByte
  extract_lets line hit
  have hhit : hit = fun die => (s.lineIn die (lineOf va)).map (s.held va) := by
    funext die
    refine Option.map_congr fun x _ => ?_
    simp only [line]
    unfold State.held State.rawAt
    cases x.coreOwner with
    | none => rfl
    | some k =>
      dsimp only [Option.bind_some]
      cases (s.coreAt k).l1.find? (·.line == lineOf va) <;> rfl
  rw [hhit]
  dsimp only
  cases s.lineIn 0 (lineOf va) <;> rfl

theorem Alike.globalByte (h : Alike s t) (va : Nat) : t.globalByte va = s.globalByte va := by
  obtain ⟨hhomes, hrest⟩ := Prod.mk.inj h.side
  obtain ⟨hgrat, hrest⟩ := Prod.mk.inj hrest
  obtain ⟨hpr, hfresh⟩ := Prod.mk.inj hrest
  obtain ⟨hpages, hm⟩ := Prod.mk.inj hhomes
  obtain ⟨hdram, hhost⟩ := Prod.mk.inj hm
  have hbyte : t.homeByte va = s.homeByte va := by
    rw [State.homeByte, State.homeByte, State.homedHere_congr hgrat hpr, State.pageOf_congr hpages, hfresh, hdram, hhost]
  have hheld : t.held va = s.held va := funext fun x => by
    unfold State.held
    simp only [h.raws]
  rw [State.globalByte_eq, State.globalByte_eq, hheld, hbyte, h.lines 0 (by decide), h.lines 1 (by decide)]

theorem Alike.dev64 (h : Alike s t) (va : Nat) : t.dev64 va = s.dev64 va := by
  simp only [State.dev64, State.devRead, h.globalByte]

theorem Alike.counterChanged (h : Alike s t) (l : Nat) : Alike (s.counterChanged l) (t.counterChanged l) :=
  ((s.counterChanged_gangsOnly l).alike.symm.trans h).trans (t.counterChanged_gangsOnly l).alike

theorem Alike.devWrite (h : Alike s t) (va : Nat) (bs : List Byte) : Alike (s.devWrite va bs) (t.devWrite va bs) :=
  .foldl (fun h => h.counterChanged) _ (Alike.setHomeBytes (.foldl (fun h => h.flushLine) _ h) va bs)

end Sys2Proof.Machine
end

section
/-! SUPPORT. CTRWs whose counter a device agent's write reaches, and a record's counter increment at its home (R206, R327, R388, R450). -/

namespace Sys2Proof.Machine
open Sys2Proof

variable {s t u : State} {core k slot j va v line : Nat} {stay : Bool} {seen : Option Bool} {g : Gang} {r : BulkRec}

/-! ### CTRWs that a write reaches -/

/-- A quad waits for a counter, and `seen` tells what has been found of it (R200). -/
def State.CtrwAt (t : State) (k slot j va v : Nat) (stay : Bool) (seen : Option Bool) : Prop :=
  ∃ h, t.gangAt k slot = some h ∧ (h.quad j).park = .ctrw va v seen stay

/-- The CTRWs of some quads have been reached. -/
def Gang.wakeCtrws (g : Gang) (hit : List Nat) : Gang :=
  g.mapQuads fun k q => match q.park with | .ctrw va v _ stay => if hit.contains k then { q with park := .ctrw va v (some true) stay } else q | _ => q

theorem Gang.park_wakeCtrws {hit : List Nat} (h : (g.quad j).park = .ctrw va v seen stay) :
    ((g.wakeCtrws hit).quad j).park = .ctrw va v (if j ∈ hit then some true else seen) stay := by
  have hj : j < g.quads.length := by
    by_contra hn
    rw [Gang.quad, List.getD_eq_getElem?_getD, List.getElem?_eq_none (Nat.le_of_not_lt hn)] at h
    cases h
  rw [Gang.wakeCtrws, Gang.quad_mapQuads, if_pos hj, h]
  by_cases hm : j ∈ hit <;> simp [hm, h]

/-- The quads of a gang that are reached by a change of a line. -/
def State.hits (s : State) (line : Nat) (g : Gang) : List Nat := (List.range 8).filter fun k => (g.quad k).reached s line

/-- The CTRWs of one gang resume. -/
def State.resumeGang (s : State) (line : Nat) (t : State) (c : Nat) (x : Nat × Gang) : State :=
  if (s.hits line x.2).isEmpty then t
  else (s.hits line x.2).foldl (fun t k => t.at t.now (.ctrwWake c x.1 (x.2.quad k).party.toNat)) (t.modGang c x.1 (·.wakeCtrws (s.hits line x.2)))

theorem State.counterChanged_eq (s : State) (line : Nat) :
    s.counterChanged line = s.cores.foldl (fun t c => c.2.gangs.foldl (fun t x => s.resumeGang line t c.1 x) t) s := rfl

theorem State.CtrwAt.modGang {hit : List Nat} (h : t.CtrwAt k slot j va v stay seen) (c n : Nat) :
    (t.modGang c n (·.wakeCtrws hit)).CtrwAt k slot j va v stay (if (k, slot) = (c, n) ∧ j ∈ hit then some true else seen) := by
  obtain ⟨g, hg, hp⟩ := h
  by_cases he : (k, slot) = (c, n)
  · obtain ⟨rfl, rfl⟩ := Prod.mk.inj he
    exact ⟨_, by rw [State.gangAt_modGang_self, hg, Option.map_some], by simpa using Gang.park_wakeCtrws hp⟩
  · exact ⟨g, by rw [State.gangAt_modGang_ne _ _ he, hg], by rwa [if_neg fun h => he h.1]⟩

theorem State.CtrwAt.resumeGang (h : t.CtrwAt k slot j va v stay seen) (s : State) (line c : Nat) (x : Nat × Gang) :
    (s.resumeGang line t c x).CtrwAt k slot j va v stay (if (k, slot) = (c, x.1) ∧ j ∈ s.hits line x.2 then some true else seen) := by
  unfold State.resumeGang
  split
  · next hn => rwa [List.isEmpty_iff.mp hn, if_neg (by simp)]
  · obtain ⟨g, hg, hp⟩ := h.modGang (hit := s.hits line x.2) c x.1
    exact ⟨g, (State.gangAt_of_cores (foldl_keeps State.cores (fun _ _ => by rfl) _ _) ..).trans hg, hp⟩

/-- A fold whose one step turns what holds into what is to hold. -/
theorem foldl_turns {α : Type} {P Q : State → Prop} {f : State → α → State} {a : α} {as : List α} (hP : ∀ t x, P t → P (f t x))
    (hQ : ∀ t x, Q t → Q (f t x)) (ha : ∀ t, P t → Q (f t a)) (hm : a ∈ as) (h : P s) : Q (as.foldl f s) := by
  induction as generalizing s with
  | nil => nomatch hm
  | cons x as ih =>
    obtain rfl | hm := List.mem_cons.mp hm
    · exact as.foldlRecOn f (ha s h) fun t ht x _ => hQ t x ht
    · exact ih hm (hP s x h)

/-- A quad waits for a counter, and what has been found of it is known. -/
def State.CtrwWaits (t : State) (k slot j va v : Nat) (stay : Bool) : Prop := ∃ b : Bool, t.CtrwAt k slot j va v stay (some b)

/-- A quad that a change of the line reaches has been reached after it (R327). -/
theorem State.counterChanged_reaches (hg : s.gangAt k slot = some g) (hj : j < 8) (hp : (g.quad j).park = .ctrw va v (some false) stay)
    (hr : (g.quad j).reached s line = true) : (s.counterChanged line).CtrwAt k slot j va v stay (some true) := by
  have hkeep : ∀ (t : State) (c : Nat) (x : Nat × Gang), t.CtrwWaits k slot j va v stay →
      (s.resumeGang line t c x).CtrwWaits k slot j va v stay := fun t c x ⟨b, h⟩ => by
    refine ⟨if (k, slot) = (c, x.1) ∧ j ∈ s.hits line x.2 then true else b, ?_⟩
    rw [apply_ite some]
    exact h.resumeGang s line c x
  have hreached : ∀ (t : State) (c : Nat) (x : Nat × Gang), t.CtrwAt k slot j va v stay (some true) →
      (s.resumeGang line t c x).CtrwAt k slot j va v stay (some true) := fun t c x h => by
    have h' := h.resumeGang s line c x
    rwa [ite_self] at h'
  rw [State.counterChanged_eq]
  refine foldl_turns (P := fun t => t.CtrwWaits k slot j va v stay) (Q := fun t => t.CtrwAt k slot j va v stay (some true)) (a := (k, s.coreAt k)) (fun t c h => ?_) (fun t c h => ?_)
    (fun t h => ?_) (State.mem_cores_of_gang (Kv.mem_of_get? hg)) ⟨false, g, hg, hp⟩
  · exact c.2.gangs.foldlRecOn (motive := fun t => t.CtrwWaits k slot j va v stay) _ h fun t ht x _ => hkeep t c.1 x ht
  · exact c.2.gangs.foldlRecOn (motive := fun t => t.CtrwAt k slot j va v stay (some true)) _ h fun t ht x _ => hreached t c.1 x ht
  · refine foldl_turns (a := (slot, g)) (P := fun t => t.CtrwWaits k slot j va v stay) (Q := fun t => t.CtrwAt k slot j va v stay (some true))
      (fun t => hkeep t k) (fun t => hreached t k) (fun t ⟨b, ht⟩ => ?_) (Kv.mem_of_get? hg) h
    have h' := ht.resumeGang s line k (slot, g)
    rwa [if_pos ⟨rfl, List.mem_filter.mpr ⟨List.mem_range.mpr hj, hr⟩⟩] at h'

theorem OnCaches.gangAt (h : OnCaches s t) (k slot : Nat) : t.gangAt k slot = s.gangAt k slot := by
  unfold State.gangAt Core.gangAt
  rw [show (t.coreAt k).gangs = (s.coreAt k).gangs from
    show (t.coreAt k).offCaches.gangs = (s.coreAt k).offCaches.gangs by rw [h.cores]]

/-- An aligned word lies in one line. -/
theorem linesOf_word (h : va % 8 = 0) : linesOf va 8 = [lineOf va] := by
  have hl : lineOf (va + 8 - 1) = lineOf va := by
    unfold lineOf fld
    rw [Nat.shiftRight_eq_div_pow, Nat.shiftRight_eq_div_pow]
    omega
  rw [linesOf, if_neg (by decide), hl]
  simp

/-- A party that waits for a counter of the line is reached by the word that is written there (R206, R327). -/
theorem State.devWrite64_reaches {n va' : Nat} (hva : va % 8 = 0) (hg : s.gangAt k slot = some g) (hj : j < 8) (hpres : (g.quad j).present = true)
    (hret : (g.quad j).retired = false) (hp : (g.quad j).park = .ctrw va' v (some false) stay) (hl : lineOf va' = lineOf va)
    (hv : v ≤ (s.devWrite64 va n).dev64 va') : (s.devWrite64 va n).CtrwAt k slot j va' v stay (some true) := by
  have hw : s.devWrite64 va n = ((s.flushLine (lineOf va)).setHomeBytes va (toBytes 8 n)).counterChanged (lineOf va) := by
    have hlen : (toBytes 8 n).length = 8 := by simp [toBytes]
    simp only [State.devWrite64, State.devWrite, hlen, linesOf_word hva, List.foldl_cons, List.foldl_nil]
  obtain ⟨w, hwdef⟩ : ∃ w, w = (s.flushLine (lineOf va)).setHomeBytes va (toBytes 8 n) := ⟨_, rfl⟩
  have hon : OnCaches s w := hwdef ▸ (s.flushLine_onCaches _).trans (State.setHomeBytes_evicted _ 0 0 ..).toOnCaches
  rw [hw, ← hwdef] at hv ⊢
  rw [(w.counterChanged_gangsOnly _).alike.dev64] at hv
  refine State.counterChanged_reaches ((hon.gangAt k slot).trans hg) hj hp ?_
  simp [Quad.reached, hpres, hret, hp, hl, hv]

/-! ### The increment of a record's counter -/

/-- A request that its home serves at once, or has served, leaves only the accounts of the homes behind (R388). -/
theorem State.atHomes_served {e : Instr} {f home n : Nat} (h : (s.atHomes e f [(home, n)]).2 = true) :
    ∃ served share servers, s.atHomes e f [(home, n)] = ({ s with served := served, share := share, homeServers := servers }, true) := by
  unfold State.atHomes at h ⊢
  by_cases hs : s.served.contains e = true
  · rw [if_pos hs]
    exact ⟨_, _, _, rfl⟩
  · rw [if_neg hs] at h ⊢
    by_cases hj : (s.homeJobs.any (·.ev == e)) = true
    · rw [if_pos hj] at h
      cases h
    · rw [if_neg hj] at h ⊢
      dsimp only [List.foldl_cons, List.foldl_nil] at h ⊢
      by_cases ho : s.homeOpen home = true
      · rw [if_pos ho]
        exact ⟨_, _, _, rfl⟩
      · rw [if_neg ho] at h
        cases h

theorem State.recordCounted_eq (hr : (s.coreAt core).recs.find? (·.ticket.toNat == r.ticket.toNat) = some r) (hva : va = r.w 12 + r.w 13 * 2 ^ 32)
    (hh : s.homedHere va = true) : s.recordCounted core r.ticket.toNat =
      ((s.markPage va true).addCounter va (r.w 14 + r.w 15 * 2 ^ 32)).recordDone core r.ticket.toNat := by
  subst hva
  unfold State.recordCounted
  rw [hr]
  dsimp only
  rw [if_pos hh]

/-- The increment that the counter's home accepts in its turn is performed (R206, R371, R444). -/
theorem coreRequest_record {q : HomeReq} (hr : (s.coreAt core).recs.find? (·.ticket.toNat == r.ticket.toNat) = some r) (hi : r.inc = some 0)
    (hq : q = recordReq core r.ticket.toNat va) (hh : s.homedHere va = true)
    (hf : ∀ m ∈ s.fabric, ¬(m.core = core ∧ m.what = .record r.ticket.toNat ∧ m.va = va))
    (ht : ∀ t ∈ s.tickets, t.region = regionOf va → t.writer = none ∧ t.queue = []) (hc : s.homeCheck 2 va true false none false = 0) :
    coreRequest core (.record r.ticket.toNat) q s = .next ((s.routed core (.record r.ticket.toNat)).recordCounted core r.ticket.toNat) := by
  have hwanted : s.wanted core (.record r.ticket.toNat) = true :=
    List.any_eq_true.mpr ⟨r, List.mem_of_find?_eq_some hr, by simp [hi]⟩
  have hqva : q.va = va := hq ▸ rfl
  have hfab : s.fabric.find? (fun m => m.core == core && m.what == .record r.ticket.toNat && m.va == q.va) = none :=
    List.find?_eq_none.mpr fun m hm => by simpa [and_assoc, hqva] using hf m hm
  have hcheck : s.homeCheck q.access.toNat q.va q.write q.wide none false = 0 := hq ▸ hc
  unfold coreRequest
  rw [hwanted, if_neg (by decide), if_neg (by simp [hq, recordReq]), hfab]
  dsimp only
  rw [hqva, hh, if_neg (by decide), ← hqva, hcheck]
  dsimp only [State.inTurn]
  rw [hqva]
  cases hk : s.tickets.find? (·.region == regionOf va) with
  | none => rfl
  | some k =>
    obtain ⟨hwriter, hqueue⟩ := ht k (List.mem_of_find?_eq_some hk) (by simpa using List.find?_some hk)
    have hover : ∀ q, s.turnOver (regionOf va) q = s := fun q => by
      rw [State.turnOver, hk, Option.elim_some, hqueue]
      rfl
    dsimp only
    rw [hqueue, hwriter, hover]
    rfl

theorem State.staleTickets_none (s : State) (va : Nat) : ((s.staleTickets va none).dram, (s.staleTickets va none).hostMem, (s.staleTickets va none).cores) =
    (s.dram, s.hostMem, s.cores) := by
  unfold State.staleTickets
  split
  · rfl
  · exact foldl_keeps (fun t : State => (t.dram, t.hostMem, t.cores)) (fun _ _ => by rfl) _ s

/-- A record that leaves after its increment changes neither memory nor gangs. -/
theorem State.recordDone_keeps (s : State) (core ticket : Nat) : ((s.recordDone core ticket).dram, (s.recordDone core ticket).hostMem) = (s.dram, s.hostMem) ∧
    ∀ k slot, (s.recordDone core ticket).gangAt k slot = s.gangAt k slot := by
  have hwake : OnlyAgenda (s.modCore core fun c => { c with recs := c.recs.filter (·.ticket.toNat != ticket) }) (s.recordDone core ticket) :=
    State.wake_onlyAgenda ..
  refine ⟨by rw [hwake]; rfl, fun k slot => ?_⟩
  rw [State.gangAt_of_cores hwake.cores, State.gangAt_modCore _ _ fun _ => by rfl]

/-- The accounts of a request at its home are no part of memory. -/
theorem State.routed_alike (s : State) (core va : Nat) (what : Parked) (served : List Instr) (share : _) (servers : _) :
    Alike (s.markPage va true) ((({ s with served := served, share := share, homeServers := servers } : State).routed core what).markPage va true) :=
  .trans (t := ({ s with served := served, share := share, homeServers := servers } : State).markPage va true) ⟨fun _ _ _ => rfl, fun _ _ => rfl, rfl⟩
    (Alike.of_modCore (f := fun c => { c with rerouted := c.rerouted.filter (·.1 != what) }) core fun _ => rfl)

theorem State.gangAt_routed (s : State) (core : Nat) (what : Parked) (k slot : Nat) : (s.routed core what).gangAt k slot = s.gangAt k slot :=
  State.gangAt_modCore (f := fun c => { c with rerouted := c.rerouted.filter (·.1 != what) }) _ _ (fun _ => rfl) _ _

/-- An increment that its core may make goes to the counter's home by the port, as an atomic (R268). -/
theorem exec_recordCounterIncrement (hr : (s.coreAt core).recs.find? (·.ticket.toNat == r.ticket.toNat) = some r) (hi : r.inc = none)
    (hva : va = r.w 12 + r.w 13 * 2 ^ 32) (hsheet : chipSheet va = false) (hright : 3 ≤ (s.coreAt core).right (keyOf va))
    (hclean : s.recordUnclean core r va = false) (hhold : s.holdsWrite va = false) : exec (.recordCounterIncrement core r.ticket.toNat) s =
      .next ((s.modRec core r.ticket fun r => { r with inc := some 0 }).portHome core 8 (.record r.ticket.toNat) (recordReq core r.ticket.toNat va)) := by
  subst hva
  change execRecordCounterIncrement core r.ticket.toNat s = _
  unfold execRecordCounterIncrement
  rw [hr]
  dsimp only
  rw [hi]
  dsimp only
  rw [hsheet, if_neg (by decide), if_neg (by omega), hclean, if_neg (by decide), hhold, if_neg (by decide)]

/-- The charge of a request of a record is an atomic's (R388). -/
theorem exec_homeRequest_record {q : HomeReq} (hr : (s.coreAt core).recs.find? (·.ticket.toNat == r.ticket.toNat) = some r) (hi : r.inc = some 0)
    (hq : q = recordReq core r.ticket.toNat va) (hh : s.homedHere va = true)
    (hf : ∀ m ∈ s.fabric, ¬(m.core = core ∧ m.what = .record r.ticket.toNat ∧ m.va = va))
    (hs : (s.atHomes (.homeRequest q) (s.coreAt core).function [(homeOf va, 128)]).2 = true) :
    exec (.homeRequest q) s = coreRequest core (.record r.ticket.toNat) q (s.atHomes (.homeRequest q) (s.coreAt core).function [(homeOf va, 128)]).1 := by
  have hwanted : s.wanted core (.record r.ticket.toNat) = true :=
    List.any_eq_true.mpr ⟨r, List.mem_of_find?_eq_some hr, by simp [hi]⟩
  have hfab : s.fabric.any (fun m => m.core == core && m.what == .record r.ticket.toNat && m.va == va) = false :=
    List.any_eq_false.mpr fun m hm => by simpa [and_assoc] using hf m hm
  have hjob : s.homeJob q = some ((s.coreAt core).function, 128) := by
    have hask : q.asker = .core core (.record r.ticket.toNat) := hq ▸ rfl
    have hva : q.va = va := hq ▸ rfl
    have hre : (q.reroutes == 17) = false := hq ▸ rfl
    unfold State.homeJob
    rw [hva, hh, if_neg (by decide), hask]
    dsimp only
    rw [hwanted, hfab, hre]
    rfl
  have hacts : ∀ u, homeActs q u = coreRequest core (.record r.ticket.toNat) q u := fun u => hq ▸ rfl
  change execHomeRequest q s = _
  unfold execHomeRequest
  rw [hjob, show q.va = va from hq ▸ rfl]
  dsimp only
  generalize s.atHomes (.homeRequest q) (s.coreAt core).function [(homeOf va, 128)] = a at hs ⊢
  obtain ⟨u, b⟩ := a
  obtain rfl : b = true := hs
  exact hacts u

theorem recordCounterCounts : Claim.RecordCounterCounts := by
  unfold Claim.RecordCounterCounts
  refine ⟨fun s core r va hr hi hva hsheet hright hclean hhold => ?_, fun s X core r va q hr hi hva hq hh hf ht hc hs hX => ?_⟩
  · refine ⟨_, exec_recordCounterIncrement hr hi hva hsheet hright hclean hhold, ?_⟩
    rw [State.portHome, State.queue_toPort, State.modRec, State.coreAt_modCore_self]
    rfl
  · obtain ⟨served, share, servers, ha⟩ := State.atHomes_served hs
    obtain ⟨u, hu⟩ : ∃ u : State, u = ({ s with served := served, share := share, homeServers := servers } : State).routed core (.record r.ticket.toNat) :=
      ⟨_, rfl⟩
    have hrec : (u.coreAt core).recs = (s.coreAt core).recs := by
      rw [hu, State.routed, State.coreAt_modCore_self]
      rfl
    have hx : exec (.homeRequest q) s = .next (((u.markPage va true).addCounter va (r.w 14 + r.w 15 * 2 ^ 32)).recordDone core r.ticket.toNat) := by
      rw [exec_homeRequest_record hr hi hq hh hf hs, ha]
      refine (coreRequest_record (s := { s with served := served, share := share, homeServers := servers }) hr hi hq hh hf ht hc).trans ?_
      rw [← hu, State.recordCounted_eq (s := u) (by rw [hrec, hr]) hva (by rw [hu]; exact hh)]
    obtain ⟨w, hw⟩ : ∃ w, w = (u.markPage va true).devWrite64 va (((u.markPage va true).dev64 va + (r.w 14 + r.w 15 * 2 ^ 32)) % 2 ^ 64) := ⟨_, rfl⟩
    have halike : Alike X (u.markPage va true) := hX ▸ hu ▸ s.routed_alike ..
    have hwrite := halike.devWrite va (toBytes 8 ((X.dev64 va + (r.w 14 + r.w 15 * 2 ^ 32)) % 2 ^ 64))
    rw [← State.devWrite64, ← State.devWrite64, ← halike.dev64, ← hw] at hwrite
    obtain ⟨hmem, hgangs⟩ := (w.staleTickets va none).recordDone_keeps core r.ticket.toNat
    obtain ⟨hdram, hrest⟩ := Prod.mk.inj (w.staleTickets_none va)
    obtain ⟨hhost, hcores⟩ := Prod.mk.inj hrest
    refine ⟨_, hx, fun x hm he => ?_, ?_⟩
    · rw [State.recordDone_core] at hm
      simpa [he] using (List.mem_filter.mp hm).2
    · rw [State.addCounter, ← hw, ← halike.dev64]
      refine ⟨(congrArg (·.1) hmem).trans (hdram.trans (congrArg (·.2.1) hwrite.homes)),
        (congrArg (·.2) hmem).trans (hhost.trans (congrArg (·.2.2) hwrite.homes)), ?_⟩
      intro k slot j g va' v stay hg hj hpres hret hp hl hva8 hv
      have hgu : (u.markPage va true).gangAt k slot = some g := by
        rw [hu]
        exact (State.gangAt_routed ..).trans hg
      rw [← hwrite.dev64, hw] at hv
      obtain ⟨h, hh, hpark⟩ := State.devWrite64_reaches hva8 hgu hj hpres hret hp hl hv
      exact ⟨h, by rw [hgangs, State.gangAt_of_cores hcores, hw, hh], hpark⟩

/-- Settles O34: the end of a record and the departures of a port are followed through their events; the counter's new value rests on the lines, the
copies and the homes alone (Alike), which the request's way to its home leaves as they are. -/
theorem recordsComplete : Obligations.RecordsComplete := ⟨recordCompletes, recordCounterCounts, portBucket⟩

end Sys2Proof.Machine
end

section
/-! SUPPORT. KICK: the entries that it urges, the records that it appends, and its ticket (R191, R201, R202). -/

namespace Sys2Proof.Machine
open Sys2Proof

variable {s t u : State} {p : Party} {core : Nat} {g : Gang} {ws : List RegWrite} {late : Bool}

/-! ### Entries that a fork urges -/

/-- Entries of rings have been asked for, and nothing else of the cores has changed. -/
structure Urged (s t : State) : Prop where
  cores : ∀ k, t.coreAt k = { s.coreAt k with leat := (t.coreAt k).leat }
  kept : ∀ x ∈ s.agenda, x ∈ t.agenda
  rest : t = { s with cores := t.cores, agenda := t.agenda }

theorem Urged.refl (s : State) : Urged s s := ⟨fun _ => rfl, fun _ h => h, rfl⟩

theorem Urged.trans (h : Urged s t) (h' : Urged t u) : Urged s u where
  cores k := by rw [h'.cores, h.cores]
  kept x hx := h'.kept x (h.kept x hx)
  rest := by rw [h'.rest, h.rest]

theorem State.urge_urged (s : State) (core : Nat) (q : LeatEntry → Bool) : Urged s (s.urge core q) := by
  unfold State.urge
  dsimp only
  split
  · exact .refl s
  · refine ⟨fun k => ?_, fun x hx => List.mem_append_left _ hx, rfl⟩
    rw [State.drain, State.coreAt_at]
    by_cases hk : k = core
    · subst hk
      rw [State.coreAt_modCore_self]
    · rw [State.coreAt_modCore_ne _ _ hk]

theorem State.urgeCovered_urged (s : State) (core : Nat) : Urged s (s.urgeCovered core) := by
  unfold State.urgeCovered
  exact (s.urge_urged core _).trans ((s.sourcesOf core).foldlRecOn (motive := fun t => Urged (s.urge core fun _ => true) t) _ (.refl _)
    fun t h f _ => h.trans (t.urge_urged ..))

/-! ### The ticket -/

/-- The ticket of a KICK is outstanding: known, or to come with its record (R191, R201). -/
def State.deliverTicket (s : State) (p : Party) (ws : List RegWrite) (late : Bool) : State :=
  if late && !ws.isEmpty then s.addPend p (codesOf ws) .ticket else s.variableResult p (if late then [] else ws)

/-- What is outstanding of a gang, without its numbers. -/
def outstanding (l : List Pend) : List (Nat × List Nat × Bool × PendBody) := l.map fun x => (x.lead, x.regs, x.super, x.body)

/-- The end of a KICK: its ticket is outstanding, if it has a destination, and the party moves on. -/
theorem State.deliverTicket_spec (hg : s.gangAt p.core p.slot = some p.g) (ws : List RegWrite) (late : Bool) :
    ∃ h, OnlyGang s ((s.deliverTicket p ws late).advance p) p h ∧ h = { p.moved s with pend := h.pend } ∧
      outstanding h.pend = outstanding p.g.pend ++
        (if ws = [] then [] else [(p.lead, codesOf ws, p.g.super, if late = true then .ticket else .value ws)]) ∧
      ∀ x ∈ s.agenda, x ∈ ((s.deliverTicket p ws late).advance p).agenda := by
  unfold State.deliverTicket
  by_cases hlate : late = true ∧ ws ≠ []
  · rw [if_pos (by simp [hlate])]
    obtain ⟨honly, hagenda⟩ := (OnlyAgenda.refl (s.addPend p (codesOf ws) .ticket)).advance_addPend hg
    refine ⟨_, honly, rfl, ?_, fun x hx => ?_⟩
    · simp [outstanding, State.pended, hlate]
    · rw [hagenda, State.addPend_party hg]
      simpa [State.bump] using hx
  · obtain ⟨h, honly, hret, hh⟩ := s.variableResult_advance (if late then [] else ws) hg
    rw [if_neg (by simpa using hlate)]
    refine ⟨h, honly, hh, ?_, fun x hx => ?_⟩
    · rw [hret.pend]
      by_cases hw : ws = []
      · simp [hw]
      · have hnot : late = false := by simpa [hw] using hlate
        simp [outstanding, hw, hnot]
    · obtain ⟨clock, -, hagenda⟩ := hret.agenda
      rw [hagenda]
      exact List.mem_append_left _ hx

/-! ### KICK -/

/-- A gang with both marks closed (R38, R173). -/
def Gang.closed (g : Gang) : Gang := { g with mark := none, settled := none, eccOnce := false }

/-- The end of an instruction does not look at the marks. -/
theorem Gang.moved_closed (g : Gang) (lead now : Nat) (r : Bool) : g.closed.moved lead now r = (g.moved lead now r).closed := by
  cases r with
  | false => rfl
  | true =>
    rw [Gang.moved, Gang.moved, if_pos rfl, if_pos rfl]
    by_cases h : repIndex g.rep + 1 < repCount g.rep
    · rw [if_pos h]
      exact if_pos h
    · rw [if_neg h]
      exact if_neg h

/-- The party as its closed gang has it. -/
def Party.closed (p : Party) : Party := { p with g := p.g.closed }

theorem Party.closed_moved (p : Party) (s : State) : p.closed.moved s = (p.moved s).closed := Gang.moved_closed ..

theorem bulkArg_eq_none {b : Block} {addr count : Nat} (hc : count ≤ 64) (ha : addr % 64 = 0)
    (hr : count = 0 ∨ addr + 64 * count ≤ b.scrSize ∧ 16 * b.ngates ≤ addr) : bulkArg b addr count = none := by
  rw [bulkArg, if_neg (by omega), if_neg (by omega), if_neg (by omega)]

/-- The k-th record of a KICK (R201, R202), from its core at issue and the state with the marks closed. -/
def State.kickRecord (s : State) (p : Party) (blk : Block) (c : Core) (addr count : Nat) (late asks : Bool) (k : Nat) : BulkRec :=
  ⟨c.rqtick + BitVec.ofNat 32 k, s.fresh + k, p.slot, p.g.blk, blk.partOf p.core, p.g.super,
    if late then [] else recordWords blk (blk.partOf p.core) (addr + 64 * k), none, false, 0, s.coveredBy p.core, c.stampAhead, atomsOf s p,
    winsOf s p, relIds s p, false, addr + 64 * k, late, if late && k == 0 && asks then some (s.fresh + count) else none, none⟩

/-- A core whose queue has taken records (R201). -/
def Core.kick (c : Core) (rs : List BulkRec) : Core := { c with recs := c.recs ++ rs, rqtick := c.rqtick + BitVec.ofNat 32 rs.length }

/-- The records of a KICK stand in their queue, what they wait for is urged, and the queue is looked at. -/
def State.kick (s : State) (p : Party) (rs : List BulkRec) : State :=
  let t := State.urgeCovered { s.modCore p.core (·.kick rs) with fresh := s.fresh + rs.length } p.core
  t.at t.now (.bulkRecordService p.core)

/-- KICK that traps on nothing and finds room. -/
theorem Runs.execKick {d a b : Reg} {blk : Block} {addr count : Nat} (hr : Runs s p (.kick d a b)) (hb : s.blockOf p = some blk)
    (ho : p.once = true) (ha : addr = s.uniform p a 1) (hc : count = s.uniform p b 1) (harg : bulkArg blk addr count = none)
    (hread : readHeld s p = false) (hatom : coreAtomOut s p = false) (hroom : (s.coreAt p.core).recs.length + count ≤ 64)
    (hlate : late = (!(winsOf s p).isEmpty && count != 0)) (hws : ws = p.uniformWrites d 1 (s.coreAt p.core).rqtick.toNat) :
    exec (.kick d a b) s = .next ((((s.closeMark p).kick p ((List.range count).map
      ((s.closeMark p).kickRecord p blk (s.coreAt p.core) addr count late (!ws.isEmpty)))).deliverTicket p ws late).advance p) := by
  have hwins : (!(winsOf (s.closeMark p) p).isEmpty && count != 0) = late := by
    rw [hlate, winsOf, State.closeMark, State.coreAt_modGang]
    rfl
  subst ha hc
  refine (hr.issue _).trans ?_
  dsimp only
  rw [hb]
  dsimp only [State.forker, State.writer]
  rw [ho, if_neg (by decide), harg]
  dsimp only
  rw [hread, hatom, if_neg (by decide), if_neg (by decide), if_neg (by omega), hwins, ← hws]
  simp only [State.kick, Core.kick, List.length_map, List.length_range]
  rfl

/-- What an appended KICK leaves of its core and of the machine. -/
theorem State.kick_spec (s : State) (p : Party) (rs : List BulkRec) :
    ((s.kick p rs).coreAt p.core).recs = (s.coreAt p.core).recs ++ rs ∧
    ((s.kick p rs).coreAt p.core).rqtick = (s.coreAt p.core).rqtick + BitVec.ofNat 32 rs.length ∧
    (s.kick p rs).gangAt p.core p.slot = s.gangAt p.core p.slot ∧ (s.now, .bulkRecordService p.core) ∈ (s.kick p rs).agenda ∧
    s.kick p rs = { s with cores := (s.kick p rs).cores, agenda := (s.kick p rs).agenda, fresh := (s.kick p rs).fresh } := by
  obtain ⟨v, hv⟩ : ∃ v : State, v = { s.modCore p.core (·.kick rs) with fresh := s.fresh + rs.length } := ⟨_, rfl⟩
  have hkick : s.kick p rs = (v.urgeCovered p.core).at (v.urgeCovered p.core).now (.bulkRecordService p.core) := hv ▸ rfl
  have hcore : v.coreAt p.core = (s.coreAt p.core).kick rs := hv ▸ State.coreAt_modCore_self s p.core (·.kick rs)
  have hurged := v.urgeCovered_urged p.core
  have hnow : (v.urgeCovered p.core).now = s.now := by
    rw [hurged.rest, hv]
    rfl
  rw [hkick, State.coreAt_at, hurged.cores, hcore]
  refine ⟨rfl, rfl, ?_, hnow ▸ List.mem_append_right _ (List.mem_singleton_self _), ?_⟩
  · rw [State.gangAt_at, State.gangAt, hurged.cores, hcore]
    rfl
  · rw [hurged.rest, hv]
    rfl

theorem kickAppendsRecords : Claim.KickAppendsRecords := by
  unfold Claim.KickAppendsRecords
  intro s p d a b blk addr count c hr hb ho ha hc hcore hcount hal hrange hread hatom hroom late hlate
  subst hcore
  have hlate' : late = (!(winsOf s p).isEmpty && count != 0) := by
    rw [Bool.eq_iff_iff, hlate]
    simp
  obtain ⟨ws, hws⟩ : ∃ ws, ws = p.uniformWrites d 1 (s.coreAt p.core).rqtick.toNat := ⟨_, rfl⟩
  obtain ⟨rs, hrs⟩ : ∃ rs, rs = (List.range count).map
    ((s.closeMark p).kickRecord p blk (s.coreAt p.core) addr count late (!ws.isEmpty)) := ⟨_, rfl⟩
  have hx := hr.execKick hb ho ha hc (bulkArg_eq_none hcount hal hrange) hread hatom hroom hlate' hws
  rw [← hrs, show s.closeMark p = s.withGangOf p p.g.closed from State.modGang_party hr.gang _] at hx
  have hlen : rs.length = count := by rw [hrs, List.length_map, List.length_range]
  obtain ⟨hrecs, htick, hgang, hservice, hrest⟩ := (s.withGangOf p p.g.closed).kick_spec p rs
  obtain ⟨u, hu⟩ : ∃ u, u = (s.withGangOf p p.g.closed).kick p rs := ⟨_, rfl⟩
  rw [← hu] at hx hrecs htick hgang hservice hrest
  rw [State.gangAt_withGangOf hr.gang] at hgang
  obtain ⟨h, honly, hh, hpend, hagenda⟩ := State.deliverTicket_spec (p := p.closed) hgang ws late
  have hT : ∀ v : State, (v.deliverTicket p.closed ws late).advance p.closed = (v.deliverTicket p ws late).advance p := fun v => rfl
  rw [hT] at honly hagenda
  rw [← hws]
  have hcore : ((u.deliverTicket p ws late).advance p).coreAt p.core = { u.coreAt p.core with
      gangs := (((u.deliverTicket p ws late).advance p).coreAt p.core).gangs } := by
    rw [State.coreAt_of_cores honly.cores]
    exact State.coreAt_modGang ..
  have hbefore := State.coreAt_modGang s p.core p.slot (fun _ => p.g.closed) p.core
  refine ⟨_, h, rs, hx, honly.gang, hh.trans ?_, hpend, ?_, ?_, ?_, hagenda _ ?_, ?_⟩
  · rw [Party.closed_moved, Party.moved, Party.moved, hrest, State.withGangOf_now]
    rfl
  · rw [hcore]
    exact hrecs.trans (congrArg (·.recs ++ rs) hbefore)
  · rw [hcore, ← hlen]
    exact htick.trans (congrArg (·.rqtick + _) hbefore)
  · rw [hrs, List.map_map]
    rfl
  · rwa [State.withGangOf_now] at hservice
  · rw [honly.rest, hrest, State.withGangOf_rest]

end Sys2Proof.Machine
end

section
/-! SUPPORT. The oldest bulk record enters service (R191, R205, R207). -/

namespace Sys2Proof.Machine
open Sys2Proof

variable {s t u : State} {core : Nat} {r : BulkRec} {rest : List BulkRec} {b : Block}

/-! ### Records that wait for window writes are copied -/

/-- Records and gangs of a core have changed, and nothing else of it. -/
structure RecordsOnly (s t : State) (core : Nat) : Prop where
  here : t.coreAt core = { s.coreAt core with recs := (t.coreAt core).recs, gangs := (t.coreAt core).gangs }
  rest : t = { s with cores := t.cores, agenda := t.agenda, fresh := t.fresh }

theorem RecordsOnly.refl (s : State) (core : Nat) : RecordsOnly s s core := ⟨rfl, rfl⟩

theorem RecordsOnly.trans (h : RecordsOnly s t core) (h' : RecordsOnly t u core) : RecordsOnly s u core where
  here := by rw [h'.here, h.here]
  rest := by rw [h'.rest, h.rest]

theorem RecordsOnly.modRec (s : State) (core : Nat) (ticket : Word) (f : BulkRec → BulkRec) : RecordsOnly s (s.modRec core ticket f) core where
  here := by rw [State.modRec, State.coreAt_modCore_self]
  rest := rfl

theorem RecordsOnly.modGang (s : State) (core slot : Nat) (f : Gang → Gang) : RecordsOnly s (s.modGang core slot f) core where
  here := by
    rw [State.coreAt_modGang]
  rest := by
    unfold State.modGang
    split <;> rfl

theorem RecordsOnly.later (s : State) (core : Nat) (e : Instr) : RecordsOnly s (s.later e) core := ⟨rfl, rfl⟩

theorem RecordsOnly.now (h : RecordsOnly s t core) : t.now = s.now := by rw [h.rest]

theorem RecordsOnly.blockAt (h : RecordsOnly s t core) (key : Nat) : t.blockAt key = s.blockAt key := State.blockAt_of_blocks (by rw [h.rest]) ..

theorem RecordsOnly.recs_modGang (s : State) (core slot : Nat) (f : Gang → Gang) : ((s.modGang core slot f).coreAt core).recs = (s.coreAt core).recs := by
  rw [State.coreAt_modGang]

/-- A record as scratch gives it, where it had to wait (R191). -/
def State.copied (s : State) (r : BulkRec) : BulkRec :=
  { r with words := (s.blockAt r.blk).elim [] fun b => recordWords b r.part r.addr, waits := false }

theorem State.copyRecord_spec (s : State) (core : Nat) (r : BulkRec) : RecordsOnly s (s.copyRecord core r) core ∧
    ((s.copyRecord core r).coreAt core).recs =
      replaceFirst (·.ticket == r.ticket) (fun x => { x with words := (s.copied r).words, waits := false }) (s.coreAt core).recs := by
  have hrec := RecordsOnly.modRec s core r.ticket fun x => { x with words := (s.copied r).words, waits := false }
  have hrecs : ((s.modRec core r.ticket fun x => { x with words := (s.copied r).words, waits := false }).coreAt core).recs =
      replaceFirst (·.ticket == r.ticket) (fun x => { x with words := (s.copied r).words, waits := false }) (s.coreAt core).recs := by
    rw [State.modRec, State.coreAt_modCore_self]
  unfold State.copyRecord
  extract_lets words upd u
  split
  · next d _ =>
    have hg := RecordsOnly.modGang u core r.slot fun g =>
      { g with pend := replaceFirst (·.id == d.id) (fun x => { x with body := .value (d.regs.map fun k => (⟨.s (k - 0x60), r.ticket⟩ : RegWrite)) }) g.pend }
    exact ⟨(hrec.trans hg).trans (.later ..), (RecordsOnly.recs_modGang ..).trans hrecs⟩
  · exact ⟨hrec, hrecs⟩

/-- Copies of records of other tickets leave the oldest. -/
theorem State.copyRecord_foldl {y : BulkRec} {l : List BulkRec} (ls : List BulkRec) (hy : (s.coreAt core).recs = y :: l)
    (hl : ∀ x ∈ ls, x.ticket ≠ y.ticket) : ∃ l', RecordsOnly s (ls.foldl (fun s r => s.copyRecord core r) s) core ∧
      ((ls.foldl (fun s r => s.copyRecord core r) s).coreAt core).recs = y :: l' ∧ (ls = [] → l' = l) := by
  induction ls generalizing s l with
  | nil => exact ⟨l, .refl s core, hy, fun _ => rfl⟩
  | cons x ls ih =>
    obtain ⟨hx, hrecs⟩ := s.copyRecord_spec core x
    have hne : (y.ticket == x.ticket) = false := by simpa using (hl x List.mem_cons_self).symm
    rw [hy, replaceFirst, hne, if_neg Bool.false_ne_true] at hrecs
    obtain ⟨l', hrest, hy', -⟩ := ih hrecs fun z hz => hl z (List.mem_cons_of_mem _ hz)
    exact ⟨l', hx.trans hrest, hy', nofun⟩

/-- The oldest record, whose window writes have landed, with its words; the others may have been copied too. -/
theorem State.copyRecords_spec (hr : (s.coreAt core).recs = r :: rest) (ht : ∀ x ∈ rest, x.ticket ≠ r.ticket)
    (hw : r.wins.all (fun w => !(s.coreAt core).wins.any (·.id == w)) = true) : ∃ rest', RecordsOnly s (s.copyRecords core) core ∧
      ((s.copyRecords core).coreAt core).recs = (if r.waits then s.copied r else r) :: rest' ∧ ((∀ x ∈ rest, x.waits = false) → rest' = rest) := by
  have hcopy : s.copyRecords core = ((s.coreAt core).recs.filter fun r => r.waits && r.wins.all fun w => !(s.coreAt core).wins.any (·.id == w)).foldl
      (fun s r => s.copyRecord core r) s := rfl
  obtain ⟨ls, hls⟩ : ∃ ls, ls = rest.filter fun r => r.waits && r.wins.all fun w => !(s.coreAt core).wins.any (·.id == w) := ⟨_, rfl⟩
  have hother : ∀ x ∈ ls, x.ticket ≠ r.ticket := fun x hx => ht x (List.mem_of_mem_filter (hls ▸ hx))
  have hnone : (∀ x ∈ rest, x.waits = false) → ls = [] := fun h => by
    rw [hls, List.filter_eq_nil_iff]
    intro x hx
    simp [h x hx]
  rw [hr, List.filter_cons, hw, Bool.and_true, ← hls] at hcopy
  cases hwaits : r.waits with
  | false =>
    rw [hwaits, if_neg Bool.false_ne_true] at hcopy
    obtain ⟨l', hrest, hrecs, hl⟩ := State.copyRecord_foldl ls hr hother
    exact ⟨l', hcopy ▸ hrest, hcopy ▸ hrecs, fun h => hl (hnone h)⟩
  | true =>
    rw [hwaits, if_pos rfl, List.foldl_cons] at hcopy
    obtain ⟨hone, hrecs⟩ := s.copyRecord_spec core r
    rw [hr, replaceFirst, beq_self_eq_true, if_pos rfl] at hrecs
    obtain ⟨l', hrest, hrecs', hl⟩ := State.copyRecord_foldl ls hrecs hother
    exact ⟨l', hcopy ▸ hone.trans hrest, hcopy ▸ hrecs', fun h => hl (hnone h)⟩

/-! ### Service -/

/-- The oldest record ends with a status. -/
theorem State.endRecord_spec (hr : (s.coreAt core).recs = r :: rest) (status : Nat) :
    ((s.endRecord core r.ticket status).coreAt core).recs = { r with status := some status, started := true } :: rest ∧
      (s.now, .bulkRecordCompletion core r.ticket.toNat) ∈ (s.endRecord core r.ticket status).agenda := by
  refine ⟨?_, List.mem_append_right _ (List.mem_singleton_self _)⟩
  rw [State.endRecord, State.coreAt_at, State.modRec, State.coreAt_modCore_self, hr, replaceFirst, beq_self_eq_true, if_pos rfl]

theorem State.startRecord_recs (hr : (s.coreAt core).recs = r :: rest) :
    ((s.modRec core r.ticket fun r => { r with started := true }).coreAt core).recs = { r with started := true } :: rest := by
  rw [State.modRec, State.coreAt_modCore_self, hr, replaceFirst, beq_self_eq_true, if_pos rfl]

/-- The units of a record, from the words of its list in scratch (R203, R204). -/
def Block.unitsOf (b : Block) (r : BulkRec) : List XUnit :=
  r.units fun k => ofBytes ((List.range 4).map fun j => b.scratchByte r.part (r.w 10 + 4 * k + j))

/-- The engine work of a record in service. -/
def Block.workOf (b : Block) (r : BulkRec) : Work :=
  ⟨r.work, r.slot, r.blk, r.super, if r.gv then some r.gate else none, some r.ticket, [], 0, [], [], [], 0, b.unitsOf r, b.launch⟩

/-- A record whose checks have been made ends with a status, or has its units under way. -/
def State.serveRecord (s : State) (core : Nat) (b : Block) (r : BulkRec) : State :=
  if r.badFormat b.ngates then s.endRecord core r.ticket 1
  else if r.badAlign then s.endRecord core r.ticket 5
  else if r.listWords ≠ 0 ∧ (b.scrSize < r.w 10 + 4 * r.listWords ∨ r.w 10 < 16 * b.ngates) then s.endRecord core r.ticket 4
  else if (b.unitsOf r).isEmpty then (s.modRec core r.ticket fun r => { r with started := true }).endRecord core r.ticket 0
  else ((s.modRec core r.ticket fun r => { r with started := true }).modCore core fun c => { c with works := c.works ++ [b.workOf r] }).at s.now
    (.transferUnitLanding core r.work 0)

/-- What becomes of the oldest record by its checks (R205). -/
theorem State.serveRecord_spec (hr : (u.coreAt core).recs = r :: rest) (b : Block) : ∃ r' : BulkRec,
    ((u.serveRecord core b r).coreAt core).recs = r' :: rest ∧ r' = { r with started := true, status := r'.status } ∧
      (r.badFormat b.ngates = true → r'.status = some 1 ∧ (u.now, .bulkRecordCompletion core r.ticket.toNat) ∈ (u.serveRecord core b r).agenda) ∧
      (r.badFormat b.ngates = false → r.badAlign = true →
        r'.status = some 5 ∧ (u.now, .bulkRecordCompletion core r.ticket.toNat) ∈ (u.serveRecord core b r).agenda) ∧
      (r.badFormat b.ngates = false → r.badAlign = false → r.listWords ≠ 0 → (b.scrSize < r.w 10 + 4 * r.listWords ∨ r.w 10 < 16 * b.ngates) →
        r'.status = some 4 ∧ (u.now, .bulkRecordCompletion core r.ticket.toNat) ∈ (u.serveRecord core b r).agenda) ∧
      (r.badFormat b.ngates = false → r.badAlign = false → (r.listWords = 0 ∨ r.w 10 + 4 * r.listWords ≤ b.scrSize ∧ 16 * b.ngates ≤ r.w 10) →
        b.unitsOf r ≠ [] → r'.status = r.status ∧ (u.now, .transferUnitLanding core r.work 0) ∈ (u.serveRecord core b r).agenda ∧
          ((u.serveRecord core b r).coreAt core).works = (u.coreAt core).works ++ [b.workOf r]) := by
  have hends := State.endRecord_spec hr
  unfold State.serveRecord
  cases hformat : r.badFormat b.ngates with
  | true =>
    rw [if_pos rfl]
    exact ⟨_, (hends 1).1, rfl, fun _ => ⟨rfl, (hends 1).2⟩, nofun, nofun, nofun⟩
  | false =>
    rw [if_neg Bool.false_ne_true]
    cases halign : r.badAlign with
    | true =>
      rw [if_pos rfl]
      exact ⟨_, (hends 5).1, rfl, nofun, fun _ _ => ⟨rfl, (hends 5).2⟩, fun _ => nofun, fun _ => nofun⟩
    | false =>
      rw [if_neg Bool.false_ne_true]
      split
      · exact ⟨_, (hends 4).1, rfl, nofun, fun _ => nofun, fun _ _ _ _ => ⟨rfl, (hends 4).2⟩, fun _ _ _ => by omega⟩
      · next hlist =>
        have hstarted := State.startRecord_recs hr
        split
        · next hunits =>
          exact ⟨_, (State.endRecord_spec hstarted 0).1, rfl, nofun, fun _ => nofun, fun _ _ h h' => absurd ⟨h, h'⟩ hlist,
            fun _ _ _ h => absurd (List.isEmpty_iff.mp hunits) h⟩
        · have hcore := State.coreAt_modCore_self (u.modRec core r.ticket fun r => { r with started := true }) core
            fun c => { c with works := c.works ++ [b.workOf r] }
          refine ⟨_, (congrArg Core.recs hcore).trans hstarted, rfl, nofun, fun _ => nofun, fun _ _ h h' => absurd ⟨h, h'⟩ hlist,
            fun _ _ _ _ => ⟨rfl, List.mem_append_right _ (List.mem_singleton_self _), (congrArg Core.works hcore).trans ?_⟩⟩
          rw [(RecordsOnly.modRec ..).here]

/-- The oldest record as it is served, past its fork edge. -/
theorem exec_bulkRecordService (hu : u = s.copyRecords core) (hr : (u.coreAt core).recs = r :: rest) (hs : r.started = false)
    (hf : (u.coreAt core).frozen = false) (hready : forkReady u (u.coreAt core) r.afterEntries r.afterStamp r.atoms r.wins r.rels = true)
    (hb : u.blockAt r.blk = some b) : exec (.bulkRecordService core) s = .next (u.serveRecord core b r) := by
  change execBulkRecordService core s = _
  unfold execBulkRecordService State.serveRecord
  rw [← hu]
  dsimp only
  rw [hr]
  dsimp only
  rw [hs, hf, if_neg (by decide), hready, if_neg (by decide), hb]
  dsimp only [Option.elim_some]
  simp only [apply_ite Host.Outcome.next]
  rfl

theorem recordEntersService : Claim.RecordEntersService := by
  unfold Claim.RecordEntersService
  intro s core r r0 rest b hr hs ht hf hready hb hr0
  obtain ⟨u, hu⟩ : ∃ u, u = s.copyRecords core := ⟨_, rfl⟩
  have hwins : r.wins.all (fun w => !(s.coreAt core).wins.any (·.id == w)) = true := by
    simp only [forkReady, Bool.and_eq_true] at hready
    exact hready.1.2
  obtain ⟨rest', honly, hrecs, hrest⟩ := State.copyRecords_spec hr ht hwins
  rw [← hu] at honly hrecs
  have hcopied : (if r.waits then s.copied r else r) = r0 := by rw [hr0, State.copied, hb, Option.elim_some]
  rw [hcopied] at hrecs
  obtain ⟨words, waits, hsame⟩ : ∃ words waits, r0 = { r with words := words, waits := waits } := by
    rw [hr0]
    split <;> exact ⟨_, _, rfl⟩
  have hx := exec_bulkRecordService hu hrecs (by rw [hsame]; exact hs) (by rw [honly.here]; exact hf)
    (b := b) (by rw [hsame, honly.here]; rw [forkReady, honly.now]; exact hready) (by rw [hsame, honly.blockAt]; exact hb)
  have hticket : r0.ticket.toNat = r.ticket.toNat := by rw [hsame]
  obtain ⟨r', hrecs', hr', hformat, halign, hlist, hserved⟩ := State.serveRecord_spec hrecs b
  rw [honly.now, hticket] at hformat halign hlist
  refine ⟨_, r', rest', hx, hrecs', hrest, hr', hformat, halign, hlist, fun hf ha hl us hus hne => ?_⟩
  have hunits : us = b.unitsOf r0 := by
    rw [hus, hsame]
    rfl
  obtain ⟨hstatus, hagenda, hworks⟩ := hserved hf ha hl (hunits ▸ hne)
  rw [honly.now, hsame] at hagenda
  rw [honly.here] at hworks
  refine ⟨hstatus.trans (by rw [hsame]), ?_, hworks.trans ?_⟩
  · rw [hsame]
    exact hagenda
  · rw [hunits, Block.workOf, hsame]

/-- Settles O33: KICK's records are appended as their queue's end, whatever their drains urge, and the oldest record is followed through the checks
of its service. -/
theorem kicksAndService : Obligations.KicksAndService := ⟨kickAppendsRecords, recordEntersService⟩

end Sys2Proof.Machine
end
